-- ==== Sys2Proof/Word.lean ====
section
/-! DEFINITION. The word types of the YX-OD960: bytes, 32-bit lanes, 64-bit values,
256-bit vector registers (R10, R11), 512-bit Selham registers and units (R282, R285). -/

namespace Sys2Proof

/-- One byte of memory (R5). -/
abbrev Byte := BitVec 8
/-- One 32-bit lane or word. -/
abbrev W32 := BitVec 32
/-- One 64-bit value (R11). -/
abbrev W64 := BitVec 64
/-- One compute vector register: 8 lanes of 32 bits, lane i in bits [32i+31:32i] (R10, R11). -/
abbrev Reg := BitVec 256
/-- A set of lanes of one group (R44). -/
abbrev Mask := BitVec 8
/-- One Selham register, stream stage, queue entry or line-store unit: 64 bytes (R282, R288, R296). -/
abbrev X512 := BitVec 512

end Sys2Proof
end

