-- ==== Sys2Proof/Config.lean ====
section
/-! DEFINITION. What an implementation fixes and the manual leaves open: free values, each a constant
without a body, so that no proof can use a value of it. -/

namespace Sys2Proof.Config

/-- Which enabled step comes next when no agent's turn is fixed: the clock domains hold no fixed phase
and latencies are open (R23, R37, R55, R237, R294, R334) (DESIGN CHOICE, log 3). -/
opaque choose : Nat → Nat

/-- The bits a special function returns within its error bound, by function, format and operand; every
core returns the same bits for the same input (R136) (DESIGN CHOICE, log 6). -/
opaque sfuBits : Nat → Nat → Nat → Nat

/-- The byte that a frame of an erased key reads as, by frame address and byte: cipher noise (R355) (DESIGN CHOICE, log 8). -/
opaque cipherNoise : Nat → Byte

/-- Where, in 64 KiB frames from the start of a domain's third of its die, the range starts that firmware withholds for the
check bits of a domain with in-band ECC (R90) (DESIGN CHOICE, log 12). -/
opaque eccBase : Nat → Nat

/-- The two AES-256 keys of a drawn key pair, by the number of the draw (R355) (DESIGN CHOICE, log 8). -/
opaque keyPair : Nat → BitVec 512

/-- What the boot ROM reads in an image's header: the version and the public key's coordinates; the manual gives the header
no layout (R363) (DESIGN CHOICE, log 9). -/
opaque headerVersion : List Byte → Nat
opaque headerKey : List Byte → Nat × Nat

/-- The digest of the public key that the part's fuses hold (R363). -/
opaque keyDigest : BitVec 512

/-- The private identity key that the security core derives from its fused seed, and the nonce of each signature (R364)
(DESIGN CHOICE, log 9). -/
opaque identityKey : Nat
opaque signNonce : Nat → Nat

/-- A byte of configuration space, by function, offset and the bytes written before, the latest first: CXL 3.1 gives its layout
(R352) (DESIGN CHOICE, log 43). -/
opaque configByte : Nat → Nat → List (Nat × Nat × Byte) → Byte

/-- How many events an input of the event arbiter holds beyond one (R378) (DESIGN CHOICE, log 34). -/
opaque inputRoom : Nat

/-- The anti-rollback count in the part's fuses (R363). -/
opaque rollbackCount : Nat

/-- The stack that a stopped context leaves is not architectural (R251); other values that the manual
leaves unstated, by a running counter (DESIGN CHOICE, log 10). -/
opaque freeWord : Nat → W64

end Sys2Proof.Config
end

