-- ==== Sys2Proof/Syntax.lean ====
section
/-! DEFINITION. The instructions of the YX-OD960, one constructor per row of the opcode table:
compute words by format (R160-R174), engine words (R245, R246, R325), cluster words (R309),
fetch and store engine words (R323), commands (R336), and the indivisible steps of the other
hardware and firmware agents. An encoded word keeps every bit of its encoding, reserved ones
included, because a reserved value is judged at issue (R385, R389), not by the decoder. -/

namespace Sys2Proof

/-- The guard of a compute word: STALL [55:52], PN [51], PRED [50:48] (R160). -/
structure Guard where
  stall : BitVec 4
  pn : Bool
  pred : BitVec 3
  deriving DecidableEq, Repr

/-- Format V3 with the arithmetic modifier of R165; `literal` is the literal word, 0 when LIT = 0. -/
structure V3 where
  g : Guard
  d : BitVec 8
  a : BitVec 8
  b : BitVec 8
  c : BitVec 8
  lit : Bool
  bi : Bool
  ty : BitVec 4
  rm : BitVec 3
  na : Bool
  nb : Bool
  nc : Bool
  aa : Bool
  func : BitVec 3
  literal : W64
  deriving DecidableEq, Repr

/-- Format VI (R164); `literal` is the literal word of `MOVL`, 0 for the others. -/
structure VI where
  g : Guard
  d : BitVec 8
  a : BitVec 8
  b : BitVec 8
  imm8 : BitVec 8
  imm16 : BitVec 16
  literal : W64
  deriving DecidableEq, Repr

/-- Format M with the memory control of R168. -/
structure MF where
  g : Guard
  d : BitVec 8
  a : BitVec 8
  b : BitVec 8
  scope : BitVec 3
  ord : BitVec 2
  size : BitVec 3
  imm16 : BitVec 16
  deriving DecidableEq, Repr

/-- Format X with the gather control of R170. -/
structure XF where
  g : Guard
  d : BitVec 8
  a : BitVec 8
  b : BitVec 8
  c : BitVec 8
  iw : BitVec 2
  isg : Bool
  scl : BitVec 4
  size : BitVec 3
  scope : BitVec 3
  ord : BitVec 2
  rsv : Bool
  deriving DecidableEq, Repr

/-- Format J: bits [47:40] must be 0, A, OFF32 (R164). -/
structure JF where
  g : Guard
  z : BitVec 8
  a : BitVec 8
  off : BitVec 32
  deriving DecidableEq, Repr

/-- Format C with the call control of R171 and its literal word. -/
structure CF where
  g : Guard
  vbase : BitVec 8
  a : BitVec 8
  args : BitVec 8
  res : BitVec 8
  fsize : BitVec 5
  lp : Bool
  rsv : BitVec 10
  literal : W64
  deriving DecidableEq, Repr

/-- Format S; `ctrl` is CTRL16 (R172). -/
structure SF where
  g : Guard
  d : BitVec 8
  a : BitVec 8
  b : BitVec 8
  c : BitVec 8
  ctrl : BitVec 16
  deriving DecidableEq, Repr

/-- The fields of a cluster word but its opcode (R309). -/
structure CW where
  s : Bool
  p : Bool
  d : BitVec 7
  a : BitVec 7
  b : BitVec 7
  c : BitVec 7
  gn : Bool
  gp : BitVec 4
  fn : BitVec 6
  imm : BitVec 16
  deriving DecidableEq, Repr

/-- The fields of a fetch or store engine word but OP (R323); `lstride` is PIX for `EMIT`. -/
structure EW where
  k : BitVec 3
  tk : Bool
  lso : BitVec 15
  lenm : BitVec 9
  atClk : BitVec 16
  lstride : BitVec 16
  roff : BitVec 7
  ia : BitVec 57
  deriving DecidableEq, Repr

/-- A command entry: bits [63:8] of word 0 (OP is the constructor), and the words ADDR, ARG, DONE (R336). -/
structure Cmd where
  w0 : BitVec 56
  addr : W64
  arg : W64
  done : W64
  deriving DecidableEq, Repr

/-- The agent a register write comes from (R455). -/
inductive Writer where
  | firmware
  | hypervisor
  | tenant (vf : Nat)
  deriving DecidableEq, Repr

/-- The memory-mapped registers (R10, R35), with the unit each belongs to. -/
inductive MmioReg where
  | qtrSched (core quarter : Nat)
  | eseCtl (core : Nat)
  | coreDbg (core : Nat)
  | l2sPway (die : Nat)
  | l2sVfway (die vf : Nat)
  | l2sWmstat (die : Nat)
  | l2sSeqto (die : Nat)
  | fabCtl (die : Nat)
  | memcScrub (die : Nat)
  | distDbell (vf k : Nat)
  | distKick (n : Nat)
  | distPto
  | distNbase (vf : Nat)
  | distNctl (vf : Nat)
  | distNstat (vf : Nat)
  | fwcPkgid
  | fwcErrcfg
  | fwcErridx
  | fwcSched
  | fwcKill
  | fwcHpol (vf : Nat)
  | siftCtl
  | selBwres
  | selRctl
  | selFrdy (head : Nat)
  | selFrtn (head : Nat)
  | scanStat (head : Nat)
  | pmb (slot offset : Nat)
  deriving DecidableEq, Repr

/-- The seven 8-byte words 0x00 to 0x30 of a VF configuration (R356). -/
structure VfCfgWords where
  w00 : W64
  w08 : W64
  w10 : W64
  w18 : W64
  w20 : W64
  w28 : W64
  w30 : W64
  deriving DecidableEq, Repr

/-- One IA range of R456: base and length in 64 KiB pages, what it grants, and the backed-on-demand flag. -/
structure IaRange where
  base : Nat
  pages : Nat
  rd : Bool
  wr : Bool
  ex : Bool
  demand : Bool
  deriving DecidableEq, Repr

/-- A register block of the part (R35). -/
inductive RegBlock where
  | core (c : Nat)
  | quarter (c q : Nat)
  | slices (d : Nat)
  | fabric (d : Nat)
  | memc (d : Nat)
  | dist
  | fwc
  | sift
  | scan (h : Nat)
  deriving DecidableEq, Repr

/-- A page of registers that the hypervisor maps into an address space (R303, R307, R337); `block` is the first 64 KiB of a
register block, from its offset 0 (R10, R35). -/
inductive MmioPage where
  | doorbells (vf : Nat)
  | sel
  | pmb
  | block (b : RegBlock)
  deriving DecidableEq, Repr

/-- What a host reaches through a port: a range of device memory, or a register through the BAR of the physical function or of
a virtual function (R335, R352, R354, R455); the configuration space of the physical function or of a virtual function; a
feature that R352 does not name; the IDE key of a protocol, which the security core sets. `peer` is this part's own access,
through UIO, to the HDM of a peer (R352). -/
inductive HostSpace where
  | hdm (range : Nat)
  | pfBar (reg : MmioReg)
  | vfBar (vf : Nat) (reg : MmioReg)
  | config (vf : Option Nat)
  | absent
  | ideKey (protocol : Nat)
  | peer (range : Nat)
  deriving DecidableEq, Repr

/-- The firmware image but for its signature: its header and its four core sections (R363). -/
structure FwImage where
  header : List Byte
  sections : List (List Byte)
  deriving DecidableEq, Repr

/-- What a plug-in's access reaches, as the PMP entries of its core tell it apart (R362). -/
inductive FwRegion where
  | code
  | data
  | vfConfigs
  /-- Anything else: firmware's memories, keys, page tables, command queues. -/
  | other
  deriving DecidableEq, Repr

/-- An access that a plug-in makes in U-mode, at a byte offset of a region (R362). -/
inductive PluginAct where
  | fetch (region : FwRegion) (off : Nat)
  | load (region : FwRegion) (off size : Nat)
  | store (region : FwRegion) (off : Nat) (bytes : List Byte)
  deriving DecidableEq, Repr

/-- How a call of a plug-in goes: an `ecall` with its decision after a number of instructions, or a trap; `ran` gives the
accesses that it makes before that `ecall` (R362). -/
inductive PluginResult where
  | decision (choice instructions : Nat)
  | trapped
  | ran (acts : List PluginAct) (choice instructions : Nat)
  deriving DecidableEq, Repr

/-- A location that a check of R365 covers: those of the patrol scrubbers (R420), and those that an access checks. `gddr` is
the patrol scrubber's read of a line, `gddrRead` the check of an access. `gddrBit` is a bit of a domain without ECC, which
nothing checks (R416). -/
inductive ScrubPlace where
  | gddr (die line : Nat)
  | gddrRead (die line : Nat)
  | trapReg (core frame reg lane : Nat)
  | fwMem (fw : Nat)
  | l2 (die slice line : Nat)
  | scratch (core byte : Nat)
  | frameReg (core frame reg lane : Nat)
  | accum (core slot : Nat)
  | bstore (core : Nat)
  | lineStore (lcr unit : Nat)
  | header (core frame : Nat)
  | l1 (core line : Nat)
  | l1Tlb (core index : Nat)
  | dieTlb (die index : Nat)
  | recordCache (core index : Nat)
  | lcrCode (lcr : Nat)
  | regBank (core frame reg bank : Nat)
  | bundle (core : Nat)
  | dmeWeight (unit : Nat)
  | dmeAccum (unit : Nat)
  | gddrLink (die line retries : Nat)
  | gddrBit (line bit : Nat)
  deriving DecidableEq, Repr

/-- What a check finds at a location (R365). -/
inductive ScrubResult where
  | clean
  | corrected
  | uncorrectable
  deriving DecidableEq, Repr

/-- The instructions and steps of the part: one constructor per row of spec/opcode_table.json. The acts
of the outside world and of firmware that no step of the model starts stand last. -/
inductive Instr where
  /-- R181: Integer add per lane, wrapping to the TYPE width. -/
  | iadd (o : V3)
  /-- R181: Integer subtract per lane, wrapping to the TYPE width. -/
  | isub (o : V3)
  /-- R181: Saturating integer add, or subtract with .SUB, clamped to the range of TYPE. -/
  | iadds (o : V3)
  /-- R181: 64-bit integer add on register pairs. -/
  | iadd64 (o : V3)
  /-- R181: 64-bit integer subtract on register pairs. -/
  | isub64 (o : V3)
  /-- R181: Integer multiply per lane, wrapping. -/
  | imul (o : V3)
  /-- R181: Upper 32 bits of the exact 64-bit product. -/
  | imulh (o : V3)
  /-- R181: Integer multiply-add per lane. -/
  | imad (o : V3)
  /-- R181: Widening multiply-add into a 64-bit register pair. -/
  | imadw (o : V3)
  /-- R181: Smaller of two integers by the signedness of TYPE. -/
  | imin (o : V3)
  /-- R181: Larger of two integers by the signedness of TYPE. -/
  | imax (o : V3)
  /-- R181: Integer absolute value; the most negative value stays unchanged. -/
  | iabs (o : V3)
  /-- R181: Integer negation per lane. -/
  | ineg (o : V3)
  /-- R182: Bitwise AND per lane. -/
  | and (o : V3)
  /-- R182: Bitwise OR per lane. -/
  | or (o : V3)
  /-- R182: Bitwise exclusive OR per lane. -/
  | xor (o : V3)
  /-- R182: A AND NOT B per lane. -/
  | andn (o : V3)
  /-- R182: Bitwise complement per lane. -/
  | not (o : V3)
  /-- R182: Shift left by a 32-bit amount; 0 for amounts of n or more. -/
  | shl (o : V3)
  /-- R182: Logical shift right on the n-bit field. -/
  | shr (o : V3)
  /-- R182: Arithmetic shift right on the n-bit field. -/
  | sar (o : V3)
  /-- R182: Rotate the n-bit field left or right by s mod n. -/
  | rot (o : V3)
  /-- R183: Funnel shift of the 64-bit concatenation of vA and vC. -/
  | fnl (o : V3)
  /-- R183: Bit-field extract with position and length taken from data. -/
  | bfx (o : V3)
  /-- R183: Bit-field insert of vA into vC. -/
  | bfi (o : V3)
  /-- R182: Population count into one 32-bit register. -/
  | popc (o : V3)
  /-- R182: Count of leading zeros of the n-bit field. -/
  | clz (o : V3)
  /-- R182: Count of trailing zeros of the n-bit field. -/
  | ctz (o : V3)
  /-- R182: Bit reversal of the n-bit field. -/
  | brev (o : V3)
  /-- R184: Two- or three-way bit interleave (Morton encode). -/
  | bilv (o : V3)
  /-- R184: Bit de-interleave that gathers one way of an interleaved key. -/
  | bdil (o : V3)
  /-- R185: Per-lane select between A and B by a predicate. -/
  | isel (o : V3)
  /-- R185: Integer compare; writes a predicate ANDed with pC. -/
  | icmp (o : V3)
  /-- R185: Address computation: a pair plus an extended index shifted by sh, wrapping. -/
  | lea (o : V3)
  /-- R185: Copies operand B to vD at the TYPE width. -/
  | mov (o : V3)
  /-- R186: Moves a sign-extended 24-bit immediate into vD. -/
  | movi (o : VI)
  /-- R186: Moves a 32- or 64-bit literal word into vD or a pair. -/
  | movl (o : VI)
  /-- R186: Reads a special register into vD. -/
  | sreg (o : VI)
  /-- R186: Sets a predicate from a lookup table or a register bit, or writes a predicate into a register. -/
  | setp (o : VI)
  /-- R189: Entry-wide instruction with no effect. -/
  | nop (o : SF)
  /-- R188: Relative conditional branch that splits the entry under divergence. -/
  | bra (o : JF)
  /-- R188: Indirect branch that peels off lanes one target at a time. -/
  | brx (o : JF)
  /-- R190: Pushes a reconvergence token onto the group's token stack. -/
  | rcvt (o : JF)
  /-- R190: Arrives at a reconvergence token, or runs the not-taken side of a deferred record. -/
  | rcvm (o : SF)
  /-- R191: Allocates a callee frame and header cell, copies arguments and jumps. -/
  | call (o : CF)
  /-- R191: Indirect call through a register pair, split by target first. -/
  | callx (o : CF)
  /-- R192: Copies results to the caller, frees the frame and header, and returns. -/
  | ret (o : SF)
  /-- R68: Leaves frames up to the nearest landing pad and writes a value into its v0. -/
  | unwind (o : SF)
  /-- R193: Ends the active lanes and frees the group, ending a task, when none remain. -/
  | exit (o : SF)
  /-- R194: Swaps the entry out if a ready pending entry exists. -/
  | yield (o : SF)
  /-- R195: Clears the idempotence bit of the workgroup. -/
  | idmc (o : SF)
  /-- R196: Sets a predicate in the lowest active lane only. -/
  | lead (o : SF)
  /-- R199: Floating-point add with one rounding. -/
  | fadd (o : V3)
  /-- R199: Floating-point subtract with one rounding. -/
  | fsub (o : V3)
  /-- R199: Floating-point multiply with one rounding. -/
  | fmul (o : V3)
  /-- R199: Fused multiply-add with one rounding. -/
  | ffma (o : V3)
  /-- R200: Floating-point minimum, with the NaN and signed-zero rules. -/
  | fmin (o : V3)
  /-- R200: Floating-point maximum, with the NaN and signed-zero rules. -/
  | fmax (o : V3)
  /-- R201: Floating-point compare into a predicate. -/
  | fcmp (o : V3)
  /-- R202: Bitwise select of a float by a predicate. -/
  | fsel (o : V3)
  /-- R202: Rounds to an integral value in the same format. -/
  | frnd (o : V3)
  /-- R207: Two-element half-precision dot product with F32 accumulate and one rounding. -/
  | fdot2 (o : V3)
  /-- R203: Reciprocal on the special-function unit. -/
  | frcp (o : V3)
  /-- R203: Reciprocal square root on the special-function unit. -/
  | frsq (o : V3)
  /-- R203: Correctly rounded square root. -/
  | fsqrt (o : V3)
  /-- R203: Base-2 exponential. -/
  | fexp2 (o : V3)
  /-- R203: Base-2 logarithm. -/
  | flog2 (o : V3)
  /-- R203: Sine in radians. -/
  | fsin (o : V3)
  /-- R203: Cosine in radians. -/
  | fcos (o : V3)
  /-- R204: Conversion between an IEEE format and another float or integer format. -/
  | fcvt (o : V3)
  /-- R205: Packs F32 into TW8 or MO4, or unpacks them, with a scale. -/
  | cvtn (o : V3)
  /-- R206: Splits F32 values into three BF16 parts. -/
  | fsplit3 (o : V3)
  /-- R207: Packed half-precision add. -/
  | hadd2 (o : V3)
  /-- R207: Packed half-precision multiply. -/
  | hmul2 (o : V3)
  /-- R207: Packed half-precision fused multiply-add. -/
  | hfma2 (o : V3)
  /-- R209: Lane shuffle by index, up, down or XOR. -/
  | shfl (o : V3)
  /-- R210: Predicate vote across the active lanes. -/
  | vote (o : V3)
  /-- R211: Reduction across the active lanes in a fixed tree order. -/
  | redl (o : V3)
  /-- R212: Byte permute from an eight-byte pool. -/
  | prmt (o : V3)
  /-- R210: Mask of the active lanes holding an equal value. -/
  | matchLanes (o : V3)
  /-- R214: Samples a two-dimensional texture described by a BREC. -/
  | tex (o : V3)
  /-- R214: Gathers one channel of four neighbouring texels. -/
  | texg (o : V3)
  /-- R215: Exact triangle edge function clamped to S64. -/
  | edge (o : V3)
  /-- R216: Transforms a position by each view's matrix. -/
  | viewx (o : V3)
  /-- R217: Packs four colour channels into RGBA8 or RGB10A2. -/
  | packc (o : V3)
  /-- R220: Global load per lane. -/
  | ld (o : MF)
  /-- R220: Global store per lane. -/
  | st (o : MF)
  /-- R220: Scratchpad load, which stalls on a copy watermark. -/
  | lds (o : MF)
  /-- R220: Scratchpad store. -/
  | sts (o : MF)
  /-- R222: Load through a buffer record, with conversion and codec decode. -/
  | ldb (o : XF)
  /-- R222: Store through a buffer record, with conversion and codec encode. -/
  | stb (o : XF)
  /-- R222: Gather load with a scaled index. -/
  | ldx (o : XF)
  /-- R222: Scatter store with a scaled index. -/
  | stx (o : XF)
  /-- R221: Load through the incoherent read-only constant path. -/
  | ldc (o : MF)
  /-- R221: Prefetch with no architectural effect. -/
  | prf (o : MF)
  /-- R223: Atomic read-modify-write that returns the old value. -/
  | atom (o : MF)
  /-- R223: Atomic reduction with no return. -/
  | red (o : MF)
  /-- R223: Atomic compare-and-swap. -/
  | cas (o : MF)
  /-- R226: Ordering fence at a scope. -/
  | fence (o : SF)
  /-- R225: Compares and arms a monitor, then waits for a write to the line. -/
  | waita (o : MF)
  /-- R228: Asynchronous tensor box copy into scratchpad or the B-store. -/
  | copyt (o : SF)
  /-- R229: Per-lane 16-byte asynchronous copy into scratchpad. -/
  | copy16 (o : SF)
  /-- R229: Waits until a copy channel's watermark passes an offset. -/
  | cwait (o : SF)
  /-- R229: Reads a copy channel's watermark. -/
  | cwmk (o : SF)
  /-- R230: Initialises a barrier's expected count. -/
  | bari (o : SF)
  /-- R230: Arrives on a barrier. -/
  | bara (o : SF)
  /-- R230: Waits while a barrier's phase equals a token. -/
  | barw (o : SF)
  /-- R230: Arrives on a barrier and waits for its phase to pass. -/
  | bars (o : SF)
  /-- R230: Reads a barrier's phase. -/
  | barp (o : SF)
  /-- R231: Initialises a scratchpad ring. -/
  | rini (o : SF)
  /-- R231: Claims a free ring slot if one exists. -/
  | rclm (o : SF)
  /-- R231: Publishes data into a claimed ring slot. -/
  | rpub (o : SF)
  /-- R231: Waits for the next published slot, adopting its owner, and takes it. -/
  | rwfl (o : SF)
  /-- R231: Releases a taken ring slot and advances the free count. -/
  | rrel (o : SF)
  /-- R231: Waits for room and claims a ring slot. -/
  | rwfr (o : SF)
  /-- R233: Renews a future with a new generation and returns its handle. -/
  | fnew (o : SF)
  /-- R233: Sets an empty future and wakes its waiters. -/
  | fset (o : SF)
  /-- R233: Returns a future's value, or adopts its owner, waits or parks. -/
  | fwait (o : SF)
  /-- R234: Spawns tasks by queueing their handles and setting future owners. -/
  | tspn (o : SF)
  /-- R234: Sets the task's future, then marks the task done. -/
  | tend (o : SF)
  /-- R233: Acquires a lock, or adopts its owner, waits or parks. -/
  | lkaq (o : SF)
  /-- R233: Releases a lock. -/
  | lkrl (o : SF)
  /-- R241: Records a matrix operand reservation. -/
  | ores (o : SF)
  /-- R235: Waits for matrix operations that read a reservation, then releases it. -/
  | orel (o : SF)
  /-- R235: Starts the workgroup's sequencer context on an engine-word stream. -/
  | mseq (o : SF)
  /-- R236: Software trap with an immediate. -/
  | trap (o : SF)
  /-- R236: Breakpoint trap, or a debugger stop under BKSTOP. -/
  | bkpt (o : SF)
  /-- R359: Reads a control register. -/
  | rdc (o : SF)
  /-- R359: Writes a control register. -/
  | wrc (o : SF)
  /-- R372: Ends a trap handler, restores the predicates and resumes. -/
  | rett (o : SF)
  /-- R360: Reads a tenant performance counter. -/
  | perfRd (o : SF)
  /-- R236: Sends a MARK event carrying an immediate to the event arbiter. -/
  | perfMark (o : SF)
  /-- R50: Swaps out an entry that has held its slot for 2,048 clocks. -/
  | timeSliceSwap (core quarter place : Nat)
  /-- R55: A variable-latency result is written and its busy register freed, poisoned if uncorrectable. -/
  | loadComplete (core id : Nat)
  /-- R63: A waiting CALL or refill is served, oldest first, once its blocks can be placed. -/
  | frameAllocation (core : Nat)
  /-- R64: After SPILLWAIT clocks with no frame freed, the ESE spills groups to place the oldest request. -/
  | eseSpill (core : Nat)
  /-- R65: Refills a spilled group when one of its entries becomes ready. -/
  | eseRefill (core slot : Nat)
  /-- R81: The distributor selects a candidate and binds a workgroup to a core. -/
  | workgroupBind (core : Nat)
  /-- R71: The distributor starts a queued task by compare-and-swap, or drops a stale entry. -/
  | taskStart (core vf queue : Nat)
  /-- R344: The TQC inserts a READY task once its full ring frees a slot. -/
  | taskRequeue (vf task : Nat)
  /-- R228: A copy finishes its writes, raises the watermark and arrives on its barrier. -/
  | copyComplete (core ch : Nat)
  /-- R229: All lanes' 16-byte copies are done and the barrier receives one arrival. -/
  | copy16Complete (core id : Nat)
  /-- R409: A copy or drain that meets a fault after issue pauses for firmware, or ends. -/
  | engineOpEnded (core id : Nat)
  /-- R237: A matrix launch or drain leaves the array or the drain path complete. -/
  | matrixOpComplete (core : Nat)
  /-- R245: Engine literal word: pushes a 15-bit value. -/
  | lit (v : BitVec 15)
  /-- R246: Engine word with no effect. -/
  | engineNop (f : BitVec 10)
  /-- R246: Extends the top of stack by 10 bits. -/
  | ext (f : BitVec 10)
  /-- R246: Duplicates the top of stack. -/
  | dup (f : BitVec 10)
  /-- R246: Pops the top of stack. -/
  | drop (f : BitVec 10)
  /-- R246: Swaps the top two stack items. -/
  | swap (f : BitVec 10)
  /-- R246: Copies the second stack item to the top. -/
  | overWord (f : BitVec 10)
  /-- R246: Adds the top two stack items modulo 2^64. -/
  | add (f : BitVec 10)
  /-- R246: Adds a signed 10-bit immediate to the top of stack. -/
  | addi (f : BitVec 10)
  /-- R246: Sets the context's M and N shape. -/
  | shape (f : BitVec 10)
  /-- R247: Launches an accumulating matrix multiply on a slot. -/
  | mma (f : BitVec 10)
  /-- R247: Launches a matrix multiply that starts from +0.0. -/
  | mmaz (f : BitVec 10)
  /-- R248: Launches a drain of an accumulator slot to memory or scratchpad. -/
  | drain (f : BitVec 10)
  /-- R248: Launches an unordered add-drain to memory. -/
  | drainadd (f : BitVec 10)
  /-- R248: Launches an ordered add-drain with a sequence item. -/
  | drainaddo (f : BitVec 10)
  /-- R249: Waits for earlier operations of the context, then arrives on a barrier. -/
  | arrive (f : BitVec 10)
  /-- R249: Waits for one phase completion of a barrier. -/
  | waitb (f : BitVec 10)
  /-- R250: Counted backward jump. -/
  | loop (f : BitVec 10)
  /-- R250: Waits for launched operations, then frees the context. -/
  | halt (f : BitVec 10)
  /-- R326: DME launch that accumulates a 32x32 tile from the bound queue. -/
  | dmma (f : BitVec 10)
  /-- R326: DME launch starting from +0.0. -/
  | dmmaz (f : BitVec 10)
  /-- R326: Pushes accumulator rows into a line core's queue. -/
  | dout (f : BitVec 10)
  /-- R325: DME waits a popped number of clocks. -/
  | dwt (f : BitVec 10)
  /-- R325: DME waits for the next line schedule start on a line core. -/
  | dline (f : BitVec 10)
  /-- R314: Cluster word with no unit and no effect. -/
  | cluNop (o : CW)
  /-- R315: Cluster ALU add. -/
  | cluIadd (o : CW)
  /-- R315: Cluster ALU subtract. -/
  | cluIsub (o : CW)
  /-- R315: Cluster ALU AND. -/
  | cluAnd (o : CW)
  /-- R315: Cluster ALU OR. -/
  | cluOr (o : CW)
  /-- R315: Cluster ALU XOR. -/
  | cluXor (o : CW)
  /-- R315: Cluster shift left. -/
  | cluShl (o : CW)
  /-- R315: Cluster logical shift right. -/
  | cluShr (o : CW)
  /-- R315: Cluster arithmetic shift right. -/
  | cluSar (o : CW)
  /-- R315: Cluster integer minimum. -/
  | cluImin (o : CW)
  /-- R315: Cluster integer maximum. -/
  | cluImax (o : CW)
  /-- R315: Cluster integer compare into a lane mask. -/
  | cluIcmp (o : CW)
  /-- R315: Cluster per-lane select. -/
  | cluXsel (o : CW)
  /-- R315: Cluster move. -/
  | cluMov (o : CW)
  /-- R322: Guarded cluster branch. -/
  | cluBr (o : CW)
  /-- R289: Rotating-register loop back-edge. -/
  | cluLoopr (o : CW)
  /-- R289: Opens a pipelined loop by setting lc, ec and the stage predicates. -/
  | cluSetlc (o : CW)
  /-- R322: Cluster idles until the next line schedule. -/
  | cluEndl (o : CW)
  /-- R322: Sets a stage predicate from any non-zero lane. -/
  | cluGset (o : CW)
  /-- R322: Sets a predicate through a lookup table. -/
  | cluGlut (o : CW)
  /-- R321: Pops a token, or the null token, which marks the line late. -/
  | cluKpop (o : CW)
  /-- R321: Pushes a token onto a token FIFO. -/
  | cluKpush (o : CW)
  /-- R321: Reads a queue's depth. -/
  | cluQlen (o : CW)
  /-- R316: Cluster F32 add. -/
  | cluFadd (o : CW)
  /-- R316: Cluster F32 multiply. -/
  | cluFmul (o : CW)
  /-- R316: Cluster F32 fused multiply-add. -/
  | cluFfma (o : CW)
  /-- R316: Cluster F32 minimum. -/
  | cluFmin (o : CW)
  /-- R316: Cluster F32 maximum. -/
  | cluFmax (o : CW)
  /-- R316: Cluster F32 compare into a lane mask. -/
  | cluFcmp (o : CW)
  /-- R316: Cluster conversions between F32, S32 and BF16. -/
  | cluFcvt (o : CW)
  /-- R317: Lane shuffle on the ISU. -/
  | cluShuf (o : CW)
  /-- R317: Linear interpolation with one rounding. -/
  | cluLerp (o : CW)
  /-- R317: Warp sampler over a 32-value window. -/
  | cluWarp (o : CW)
  /-- R318: Reads a field of the latched pose record. -/
  | cluPose (o : CW)
  /-- R288: Drives a value onto a stream. -/
  | cluSdrv (o : CW)
  /-- R317: Packs RGB into RGBA8 pixels. -/
  | cluPack (o : CW)
  /-- R320: Hands a unit to the line copy engine. -/
  | cluLcpy (o : CW)
  /-- R319: Loads a 64-byte line-store unit. -/
  | cluLdl (o : CW)
  /-- R319: Stores a 64-byte line-store unit. -/
  | cluStl (o : CW)
  /-- R324: Fetch engine word that issues a run read into the line store at its clock. -/
  | fetch (o : EW)
  /-- R324: Store engine word that writes line-store units or queue entries to memory. -/
  | store (o : EW)
  /-- R324: Store engine word that places pixels in the head's line FIFO. -/
  | emit (o : EW)
  /-- R294: A fetch run is fully written into the line store and its token pushed. -/
  | fetchRunComplete (lcr : Nat)
  /-- R298: The line copy engine starts a queued copy in the line core's slot and writes at t'+8. -/
  | lineCopyStart (lcr : Nat)
  /-- R301: A line core starts line L's schedule LEAD clocks before its deadline. -/
  | lineScheduleStart (lcr : Nat)
  /-- R302: At a line's deadline, scan-out sends the built line if on time, or the safety reel's line. -/
  | scanOutLine (head : Nat)
  /-- R305: The safety reel reads line L of the reel buffer two lines before its deadline. -/
  | reelRead (head : Nat)
  /-- R307: Selham writes the old frame number to SEL_FRTN after its last line and fetch. -/
  | frameReturn (head : Nat)
  /-- R444: Firmware reloads and restarts a stopped line core, or fails the launch at RLIMIT. -/
  | lineCoreReload (lcr : Nat)
  /-- R341: Accepts a compute launch and latches its header, or refuses it. -/
  | launch (c : Cmd)
  /-- R350: Loads and starts, or replaces, a Selham launch. -/
  | selham (c : Cmd)
  /-- R343: Changes the priority of a target launch. -/
  | prio (c : Cmd)
  /-- R346: Stops binding a launch and discards, drains or saves its workgroups. -/
  | preempt (c : Cmd)
  /-- R346: Makes a launch's unbound and saved workgroups candidates again. -/
  | resume (c : Cmd)
  /-- R342: Holds a queue's later commands until its earlier launches complete. -/
  | waitCmd (c : Cmd)
  /-- R351: Drops stage-1 or stage-2 translations of a page range. -/
  | tlbinv (c : Cmd)
  /-- R347: After outstanding work completes, the ESE writes a pre-empted workgroup's spill record. -/
  | workgroupSave (core wg : Nat)
  /-- R339: Firmware writes a command's completion record once it ends. -/
  | launchCompletion (queue index : Nat)
  /-- R277: Every excluded line is written back and invalid, and BUSY clears. -/
  | wayWalkComplete (die : Nat)
  /-- R274: A slice starts a request from its input queue: hit, miss merge, miss entry or side queue. -/
  | sliceRequest (die slice : Nat)
  /-- R274: Side-queued requests retry when a miss entry frees. -/
  | sideQueueRetry (die slice : Nat)
  /-- R275: Memory data fills a miss entry, evicting through a write-back entry. -/
  | lineFill (die slice line victimWay : Nat)
  /-- R275: A write-back completes and frees its entry. -/
  | writeBackComplete (die slice : Nat)
  /-- R150: An L1 owner yields a line to another core's request after at most 16 more atomics. -/
  | lineYield (line : Nat)
  /-- R151: A drain-add contribution is added at the home slice. -/
  | drainAddArrive (die slice : Nat)
  /-- R253: A DRAINADDO contribution is applied, held or rejected at the home slice. -/
  | orderedContribution (die slice : Nat)
  /-- R422: An open ordered sequence closes after TIMEOUT with no contribution. -/
  | sequenceTimeout (die slice line : Nat)
  /-- R268: A router takes a flit, checks its CRC and follows the next turn, or drops it. -/
  | routerFlit (die flit : Nat) (crcErr : BitVec 16)
  /-- R273: The receiver decodes and delivers an in-order die-link flit with good CRC. -/
  | dieLinkFlitReceive (link : Nat) (dir : Bool) (crcErr : BitVec 32)
  /-- R273: A cumulative acknowledgement releases replay-buffer flits. -/
  | dieLinkAck (link : Nat) (dir : Bool)
  /-- R149: A die holds an arriving cross-die write or read until the sender's counts are met. -/
  | crossDieReceive (die : Nat)
  /-- R149: A die sends its advanced count on a path within 64 fabric clocks. -/
  | beacon (src dst : Nat)
  /-- R376: A unit sends at most one class 0 event per millisecond, summing its corrections. -/
  | correctedReport (unit : Nat)
  /-- R49: A load on whose busy register an active entry stalls passes SWAPTHR clocks outstanding, becomes a long-latency
  dependence, and the entry is swapped for a ready pending entry. -/
  | swapthrExpiry (core quarter place : Nat)
  /-- R388: The issue of a compute word whose OPC is unassigned traps with ILLEGAL_OPCODE, with an 8-byte length. -/
  | unassignedOpcode (w : W64)
  /-- R398: A sequencer context decodes a word whose OP is 0x12 to 0x1F in a compute stream, and stops with ENGINE_WORD. -/
  | unassignedEngineWord (w : BitVec 16)
  /-- R337: A DIST_DBELL write records the write index and sets the queue's kick bit. -/
  | doorbell (vf k : Nat) (widx : W32)
  /-- R436: FWC_KILL GO with ALL 0 ends all work of one launch. -/
  | contextKill (queue : Nat) (index : BitVec 16)
  /-- R436: FWC_KILL GO with ALL 1 ends all work, tasks and Selham of a virtual function. -/
  | killAll (queue : Nat)
  /-- R447: The active scheduler writes HBEAT. -/
  | heartbeat
  /-- R447: HBTO passes with no heartbeat and the security core starts a takeover. -/
  | heartbeatTimeout
  /-- R450: The management core reloads and checks the failed core as the new stand-in. -/
  | standinReload (checkOk : Bool)
  /-- R446: An uncorrectable error in a firmware core's memory. -/
  | firmwareMemoryError (fw : Nat)
  /-- R383: CORE_DBG OP 1 stops a group. -/
  | debugStop (core slot : Nat)
  /-- R384: CORE_DBG OP 2 gives each entry of the group one issue attempt. -/
  | debugStepGroup (core slot : Nat)
  /-- R384: CORE_DBG OP 3 steps one entry. -/
  | debugStepEntry (core slot : Nat) (gent : Bool) (frag : Nat)
  /-- R383: CORE_DBG OP 4 resumes the stopped group. -/
  | debugResume (core slot : Nat)
  /-- R277: Changes the presentation ways and walks the removed ways. -/
  | l2sPwayWrite (die : Nat) (value : W32)
  /-- R277: Changes a virtual function's way mask and walks the removed ways. -/
  | l2sVfwayWrite (die vf : Nat) (value : W32)
  /-- R455: A write to a memory-mapped register that has no row of its own. -/
  | registerWrite (reg : MmioReg) (value : W64) (by_ : Writer)
  /-- R334: Firmware creates a command queue at the hypervisor's request. -/
  | createQueue (queue base logn : Nat)
  /-- R356: Firmware writes a VF configuration at the hypervisor's request. -/
  | vfConfigWrite (vf : Nat) (cfg : VfCfgWords)
  /-- R355: Creates a virtual function and draws its key pair. -/
  | vfCreate (vf root1 root2 : Nat)
  /-- R355: Destroys a virtual function and erases its keys. -/
  | vfDestroy (vf : Nat)
  /-- R357: Moves a domain between virtual functions after pre-emption and scrub. -/
  | domainMove (domain toVf : Nat)
  /-- R456: The hypervisor describes a virtual function's IA ranges and frame allowance. -/
  | iaRanges (vf : Nat) (ranges : List IaRange) (allowance : List Nat) (mmio : List (Nat × MmioPage))
  /-- R364: Returns a signed attestation report through the management mailbox. -/
  | attestationReport (vf : Nat) (nonce : BitVec 512)
  /-- R362: The hypervisor supplies a policy plug-in through the management mailbox. -/
  | pluginLoad (plugin : Nat) (code : List Byte)
  /-- R362: Firmware calls a plug-in for one decision, with a default on overrun or trap. -/
  | pluginCall (plugin core : Nat) (result : PluginResult)
  /-- R363: At power-on the boot ROM verifies the image and the part trains memory and links. -/
  | boot (image : FwImage) (signature : Nat × Nat) (dies : BitVec 5) (memdev : Byte)
  /-- R31: A die at 105 °C stops the compute, fabric and Selham clocks. -/
  | thermalStop (die : Nat)
  /-- R32: After 1 s at 95 °C or less, the stopped clocks restart. -/
  | thermalRestart
  /-- R32: At 10 s without cooling, or at 115 °C, the clocks stay stopped until reset. -/
  | thermalHold (die : Nat)
  /-- R32: A host or peer access held during a thermal stop reaches the CXL completion timeout. -/
  | hostAccessTimeout
  /-- R354: A host or peer CXL.mem or UIO access to device memory, checked against the frame owner byte. -/
  | hostMemAccess (port : Nat) (uio : Bool) (write : Bool) (space : HostSpace) (offset : Nat) (data : List Byte)
  /-- R352: The host snoops a line held in L1 or L2 through CXL.cache. -/
  | hostSnoop (addr : Nat) (invalidate : Bool)
  /-- R456: Firmware resolves or declines a held stage-2 fault. -/
  | stage2FaultResolve
  /-- R410: The sifter compares and merges two identical pages. -/
  | sifterMerge (ia1 ia2 : Nat)
  /-- R420: A patrol scrubber reads and corrects a location. -/
  | patrolScrub (place : ScrubPlace) (errors : ScrubResult)
  /-- R420: A frame with RETIRE corrected errors in one pass is moved to a spare frame. -/
  | frameRetirement (frame spare : Nat)
  /-- R423: A router link that resends one flit 16 times goes out of service and traffic reroutes. -/
  | linkDown (die router port : Nat)
  /-- R423: A link that resends more than 1,000 flits in one millisecond sends a notice. -/
  | linkRetry (die router port : Nat)
  /-- R424: A failed die link switches its traffic to another path, keeping causal order. -/
  | dieLinkDown (link : Nat)
  /-- R423: Firmware retrains a down router link or die link, resets its compression tables, and returns it to service after
  draining the die's injection ports. -/
  | linkRetrain (dieLink : Bool) (a router port : Nat)
  /-- R355: On a hypervisor request, firmware changes a frame owner byte or a key, or refuses the request while the virtual
  function has resident work, queued tasks or a running Selham launch. -/
  | frameOwnerChange (frame : Nat) (owner : Byte) (newKey : Bool)
  /-- R24: The management core lowers or raises the compute arithmetic clock by 100 MHz steps, with the fabric and L2 clock
  where R24 requires, to hold the board power limit. -/
  | powerLimitStep (up : Bool)
  /-- R303: A write to offset 0x38 commits the staging pose record. -/
  | poseCommit (slot : Nat) (seq : W32)
  /-- R293: All units stop after FRAMES presented frames and the completion record is written. -/
  | selhamLaunchEnd
  /-- R444: A stopped DME restarts its stream at the next presented frame. -/
  | dmeRestart
  /-- R378: The event arbiter takes one event per fabric clock and stamps it. -/
  | eventStamp
  /-- R375: Firmware writes an error record, a notice and an MSI-X message for an event. -/
  | errorRecord
  /-- R273: A negative acknowledgement makes the sender resend from the oldest unacknowledged flit. -/
  | dieLinkNak (link : Nat) (dir : Bool)
  /-- R273: 512 fabric clocks without an acknowledgement start a replay. -/
  | dieLinkReplayTimeout (link : Nat) (dir : Bool)
  /-- R439: Kills the unfinished workgroups of a pre-emption when DIST_PTO expires. -/
  | preemptTimeout (queue : Nat)
  deriving DecidableEq, Repr

end Sys2Proof
end

