-- ==== Sys2Proof/Machine/State.lean ====
section
/-! DEFINITION. The state of the YX-OD960 as plain data: device memory, the compute cores with
their groups, entries, frames, engines and pools, the slices and fabric of the dies, the
distributor, the firmware complex, the event arbiter and Selham; the reasons a step can stop; and
the state after reset. -/

namespace Sys2Proof.Machine

/-- A sparse table from numbers: keys strictly rising. A key that is not listed has the default
that the table's reader names. -/
abbrev KMap (α : Type) := List (Nat × α)

/-- Why the machine stands still. -/
inductive Fault where
  /-- Raised by `step` when the security core holds every firmware core in reset after a failed image check (R363).
  Safe: the manual gives the part no further effect until a reset. -/
  | heldUntilReset
  deriving DecidableEq, Repr

/-- Why a step has no meaning. -/
inductive Refusal where
  /-- Raised by a refused arm of `exec`. Safe: nothing is claimed of the instruction. -/
  | notModelled (mnemonic : String)
  /-- Raised when an instruction is executed while no unit of its kind stands at an issue: no agent
  of the machine executes that word in that state. Safe. -/
  | noIssuer
  /-- Raised by the meaning of a step of a hardware or firmware agent whose enabling condition does
  not hold in the state: the step cannot happen there. Safe. -/
  | notEnabled (step : String)
  /-- Raised by `step` when the bytes an agent fetched are no encoding that the manual gives that
  agent and its loader would have refused them (R313, R401). Safe. -/
  | noEncoding (why : String)
  deriving DecidableEq, Repr

/-! ## Causes, traps and events -/

/-- The cause codes of R367. -/
inductive Cause where
  | illegalOpcode
  | reservedField
  | shadowRead
  | frameDemand
  | regRange
  | misaligned
  | translation
  | permission
  | copyOnWrite
  | handleStale
  | handleBounds
  | scopeDenied
  | codecRegion
  | oresConflict
  | matrixShape
  | barrierMisuse
  | ringMisuse
  | unwindEmpty
  | reconvDepth
  | spillArea
  | swTrap
  | breakpoint
  | dataUncorrectable
  | fpException
  | queueOverflow
  | queueUnderflow
  | scheduleViolation
  | streamApart
  | tokenMisuse
  | engineStack
  | engineWord
  deriving DecidableEq, Repr

/-- A trap about to be delivered: its cause, `%tinfo0`, `%tinfo1`, the lanes in which it arose, and
the stage it came from (R369, R371, R387). -/
structure Trap where
  cause : Cause
  i0 : W32
  i1 : W32
  fmask : Mask
  /-- `%tinfo0` and `%tinfo1` hold a VA. -/
  va : Bool
  stage2 : Bool
  ia : Nat
  deriving DecidableEq, Repr

/-- What the event arbiter stamps: an error record or notice (R375, R376), or the completion of a
command (R158, R339). -/
inductive EventKind where
  | record
  | completion (queue index : Nat)
  deriving DecidableEq, Repr

/-- An event on its way to the arbiter and to firmware (R375, R376). -/
structure Event where
  kind : EventKind
  code : Nat
  cls : Nat
  block : Nat
  die : Nat
  unit : Nat
  slot : Nat
  vf : Nat
  addrVa : Bool
  nested : Bool
  adopted : Bool
  addr : W64
  info : W64
  task : W64
  count : W64
  /-- The launch that the event fails, if any (R435). -/
  launch : Option Nat
  deriving DecidableEq, Repr

/-- A stamped event waiting for firmware (R158, R375). -/
structure Stamped where
  evseq : W64
  ev : Event
  deriving DecidableEq, Repr

/-! ## Cores -/

/-- A schedulable entry of a group: the group's own slot or a fragment entry (R44). -/
inductive EntId where
  | own
  | frag (n : Nat)
  deriving DecidableEq, Repr

/-- A register's place: of a frame, or of a trap frame (R58, R69, R370). -/
inductive RegLoc where
  | frame (id reg : Nat)
  | trap (i reg : Nat)
  deriving DecidableEq, Repr

/-- What an entry waits for (R49). -/
inductive Wait where
  | none
  /-- The results that keep registers of the word busy, and those of them whose registers it reads (R49, R55). -/
  | busyReg (outs reads : List Nat)
  | barrier (b : Nat) (token : BitVec 16)
  | bars (b : Nat) (token : BitVec 16)
  | copyMark (ch off : Nat)
  | copyIdle (ch : Nat)
  | scratchMark (off len : Nat)
  | monitor
  | future (handle : W64)
  | lock (va : W64)
  | ringData (id : W32)
  | ringFree (id : W32)
  | reservation (r : Nat)
  | alloc
  | yield
  | rcvm (item : Nat)
  /-- An `MSEQ` that waits for a context, with the phases of the workgroup's barriers when it issued (R243). -/
  | sequencer (tokens : List (BitVec 16))
  | stage2 (page : Nat) (cause : Cause)
  /-- Firmware declined the stage-2 fault on the page: the next issue traps there (R408). -/
  | declined (page : Nat)
  deriving DecidableEq, Repr

/-- One schedulable entry (R44, R60, R75, R369). -/
structure Entry where
  id : EntId
  mask : Mask
  pc : W64
  depth : Nat
  /-- Innermost item of the entry's token stack. -/
  tok : Option Nat
  /-- Current frame. -/
  frame : Nat
  adepth : Nat
  retried : Bool
  /-- The trap frame of the handler that the entry runs. -/
  handler : Option Nat
  wait : Wait
  /-- The clock at which the present wait began. -/
  waitFrom : Nat
  /-- The earliest clock of the next issue (R54). -/
  nextIssue : Nat
  /-- The clock of the last issue, or of entry into the active set (R51). -/
  lastIssue : Nat
  /-- Since when the entry has been ready in the pending set (R49). -/
  readyAt : Option Nat
  /-- A task that an adoption has claimed and that still needs its frame (R431). -/
  adopting : Option W64
  deriving DecidableEq, Repr

/-- A reconvergence token or a deferred record (R46, R47). -/
structure TokItem where
  id : Nat
  parent : Option Nat
  deferred : Bool
  pc : W64
  /-- Expected mask of a token; mask N of a deferred record. -/
  mask : Mask
  arrived : Mask
  owner : EntId
  depth : Nat
  deriving DecidableEq, Repr

/-- The target of a fixed-latency write (R54). -/
inductive PendTgt where
  | reg (l : RegLoc)
  | pred (p : Nat)
  deriving DecidableEq, Repr

/-- A fixed-latency result that is not yet ready (R54, R56, R393). -/
structure Pend where
  by_ : EntId
  ready : Nat
  tgt : PendTgt
  mask : Mask
  val : Reg
  deriving DecidableEq, Repr

/-- One destination register of a variable-latency result (R55, R415). -/
structure OutDest where
  loc : RegLoc
  mask : Mask
  val : Reg
  poison : Mask
  /-- The VA of each lane's access. -/
  vas : List W64
  deriving DecidableEq, Repr

/-- An outstanding variable-latency result: its destinations are busy (R55). -/
structure Out where
  id : Nat
  slot : Nat
  since : Nat
  dests : List OutDest
  /-- Slice requests that have not been answered yet. -/
  reqs : Nat
  /-- The result of a load (R49). -/
  load : Bool
  /-- The result passed SWAPTHR while an entry stalled on it (R49). -/
  long : Bool
  /-- The records that the operation latched, each by its handle and table (R413). -/
  latched : List (W32 × Nat)
  deriving DecidableEq, Repr

/-- A header cell (R62); `cell` is its place, block and index, in the register part. -/
structure Hdr where
  rpc : W64
  padv : Bool
  pad : W64
  adoption : Bool
  res : Nat
  args : BitVec 8
  vbase : Nat
  fsize : Nat
  csize : Nat
  cbase : Nat
  psave : BitVec 48
  mask : Mask
  adepth : Nat
  tokh : Nat
  tok : Option Nat
  cellBlock : Nat
  cellIdx : Nat
  /-- The cell carries an uncorrectable error (R419). -/
  bad : Bool
  deriving DecidableEq, Repr

/-- A register frame (R58, R60): `base` is its first block, `size` its register count F. -/
structure Frame where
  slot : Nat
  base : Nat
  size : Nat
  regs : KMap Reg
  poison : KMap Mask
  parent : Option Nat
  hdr : Option Hdr
  deriving DecidableEq, Repr

/-- The state that a trap saves (R369). -/
structure TrapState where
  slot : Nat
  ent : EntId
  tcause : W32
  tpc : W64
  tinfo0 : W32
  tinfo1 : W32
  tinfo2 : W32
  tinfo3 : W32
  resume : W64
  pred : W64
  cause : Cause
  va : Bool
  deriving DecidableEq, Repr

/-- CORE_DBG.STATUS of a group (R382, R383). -/
inductive DbgState where
  | running
  | stopped
  | stepping
  | stopPending
  deriving DecidableEq, Repr

/-- A resident group (R37, R44, R72). -/
structure Group where
  launch : Nat
  wg : Nat
  vf : Nat
  /-- WID bits [63:3]. -/
  wid : BitVec 61
  /-- The handle of the task that the group is. -/
  task : Option W64
  entries : List Entry
  items : List TokItem
  nextItem : Nat
  /-- p0 to p7, predicate i in byte i; the byte of p7 is not used (R10). -/
  preds : W64
  pend : List Pend
  dbg : DbgState
  /-- The entry that a `BKPT` has stopped under BKSTOP, and its `%tpc` (R383). -/
  bkpt : Option (EntId × W64)
  /-- The frames lie in a spill record (R64). -/
  spilled : Bool
  /-- The end of the lanes is forced (R193). -/
  forced : Bool
  /-- A pre-emption parks the task as soon as it can be (R348). -/
  parking : Bool
  deriving DecidableEq, Repr

/-- A barrier (R230). -/
structure Barrier where
  expected : Nat
  arrival : Nat
  phase : BitVec 16
  deriving DecidableEq, Repr

/-- A live operand reservation: the 128-bit record of R238. -/
structure Resv where
  r0 : W32
  r1 : W32
  r2 : W32
  r3 : W32
  deriving DecidableEq, Repr

/-- A bound workgroup (R39, R81). -/
structure Workgroup where
  launch : Nat
  index : Nat
  vf : Nat
  /-- The workgroup is the single group of a task (R454). -/
  isTask : Bool
  idem : Bool
  barriers : KMap Barrier
  scratchBase : Nat
  scratchLen : Nat
  acc : List Nat
  res : KMap Resv
  ctx : Option Nat
  /-- Group slots that still hold a group. -/
  slots : List Nat
  /-- A save or a drain of a pre-emption is under way (R346, R347). -/
  saving : Bool
  draining : Bool
  /-- A context of the workgroup has stopped, and operations that it launched have not completed (R399). -/
  stopping : Bool
  deriving DecidableEq, Repr

/-- A copy of `COPYT` in progress (R228). -/
structure CopyOp where
  wg : Nat
  vf : Nat
  lrec : List W64
  handle : W32
  /-- The record table that the handle was read through. -/
  table : Nat
  org : List W32
  box : List Nat
  dst : Nat
  bst : Bool
  bar : Option Nat
  scope : Nat
  /-- Pool offset of the workgroup's scratchpad. -/
  base : Nat
  /-- Elements written so far. -/
  pos : Nat
  deriving DecidableEq, Repr

/-- A copy channel (R227-R229). -/
structure CopyChan where
  used : Bool
  wmk : Nat
  lo : Nat
  hi : Nat
  op : Option CopyOp
  deriving DecidableEq, Repr

/-- The copies of one `COPY16` (R229): per active lane source PA, scratchpad destination, and whether the source is PRES. -/
structure Copy16 where
  id : Nat
  wg : Nat
  vf : Nat
  bar : Nat
  moves : List (Nat × Nat × Bool)
  deriving DecidableEq, Repr

/-- The state of a ring slot (R231). -/
inductive RingSlot where
  | free
  | claimed
  | published
  | taken
  | released
  deriving DecidableEq, Repr

/-- A ring (R231). -/
structure Ring where
  vf : Nat
  /-- Pool offset of slot 0 in the core's scratchpad. -/
  base : Nat
  c : Nat
  s : Nat
  k : Nat
  t : Nat
  f : Nat
  slots : List RingSlot
  claimers : KMap W64
  producer : W64
  deriving DecidableEq, Repr

/-- A launched matrix operation with what it has latched of its workgroup: the numbers and records of its
reservations, the pool offset of the scratchpad, and the core's accumulator slot (R237, R247, R248). A drain's kind
is 0 `DRAIN`, 1 `DRAINADD`, 2 `DRAINADDO`; `left` counts its contributions that no slice has taken yet, once they
are sent; `at_` and `info` are what a stop at its word reports (R400). -/
inductive MatOp where
  | mma (ctx wg vf a b : Nat) (ra rb : Resv) (base slot : Nat) (k0 k m n : Nat) (zero : Bool)
  | drain (ctx wg vf id : Nat) (kind : Nat) (scr : Bool) (cvt : Nat) (addr pitch q : W64) (base slot m n : Nat)
      (left : Option Nat) (at_ info : W64)
  deriving DecidableEq, Repr

/-- What a word of a context waits for (R243). -/
inductive SeqWait where
  | none
  | bar (b : Nat)
  | ops
  | queue
  deriving DecidableEq, Repr

/-- A sequencer context (R243). -/
structure SeqCtx where
  wg : Nat
  vf : Nat
  pc : W64
  stack : List W64
  m : Nat
  n : Nat
  tokens : List (BitVec 16)
  wait : SeqWait
  deriving DecidableEq, Repr

/-- The saved state of a workgroup but for its frames: scratchpad, accumulator and B-store contents by offset in the workgroup's
parts, with the poison marks of each memory (R347, R415, R419). -/
structure SavedWg where
  wg : Workgroup
  groups : KMap Group
  traps : KMap TrapState
  trapRegs : KMap (KMap Reg)
  trapPoison : KMap (KMap Mask)
  scratch : KMap Byte
  scratchPoison : List Nat
  rings : KMap Ring
  bstore : KMap Byte
  bstorePoison : List Nat
  accs : KMap (KMap W32)
  accPoison : List Nat
  ctx : Option SeqCtx
  deriving DecidableEq, Repr

/-- What a spill record holds (R64, R72, R347). A parked context is the entry that parked, with the other entries of the
task, their tokens and predicates; depths count from its root frame, and the first entry's wait names what it waits for. -/
inductive SpillKind where
  | group (slot : Nat)
  | park (handle : W64) (vf : Nat) (ents : List Entry) (items : List TokItem) (preds : W64) (root : Nat)
  | saved (x : SavedWg)
  deriving DecidableEq, Repr

/-- A spill record in a launch's spill area (R66): `off` is its VA. -/
structure SpillRec where
  off : Nat
  size : Nat
  kind : SpillKind
  frames : KMap Frame
  deriving DecidableEq, Repr

/-- A `CALL` or refill that waits for blocks (R63). -/
structure AllocReq where
  slot : Nat
  ent : Option EntId
  since : Nat
  size : Nat
  deriving DecidableEq, Repr

/-- A place of a quarter's active set (R44, R49, R50). -/
structure Place where
  slot : Nat
  ent : EntId
  since : Nat
  /-- The slot issues nothing before this clock (the 2 clocks of a swap). -/
  from_ : Nat
  deriving DecidableEq, Repr

/-- A quarter (R43-R52). -/
structure Quarter where
  sched : W32
  active : KMap Place
  deficit : KMap Nat
  ptr : Option Nat
  /-- The monitor table: armed lines and the entry each wakes (R225). -/
  monitors : List (Nat × Nat × EntId)
  deriving DecidableEq, Repr

/-- A translation that a TLB holds (R94). -/
structure TlbEnt where
  vf : Nat
  stage2 : Bool
  page : Nat
  leaf : W64
  deriving DecidableEq, Repr

/-- A record that the record cache holds: the handle and the record table that it was read through, its eight words, the words
of the region record that a codec record names, and the operations in flight that latched it (R98, R413, R418). -/
structure LatchedRec where
  handle : W32
  table : Nat
  words : List W64
  region : Option (List W64)
  count : Nat
  deriving DecidableEq, Repr

/-- What an atomic does to a location: the operation of R223 at a TYPE with its operand, or a compare and swap. -/
inductive AtomFn where
  | op (aop ty b : Nat)
  | cas (old new : Nat)
  deriving DecidableEq, Repr

/-- One lane of an atomic that waits for its line to come into exclusive ownership (R150, R224). -/
structure AtomLane where
  slot : Nat
  ent : EntId
  vf : Nat
  launch : Nat
  out : Nat
  lane : Nat
  pa : Nat
  size : Nat
  pres : Bool
  /-- The operation returns the old value; a `RED` does not. -/
  returns : Bool
  /-- The bypass unit of the home slice does it (R278). -/
  bypass : Bool
  fn : AtomFn
  deriving DecidableEq, Repr

/-- A core (R19, R20, R79-R83). -/
structure Core where
  usable : Bool
  lastVf : Option Nat
  regsPart : Nat
  accsPart : Nat
  eseCtl : W32
  dbg : W32
  quarters : List Quarter
  groups : KMap Group
  wgs : KMap Workgroup
  nextWg : Nat
  frames : KMap Frame
  nextFrame : Nat
  allocs : List AllocReq
  /-- The clock at which a frame of the core was last freed (R64). -/
  lastFree : Nat
  scratch : KMap Byte
  bstore : KMap Byte
  acc : KMap (KMap W32)
  accPoison : List Nat
  scratchPoison : List Nat
  bstorePoison : List Nat
  traps : KMap TrapState
  trapRegs : KMap (KMap Reg)
  trapPoison : KMap (KMap Mask)
  spills : KMap SpillRec
  nextSpill : Nat
  chans : KMap CopyChan
  copy16s : List Copy16
  rings : KMap Ring
  ctxs : KMap SeqCtx
  seqPtr : Nat
  launchQ : List MatOp
  draining : List MatOp
  outs : List Out
  nextId : Nat
  /-- The 16 most recent poisoning loads: their registers, the lanes that they poisoned and each lane's VA (R415). -/
  poisonLoads : List (List RegLoc × Mask × List W64)
  /-- Lane-bank writes performed for the virtual function served (R53). -/
  bankWrites : Nat
  latched : List LatchedRec
  tlb : List TlbEnt
  /-- Lines of the L1 data cache, the latest first, each raw, or decoded for a region of a virtual function: the PA of the
  region record, and the virtual function (R84, R114). -/
  l1 : List (Nat × Option (Nat × Nat))
  /-- Lanes of issued atomics whose line the L1 does not own yet, in order (R150). -/
  atoms : List AtomLane
  deriving DecidableEq, Repr

/-! ## Dies, slices and fabric -/

/-- A contribution of a drain with add to one line (R151, R253). -/
structure Contribution where
  line : Nat
  vf : Nat
  pres : Bool
  /-- Number n of contributions and the ordinal k; none for `DRAINADD`. -/
  seq : Option (Nat × Nat)
  /-- Byte offset in the line and FP32 value of each element. -/
  elems : List (Nat × W32)
  /-- The core and the drain that sent it. -/
  core : Nat
  op : Nat
  /-- The die and number of a contribution that came from another die (R149). -/
  num : Option (Nat × Nat)
  deriving DecidableEq, Repr

/-- What one block encode adds to the counters of its region (R117): the error exponent, where the encode has one. -/
structure EncNote where
  lossy : Bool
  special : Bool
  partial_ : Bool
  err : Option Int
  deriving DecidableEq, Repr

/-- What a request asks of a slice (R274-R276). -/
inductive ReqKind where
  | load
  | store
  | atomic
  /-- The read-modify-write of a partial-block store, which sets the line's codec-busy bit, and the write that clears it
  (R116). -/
  | codec
  | codecEnd
  /-- A reduction of the bypass unit, and the update of a region record's counters, whose values the store that causes it has
  set (R117, R118, R276, R278). -/
  | red
  | count
  /-- A contribution of a drain with add (R151, R152). -/
  | add (c : Contribution)
  deriving DecidableEq, Repr

/-- A request to a slice (R274). -/
structure SReq where
  kind : ReqKind
  line : Nat
  core : Nat
  vf : Nat
  pres : Bool
  /-- The outstanding result that the answer serves. -/
  out : Option Nat
  /-- The die and number of a write that came from another die (R149). -/
  num : Option (Nat × Nat)
  deriving DecidableEq, Repr

/-- A miss-table entry (R274). -/
structure Miss where
  line : Nat
  reqs : List SReq
  deriving DecidableEq, Repr

/-- A line that a slice holds (R85-R87, R277). -/
structure LineEnt where
  line : Nat
  way : Nat
  dirty : Bool
  pres : Bool
  vf : Nat
  deriving DecidableEq, Repr

/-- An open entry of the sequence table (R253, R422). -/
structure SeqEnt where
  line : Nat
  n : Nat
  next : Nat
  last : Nat
  deriving DecidableEq, Repr

/-- An L2 slice (R274-R276). -/
structure Slice where
  inq : List SReq
  misses : List Miss
  side : List SReq
  wbs : List Nat
  lines : List LineEnt
  /-- Contributions that have been started, for the adders in arrival order. -/
  adds : List Contribution
  seqs : List SeqEnt
  merges : List Contribution
  deriving DecidableEq, Repr

/-- A message that the fabric carries (R265-R270). -/
inductive Msg where
  | req (r : SReq) (slice : Nat)
  | resp (core out : Nat)
  | contrib (c : Contribution) (slice : Nat)
  /-- The slice has set the codec-busy bit for the core's read-modify-write (R116). -/
  | codecGrant (r : SReq) (slice : Nat)
  | write (line : Nat) (data : List W32)
  | beacon (count : Nat)
  deriving DecidableEq, Repr

/-- A flit in the network of a die: the router it stands at, its turn list, and the message of its packet, of which it is
part `part` of `parts` (R267, R268). -/
structure Flit where
  id : Nat
  /-- The head flit of its packet. -/
  pkt : Nat
  part : Nat
  parts : Nat
  /-- It waits at its injection port for a route (R270). -/
  waits : Bool
  /-- The vector of the sending die, of a message to another die; its own entry is the number of a write (R149). -/
  stamp : List Nat
  router : Nat
  turns : BitVec 16
  /-- The destination endpoint: die, router and local port. -/
  dstDie : Nat
  dstRouter : Nat
  dstPort : Nat
  /-- Virtual channel: 0 requests, 1 responses, 2 write-backs, 3 held ordered contributions (R267). -/
  chan : Nat
  second : Bool
  /-- The injecting die and port, router × 8 + port; and whether the flit takes the alternative route (R269, R270). -/
  srcDie : Nat
  src : Nat
  alt : Bool
  /-- The link it came over to this router: sending router × 8 + port; its port link at injection. -/
  via : Nat
  /-- How often it has been sent again on that link (R423). -/
  resends : Nat
  crc : BitVec 16
  msg : Msg
  deriving DecidableEq, Repr

/-- The state of a router link (R423). -/
structure RLink where
  down : Bool
  /-- Resends of all flits since `winFrom` (ns). -/
  winFrom : Nat
  winCount : Nat
  deriving DecidableEq, Repr

/-- A message of another die held for its stamp, with the vector it carries (R149). -/
structure Held where
  src : Nat
  stamp : List Nat
  flit : Flit
  deriving DecidableEq, Repr

/-- What a TQC caches of a task queue: the words of the descriptor, with the counts of its eight rings from word 8 on, and
whether a count has changed since (R344, R345). -/
structure TqcEnt where
  vf : Nat
  queue : Nat
  words : List W64
  dirty : Bool
  deriving DecidableEq, Repr

/-- One die: fabric, slices and controllers (R16, R20). Die 4 is H. -/
structure Die where
  pway : W32
  vfway : KMap W32
  wmstat : W32
  seqto : W32
  fabCtl : W32
  memcScrub : W32
  slices : KMap Slice
  flits : List Flit
  links : KMap RLink
  tlb : List TlbEnt
  /-- The vector of five counts (R149). -/
  vec : List Nat
  /-- Counts received and applied on the path from each die. -/
  recv : List Nat
  /-- Counts last sent on the path to each die. -/
  sent : List Nat
  /-- The fabric clock of that message. -/
  sentAt : List Nat
  /-- Writes of other dies that have arrived and that no slice has applied: die and number. -/
  unapplied : List (Nat × Nat)
  /-- The fabric clock at which a long link's router last signalled congestion (R270). -/
  signals : KMap Nat
  heldMsgs : List Held
  /-- The task queue descriptors and ring heads that the die's TQC caches (R345). -/
  tqc : List TqcEnt
  lost : Bool
  deriving DecidableEq, Repr

/-- One encoded word of a compressed flit (R272). -/
inductive Sym where
  | hit (index : Nat)
  | miss (w : W32)
  deriving DecidableEq, Repr

/-- A compressed flit with its sequence number and CRC-32 (R273). -/
structure CFlit where
  seq : Nat
  syms : List Sym
  crc : W32
  words : List W32
  flit : Flit
  stamp : List Nat
  deriving DecidableEq, Repr

/-- One direction of a die link (R272, R273). -/
structure LinkDir where
  src : Nat
  dst : Nat
  sendTable : List W32
  recvTable : List W32
  /-- Updates of flits not yet applied at each end, oldest first. -/
  sendPend : List (List Sym)
  recvPend : List (List Sym)
  sendSeq : Nat
  recvSeq : Nat
  replay : List CFlit
  wire : List CFlit
  queue : List (Flit × List Nat)
  /-- The fabric clock of the last acknowledgement, send or replay, and the replays since an acknowledgement. -/
  lastAck : Nat
  resends : Nat
  /-- A negative acknowledgement is on its way to the sender. -/
  nak : Bool
  down : Bool
  deriving DecidableEq, Repr

/-! ## Virtual functions, distributor and firmware -/

/-- A virtual function (R356-R360, R381, R456). -/
structure Vf where
  cfg : VfCfgWords
  root1 : Option Nat
  root2 : Option Nat
  key : Option Nat
  ranges : List IaRange
  allowance : List Nat
  /-- Frames of the allowance in use, each with the page it was taken for (R456). -/
  taken : List (Nat × Nat)
  mmio : List (Nat × MmioPage)
  hpol : W32
  perf : List W64
  nbase : W64
  nctl : W32
  nstat : W32
  deriving DecidableEq, Repr

/-- A latched launch header: the words at 0x00 to 0x78 (R341). -/
structure LaunchHdr where
  words : List W64
  deriving DecidableEq, Repr

/-- An accepted launch (R341-R346). -/
structure Launch where
  queue : Nat
  index : Nat
  hdr : LaunchHdr
  done : W64
  prio : Nat
  /-- Next workgroup never bound, and the workgroups discarded (R346). -/
  next : Nat
  returned : List Nat
  /-- Workgroups that have been selected for a core and are not bound yet (R343). -/
  picked : List Nat
  /-- Saved workgroups: core and spill record (R347). -/
  saved : List (Nat × Nat)
  /-- Bound workgroups: core and key. -/
  bound : List (Nat × Nat)
  /-- Where lanes that agree above a field have been put: the field, the WID above it, and the core (R38). -/
  homes : List (Nat × Nat × Nat)
  total : Nat
  /-- Binding stopped by a pre-emption. -/
  stopped : Bool
  saves : Nat
  discards : Nat
  /-- EVSEQ and cause of the earliest failure record (R435). -/
  failure : Option (W64 × Nat)
  failed : Option Nat
  killed : Option Nat
  ended : Bool
  /-- The completion record has been written. -/
  written : Bool
  deriving DecidableEq, Repr

/-- A command queue (R334). -/
structure CmdQueue where
  base : Nat
  logn : Nat
  r : Nat
  widx : W32
  /-- DONE of a `WAIT` that holds later commands (R342); an unreadable entry blocks until the next doorbell (R453). -/
  waiting : Option W64
  blocked : Bool
  deriving DecidableEq, Repr

/-- A completion on its way to its record (R339). -/
structure Completion where
  queue : Nat
  index : Nat
  status : Nat
  cause : Nat
  field : Nat
  info : W64
  done : W64
  evseq : Option W64
  deriving DecidableEq, Repr

/-- A `PREEMPT` command under way (R346, R439). -/
structure Preempt where
  queue : Nat
  index : Nat
  launch : Nat
  save : Bool
  done : W64
  saves : Nat
  discards : Nat
  /-- Workgroups of the launch that were bound when the command started: core and key. -/
  left : List (Nat × Nat)
  /-- When the timeout of R439 expires, in ns; none where there is none. -/
  due : Option Nat
  deriving DecidableEq, Repr

/-- A journal entry (R448): what its 256 bytes hold. -/
structure JEntry where
  seq : Nat
  queue : Nat
  op : Nat
  kind : Nat
  index : Nat
  record : List W64
  header : List W64
  deriving DecidableEq, Repr

/-- A candidate for a core: a workgroup of a launch not yet bound, one that the core has saved, or the head of a task
queue (R342). -/
inductive Cand where
  | fresh (launch index : Nat)
  | saved (launch key : Nat)
  | task (queue : Nat) (handle : W64)
  deriving DecidableEq, Repr

/-- The distributor and the active scheduler's queues (R334-R351). -/
structure Dist where
  kick : KMap W32
  pto : W32
  queues : KMap CmdQueue
  launches : KMap Launch
  nextLaunch : Nat
  /-- Commands of queue and index that the distributor or SEL holds (R449). -/
  handed : List (Nat × Nat)
  completions : List Completion
  preempts : List Preempt
  /-- READY tasks whose ring is full: virtual function and handle (R344). -/
  requeue : List (Nat × W64)
  /-- Task queue entries in the order in which they were written: virtual function, queue × 8 + ring, handle (R342). -/
  order : List (Nat × Nat × W64)
  /-- Queues whose first failure has been reported (R344): vf × 16 + queue. -/
  unusable : List Nat
  lastStarted : KMap Nat
  /-- The candidate that has been selected for a core and is not bound yet (R343). -/
  chosen : KMap Cand
  deriving DecidableEq, Repr

/-- A stage-2 fault that firmware holds (R408, R456). -/
structure S2Hold where
  vf : Nat
  ia : Nat
  cause : Cause
  die : Nat
  deriving DecidableEq, Repr

/-- The state of a firmware core (R446, R450). A core is `stuck` when it has trapped in M-mode and its handover path cannot
run: it executes nothing until its heartbeat is found late. -/
inductive FwCore where
  | running
  | inReset
  | halted
  | stuck
  deriving DecidableEq, Repr

/-- The privilege mode of a firmware core (R30, R362). -/
inductive FwMode where
  | machine
  | supervisor
  | user
  deriving DecidableEq, Repr

/-- A loaded policy plug-in: its code, and its 256 KiB of data, in which a byte that is not listed is 0 (R362). -/
structure Plugin where
  id : Nat
  code : List Byte
  data : KMap Byte
  deriving DecidableEq, Repr

/-- A reply through the management mailbox: an attestation report holds the nonce, the digests of the image, of each loaded
plug-in and of the VF configuration, FWC_PKGID and the signature (R364). -/
inductive MailReply where
  | attestation (nonce : BitVec 512) (image : BitVec 512) (plugins : List (BitVec 512)) (config : BitVec 512) (pkgid : W32)
      (signature : Nat × Nat)
  | refused
  | pluginLoaded (plugin : Nat)
  deriving DecidableEq, Repr

/-- A merge of two pages, or a retirement of a frame, between its first and its last step: the pages whose stage-2 entries
have lost W, each with its entry before (R410, R420). `frame` and `spare` name the frames of a retirement. -/
structure MoveWindow where
  merge : Bool
  ia1 : Nat
  ia2 : Nat
  frame : Nat
  spare : Nat
  /-- Virtual function, page and place of each entry, and the entry. -/
  entries : List (Nat × Nat × Nat × Nat)
  deriving DecidableEq, Repr

/-- The firmware complex (R30, R33, R358, R362, R375-R380, R437, R446-R451). -/
structure Fwc where
  pkgid : W32
  errcfg : W64
  erridx : W64
  lostCount : Nat
  sched : W32
  kill : W64
  sift : W32
  cores : List FwCore
  /-- The privilege mode of each core (R362). -/
  modes : List FwMode
  /-- PAs of the journal's two copies, in firmware frames of two dies, and the SEQ of the next entry (R448). -/
  journalAt : List Nat
  journalSeq : Nat
  plugins : List Plugin
  mailbox : List MailReply
  msix : List Nat
  owners : KMap Byte
  /-- Corrected errors of a frame, with the number of the scrub pass in which they were collected (R420). -/
  corrected : KMap (Nat × Nat)
  fwVersion : Nat
  /-- The digest of the verified image, and the sections that the four cores were loaded with (R363, R364). -/
  imageDigest : BitVec 512
  sections : List (List Byte)
  holds : List S2Hold
  /-- Pages that the sifter has merged: virtual function, IA page and shared frame (R410). -/
  merged : List (Nat × Nat × Nat)
  window : Option MoveWindow
  nextKey : Nat
  securityOk : Bool
  /-- When the active scheduler last wrote HBEAT, in ns (R447). -/
  lastBeat : Nat
  deriving DecidableEq, Repr

/-- The event arbiter (R158, R378): the inputs hold each source's events in the order raised. -/
structure Eva where
  inputs : KMap (List Event)
  ptr : Nat
  seq : W64
  stamped : List Stamped
  /-- Corrected errors that each unit has not reported yet (R376). -/
  corrections : KMap Nat
  /-- When each unit last sent a class 0 event of its own, in ns (R376). -/
  reported : KMap Nat
  deriving DecidableEq, Repr

/-! ## Selham -/

/-- A register or predicate that a later clock writes (R284). -/
inductive XTgt where
  | x (phys : Nat)
  | g (phys : Nat)
  deriving DecidableEq, Repr

/-- A pending register result of a cluster: words issued from clock `vis` on read it (R284). -/
structure XPend where
  vis : Nat
  tgt : XTgt
  val : X512
  deriving DecidableEq, Repr

/-- A cluster of a line core (R282, R289). -/
structure Cluster where
  /-- The word's position in the compute stream. -/
  pc : Nat
  x : KMap X512
  g : BitVec 16
  lc : Nat
  ec : Nat
  rbase : Nat
  ended : Bool
  pend : List XPend
  /-- First clocks at which the units are free again (R283). -/
  alu : List Nat
  fma : List Nat
  isu : Nat
  lsp : Nat
  deriving DecidableEq, Repr

/-- What a report of a Selham cause names of the access: its unit number, its ADDR and its INFO (R403). -/
structure SelAt where
  unit : Nat
  addr : W64
  info : W64
  deriving DecidableEq, Repr

/-- A push onto a queue at the end of clock `endClk` (R296, R311, R326). -/
structure QPush where
  endClk : Nat
  q : Nat
  val : X512
  /-- The value rests on an uncorrectable unit (R419). -/
  bad : Bool
  by_ : SelAt
  deriving DecidableEq, Repr

/-- A token push at the end of a clock (R294, R321). -/
structure KPush where
  k : Nat
  val : W32
  by_ : SelAt
  deriving DecidableEq, Repr

/-- A token FIFO: the tokens that have arrived and not been popped, by number, and the numbers whose pop came
first (R295). -/
structure KFifo where
  toks : KMap W32
  pushes : Nat
  pops : Nat
  late : List Nat
  deriving DecidableEq, Repr

/-- A fetch run in flight: the units not yet written (R294, R324). -/
structure FetchRun where
  line : Nat
  addr : Nat
  lso : Nat
  left : List Nat
  tok : Option Nat
  by_ : SelAt
  deriving DecidableEq, Repr

/-- A copy handed to the line copy engine that has not started (R298, R320). -/
structure LineCopy where
  unit : Nat
  dst : Nat
  mode : Nat
  lcrDst : Nat
  issued : Nat
  by_ : SelAt
  deriving DecidableEq, Repr

/-- A started line copy: the first clock at which it may write, what it writes, and where (R298, R300, R320). -/
structure CopyWrite where
  lcr : Nat
  clk : Nat
  dst : Nat
  mode : Nat
  lcrDst : Nat
  val : X512
  by_ : SelAt
  deriving DecidableEq, Repr

/-- A unit of `EMIT` or `STORE` that is due from clock `clk` on (R324). -/
structure StoreUnit where
  line : Nat
  clk : Nat
  emit : Bool
  queue : Option Nat
  unit : Nat
  addr : Nat
  pix : Nat
  by_ : SelAt
  deriving DecidableEq, Repr

/-- A stop cause raised in the present clock (R403). -/
structure SelStop where
  cause : Cause
  by_ : SelAt
  deriving DecidableEq, Repr

/-- The pose record of R303 as 16 words of 32 bits. -/
abbrev PoseRec := List W32

/-- A line core (R282). -/
structure Lcr where
  clusters : List Cluster
  /-- The stages of each stream, and what the clusters drive in this clock: stream, cluster, value (R288). -/
  streams : List (List X512)
  drives : List (Nat × Nat × X512)
  /-- Entries, each with whether it rests on an uncorrectable unit (R419). -/
  queues : List (List (X512 × Bool))
  /-- Entries that each queue held at the start of the clock. -/
  qlen0 : List Nat
  pushes : List QPush
  fifos : List KFifo
  kpushes : List KPush
  store : KMap X512
  /-- Line-store units that read as an uncorrectable error (R419). -/
  storeBad : List Nat
  storePend : List (Nat × X512)
  /-- The three streams in instruction memory (R291). -/
  imem : List W64
  fetchMem : List W64
  storeMem : List W64
  fetchPos : Nat
  storePos : Nat
  runs : List FetchRun
  stores : List StoreUnit
  /-- Pixels on their way into the line FIFO: clock, line, first pixel and values (R324). -/
  pixels : List (Nat × Nat × Nat × X512)
  lcpy : Option LineCopy
  /-- Banks that two clusters access in this clock (R285). -/
  banks : List Nat
  /-- The clock, if any, at which the line copy engine took this core's bank (R324). -/
  bankTaken : Bool
  /-- Number of the line being built in its frame, and in the count of all lines of the head. -/
  line : Nat
  gline : Nat
  startClk : Nat
  building : Bool
  stops : List SelStop
  stopped : Bool
  /-- The arbiter has taken the event of the stop (R444). -/
  reported : Bool
  /-- The line core has ended its part of an ending or replaced launch (R293, R350). -/
  done : Bool
  deriving DecidableEq, Repr

/-- An operation that holds the DME's stream (R325, R326). -/
inductive DmeBusy where
  | idle
  | waitClk (next : Nat)
  | waitLine (lcr : Nat)
  | mma (zero : Bool) (fmt lcr a k w t : Nat) (last : Option Nat) (taken acc : List X512) (bad : Bool) (at_ : SelAt)
  | out (cvt lcr q a t : Nat) (held : List X512) (bad : Bool) (at_ : SelAt)
  deriving DecidableEq, Repr

/-- The display matrix engine (R298). -/
structure Dme where
  words : List (BitVec 16)
  pc : Nat
  stack : List W64
  busy : DmeBusy
  halted : Bool
  stopped : Bool
  reported : Bool
  weights : KMap X512
  accum : KMap X512
  /-- Units of weight and accumulator memory that read as an uncorrectable error (R419). -/
  weightBad : List Nat
  accumBad : List Nat
  /-- Accumulator units that hold the result of an operation on such a unit. -/
  accumTaint : List Nat
  deriving DecidableEq, Repr

/-- The lines of a launch on one head, counted over all of its presented frames (R301, R302, R304, R305). -/
structure Show where
  /-- The number of the start that its frames are counted from (R328, R457). -/
  serial : Nat
  vf : Nat
  /-- The eight words of the head record. -/
  hrec : List W64
  /-- Deadline of line 0 of the first presented frame (R328). -/
  t0 : Nat
  /-- The next line whose schedule starts, and the next to scan out. -/
  nextLine : Nat
  nextScan : Nat
  /-- The lines that FRAMES gives the launch: from there on, lines go out as the reel buffer stores them (R293). -/
  upto : Option Nat
  fifo : KMap (KMap W32)
  /-- Why a line is late: bit 1 a null token, bit 2 a stopped line core or DME (R442), bit 3 a soft error (R419). -/
  late : KMap Nat
  /-- The record that governs a line (R304). -/
  gov : KMap PoseRec
  /-- The reel's read of a line: pixels and record, or none where it failed (R305, R443). -/
  reel : KMap (Option (List W32 × PoseRec))
  /-- Lines of a frame that the reel buffer holds (R305). -/
  reeled : List Nat
  /-- The number sampled for a presented frame (R307). -/
  nums : KMap W32
  deriving DecidableEq, Repr

/-- A display head (R301-R307). -/
structure Head where
  driven : Bool
  show_ : Show
  /-- What is left of the launch before, below the line 0 at which the present one starts (R350). -/
  old : Option (Show × Nat)
  sampled : W32
  prev : Option W32
  /-- Frame numbers to return: from which clock, the predecessor's last line while its fetches may still run, and
  the number (R307). -/
  returns : List (Nat × Option Nat × W32)
  frdy : W32
  frtn : W32
  stat : W32
  lateRun : Bool
  /-- The line last put on the glass, and its pixels. -/
  glass : Nat × List W32
  deriving DecidableEq, Repr

/-- A loaded Selham launch: its queue entry, its block, the streams of each enabled line core and of the DME
(R290-R292, R401). -/
structure SelLoad where
  vf : Nat
  queue : Nat
  index : Nat
  cdone : W64
  block : List W64
  code : KMap (List W64 × List W64 × List W64)
  dme : List (BitVec 16)
  deriving DecidableEq, Repr

/-- Selham (R282-R308). -/
structure Sel where
  running : Bool
  cur : Option SelLoad
  next : Option SelLoad
  /-- A replacement, the end of the last frame or a failure stops the units of the launch (R293, R350, R444). -/
  stopping : Bool
  failing : Option Nat
  /-- The launch stops for a kill (R436). -/
  killed : Bool
  lcrs : KMap Lcr
  dme : Dme
  heads : List Head
  copies : List CopyWrite
  pmbStage : KMap PoseRec
  pmbCommit : KMap PoseRec
  bwres : W32
  rctl : W32
  /-- Clocks of the restarts of the launch's units (R444). -/
  restarts : List Nat
  lastCause : Nat
  /-- The event of R457 that a unit has sent for a presented frame: the start that the frame is counted from, the frame, and the
  unit. -/
  reports : List (Nat × Nat × Nat)
  /-- Starts of the heads so far. -/
  serial : Nat
  deriving DecidableEq, Repr

/-! ## The whole part -/

/-- Which clock domains run (R23, R31, R32). -/
inductive Thermal where
  | running
  | stopped
  | held
  deriving DecidableEq, Repr

/-- An access of the host or a peer to device memory (R354). -/
structure HostAccess where
  port : Nat
  uio : Bool
  write : Bool
  space : HostSpace
  offset : Nat
  data : List Byte
  deriving DecidableEq, Repr

/-- What the part sends on a CXL port (R28, R352-R354): the bytes of a read, empty for one that the completion timeout
ended; the answer to a snoop; the snoop that takes a line of device memory back from the host's caches; bytes that firmware
writes to host memory; and the report of R34. -/
inductive HostMsg where
  | data (port : Nat) (bytes : List Byte)
  /-- What CXL 3.1 prescribes for an absent capability, and a direct access to the HDM of a peer (R352). -/
  | absentCapability (port : Nat)
  | peerAccess (port : Nat) (write : Bool) (range offset : Nat) (bytes : List Byte)
  | snoopMiss (addr : Nat)
  | snoopHit (addr : Nat) (bytes : List Byte) (dirty : Bool)
  | backInvalidate (addr : Nat)
  | hostWrite (addr : Nat) (bytes : List Byte)
  | report (word : W32)
  deriving DecidableEq, Repr

/-- A line of 64 bytes of host memory that the part caches through CXL.cache (R28, R352). -/
structure HostLine where
  addr : Nat
  bytes : List Byte
  dirty : Bool
  deriving DecidableEq, Repr

/-- Clock counts and frequencies (R23, R24, R32, R359), and the CXL ports. -/
structure Clocks where
  compute : Nat
  time : Nat
  fabric : Nat
  selham : Nat
  firmware : Nat
  arithMhz : Nat
  fabMhz : Nat
  thermal : Thermal
  /-- The time of the last thermal stop, in ns. -/
  stopTime : Nat
  /-- Host accesses that wait during a thermal stop (R32). -/
  hostWaits : List HostAccess
  /-- Messages sent on the CXL ports (R353). -/
  hostOut : List HostMsg
  /-- Lines of host memory that the part caches, and lines of device memory that a host's cache may hold (R352). -/
  hostLines : List HostLine
  hostHeld : List Nat
  /-- Bytes written to configuration space, the latest first: function (0 the physical one, v + 1 virtual function v), offset
  and byte; and the number of the key that IDE uses on each protocol (R352). -/
  config : List (Nat × Nat × Byte)
  ideKeys : KMap Nat
  deriving DecidableEq, Repr

/-- An agent that issues a word (R44, R243, R282, R294, R298, R334). -/
inductive Agent where
  | entry (core slot : Nat) (ent : EntId)
  | context (core ctx : Nat)
  | dme
  | cluster (lcr clu : Nat)
  | fetchEngine (lcr : Nat)
  | storeEngine (lcr : Nat)
  | queue (q : Nat)
  /-- The issue of Selham's units in the present Selham clock. -/
  | selIssue
  /-- The issue of a core's quarters in the present compute clock (R51). -/
  | coreIssue (core : Nat)
  /-- The end of a debugger's step of a group (R384). -/
  | stepEnd (core slot : Nat)
  deriving DecidableEq, Repr

/-- A word of 8 bytes that a store has replaced: the launches numbered below `before` were accepted before the store (R163). -/
structure OldWord where
  word : Nat
  value : W64
  before : Nat
  deriving DecidableEq, Repr

/-- The state of the part. -/
structure State where
  clk : Clocks
  booted : Bool
  /-- Device memory by PA; an address that is not listed reads 0 (DESIGN CHOICE, log 1). -/
  mem : List Host.Cell
  poison : List Nat
  /-- Frames whose key has been erased and that firmware has not scrubbed (R355). -/
  noise : List Nat
  /-- Values that stores have replaced, and that a fetch of an earlier launch may still give (R163). -/
  oldCode : List OldWord
  codecBusy : List Nat
  /-- Lines in exclusive L1 ownership: line, core, atomics left after a request (R150). -/
  l1own : KMap (Nat × Nat)
  cores : KMap Core
  dies : KMap Die
  dlinks : List LinkDir
  vfs : KMap Vf
  dist : Dist
  fwc : Fwc
  eva : Eva
  sel : Sel
  inbox : List Instr
  agenda : List Agent
  /-- The agent whose word `exec` executes. -/
  turn : Option Agent
  /-- The MODEL's own counters for free choices and free values. -/
  choices : Nat
  frees : Nat
  deriving DecidableEq, Repr

/-! ## Reset -/

/-- A quarter after reset: QTR_SCHED holds QUANTUM 0x10 and SWAPTHR 0x40 (R52). -/
def Quarter.reset : Quarter :=
  { sched := 0x00010040, active := [], deficit := [], ptr := none, monitors := [] }

/-- A core after reset: SPILLWAIT 0x0400 (R67), nothing resident. -/
def Core.reset : Core :=
  { usable := true, lastVf := none, regsPart := 16, accsPart := 0, eseCtl := 0x00000400, dbg := 0,
    quarters := [Quarter.reset, Quarter.reset, Quarter.reset, Quarter.reset],
    groups := [], wgs := [], nextWg := 0, frames := [], nextFrame := 0, allocs := [], lastFree := 0,
    scratch := [], bstore := [], acc := [], accPoison := [], scratchPoison := [], bstorePoison := [],
    traps := [], trapRegs := [], trapPoison := [], spills := [], nextSpill := 0, chans := [],
    copy16s := [], rings := [], ctxs := [], seqPtr := 0, launchQ := [], draining := [], outs := [],
    nextId := 0, poisonLoads := [], bankWrites := 0, latched := [], tlb := [], l1 := [], atoms := [] }

/-- An empty slice. -/
def Slice.reset : Slice :=
  { inq := [], misses := [], side := [], wbs := [], lines := [], adds := [], seqs := [], merges := [] }

/-- A die after reset (R86, R87, R271, R279, R420, R422). -/
def Die.reset : Die :=
  { pway := 0, vfway := [], wmstat := 0, seqto := 0x00010000, fabCtl := 0x00003001,
    memcScrub := 0x00180041, slices := [], flits := [], links := [], tlb := [],
    vec := [0, 0, 0, 0, 0], recv := [0, 0, 0, 0, 0], sent := [0, 0, 0, 0, 0], sentAt := [0, 0, 0, 0, 0], unapplied := [],
    signals := [], heldMsgs := [], tqc := [],
    lost := false }

/-- The table of a die-link direction after link reset: entry 1 all ones, the others 0 (R272). -/
def linkTableReset : List W32 :=
  0 :: 0xFFFFFFFF :: List.replicate 62 0

/-- A die-link direction after link reset (R272, R273). -/
def LinkDir.reset (src dst : Nat) : LinkDir :=
  { src := src, dst := dst, sendTable := linkTableReset, recvTable := linkTableReset, sendPend := [],
    recvPend := [], sendSeq := 0, recvSeq := 0, replay := [], wire := [], queue := [], lastAck := 0, resends := 0, nak := false, down := false }

/-- The eight die links of R17 in both directions: link i is at positions 2i and 2i + 1. -/
def dieLinksReset : List LinkDir :=
  [LinkDir.reset 0 1, LinkDir.reset 1 0, LinkDir.reset 0 2, LinkDir.reset 2 0,
   LinkDir.reset 1 3, LinkDir.reset 3 1, LinkDir.reset 2 3, LinkDir.reset 3 2,
   LinkDir.reset 0 4, LinkDir.reset 4 0, LinkDir.reset 1 4, LinkDir.reset 4 1,
   LinkDir.reset 2 4, LinkDir.reset 4 2, LinkDir.reset 3 4, LinkDir.reset 4 3]

/-- A VF configuration that names no virtual function (R356). -/
def VfCfgWords.zero : VfCfgWords :=
  { w00 := 0, w08 := 0, w10 := 0, w18 := 0, w20 := 0, w28 := 0, w30 := 0 }

/-- A virtual function that has not been created. -/
def Vf.reset : Vf :=
  { cfg := VfCfgWords.zero, root1 := none, root2 := none, key := none, ranges := [], allowance := [], taken := [],
    mmio := [], hpol := 0, perf := [0, 0, 0, 0, 0, 0, 0, 0], nbase := 0, nctl := 0, nstat := 0 }

/-- The distributor after reset (R338, R439). -/
def Dist.reset : Dist :=
  { kick := [], pto := 0x00002710, queues := [], launches := [], nextLaunch := 0, handed := [],
    completions := [], preempts := [], requeue := [], order := [], unusable := [], lastStarted := [], chosen := [] }

/-- The firmware complex after reset: no core runs before the boot ROM has checked the image (R33, R363, R377, R437, R447, R361). -/
def Fwc.reset : Fwc :=
  { pkgid := 0x9602F830, errcfg := 0, erridx := 0, lostCount := 0, sched := 0x000A0000, kill := 0,
    sift := 0x10000000, cores := [.inReset, .inReset, .inReset, .inReset]
    modes := [.machine, .machine, .machine, .machine], journalAt := [0x11FFF00000, 0x111FFF00000], journalSeq := 0, plugins := [], mailbox := [], msix := [], owners := [], corrected := [],
    fwVersion := 0, imageDigest := 0, sections := [], holds := [], merged := [], window := none, nextKey := 0, securityOk := true, lastBeat := 0 }

/-- The event arbiter after reset. -/
def Eva.reset : Eva := { inputs := [], ptr := 0, seq := 0, stamped := [], corrections := [], reported := [] }

/-- A cluster with every register 0 (R444). -/
def Cluster.reset : Cluster :=
  { pc := 0, x := [], g := 0, lc := 0, ec := 0, rbase := 0, ended := true, pend := [],
    alu := [0, 0], fma := [0, 0], isu := 0, lsp := 0 }

/-- A line core that takes no part. -/
def Lcr.reset : Lcr :=
  { clusters := [Cluster.reset, Cluster.reset, Cluster.reset, Cluster.reset],
    streams := List.replicate 8 [0, 0, 0, 0], drives := [], queues := List.replicate 8 [],
    qlen0 := List.replicate 8 0, pushes := [],
    fifos := List.replicate 8 { toks := [], pushes := 0, pops := 0, late := [] }, kpushes := [],
    store := [], storeBad := [], storePend := [], imem := [], fetchMem := [], storeMem := [], fetchPos := 0,
    storePos := 0, runs := [], stores := [], pixels := [], lcpy := none, banks := [], bankTaken := false, line := 0,
    gline := 0, startClk := 0, building := false, stops := [], stopped := false, reported := false, done := false }

/-- The DME without a launch. -/
def Dme.reset : Dme :=
  { words := [], pc := 0, stack := [], busy := .idle, halted := true, stopped := false, reported := false,
    weights := [], accum := [], weightBad := [], accumBad := [], accumTaint := [] }

/-- No lines to show. -/
def Show.blank : Show :=
  { serial := 0, vf := 0, hrec := List.replicate 8 0, t0 := 0, nextLine := 0, nextScan := 0, upto := none, fifo := [], late := []
    gov := [], reel := [], reeled := [], nums := [] }

/-- A head that is not driven. -/
def Head.reset : Head :=
  { driven := false, show_ := Show.blank, old := none, sampled := 0, prev := none, returns := [], frdy := 0
    frtn := 0, stat := 0, lateRun := false, glass := (0, []) }

/-- Selham after reset (R306-R308, R444). -/
def Sel.reset : Sel :=
  { running := false, cur := none, next := none, stopping := false, failing := none, killed := false, lcrs := [], dme := Dme.reset,
    heads := [Head.reset, Head.reset, Head.reset, Head.reset], copies := [], pmbStage := [], pmbCommit := [],
    bwres := 0, rctl := 0x00000800, restarts := [], lastCause := 0, reports := [], serial := 0 }

/-- The clocks at full rate (R23), counts 0. -/
def Clocks.reset : Clocks :=
  { compute := 0, time := 0, fabric := 0, selham := 0, firmware := 0, arithMhz := 3600, fabMhz := 2400,
    thermal := .running, stopTime := 0, hostWaits := [], hostOut := [],
    hostLines := [], hostHeld := [], config := [], ideKeys := [] }

/-- The part right after reset: memory with nothing listed, no work, and every register at the value
the manual states (DESIGN CHOICE, log 2 for those it states none for; log 5 for how work comes to run). -/
def State.reset : State :=
  { clk := Clocks.reset, booted := false, mem := [], poison := [], noise := [], oldCode := [], codecBusy := [], l1own := [],
    cores := [], dies := [], dlinks := dieLinksReset, vfs := [], dist := Dist.reset, fwc := Fwc.reset,
    eva := Eva.reset, sel := Sel.reset, inbox := [], agenda := [], turn := none, choices := 0, frees := 0 }

end Sys2Proof.Machine
end

