-- ==== Sys2Proof/Machine/KMap.lean ====
section
/-! DEFINITION. Sparse tables and lists: reading, writing and removing an entry. -/

namespace Sys2Proof.Machine

/-- The entry of key `k`. -/
def KMap.get? {α : Type} : KMap α → Nat → Option α
  | [], _ => none
  | (k', v) :: t, k => if k' = k then some v else KMap.get? t k

/-- The entry of key `k`, or the default `d`. -/
def KMap.getD {α : Type} (m : KMap α) (k : Nat) (d : α) : α :=
  (KMap.get? m k).getD d

/-- Key `k` holds `v`; the keys stay in rising order. -/
def KMap.put {α : Type} : KMap α → Nat → α → KMap α
  | [], k, v => [(k, v)]
  | (k', v') :: t, k, v =>
    if k < k' then (k, v) :: (k', v') :: t
    else if k' = k then (k, v) :: t
    else (k', v') :: KMap.put t k v

/-- No entry of key `k`. -/
def KMap.del {α : Type} : KMap α → Nat → KMap α
  | [], _ => []
  | (k', v') :: t, k => if k' = k then KMap.del t k else (k', v') :: KMap.del t k

/-- Key `k` holds `v`, where a value equal to the default is not listed. -/
def KMap.putD {α : Type} [DecidableEq α] (m : KMap α) (k : Nat) (v d : α) : KMap α :=
  if v = d then KMap.del m k else KMap.put m k v

/-- The keys are strictly rising and above `lo`. -/
def KMap.risingFrom {α : Type} : Nat → KMap α → Bool
  | _, [] => true
  | lo, (k, _) :: t => decide (lo ≤ k) && KMap.risingFrom (k + 1) t

/-- The canonical form of a table with default `d`. -/
def KMap.canon {α : Type} [DecidableEq α] (m : KMap α) (d : α) : Bool :=
  KMap.risingFrom 0 m && m.all (fun e => decide (e.2 ≠ d))

/-- Position `i` of a list holds `v`; a position past the end changes nothing. -/
def setAt {α : Type} : List α → Nat → α → List α
  | [], _, _ => []
  | _ :: t, 0, v => v :: t
  | h :: t, i + 1, v => h :: setAt t i v

/-- The element at position `i`, or the default. -/
def getAt {α : Type} (l : List α) (i : Nat) (d : α) : α :=
  (l[i]?).getD d

/-- The smallest number of `0 .. n - 1` that meets `p`. -/
def firstBelow (n : Nat) (p : Nat → Bool) : Option Nat :=
  (List.range n).find? p

end Sys2Proof.Machine
end

