-- ==== Sys2Proof/Machine/Bits.lean ====
section
/-! DEFINITION. Bit fields, lanes and byte order (R4, R5, R11). -/

namespace Sys2Proof.Machine

/-- Bits [hi:lo] of a value as a number (R4). -/
def bits (x hi lo : Nat) : Nat := (x >>> lo) % 2 ^ (hi + 1 - lo)

/-- Bit n of a value. -/
def bit (x n : Nat) : Bool := x.testBit n

/-- The n-bit field x read as two's complement (R14). -/
def signExt (x n : Nat) : Int :=
  if n = 0 then 0 else if x % 2 ^ n < 2 ^ (n - 1) then ((x % 2 ^ n : Nat) : Int) else ((x % 2 ^ n : Nat) : Int) - 2 ^ n

/-- An exact integer narrowed to n bits (R13). -/
def narrow (x : Int) (n : Nat) : Nat := (x % (2 ^ n : Int)).toNat

/-- Lane i of a vector register (R11). -/
def lane (r : Reg) (i : Nat) : W32 := r.extractLsb' (32 * i) 32

/-- The register whose lane i is `f i`. -/
def mkReg (f : Nat → W32) : Reg :=
  f 7 ++ f 6 ++ f 5 ++ f 4 ++ f 3 ++ f 2 ++ f 1 ++ f 0

/-- The lanes of `m` from `new`, the others from `old` (R161). -/
def mergeReg (m : Mask) (old new : Reg) : Reg :=
  mkReg fun i => if m.getLsbD i then lane new i else lane old i

/-- The same value in every lane. -/
def splat (w : W32) : Reg := mkReg fun _ => w

/-- A 64-bit value from a pair: vN holds bits [31:0] (R11). -/
def pair (lo hi : W32) : W64 := hi ++ lo

/-- Bits [31:0] and [63:32] of a 64-bit value. -/
def lo32 (x : W64) : W32 := x.extractLsb' 0 32
def hi32 (x : W64) : W32 := x.extractLsb' 32 32

/-- The lanes of a mask in ascending order. -/
def lanesOf (m : Mask) : List Nat := (List.range 8).filter fun i => m.getLsbD i

/-- The mask with exactly the lanes for which `p` holds. -/
def maskOf (p : Nat → Bool) : Mask :=
  BitVec.ofNat 8 (((List.range 8).filter p).foldl (fun a i => a + 2 ^ i) 0)

/-- The lowest-numbered lane of a mask, 0 for the empty one (R219). -/
def lowLane (m : Mask) : Nat := ((lanesOf m).head?).getD 0

/-- The number of lanes of a mask. -/
def countLanes (m : Mask) : Nat := (lanesOf m).length

/-- Lane i (0 to 15) of a Selham register (R282). -/
def xlane (r : X512) (i : Nat) : W32 := r.extractLsb' (32 * i) 32

/-- A Selham register from its lanes. -/
def mkX (f : Nat → W32) : X512 :=
  BitVec.ofNat 512 ((List.range 16).foldr (fun i a => a + (f i).toNat * 2 ^ (32 * i)) 0)

/-- The same value in all 16 lanes. -/
def splatX (w : W32) : X512 := mkX fun _ => w

/-- The number whose bytes, least significant first, are the list (R5). -/
def leNat : List Byte → Nat
  | [] => 0
  | b :: t => b.toNat + 256 * leNat t

/-- The n bytes of a number, least significant first (R5). -/
def leBytes : Nat → Nat → List Byte
  | 0, _ => []
  | n + 1, x => BitVec.ofNat 8 x :: leBytes n (x / 256)

/-- The number of one bits of x below bit n. -/
def popcount (n x : Nat) : Nat := ((List.range n).filter fun i => x.testBit i).length

/-- Leading zeros of the n-bit field x; n for 0 (R182). -/
def clz (n x : Nat) : Nat := if x = 0 then n else n - 1 - Nat.log2 x

/-- Trailing zeros of the n-bit field x; n for 0 (R182). -/
def ctz (n x : Nat) : Nat := (firstBelow n fun i => x.testBit i).getD n

/-- The number whose bit i is `f i`, for i below n. -/
def ofBits (n : Nat) (f : Nat → Bool) : Nat :=
  ((List.range n).filter f).foldl (fun a i => a + 2 ^ i) 0

/-- CRC step: polynomial `poly` of width w, most significant bit first, one byte. -/
def crcByte (w poly crc : Nat) (b : Nat) : Nat :=
  (List.range 8).foldl
    (fun c i =>
      let top := (c >>> (w - 1)) % 2
      let inb := (b >>> (7 - i)) % 2
      let sh := (c * 2) % 2 ^ w
      if top = inb then sh else sh ^^^ poly)
    crc

/-- CRC-16 of R96: polynomial 0x1021, initial value 0xFFFF, no reflection, no final XOR. -/
def crc16 (bs : List Byte) : Nat := bs.foldl (fun c b => crcByte 16 0x1021 c b.toNat) 0xFFFF

/-- CRC-32 with the polynomial 0x04C1_1DB7 of R273 (initial value and order: DESIGN CHOICE, log 11). -/
def crc32 (bs : List Byte) : Nat := bs.foldl (fun c b => crcByte 32 0x04C11DB7 c b.toNat) 0xFFFFFFFF

end Sys2Proof.Machine
end

