-- ==== Sys2Proof/Machine/Float.lean ====
section
/-! DEFINITION. The IEEE formats and their arithmetic (R119-R123, R135-R137): exact dyadic values,
one rounding at the end. -/

namespace Sys2Proof.Machine

/-- A binary format: exponent bits and fraction bits (R119). -/
structure FFmt where
  eb : Nat
  mb : Nat
  deriving DecidableEq, Repr

def f64 : FFmt := { eb := 11, mb := 52 }
def f32 : FFmt := { eb := 8, mb := 23 }
def f16 : FFmt := { eb := 5, mb := 10 }
def bf16 : FFmt := { eb := 8, mb := 7 }

/-- The bias of R119. -/
def FFmt.bias (f : FFmt) : Nat := 2 ^ (f.eb - 1) - 1
/-- The width of the format in bits. -/
def FFmt.width (f : FFmt) : Nat := 1 + f.eb + f.mb
/-- The encoding of +∞, which is also one above the largest finite magnitude. -/
def FFmt.inf (f : FFmt) : Nat := (2 ^ f.eb - 1) * 2 ^ f.mb
/-- The sign bit. -/
def FFmt.signBit (f : FFmt) : Nat := 2 ^ (f.eb + f.mb)
/-- The default NaN of R119. -/
def FFmt.defNan (f : FFmt) : Nat := f.inf + 2 ^ (f.mb - 1)

/-- The rounding modes of R120. -/
inductive Rm where
  | rn
  | rz
  | ru
  | rd
  deriving DecidableEq, Repr

/-- An exact value m · 2^e. -/
structure Dy where
  m : Int
  e : Int
  deriving DecidableEq, Repr

def fneg (f : FFmt) (x : Nat) : Bool := decide (f.signBit ≤ x % 2 ^ f.width)
def fmag (f : FFmt) (x : Nat) : Nat := x % f.signBit
def fIsNan (f : FFmt) (x : Nat) : Bool := decide (f.inf < fmag f x)
def fIsInf (f : FFmt) (x : Nat) : Bool := decide (fmag f x = f.inf)
def fIsZero (f : FFmt) (x : Nat) : Bool := decide (fmag f x = 0)
/-- A NaN is signalling when its top fraction bit is 0 (R119). -/
def fIsSnan (f : FFmt) (x : Nat) : Bool := fIsNan f x && !x.testBit (f.mb - 1)
/-- A NaN with its quiet bit set. -/
def fQuiet (f : FFmt) (x : Nat) : Nat := x ||| 2 ^ (f.mb - 1)
/-- Inverts the sign bit (R197). -/
def fFlip (f : FFmt) (x : Nat) : Nat := x ^^^ f.signBit
/-- A magnitude with a sign. -/
def fSigned (f : FFmt) (neg : Bool) (mag : Nat) : Nat := if neg then f.signBit + mag else mag

/-- The exact value of a finite encoding; subnormals at their value (R121). -/
def fVal (f : FFmt) (x : Nat) : Dy :=
  let mag := fmag f x
  let ex := mag / 2 ^ f.mb
  let fr := mag % 2 ^ f.mb
  let m : Nat := if ex = 0 then fr else fr + 2 ^ f.mb
  let e : Int := (if ex = 0 then 1 else (ex : Int)) - f.bias - f.mb
  { m := if fneg f x then -(m : Int) else m, e := e }

def Dy.mul (a b : Dy) : Dy := { m := a.m * b.m, e := a.e + b.e }
def Dy.add (a b : Dy) : Dy :=
  if a.e ≤ b.e then { m := a.m + b.m * 2 ^ (b.e - a.e).toNat, e := a.e }
  else { m := a.m * 2 ^ (a.e - b.e).toNat + b.m, e := b.e }
def Dy.neg (a : Dy) : Dy := { m := -a.m, e := a.e }
def Dy.sub (a b : Dy) : Dy := a.add b.neg
/-- a < b, a ≤ b for exact values. -/
def Dy.lt (a b : Dy) : Bool := decide ((a.sub b).m < 0)
def Dy.le (a b : Dy) : Bool := decide ((a.sub b).m ≤ 0)
def Dy.ofInt (i : Int) : Dy := { m := i, e := 0 }
/-- The largest integer at most the value. -/
def Dy.floor (a : Dy) : Int :=
  if 0 ≤ a.e then a.m * 2 ^ a.e.toNat else a.m / 2 ^ (-a.e).toNat
/-- floor(log2 |a|) of a value that is not 0. -/
def Dy.log2 (a : Dy) : Int := (Nat.log2 a.m.natAbs : Int) + a.e

/-- What rounding reports. -/
structure Rounded where
  bits : Nat
  overflow : Bool
  deriving DecidableEq, Repr

/-- Whether the mode rounds a magnitude up, from the sign, the last kept bit, and the discarded part
against one half. -/
def roundsUp (rm : Rm) (neg odd : Bool) (rem half : Nat) : Bool :=
  match rm with
  | .rn => decide (half < rem) || (decide (rem = half) && odd)
  | .rz => false
  | .ru => !neg && decide (0 < rem)
  | .rd => neg && decide (0 < rem)

/-- m · 2^e, m > 0, rounded to the format (R121): subnormals kept, overflow as IEEE 754-2019 gives it. -/
def roundMag (f : FFmt) (rm : Rm) (neg : Bool) (m : Nat) (e : Int) : Rounded :=
  let emin : Int := 1 - (f.bias : Int)
  let top : Int := (Nat.log2 m : Int) + e
  let q : Int := (if top < emin then emin else top) - f.mb
  let big : Nat :=
    if q ≤ e then m * 2 ^ (e - q).toNat
    else
      let sh := (q - e).toNat
      let keep := m >>> sh
      if roundsUp rm neg (keep.testBit 0) (m % 2 ^ sh) (2 ^ (sh - 1)) then keep + 1 else keep
  let mag := (q - (emin - f.mb)).toNat * 2 ^ f.mb + big
  if mag < f.inf then { bits := fSigned f neg mag, overflow := false }
  else
    let toInf := match rm with
      | .rn => true
      | .rz => false
      | .ru => !neg
      | .rd => neg
    { bits := fSigned f neg (if toInf then f.inf else f.inf - 1), overflow := true }

/-- An exact value rounded to the format; `zneg` is the sign of an exact zero. -/
def roundDy (f : FFmt) (rm : Rm) (zneg : Bool) (x : Dy) : Rounded :=
  if x.m = 0 then { bits := fSigned f zneg 0, overflow := false }
  else roundMag f rm (decide (x.m < 0)) x.m.natAbs x.e

/-- num / den · 2^e rounded, by a quotient with enough bits and a sticky bit. -/
def roundRat (f : FFmt) (rm : Rm) (neg : Bool) (num den : Nat) (e : Int) : Rounded :=
  if num = 0 then { bits := fSigned f neg 0, overflow := false }
  else
    let k : Int := (f.mb + 4 : Int) + Nat.log2 den - Nat.log2 num
    let k' : Nat := k.toNat
    let n := num * 2 ^ k'
    let q := n / den
    let sticky := if n % den = 0 then 0 else 1
    roundMag f rm neg (2 * q + sticky) (e - k' - 1)

/-- An exact value rounded to an integer under a mode. -/
def roundInt (rm : Rm) (x : Dy) : Int :=
  if 0 ≤ x.e then x.m * 2 ^ x.e.toNat
  else
    let sh := (-x.e).toNat
    let mag := x.m.natAbs
    let keep := mag >>> sh
    let neg := decide (x.m < 0)
    let r := if roundsUp rm neg (keep.testBit 0) (mag % 2 ^ sh) (2 ^ (sh - 1)) then keep + 1 else keep
    if neg then -(r : Int) else r

/-- A result with the exceptions it raises (R123). -/
structure FRes where
  bits : Nat
  invalid : Bool
  divZero : Bool
  overflow : Bool
  deriving DecidableEq, Repr

def FRes.plain (b : Nat) : FRes := { bits := b, invalid := false, divZero := false, overflow := false }
def FRes.inval (b : Nat) : FRes := { bits := b, invalid := true, divZero := false, overflow := false }
def FRes.ofRounded (r : Rounded) : FRes :=
  { bits := r.bits, invalid := false, divZero := false, overflow := r.overflow }

/-- A NaN converted to another format (R122): sign kept, fraction cut or padded, quiet bit set. -/
def nanTo (src dst : FFmt) (x : Nat) : Nat :=
  let fr := fmag src x % 2 ^ src.mb
  let fr' := if dst.mb ≤ src.mb then fr >>> (src.mb - dst.mb) else fr <<< (dst.mb - src.mb)
  fSigned dst (fneg src x) ((dst.inf + fr') ||| 2 ^ (dst.mb - 1))

/-- The first NaN of the operands, quieted, with invalid raised by a signalling one (R122, R199). -/
def nanResult (f : FFmt) (ops : List Nat) : Option FRes :=
  match ops.find? (fIsNan f) with
  | none => none
  | some x => some { bits := fQuiet f x, invalid := ops.any (fIsSnan f), divZero := false, overflow := false }

/-- The sign of an exact zero sum of two values (IEEE 754-2019): both negative, or toward −∞. -/
def zeroSumSign (rm : Rm) (n1 n2 : Bool) : Bool :=
  if n1 = n2 then n1 else decide (rm = .rd)

/-- a + b (R199). -/
def fAdd (f : FFmt) (rm : Rm) (a b : Nat) : FRes :=
  match nanResult f [a, b] with
  | some r => r
  | none =>
    if fIsInf f a then
      if fIsInf f b && (fneg f a != fneg f b) then FRes.inval f.defNan else FRes.plain (a % 2 ^ f.width)
    else if fIsInf f b then FRes.plain (b % 2 ^ f.width)
    else FRes.ofRounded (roundDy f rm (zeroSumSign rm (fneg f a) (fneg f b)) ((fVal f a).add (fVal f b)))

/-- a − b (R199). -/
def fSub (f : FFmt) (rm : Rm) (a b : Nat) : FRes :=
  match nanResult f [a, b] with
  | some r => r
  | none => fAdd f rm a (fFlip f b)

/-- a × b (R199). -/
def fMul (f : FFmt) (rm : Rm) (a b : Nat) : FRes :=
  match nanResult f [a, b] with
  | some r => r
  | none =>
    let neg := fneg f a != fneg f b
    if fIsInf f a || fIsInf f b then
      if fIsZero f a || fIsZero f b then FRes.inval f.defNan else FRes.plain (fSigned f neg f.inf)
    else FRes.ofRounded (roundDy f rm neg ((fVal f a).mul (fVal f b)))

/-- a × b + c with one rounding (R199). -/
def fFma (f : FFmt) (rm : Rm) (a b c : Nat) : FRes :=
  match nanResult f [a, b, c] with
  | some r => r
  | none =>
    let neg := fneg f a != fneg f b
    if fIsInf f a || fIsInf f b then
      if fIsZero f a || fIsZero f b then FRes.inval f.defNan
      else if fIsInf f c && (fneg f c != neg) then FRes.inval f.defNan
      else FRes.plain (fSigned f neg f.inf)
    else if fIsInf f c then FRes.plain (c % 2 ^ f.width)
    else FRes.ofRounded
      (roundDy f rm (zeroSumSign rm neg (fneg f c)) (((fVal f a).mul (fVal f b)).add (fVal f c)))

/-- The order of two non-NaN values with −0 below +0: a before b or equal (R200). -/
def fBefore (f : FFmt) (a b : Nat) : Bool :=
  let key (x : Nat) : Int := if fneg f x then -(fmag f x : Int) - 1 else fmag f x
  decide (key a ≤ key b)

/-- The smaller or larger operand (R200). -/
def fMinMax (f : FFmt) (max : Bool) (a b : Nat) : FRes :=
  let inv := fIsSnan f a || fIsSnan f b
  let r :=
    if fIsNan f a then (if fIsNan f b then fQuiet f a else b)
    else if fIsNan f b then a
    else if fBefore f a b = !max then a else b
  { bits := r % 2 ^ f.width, invalid := inv, divZero := false, overflow := false }

/-- The numeric order of two values: infinities included, neither a NaN. -/
def fLt (f : FFmt) (a b : Nat) : Bool :=
  let key (x : Nat) : Int := if fneg f x then -(fmag f x : Int) else fmag f x
  decide (key a < key b)

/-- The comparison of code cc (R201), and whether it raises invalid. -/
def fCompare (f : FFmt) (cc a b : Nat) : Bool × Bool :=
  let nan := fIsNan f a || fIsNan f b
  let snan := fIsSnan f a || fIsSnan f b
  let lt := fLt f a b
  let gt := fLt f b a
  let eq := !lt && !gt
  match cc with
  | 0 => (!nan && eq, snan)
  | 1 => (nan || !eq, snan)
  | 2 => (!nan && lt, nan)
  | 3 => (!nan && (lt || eq), nan)
  | 4 => (!nan && gt, nan)
  | 5 => (!nan && (gt || eq), nan)
  | 6 => (!nan, snan)
  | _ => (nan, snan)

/-- Rounds to an integral value of the same format (R202). -/
def fRnd (f : FFmt) (rm : Rm) (a : Nat) : FRes :=
  match nanResult f [a] with
  | some r => r
  | none =>
    if fIsInf f a || fIsZero f a then FRes.plain (a % 2 ^ f.width)
    else FRes.ofRounded (roundDy f rm (fneg f a) (Dy.ofInt (roundInt rm (fVal f a))))

/-- Float to float (R204, R122). -/
def fConv (src dst : FFmt) (rm : Rm) (a : Nat) : FRes :=
  if fIsNan src a then { bits := nanTo src dst a, invalid := fIsSnan src a, divZero := false, overflow := false }
  else if fIsInf src a then FRes.plain (fSigned dst (fneg src a) dst.inf)
  else FRes.ofRounded (roundDy dst rm (fneg src a) (fVal src a))

/-- Float to an n-bit integer (R135). -/
def fToInt (src : FFmt) (rm : Rm) (signed : Bool) (n a : Nat) : FRes :=
  let lo : Int := if signed then -(2 ^ (n - 1)) else 0
  let hi : Int := if signed then 2 ^ (n - 1) - 1 else 2 ^ n - 1
  if fIsNan src a then FRes.inval 0
  else if fIsInf src a then FRes.inval (narrow (if fneg src a then lo else hi) n)
  else
    let r := roundInt rm (fVal src a)
    if r < lo then FRes.inval (narrow lo n)
    else if hi < r then FRes.inval (narrow hi n)
    else FRes.plain (narrow r n)

/-- Integer to float (R204, R135). -/
def intToF (dst : FFmt) (rm : Rm) (i : Int) : FRes :=
  FRes.ofRounded (roundDy dst rm false (Dy.ofInt i))

/-- A weighted or matrix sum in the manner of R208's dot forms and R216: products exact, one rounding. -/
def sumIsInvalid (f : FFmt) (ps : List (Nat × Nat)) : Bool :=
  ps.any (fun p => (fIsInf f p.1 && fIsZero f p.2) || (fIsZero f p.1 && fIsInf f p.2))

/-- The integer square root by bits, from bit `n` down. -/
def isqrtFrom : Nat → Nat → Nat → Nat
  | 0, _, r => r
  | n + 1, x, r =>
    let c := r + 2 ^ n
    isqrtFrom n x (if c * c ≤ x then c else r)

/-- floor of the square root. -/
def isqrt (x : Nat) : Nat := isqrtFrom (Nat.log2 x / 2 + 1) x 0

/-- The square root, correctly rounded (R136, R137). -/
def fSqrt (f : FFmt) (rm : Rm) (a : Nat) : FRes :=
  match nanResult f [a] with
  | some r => r
  | none =>
    if fIsZero f a then FRes.plain (a % 2 ^ f.width)
    else if fneg f a then FRes.inval f.defNan
    else if fIsInf f a then FRes.plain f.inf
    else
      let v := fVal f a
      let k := 2 * (f.mb + 3)
      let e := v.e - k
      let (m, e') := if e % 2 = 0 then (v.m.natAbs * 2 ^ k, e) else (v.m.natAbs * 2 ^ (k + 1), e - 1)
      let s := isqrt m
      let sticky := if s * s = m then 0 else 1
      FRes.ofRounded (roundMag f rm false (2 * s + sticky) (e' / 2 - 1))

/-- The encodings within `d` steps of `r`, zero and finite values of the sign of `r` only. -/
def near (f : FFmt) (r d : Nat) : List Nat :=
  ((List.range (2 * d + 1)).map fun i => r + i - d).filter fun y =>
    decide (fmag f y < f.inf) && (fneg f y == fneg f r)

/-- One unit in the last place at the magnitude of `y`: for a bound of R136 that of the exact result, cut to the format
(DESIGN CHOICE, log 6). -/
def ulp (f : FFmt) (y : Nat) : Dy :=
  let ex := fmag f y / 2 ^ f.mb
  { m := 1, e := (if ex = 0 then 1 else (ex : Int)) - f.bias - f.mb }

/-- A free choice from the encodings that meet a bound; the first stands when none is chosen otherwise. -/
def pick (op : Nat) (f : FFmt) (a dflt : Nat) (ys : List Nat) : Nat :=
  getAt ys (Config.sfuBits op f.width a % ys.length) dflt

/-- `FRCP`: any value within 1 ulp of 1 / a (R136), the special inputs of R137 (DESIGN CHOICE, log 6). -/
def fRcp (f : FFmt) (a : Nat) : FRes :=
  match nanResult f [a] with
  | some r => r
  | none =>
    let neg := fneg f a
    if fIsZero f a then { bits := fSigned f neg f.inf, invalid := false, divZero := true, overflow := false }
    else if fIsInf f a then FRes.plain (fSigned f neg 0)
    else
      let v := fVal f a
      let m := v.m.natAbs
      let r := roundRat f .rn neg 1 m (-v.e)
      if r.overflow then FRes.ofRounded r
      else
        let x : Dy := { m := m, e := v.e }
        let u := ulp f (roundRat f .rz neg 1 m (-v.e)).bits
        let ok (y : Nat) : Bool :=
          let yv := fVal f (fmag f y)
          let err := (yv.mul x).sub (Dy.ofInt 1)
          ({ err with m := (err.m.natAbs : Int) } : Dy).le (u.mul x)
        FRes.plain (pick 0 f a r.bits ((near f r.bits 1).filter ok))

/-- `FRSQ`: any value within 2 ulp of 1 / √a (R136), the special inputs of R137 (DESIGN CHOICE, log 6). -/
def fRsq (f : FFmt) (a : Nat) : FRes :=
  match nanResult f [a] with
  | some r => r
  | none =>
    if fIsZero f a then
      { bits := fSigned f (fneg f a) f.inf, invalid := false, divZero := true, overflow := false }
    else if fneg f a then FRes.inval f.defNan
    else if fIsInf f a then FRes.plain 0
    else
      let v := fVal f a
      let m := v.m.natAbs
      let (m', e') := if v.e % 2 = 0 then (m, v.e) else (2 * m, v.e - 1)
      let k := 2 * (f.mb + 4) + 2 * (Nat.log2 m' + 1)
      let s := isqrt (2 ^ k / m')
      let r := roundMag f .rn false (2 * s + 1) (-(e' / 2) - (k / 2 : Nat) - 1)
      let x : Dy := { m := m, e := v.e }
      let u := ulp f (roundMag f .rz false (2 * s + 1) (-(e' / 2) - (k / 2 : Nat) - 1)).bits
      let ok (y : Nat) : Bool :=
        let yv := fVal f y
        let lo := yv.sub (u.add u)
        let hi := yv.add (u.add u)
        (decide (lo.m < 0) || ((lo.mul lo).mul x).le (Dy.ofInt 1)) && (Dy.ofInt 1).le ((hi.mul hi).mul x)
      FRes.plain (pick 1 f a r.bits ((near f r.bits 2).filter ok))

/-! ### The bounds of `FEXP2`, `FLOG2`, `FSIN` and `FCOS`

A function value is approximated in fixed point, far below the bounds of R136; the result is then any
encoding within the bound, and the nearest one where the format has none within it (DESIGN CHOICE, log 6). -/

/-- The place of an encoding in the order of values, −0 just below +0, and the encoding of a place. -/
def fKey (f : FFmt) (x : Nat) : Int := if fneg f x then -(fmag f x : Int) - 1 else fmag f x
def fOfKey (f : FFmt) (k : Int) : Nat := if k < 0 then f.signBit + (-k - 1).toNat else k.toNat

/-- A free choice from the encodings between two exact values. -/
def pickIn (op : Nat) (f : FFmt) (a : Nat) (lo hi : Dy) (nearest : Nat) : Nat :=
  let kl := fKey f (roundDy f .ru true lo).bits
  let kh := fKey f (roundDy f .rd false hi).bits
  if kh < kl then nearest else fOfKey f (kl + ((Config.sfuBits op f.width a % (kh - kl + 1).toNat : Nat) : Int))

/-- An approximation from below that is not exact: a bit beyond its last one. -/
def Dy.more (y : Dy) : Dy := { m := 2 * y.m + 1, e := y.e - 1 }

/-- A free choice within `n` ulp of the approximated value `y` of a function. -/
def pickUlp (op : Nat) (f : FFmt) (a n : Nat) (y : Dy) : Nat :=
  let r := (roundDy f .rn false y).bits
  let u := ulp f (roundDy f .rz false y).bits
  let d : Dy := { u with m := u.m * n }
  let top := fVal f (f.inf - 1)
  let clip := fun (z : Dy) => if z.lt top.neg then top.neg else if top.lt z then top else z
  pickIn op f a (clip (y.sub d)) (clip (y.add d)) r

/-- A free choice within 2^(−n) of the approximated value `y` of a function. -/
def pickAbs (op : Nat) (f : FFmt) (a n : Nat) (y : Dy) : Nat :=
  let d : Dy := { m := 1, e := -(n : Int) }
  pickIn op f a (y.sub d) (y.add d) (roundDy f .rn false y).bits

/-- The repeated square roots of `c` / 2^128, in units of 2^(−128). -/
def exp2Roots : Nat → Nat → List Nat
  | 0, _ => []
  | n + 1, c => isqrt (c * 2 ^ 128) :: exp2Roots n (isqrt (c * 2 ^ 128))

/-- 2^(x / 2^64) · 2^128 for x below 2^64. -/
def exp2Frac (x : Nat) : Nat :=
  ((exp2Roots 64 (2 ^ 129)).zip (List.range 64)).foldl
    (fun p c => if x.testBit (63 - c.2) then p * c.1 / 2 ^ 128 else p) (2 ^ 128)

/-- The fraction bits of log2 (m / 2^128), 1 ≤ m / 2^128 < 2, as a number of `n` bits. -/
def log2Frac : Nat → Nat → Nat → Nat
  | 0, _, acc => acc
  | n + 1, m, acc =>
    let sq := m * m / 2 ^ 128
    if 2 ^ 129 ≤ sq then log2Frac n (sq / 2) (2 * acc + 1) else log2Frac n sq (2 * acc)

/-- π · 2^192. -/
def piFixed : Nat := 0x3243f6a8885a308d313198a2e03707344a4093822299f31d0

/-- The sum of a power series of alternating terms: term k + 2 is minus term k times t² / ((k + 1)(k + 2)),
all in units of 2^(−192). -/
def altSeries : Nat → Nat → Int → Int → Int → Int
  | 0, _, _, _, acc => acc
  | n + 1, k, t2, term, acc =>
    altSeries n (k + 2) t2 (-(term * t2 / 2 ^ 192) / ((k + 1) * (k + 2) : Nat)) (acc + term)

/-- sin or cos of x / 2^192, in units of 2^(−192), with x reduced into [−π, π]. -/
def sinCosFixed (cos : Bool) (x : Int) : Int :=
  let p : Int := piFixed
  let r := (x + p) % (2 * p) - p
  let t2 := r * r / 2 ^ 192
  if cos then altSeries 40 0 t2 (2 ^ 192) 0 else altSeries 40 1 t2 r 0

/-- The same kept inside the open interval from −1 to 1, in which every cosine of a value other than 0 lies. -/
def cosFixed (x : Int) : Int := max (1 - 2 ^ 192) (min (2 ^ 192 - 1) (sinCosFixed true x))

/-- A value in units of 2^(−192), cut toward −∞. -/
def toFixed (v : Dy) : Int := Dy.floor { v with e := v.e + 192 }

/-- `FEXP2` (R136, R137): exact for integers whose result is representable; else within 2 ulp (DESIGN CHOICE, log 6). -/
def fExp2 (f : FFmt) (a : Nat) : FRes :=
  match nanResult f [a] with
  | some r => r
  | none =>
    if fIsInf f a then FRes.plain (if fneg f a then 0 else f.inf)
    else
      let v := fVal f a
      let fl := v.floor
      if (f.bias : Int) + 1 ≤ fl then { bits := f.inf, invalid := false, divZero := false, overflow := true }
      else if decide (((Dy.ofInt fl).sub v).m = 0) && decide (1 - (f.bias : Int) - f.mb ≤ fl) then
        FRes.ofRounded (roundMag f .rn false 1 fl)
      else if fl < -(2 ^ 12) then FRes.plain (pickUlp 2 f a 2 { m := 0, e := 0 })
      else
        let fr := (Dy.floor { (v.sub (Dy.ofInt fl)) with e := (v.sub (Dy.ofInt fl)).e + 64 }).toNat
        FRes.plain (pickUlp 2 f a 2 ({ m := (exp2Frac fr : Int), e := fl - 128 } : Dy).more)

/-- `FLOG2` (R136, R137): within 2^(−22) for inputs in [0.5, 2], within 2 ulp elsewhere (DESIGN CHOICE, log 6). -/
def fLog2 (f : FFmt) (a : Nat) : FRes :=
  match nanResult f [a] with
  | some r => r
  | none =>
    if fIsZero f a then { bits := fSigned f true f.inf, invalid := false, divZero := true, overflow := false }
    else if fneg f a then FRes.inval f.defNan
    else if fIsInf f a then FRes.plain f.inf
    else if a % 2 ^ f.width = f.bias * 2 ^ f.mb then FRes.plain 0
    else
      let v := fVal f a
      let m := v.m.natAbs
      let fr := log2Frac 96 (m * 2 ^ 128 / 2 ^ Nat.log2 m) 0
      let y0 := (Dy.ofInt v.log2).add { m := (fr : Int), e := -96 }
      let y := if m = 2 ^ Nat.log2 m then y0 else y0.more
      if !v.lt { m := 1, e := -1 } && v.le (Dy.ofInt 2) then FRes.plain (pickAbs 3 f a 22 y)
      else FRes.plain (pickUlp 3 f a 2 y)

/-- `FSIN` and `FCOS` (R136, R137): within 2^(−21) for |x| ≤ 2^15; beyond it a free value in [−1, 1]
(DESIGN CHOICE, log 6). -/
def fSinCos (cos : Bool) (f : FFmt) (a : Nat) : FRes :=
  match nanResult f [a] with
  | some r => r
  | none =>
    let op := if cos then 5 else 4
    if fIsInf f a then FRes.inval f.defNan
    else if fIsZero f a then FRes.plain (if cos then f.bias * 2 ^ f.mb else a % 2 ^ f.width)
    else
      let v := fVal f (fmag f a)
      if v.le (Dy.ofInt 32768) then
        let x := toFixed (fVal f a)
        FRes.plain (pickAbs op f a 21 { m := if cos then cosFixed x else sinCosFixed false x, e := -192 })
      else FRes.plain (pickIn op f a (Dy.ofInt (-1)) (Dy.ofInt 1) 0)

end Sys2Proof.Machine
end

