-- ==== Sys2Proof/WellFormed.lean ====
section
/-! DEFINITION. When an instruction is well-formed: a word that its encoding can carry without a rest,
and a step of another agent that names units the part has. A reserved field does not make a word
ill-formed: it is judged at issue (R385, R389). -/

namespace Sys2Proof

/-- What is wrong with an ill-formed instruction. -/
inductive Ill where
  /-- A literal value without a literal word (R164, R165). -/
  | strayLiteral
  /-- `UNASSIGNED_OPCODE` with an opcode that R173 assigns. -/
  | assignedOpcode
  /-- `UNASSIGNED_ENGINE_WORD` with a literal or an OP that R246 or R325 assigns. -/
  | assignedEngineWord
  /-- C[0] of `PERF` says the other instruction (R236). -/
  | perfBit
  /-- A core above 191 (R19). -/
  | coreNumber
  /-- A quarter above 3 (R43). -/
  | quarterNumber
  /-- A place of the active set above 7 (R44). -/
  | placeNumber
  /-- A group slot above 511 (R20). -/
  | groupSlot
  /-- A fragment entry above 255 (R43). -/
  | fragmentNumber
  /-- A virtual function above 127 (R27). -/
  | vfNumber
  /-- A queue above 1,023 (R334), or a task queue or queue of a virtual function beyond its range. -/
  | queueNumber
  /-- A copy channel above 15 (R227). -/
  | channelNumber
  /-- A die above 4, or above 3 where only compute dies have the unit (R16). -/
  | dieNumber
  /-- A slice above 15 (R19). -/
  | sliceNumber
  /-- A line core above 15 (R282). -/
  | lineCoreNumber
  /-- A head above 3 (R29). -/
  | headNumber
  /-- A pose slot above 7 (R303). -/
  | poseSlot
  /-- A firmware core above 3 (R30). -/
  | firmwareCore
  /-- A die link above 7 (R35). -/
  | linkNumber
  /-- A domain above 11 (R26). -/
  | domainNumber
  /-- A CXL port above 1 (R28). -/
  | portNumber
  deriving DecidableEq, Repr

/-- `e` unless `ok`. -/
def illIf (bad : Bool) (e : Ill) (rest : Option Ill) : Option Ill := if bad then some e else rest

/-- The opcodes that R388 lists as unassigned, as ranges. -/
def unassignedRanges : List (Nat × Nat) :=
  [(0x0D, 0x0F), (0x1A, 0x1F), (0x28, 0x2F), (0x38, 0x3F), (0x4D, 0x4F), (0x50, 0x5F), (0x6A, 0x6F),
   (0x77, 0x7F), (0x83, 0x8F), (0x93, 0x9F), (0xA5, 0xA7), (0xAD, 0xAF), (0xBF, 0xBF), (0xC4, 0xC7),
   (0xCD, 0xCF), (0xD6, 0xD7), (0xDF, 0xDF), (0xE3, 0xEF), (0xF6, 0xFF)]

/-- A number in one of the ranges. -/
def inRanges (rs : List (Nat × Nat)) (n : Nat) : Bool := rs.any fun r => decide (r.1 ≤ n) && decide (n ≤ r.2)

/-- The check of a V3 word: without LIT there is no literal word. -/
def checkV3 (o : V3) : Option Ill := illIf (!o.lit && decide (o.literal ≠ 0#64)) .strayLiteral none

/-- The check of a VI word other than `MOVL`. -/
def checkVI (o : VI) : Option Ill := illIf (decide (o.literal ≠ 0#64)) .strayLiteral none

def checkCore (c : Nat) (rest : Option Ill) : Option Ill := illIf (decide (192 ≤ c)) .coreNumber rest
def checkVf (v : Nat) (rest : Option Ill) : Option Ill := illIf (decide (128 ≤ v)) .vfNumber rest
def checkQueue (q : Nat) (rest : Option Ill) : Option Ill := illIf (decide (1024 ≤ q)) .queueNumber rest
def checkDie (n d : Nat) (rest : Option Ill) : Option Ill := illIf (decide (n ≤ d)) .dieNumber rest
def checkSlice (s : Nat) (rest : Option Ill) : Option Ill := illIf (decide (16 ≤ s)) .sliceNumber rest
def checkLcr (n : Nat) (rest : Option Ill) : Option Ill := illIf (decide (16 ≤ n)) .lineCoreNumber rest
def checkHead (n : Nat) (rest : Option Ill) : Option Ill := illIf (decide (4 ≤ n)) .headNumber rest
def checkSlot (n : Nat) (rest : Option Ill) : Option Ill := illIf (decide (512 ≤ n)) .groupSlot rest
def checkQuarter (n : Nat) (rest : Option Ill) : Option Ill := illIf (decide (4 ≤ n)) .quarterNumber rest
def checkPlace (n : Nat) (rest : Option Ill) : Option Ill := illIf (decide (8 ≤ n)) .placeNumber rest
def checkLink (n : Nat) (rest : Option Ill) : Option Ill := illIf (decide (8 ≤ n)) .linkNumber rest

/-- The check of a memory-mapped register's numbers (R10, R35). -/
def checkReg (r : MmioReg) : Option Ill :=
  match r with
  | .qtrSched c q => checkCore c (checkQuarter q none)
  | .eseCtl c => checkCore c none
  | .coreDbg c => checkCore c none
  | .l2sPway d => checkDie 4 d none
  | .l2sVfway d v => checkDie 4 d (checkVf v none)
  | .l2sWmstat d => checkDie 4 d none
  | .l2sSeqto d => checkDie 4 d none
  | .fabCtl d => checkDie 4 d none
  | .memcScrub d => checkDie 4 d none
  | .distDbell v k => checkVf v (illIf (decide (8 ≤ k)) .queueNumber none)
  | .distKick n => illIf (decide (32 ≤ n)) .queueNumber none
  | .distPto => none
  | .distNbase v => checkVf v none
  | .distNctl v => checkVf v none
  | .distNstat v => checkVf v none
  | .fwcPkgid => none
  | .fwcErrcfg => none
  | .fwcErridx => none
  | .fwcSched => none
  | .fwcKill => none
  | .fwcHpol v => checkVf v none
  | .siftCtl => none
  | .selBwres => none
  | .selRctl => none
  | .selFrdy h => checkHead h none
  | .selFrtn h => checkHead h none
  | .scanStat h => checkHead h none
  | .pmb s _ => illIf (decide (8 ≤ s)) .poseSlot none

/-- The first thing that is wrong with an instruction, if anything is. -/
def check (i : Instr) : Option Ill :=
  match i with
  | .iadd o => checkV3 o
  | .isub o => checkV3 o
  | .iadds o => checkV3 o
  | .iadd64 o => checkV3 o
  | .isub64 o => checkV3 o
  | .imul o => checkV3 o
  | .imulh o => checkV3 o
  | .imad o => checkV3 o
  | .imadw o => checkV3 o
  | .imin o => checkV3 o
  | .imax o => checkV3 o
  | .iabs o => checkV3 o
  | .ineg o => checkV3 o
  | .and o => checkV3 o
  | .or o => checkV3 o
  | .xor o => checkV3 o
  | .andn o => checkV3 o
  | .not o => checkV3 o
  | .shl o => checkV3 o
  | .shr o => checkV3 o
  | .sar o => checkV3 o
  | .rot o => checkV3 o
  | .fnl o => checkV3 o
  | .bfx o => checkV3 o
  | .bfi o => checkV3 o
  | .popc o => checkV3 o
  | .clz o => checkV3 o
  | .ctz o => checkV3 o
  | .brev o => checkV3 o
  | .bilv o => checkV3 o
  | .bdil o => checkV3 o
  | .isel o => checkV3 o
  | .icmp o => checkV3 o
  | .lea o => checkV3 o
  | .mov o => checkV3 o
  | .movi o => checkVI o
  | .movl _ => none
  | .sreg o => checkVI o
  | .setp o => checkVI o
  | .nop _ => none
  | .bra _ => none
  | .brx _ => none
  | .rcvt _ => none
  | .rcvm _ => none
  | .call _ => none
  | .callx _ => none
  | .ret _ => none
  | .unwind _ => none
  | .exit _ => none
  | .yield _ => none
  | .idmc _ => none
  | .lead _ => none
  | .fadd o => checkV3 o
  | .fsub o => checkV3 o
  | .fmul o => checkV3 o
  | .ffma o => checkV3 o
  | .fmin o => checkV3 o
  | .fmax o => checkV3 o
  | .fcmp o => checkV3 o
  | .fsel o => checkV3 o
  | .frnd o => checkV3 o
  | .fdot2 o => checkV3 o
  | .frcp o => checkV3 o
  | .frsq o => checkV3 o
  | .fsqrt o => checkV3 o
  | .fexp2 o => checkV3 o
  | .flog2 o => checkV3 o
  | .fsin o => checkV3 o
  | .fcos o => checkV3 o
  | .fcvt o => checkV3 o
  | .cvtn o => checkV3 o
  | .fsplit3 o => checkV3 o
  | .hadd2 o => checkV3 o
  | .hmul2 o => checkV3 o
  | .hfma2 o => checkV3 o
  | .shfl o => checkV3 o
  | .vote o => checkV3 o
  | .redl o => checkV3 o
  | .prmt o => checkV3 o
  | .matchLanes o => checkV3 o
  | .tex o => checkV3 o
  | .texg o => checkV3 o
  | .edge o => checkV3 o
  | .viewx o => checkV3 o
  | .packc o => checkV3 o
  | .ld _ => none
  | .st _ => none
  | .lds _ => none
  | .sts _ => none
  | .ldb _ => none
  | .stb _ => none
  | .ldx _ => none
  | .stx _ => none
  | .ldc _ => none
  | .prf _ => none
  | .atom _ => none
  | .red _ => none
  | .cas _ => none
  | .fence _ => none
  | .waita _ => none
  | .copyt _ => none
  | .copy16 _ => none
  | .cwait _ => none
  | .cwmk _ => none
  | .bari _ => none
  | .bara _ => none
  | .barw _ => none
  | .bars _ => none
  | .barp _ => none
  | .rini _ => none
  | .rclm _ => none
  | .rpub _ => none
  | .rwfl _ => none
  | .rrel _ => none
  | .rwfr _ => none
  | .fnew _ => none
  | .fset _ => none
  | .fwait _ => none
  | .tspn _ => none
  | .tend _ => none
  | .lkaq _ => none
  | .lkrl _ => none
  | .ores _ => none
  | .orel _ => none
  | .mseq _ => none
  | .trap _ => none
  | .bkpt _ => none
  | .rdc _ => none
  | .wrc _ => none
  | .rett _ => none
  | .perfRd o => illIf (o.c.getLsbD 0) .perfBit none
  | .perfMark o => illIf (!o.c.getLsbD 0) .perfBit none
  | .timeSliceSwap c q p => checkCore c (checkQuarter q (checkPlace p none))
  | .loadComplete c _ => checkCore c none
  | .frameAllocation c => checkCore c none
  | .eseSpill c => checkCore c none
  | .eseRefill c s => checkCore c (checkSlot s none)
  | .workgroupBind c => checkCore c none
  | .taskStart c v q => checkCore c (checkVf v (illIf (decide (16 ≤ q)) .queueNumber none))
  | .taskRequeue v _ => checkVf v none
  | .copyComplete c ch => checkCore c (illIf (decide (16 ≤ ch)) .channelNumber none)
  | .copy16Complete c _ => checkCore c none
  | .engineOpEnded c _ => checkCore c none
  | .matrixOpComplete c => checkCore c none
  | .lit _ => none
  | .engineNop _ => none
  | .ext _ => none
  | .dup _ => none
  | .drop _ => none
  | .swap _ => none
  | .overWord _ => none
  | .add _ => none
  | .addi _ => none
  | .shape _ => none
  | .mma _ => none
  | .mmaz _ => none
  | .drain _ => none
  | .drainadd _ => none
  | .drainaddo _ => none
  | .arrive _ => none
  | .waitb _ => none
  | .loop _ => none
  | .halt _ => none
  | .dmma _ => none
  | .dmmaz _ => none
  | .dout _ => none
  | .dwt _ => none
  | .dline _ => none
  | .cluNop _ => none
  | .cluIadd _ => none
  | .cluIsub _ => none
  | .cluAnd _ => none
  | .cluOr _ => none
  | .cluXor _ => none
  | .cluShl _ => none
  | .cluShr _ => none
  | .cluSar _ => none
  | .cluImin _ => none
  | .cluImax _ => none
  | .cluIcmp _ => none
  | .cluXsel _ => none
  | .cluMov _ => none
  | .cluBr _ => none
  | .cluLoopr _ => none
  | .cluSetlc _ => none
  | .cluEndl _ => none
  | .cluGset _ => none
  | .cluGlut _ => none
  | .cluKpop _ => none
  | .cluKpush _ => none
  | .cluQlen _ => none
  | .cluFadd _ => none
  | .cluFmul _ => none
  | .cluFfma _ => none
  | .cluFmin _ => none
  | .cluFmax _ => none
  | .cluFcmp _ => none
  | .cluFcvt _ => none
  | .cluShuf _ => none
  | .cluLerp _ => none
  | .cluWarp _ => none
  | .cluPose _ => none
  | .cluSdrv _ => none
  | .cluPack _ => none
  | .cluLcpy _ => none
  | .cluLdl _ => none
  | .cluStl _ => none
  | .fetch _ => none
  | .store _ => none
  | .emit _ => none
  | .fetchRunComplete n => checkLcr n none
  | .lineCopyStart n => checkLcr n none
  | .lineScheduleStart n => checkLcr n none
  | .scanOutLine h => checkHead h none
  | .reelRead h => checkHead h none
  | .frameReturn h => checkHead h none
  | .selhamLaunchEnd => none
  | .lineCoreReload n => checkLcr n none
  | .dmeRestart => none
  | .poseCommit s _ => illIf (decide (8 ≤ s)) .poseSlot none
  | .launch _ => none
  | .selham _ => none
  | .prio _ => none
  | .preempt _ => none
  | .resume _ => none
  | .waitCmd _ => none
  | .tlbinv _ => none
  | .workgroupSave c _ => checkCore c none
  | .preemptTimeout q => checkQueue q none
  | .launchCompletion q _ => checkQueue q none
  | .doorbell v k _ => checkVf v (illIf (decide (8 ≤ k)) .queueNumber none)
  | .contextKill q _ => checkQueue q none
  | .killAll q => checkQueue q none
  | .heartbeat => none
  | .heartbeatTimeout => none
  | .standinReload _ => none
  | .firmwareMemoryError f => illIf (decide (4 ≤ f)) .firmwareCore none
  | .debugStop c s => checkCore c (checkSlot s none)
  | .debugStepGroup c s => checkCore c (checkSlot s none)
  | .debugStepEntry c s _ f => checkCore c (checkSlot s (illIf (decide (256 ≤ f)) .fragmentNumber none))
  | .debugResume c s => checkCore c (checkSlot s none)
  | .l2sPwayWrite d _ => checkDie 4 d none
  | .l2sVfwayWrite d v _ => checkDie 4 d (checkVf v none)
  | .wayWalkComplete d => checkDie 4 d none
  | .registerWrite r _ _ => checkReg r
  | .createQueue q _ _ => checkQueue q none
  | .vfConfigWrite v _ => checkVf v none
  | .vfCreate v _ _ => checkVf v none
  | .vfDestroy v => checkVf v none
  | .domainMove d v => illIf (decide (12 ≤ d)) .domainNumber (checkVf v none)
  | .iaRanges v _ _ _ => checkVf v none
  | .attestationReport v _ => checkVf v none
  | .pluginLoad _ _ => none
  | .pluginCall _ c _ => checkCore c none
  | .boot _ _ _ _ => none
  | .thermalStop d => checkDie 5 d none
  | .thermalRestart => none
  | .thermalHold d => checkDie 5 d none
  | .hostAccessTimeout => none
  | .hostMemAccess p _ _ _ _ _ => illIf (decide (2 ≤ p)) .portNumber none
  | .hostSnoop _ _ => none
  | .stage2FaultResolve => none
  | .sifterMerge _ _ => none
  | .patrolScrub _ _ => none
  | .frameRetirement _ _ => none
  | .sliceRequest d s => checkDie 4 d (checkSlice s none)
  | .sideQueueRetry d s => checkDie 4 d (checkSlice s none)
  | .lineFill d s _ _ => checkDie 4 d (checkSlice s none)
  | .writeBackComplete d s => checkDie 4 d (checkSlice s none)
  | .lineYield _ => none
  | .drainAddArrive d s => checkDie 4 d (checkSlice s none)
  | .orderedContribution d s => checkDie 4 d (checkSlice s none)
  | .sequenceTimeout d s _ => checkDie 4 d (checkSlice s none)
  | .routerFlit d _ _ => checkDie 5 d none
  | .linkDown d _ _ => checkDie 5 d none
  | .linkRetry d _ _ => checkDie 5 d none
  | .dieLinkFlitReceive l _ _ => checkLink l none
  | .dieLinkAck l _ => checkLink l none
  | .dieLinkNak l _ => checkLink l none
  | .dieLinkReplayTimeout l _ => checkLink l none
  | .dieLinkDown l => checkLink l none
  | .crossDieReceive d => checkDie 5 d none
  | .beacon s d => checkDie 5 s (checkDie 5 d none)
  | .eventStamp => none
  | .errorRecord => none
  | .correctedReport _ => none
  | .swapthrExpiry c q p => checkCore c (checkQuarter q (checkPlace p none))
  | .powerLimitStep _ => none
  | .linkRetrain _ _ _ _ => none
  | .frameOwnerChange _ _ _ => none
  | .unassignedOpcode w => illIf (!inRanges unassignedRanges (w.extractLsb' 56 8).toNat) .assignedOpcode none
  | .unassignedEngineWord w =>
    illIf (!(w.getLsbD 15 && inRanges [(0x12, 0x17), (0x1D, 0x1F)] (w.extractLsb' 10 5).toNat)) .assignedEngineWord none

/-- A well-formed instruction. -/
abbrev WellFormed (i : Instr) : Prop := check i = none

end Sys2Proof
end

