-- ==== Sys2Proof/Decode.lean ====
section
/-! DEFINITION. The decoder of each word stream, total on any bytes, and the encoder: compute words
(R160-R174), sequencer and DME words (R245, R246, R325), cluster words (R309, R314), fetch and store
engine words (R323), and command entries (R336). -/

namespace Sys2Proof

/-- The word streams of the part, each with its own encoding. -/
inductive Stream where
  | compute
  | engine
  | cluster
  | selFetch
  | selStore
  | command
  deriving DecidableEq, Repr

/-- Why bytes decode to no instruction. -/
inductive DecodeError where
  /-- The bytes end inside a word. -/
  | short
  /-- A cluster opcode that R314 does not list. -/
  | unassignedClusterOpcode
  /-- OP 0 of a fetch or store stream: `END` (R323). -/
  | endOfLine
  /-- OP 3 to 15 of a fetch or store stream, or 2 of a fetch stream (R323). -/
  | reservedEngineOp
  /-- A command OP that R336 does not list. -/
  | unknownCommand
  deriving DecidableEq, Repr

/-- The first n bytes, as a little-endian number, and the rest (R5). -/
def takeBytes : Nat → List Byte → Option (Nat × List Byte)
  | 0, bs => some (0, bs)
  | _ + 1, [] => none
  | n + 1, b :: t =>
    match takeBytes n t with
    | none => none
    | some (x, rest) => some (b.toNat + 256 * x, rest)

/-! ## Compute words (R160-R174) -/

/-- OPC [63:56]. -/
def opcOf (w : W64) : BitVec 8 := w.extractLsb' 56 8

/-- STALL [55:52], PN [51], PRED [50:48] (R160). -/
def getGuard (w : W64) : Guard :=
  { stall := w.extractLsb' 52 4, pn := w.getLsbD 51, pred := w.extractLsb' 48 3 }

/-- Format V3 with the modifier of R165. -/
def getV3 (w l : W64) : V3 :=
  { g := getGuard w, d := w.extractLsb' 40 8, a := w.extractLsb' 32 8, b := w.extractLsb' 24 8,
    c := w.extractLsb' 16 8, lit := w.getLsbD 15, bi := w.getLsbD 14, ty := w.extractLsb' 10 4,
    rm := w.extractLsb' 7 3, na := w.getLsbD 6, nb := w.getLsbD 5, nc := w.getLsbD 4,
    aa := w.getLsbD 3, func := w.extractLsb' 0 3, literal := l }

/-- Format VI (R164). -/
def getVI (w l : W64) : VI :=
  { g := getGuard w, d := w.extractLsb' 40 8, a := w.extractLsb' 32 8, b := w.extractLsb' 24 8,
    imm8 := w.extractLsb' 16 8, imm16 := w.extractLsb' 0 16, literal := l }

/-- Format M with the memory control of R168. -/
def getMF (w : W64) : MF :=
  { g := getGuard w, d := w.extractLsb' 40 8, a := w.extractLsb' 32 8, b := w.extractLsb' 24 8,
    scope := w.extractLsb' 21 3, ord := w.extractLsb' 19 2, size := w.extractLsb' 16 3,
    imm16 := w.extractLsb' 0 16 }

/-- Format X with the gather control of R170. -/
def getXF (w : W64) : XF :=
  { g := getGuard w, d := w.extractLsb' 40 8, a := w.extractLsb' 32 8, b := w.extractLsb' 24 8,
    c := w.extractLsb' 16 8, iw := w.extractLsb' 14 2, isg := w.getLsbD 13, scl := w.extractLsb' 9 4,
    size := w.extractLsb' 6 3, scope := w.extractLsb' 3 3, ord := w.extractLsb' 1 2, rsv := w.getLsbD 0 }

/-- Format J. -/
def getJF (w : W64) : JF :=
  { g := getGuard w, z := w.extractLsb' 40 8, a := w.extractLsb' 32 8, off := w.extractLsb' 0 32 }

/-- Format C with the call control of R171. -/
def getCF (w l : W64) : CF :=
  { g := getGuard w, vbase := w.extractLsb' 40 8, a := w.extractLsb' 32 8, args := w.extractLsb' 24 8,
    res := w.extractLsb' 16 8, fsize := w.extractLsb' 11 5, lp := w.getLsbD 10, rsv := w.extractLsb' 0 10,
    literal := l }

/-- Format S; CTRL16 is [15:0] (R172). -/
def getSF (w : W64) : SF :=
  { g := getGuard w, d := w.extractLsb' 40 8, a := w.extractLsb' 32 8, b := w.extractLsb' 24 8,
    c := w.extractLsb' 16 8, ctrl := w.extractLsb' 0 16 }

/-- An opcode of format V3: every assigned opcode in 0x00-0x33 and 0x60-0xAC (R174). -/
def isV3 (opc : BitVec 8) : Bool :=
  [(0x00, 0x0C), (0x10, 0x19), (0x20, 0x27), (0x30, 0x33), (0x60, 0x69), (0x70, 0x76), (0x80, 0x82), (0x90, 0x92), (0xA0, 0xA4), (0xA8, 0xAC)].any
    fun r => decide (r.1 ≤ opc.toNat) && decide (opc.toNat ≤ r.2)

/-- A word followed by a literal word: LIT in V3, and always `MOVL`, `CALL` and `CALLX` (R164, R174). -/
def hasLiteral (w : W64) : Bool :=
  (isV3 (opcOf w) && w.getLsbD 15) || decide (opcOf w = 0x35#8) || decide (opcOf w = 0x45#8)
    || decide (opcOf w = 0x46#8)

/-- The instruction of a compute word and its literal word, by the opcode map of R173; every opcode
that the map leaves open is `UNASSIGNED_OPCODE` (R388). `PERF` is split by C[0] (R236). -/
def computeOf (w l : W64) : Instr :=
  match (opcOf w).toNat with
  | 0x00 => .iadd (getV3 w l)
  | 0x01 => .isub (getV3 w l)
  | 0x02 => .iadds (getV3 w l)
  | 0x03 => .iadd64 (getV3 w l)
  | 0x04 => .isub64 (getV3 w l)
  | 0x05 => .imul (getV3 w l)
  | 0x06 => .imulh (getV3 w l)
  | 0x07 => .imad (getV3 w l)
  | 0x08 => .imadw (getV3 w l)
  | 0x09 => .imin (getV3 w l)
  | 0x0A => .imax (getV3 w l)
  | 0x0B => .iabs (getV3 w l)
  | 0x0C => .ineg (getV3 w l)
  | 0x10 => .and (getV3 w l)
  | 0x11 => .or (getV3 w l)
  | 0x12 => .xor (getV3 w l)
  | 0x13 => .andn (getV3 w l)
  | 0x14 => .not (getV3 w l)
  | 0x15 => .shl (getV3 w l)
  | 0x16 => .shr (getV3 w l)
  | 0x17 => .sar (getV3 w l)
  | 0x18 => .rot (getV3 w l)
  | 0x19 => .fnl (getV3 w l)
  | 0x20 => .bfx (getV3 w l)
  | 0x21 => .bfi (getV3 w l)
  | 0x22 => .popc (getV3 w l)
  | 0x23 => .clz (getV3 w l)
  | 0x24 => .ctz (getV3 w l)
  | 0x25 => .brev (getV3 w l)
  | 0x26 => .bilv (getV3 w l)
  | 0x27 => .bdil (getV3 w l)
  | 0x30 => .isel (getV3 w l)
  | 0x31 => .icmp (getV3 w l)
  | 0x32 => .lea (getV3 w l)
  | 0x33 => .mov (getV3 w l)
  | 0x34 => .movi (getVI w 0#64)
  | 0x35 => .movl (getVI w l)
  | 0x36 => .sreg (getVI w 0#64)
  | 0x37 => .setp (getVI w 0#64)
  | 0x40 => .nop (getSF w)
  | 0x41 => .bra (getJF w)
  | 0x42 => .brx (getJF w)
  | 0x43 => .rcvt (getJF w)
  | 0x44 => .rcvm (getSF w)
  | 0x45 => .call (getCF w l)
  | 0x46 => .callx (getCF w l)
  | 0x47 => .ret (getSF w)
  | 0x48 => .unwind (getSF w)
  | 0x49 => .exit (getSF w)
  | 0x4A => .yield (getSF w)
  | 0x4B => .idmc (getSF w)
  | 0x4C => .lead (getSF w)
  | 0x60 => .fadd (getV3 w l)
  | 0x61 => .fsub (getV3 w l)
  | 0x62 => .fmul (getV3 w l)
  | 0x63 => .ffma (getV3 w l)
  | 0x64 => .fmin (getV3 w l)
  | 0x65 => .fmax (getV3 w l)
  | 0x66 => .fcmp (getV3 w l)
  | 0x67 => .fsel (getV3 w l)
  | 0x68 => .frnd (getV3 w l)
  | 0x69 => .fdot2 (getV3 w l)
  | 0x70 => .frcp (getV3 w l)
  | 0x71 => .frsq (getV3 w l)
  | 0x72 => .fsqrt (getV3 w l)
  | 0x73 => .fexp2 (getV3 w l)
  | 0x74 => .flog2 (getV3 w l)
  | 0x75 => .fsin (getV3 w l)
  | 0x76 => .fcos (getV3 w l)
  | 0x80 => .fcvt (getV3 w l)
  | 0x81 => .cvtn (getV3 w l)
  | 0x82 => .fsplit3 (getV3 w l)
  | 0x90 => .hadd2 (getV3 w l)
  | 0x91 => .hmul2 (getV3 w l)
  | 0x92 => .hfma2 (getV3 w l)
  | 0xA0 => .shfl (getV3 w l)
  | 0xA1 => .vote (getV3 w l)
  | 0xA2 => .redl (getV3 w l)
  | 0xA3 => .prmt (getV3 w l)
  | 0xA4 => .matchLanes (getV3 w l)
  | 0xA8 => .tex (getV3 w l)
  | 0xA9 => .texg (getV3 w l)
  | 0xAA => .edge (getV3 w l)
  | 0xAB => .viewx (getV3 w l)
  | 0xAC => .packc (getV3 w l)
  | 0xB0 => .ld (getMF w)
  | 0xB1 => .st (getMF w)
  | 0xB2 => .lds (getMF w)
  | 0xB3 => .sts (getMF w)
  | 0xB4 => .ldb (getXF w)
  | 0xB5 => .stb (getXF w)
  | 0xB6 => .ldx (getXF w)
  | 0xB7 => .stx (getXF w)
  | 0xB8 => .ldc (getMF w)
  | 0xB9 => .prf (getMF w)
  | 0xBA => .atom (getMF w)
  | 0xBB => .red (getMF w)
  | 0xBC => .cas (getMF w)
  | 0xBD => .fence (getSF w)
  | 0xBE => .waita (getMF w)
  | 0xC0 => .copyt (getSF w)
  | 0xC1 => .copy16 (getSF w)
  | 0xC2 => .cwait (getSF w)
  | 0xC3 => .cwmk (getSF w)
  | 0xC8 => .bari (getSF w)
  | 0xC9 => .bara (getSF w)
  | 0xCA => .barw (getSF w)
  | 0xCB => .bars (getSF w)
  | 0xCC => .barp (getSF w)
  | 0xD0 => .rini (getSF w)
  | 0xD1 => .rclm (getSF w)
  | 0xD2 => .rpub (getSF w)
  | 0xD3 => .rwfl (getSF w)
  | 0xD4 => .rrel (getSF w)
  | 0xD5 => .rwfr (getSF w)
  | 0xD8 => .fnew (getSF w)
  | 0xD9 => .fset (getSF w)
  | 0xDA => .fwait (getSF w)
  | 0xDB => .tspn (getSF w)
  | 0xDC => .tend (getSF w)
  | 0xDD => .lkaq (getSF w)
  | 0xDE => .lkrl (getSF w)
  | 0xE0 => .ores (getSF w)
  | 0xE1 => .orel (getSF w)
  | 0xE2 => .mseq (getSF w)
  | 0xF0 => .trap (getSF w)
  | 0xF1 => .bkpt (getSF w)
  | 0xF2 => .rdc (getSF w)
  | 0xF3 => .wrc (getSF w)
  | 0xF4 => .rett (getSF w)
  | 0xF5 => if w.getLsbD 16 then .perfMark (getSF w) else .perfRd (getSF w)
  | _ => .unassignedOpcode w

/-- One compute instruction. -/
def decodeCompute (bs : List Byte) : Except DecodeError (Instr × List Byte) :=
  match takeBytes 8 bs with
  | none => .error .short
  | some (x, rest) =>
    let w : W64 := BitVec.ofNat 64 x
    if hasLiteral w then
      match takeBytes 8 rest with
      | none => .error .short
      | some (y, rest') => .ok (computeOf w (BitVec.ofNat 64 y), rest')
    else .ok (computeOf w 0#64, rest)

/-! ## Engine words (R245, R246, R325) -/

/-- The instruction of a 16-bit engine word. -/
def engineOf (w : BitVec 16) : Instr :=
  if w.getLsbD 15 = false then .lit (w.extractLsb' 0 15)
  else
    let f : BitVec 10 := w.extractLsb' 0 10
    match (w.extractLsb' 10 5).toNat with
    | 0x00 => .engineNop f
    | 0x01 => .ext f
    | 0x02 => .dup f
    | 0x03 => .drop f
    | 0x04 => .swap f
    | 0x05 => .overWord f
    | 0x06 => .add f
    | 0x07 => .addi f
    | 0x08 => .shape f
    | 0x09 => .mma f
    | 0x0A => .mmaz f
    | 0x0B => .drain f
    | 0x0C => .drainadd f
    | 0x0D => .drainaddo f
    | 0x0E => .arrive f
    | 0x0F => .waitb f
    | 0x10 => .loop f
    | 0x11 => .halt f
    | 0x18 => .dmma f
    | 0x19 => .dmmaz f
    | 0x1A => .dout f
    | 0x1B => .dwt f
    | 0x1C => .dline f
    | _ => .unassignedEngineWord w

/-- One engine word. -/
def decodeEngine (bs : List Byte) : Except DecodeError (Instr × List Byte) :=
  match takeBytes 2 bs with
  | none => .error .short
  | some (x, rest) => .ok (engineOf (BitVec.ofNat 16 x), rest)

/-! ## Cluster words (R309, R314) -/

/-- The fields of a cluster word. -/
def getCW (w : W64) : CW :=
  { s := w.getLsbD 63, p := w.getLsbD 62, d := w.extractLsb' 48 7, a := w.extractLsb' 41 7,
    b := w.extractLsb' 34 7, c := w.extractLsb' 27 7, gn := w.getLsbD 26, gp := w.extractLsb' 22 4,
    fn := w.extractLsb' 16 6, imm := w.extractLsb' 0 16 }

/-- The instruction of a cluster word; none for an opcode that R314 does not list. -/
def clusterOf (w : W64) : Option Instr :=
  match (w.extractLsb' 55 7).toNat with
  | 0x00 => some (.cluNop (getCW w))
  | 0x01 => some (.cluIadd (getCW w))
  | 0x02 => some (.cluIsub (getCW w))
  | 0x03 => some (.cluAnd (getCW w))
  | 0x04 => some (.cluOr (getCW w))
  | 0x05 => some (.cluXor (getCW w))
  | 0x06 => some (.cluShl (getCW w))
  | 0x07 => some (.cluShr (getCW w))
  | 0x08 => some (.cluSar (getCW w))
  | 0x09 => some (.cluImin (getCW w))
  | 0x0A => some (.cluImax (getCW w))
  | 0x0B => some (.cluIcmp (getCW w))
  | 0x0C => some (.cluXsel (getCW w))
  | 0x0D => some (.cluMov (getCW w))
  | 0x10 => some (.cluBr (getCW w))
  | 0x11 => some (.cluLoopr (getCW w))
  | 0x12 => some (.cluSetlc (getCW w))
  | 0x13 => some (.cluEndl (getCW w))
  | 0x14 => some (.cluGset (getCW w))
  | 0x15 => some (.cluGlut (getCW w))
  | 0x16 => some (.cluKpop (getCW w))
  | 0x17 => some (.cluKpush (getCW w))
  | 0x18 => some (.cluQlen (getCW w))
  | 0x20 => some (.cluFadd (getCW w))
  | 0x21 => some (.cluFmul (getCW w))
  | 0x22 => some (.cluFfma (getCW w))
  | 0x23 => some (.cluFmin (getCW w))
  | 0x24 => some (.cluFmax (getCW w))
  | 0x25 => some (.cluFcmp (getCW w))
  | 0x26 => some (.cluFcvt (getCW w))
  | 0x30 => some (.cluShuf (getCW w))
  | 0x31 => some (.cluLerp (getCW w))
  | 0x32 => some (.cluWarp (getCW w))
  | 0x33 => some (.cluPose (getCW w))
  | 0x34 => some (.cluSdrv (getCW w))
  | 0x35 => some (.cluPack (getCW w))
  | 0x36 => some (.cluLcpy (getCW w))
  | 0x40 => some (.cluLdl (getCW w))
  | 0x41 => some (.cluStl (getCW w))
  | _ => none

/-- One cluster word. -/
def decodeCluster (bs : List Byte) : Except DecodeError (Instr × List Byte) :=
  match takeBytes 8 bs with
  | none => .error .short
  | some (x, rest) =>
    match clusterOf (BitVec.ofNat 64 x) with
    | none => .error .unassignedClusterOpcode
    | some i => .ok (i, rest)

/-! ## Fetch and store engine words (R323) -/

/-- The fields of a fetch or store engine word. -/
def getEW (w0 w1 : W64) : EW :=
  { k := w0.extractLsb' 57 3, tk := w0.getLsbD 56, lso := w0.extractLsb' 41 15, lenm := w0.extractLsb' 32 9,
    atClk := w0.extractLsb' 16 16, lstride := w0.extractLsb' 0 16, roff := w1.extractLsb' 57 7,
    ia := w1.extractLsb' 0 57 }

/-- One word of a fetch stream (`store` false) or of a store stream. -/
def decodeSel (store : Bool) (bs : List Byte) : Except DecodeError (Instr × List Byte) :=
  match takeBytes 8 bs with
  | none => .error .short
  | some (x, rest) =>
    match takeBytes 8 rest with
    | none => .error .short
    | some (y, rest') =>
      let w0 : W64 := BitVec.ofNat 64 x
      let o := getEW w0 (BitVec.ofNat 64 y)
      match (w0.extractLsb' 60 4).toNat with
      | 0 => .error .endOfLine
      | 1 => .ok (if store then .store o else .fetch o, rest')
      | 2 => if store then .ok (.emit o, rest') else .error .reservedEngineOp
      | _ => .error .reservedEngineOp

/-! ## Command entries (R336) -/

/-- The command of a 32-byte entry; none for an OP that R336 does not list. -/
def commandOf (w0 addr arg done : W64) : Option Instr :=
  let c : Cmd := { w0 := w0.extractLsb' 8 56, addr := addr, arg := arg, done := done }
  match (w0.extractLsb' 0 8).toNat with
  | 1 => some (.launch c)
  | 2 => some (.selham c)
  | 3 => some (.prio c)
  | 4 => some (.preempt c)
  | 5 => some (.resume c)
  | 6 => some (.waitCmd c)
  | 7 => some (.tlbinv c)
  | _ => none

/-- One command entry. -/
def decodeCommand (bs : List Byte) : Except DecodeError (Instr × List Byte) :=
  match takeBytes 8 bs with
  | none => .error .short
  | some (x0, r0) =>
    match takeBytes 8 r0 with
    | none => .error .short
    | some (x1, r1) =>
      match takeBytes 8 r1 with
      | none => .error .short
      | some (x2, r2) =>
        match takeBytes 8 r2 with
        | none => .error .short
        | some (x3, r3) =>
          match commandOf (BitVec.ofNat 64 x0) (BitVec.ofNat 64 x1) (BitVec.ofNat 64 x2) (BitVec.ofNat 64 x3) with
          | none => .error .unknownCommand
          | some i => .ok (i, r3)

/-- The decoder: one instruction of a stream, and the bytes after it. -/
def decode (st : Stream) (bs : List Byte) : Except DecodeError (Instr × List Byte) :=
  match st with
  | .compute => decodeCompute bs
  | .engine => decodeEngine bs
  | .cluster => decodeCluster bs
  | .selFetch => decodeSel false bs
  | .selStore => decodeSel true bs
  | .command => decodeCommand bs

/-! ## The encoder -/

/-- OPC and the guard: bits [63:48]. -/
def putHead (opc : BitVec 8) (g : Guard) : BitVec 16 := opc ++ g.stall ++ BitVec.ofBool g.pn ++ g.pred

def putV3 (opc : BitVec 8) (o : V3) : W64 :=
  putHead opc o.g ++ o.d ++ o.a ++ o.b ++ o.c ++ BitVec.ofBool o.lit ++ BitVec.ofBool o.bi ++ o.ty ++ o.rm
    ++ BitVec.ofBool o.na ++ BitVec.ofBool o.nb ++ BitVec.ofBool o.nc ++ BitVec.ofBool o.aa ++ o.func

def putVI (opc : BitVec 8) (o : VI) : W64 := putHead opc o.g ++ o.d ++ o.a ++ o.b ++ o.imm8 ++ o.imm16

def putMF (opc : BitVec 8) (o : MF) : W64 :=
  putHead opc o.g ++ o.d ++ o.a ++ o.b ++ o.scope ++ o.ord ++ o.size ++ o.imm16

def putXF (opc : BitVec 8) (o : XF) : W64 :=
  putHead opc o.g ++ o.d ++ o.a ++ o.b ++ o.c ++ o.iw ++ BitVec.ofBool o.isg ++ o.scl ++ o.size ++ o.scope
    ++ o.ord ++ BitVec.ofBool o.rsv

def putJF (opc : BitVec 8) (o : JF) : W64 := putHead opc o.g ++ o.z ++ o.a ++ o.off

def putCF (opc : BitVec 8) (o : CF) : W64 :=
  putHead opc o.g ++ o.vbase ++ o.a ++ o.args ++ o.res ++ o.fsize ++ BitVec.ofBool o.lp ++ o.rsv

def putSF (opc : BitVec 8) (o : SF) : W64 := putHead opc o.g ++ o.d ++ o.a ++ o.b ++ o.c ++ o.ctrl

def putCW (opc : BitVec 7) (o : CW) : W64 :=
  BitVec.ofBool o.s ++ BitVec.ofBool o.p ++ opc ++ o.d ++ o.a ++ o.b ++ o.c ++ BitVec.ofBool o.gn ++ o.gp
    ++ o.fn ++ o.imm

def putEW0 (op : BitVec 4) (o : EW) : W64 :=
  op ++ o.k ++ BitVec.ofBool o.tk ++ o.lso ++ o.lenm ++ o.atClk ++ o.lstride

def putEW1 (o : EW) : W64 := o.roff ++ o.ia

/-- An engine word: 0x8000 | OP x 2^10 | FIELD (R246). -/
def putEngine (op : BitVec 5) (f : BitVec 10) : BitVec 16 := 1#1 ++ op ++ f

/-- The bytes of a word, least significant first. -/
def wordBytes (w : W64) : List Byte := Machine.leBytes 8 w.toNat

/-- The bytes of a compute word and, where `lit` says, of its literal word. -/
def computeBytes (w : W64) (lit : Bool) (l : W64) : List Byte :=
  if lit then wordBytes w ++ wordBytes l else wordBytes w

/-- The bytes of an engine word. -/
def engineBytes (w : BitVec 16) : List Byte := Machine.leBytes 2 w.toNat

/-- The bytes of a command entry. -/
def commandBytes (op : BitVec 8) (c : Cmd) : List Byte :=
  wordBytes (c.w0 ++ op) ++ wordBytes c.addr ++ wordBytes c.arg ++ wordBytes c.done

/-- The encoder: the stream of an instruction and its words; none for a step of another agent. -/
def encode (i : Instr) : Option (Stream × List Byte) :=
  match i with
  | .iadd o => some (.compute, computeBytes (putV3 0x00#8 o) o.lit o.literal)
  | .isub o => some (.compute, computeBytes (putV3 0x01#8 o) o.lit o.literal)
  | .iadds o => some (.compute, computeBytes (putV3 0x02#8 o) o.lit o.literal)
  | .iadd64 o => some (.compute, computeBytes (putV3 0x03#8 o) o.lit o.literal)
  | .isub64 o => some (.compute, computeBytes (putV3 0x04#8 o) o.lit o.literal)
  | .imul o => some (.compute, computeBytes (putV3 0x05#8 o) o.lit o.literal)
  | .imulh o => some (.compute, computeBytes (putV3 0x06#8 o) o.lit o.literal)
  | .imad o => some (.compute, computeBytes (putV3 0x07#8 o) o.lit o.literal)
  | .imadw o => some (.compute, computeBytes (putV3 0x08#8 o) o.lit o.literal)
  | .imin o => some (.compute, computeBytes (putV3 0x09#8 o) o.lit o.literal)
  | .imax o => some (.compute, computeBytes (putV3 0x0A#8 o) o.lit o.literal)
  | .iabs o => some (.compute, computeBytes (putV3 0x0B#8 o) o.lit o.literal)
  | .ineg o => some (.compute, computeBytes (putV3 0x0C#8 o) o.lit o.literal)
  | .and o => some (.compute, computeBytes (putV3 0x10#8 o) o.lit o.literal)
  | .or o => some (.compute, computeBytes (putV3 0x11#8 o) o.lit o.literal)
  | .xor o => some (.compute, computeBytes (putV3 0x12#8 o) o.lit o.literal)
  | .andn o => some (.compute, computeBytes (putV3 0x13#8 o) o.lit o.literal)
  | .not o => some (.compute, computeBytes (putV3 0x14#8 o) o.lit o.literal)
  | .shl o => some (.compute, computeBytes (putV3 0x15#8 o) o.lit o.literal)
  | .shr o => some (.compute, computeBytes (putV3 0x16#8 o) o.lit o.literal)
  | .sar o => some (.compute, computeBytes (putV3 0x17#8 o) o.lit o.literal)
  | .rot o => some (.compute, computeBytes (putV3 0x18#8 o) o.lit o.literal)
  | .fnl o => some (.compute, computeBytes (putV3 0x19#8 o) o.lit o.literal)
  | .bfx o => some (.compute, computeBytes (putV3 0x20#8 o) o.lit o.literal)
  | .bfi o => some (.compute, computeBytes (putV3 0x21#8 o) o.lit o.literal)
  | .popc o => some (.compute, computeBytes (putV3 0x22#8 o) o.lit o.literal)
  | .clz o => some (.compute, computeBytes (putV3 0x23#8 o) o.lit o.literal)
  | .ctz o => some (.compute, computeBytes (putV3 0x24#8 o) o.lit o.literal)
  | .brev o => some (.compute, computeBytes (putV3 0x25#8 o) o.lit o.literal)
  | .bilv o => some (.compute, computeBytes (putV3 0x26#8 o) o.lit o.literal)
  | .bdil o => some (.compute, computeBytes (putV3 0x27#8 o) o.lit o.literal)
  | .isel o => some (.compute, computeBytes (putV3 0x30#8 o) o.lit o.literal)
  | .icmp o => some (.compute, computeBytes (putV3 0x31#8 o) o.lit o.literal)
  | .lea o => some (.compute, computeBytes (putV3 0x32#8 o) o.lit o.literal)
  | .mov o => some (.compute, computeBytes (putV3 0x33#8 o) o.lit o.literal)
  | .movi o => some (.compute, computeBytes (putVI 0x34#8 o) false 0#64)
  | .movl o => some (.compute, computeBytes (putVI 0x35#8 o) true o.literal)
  | .sreg o => some (.compute, computeBytes (putVI 0x36#8 o) false 0#64)
  | .setp o => some (.compute, computeBytes (putVI 0x37#8 o) false 0#64)
  | .nop o => some (.compute, computeBytes (putSF 0x40#8 o) false 0#64)
  | .bra o => some (.compute, computeBytes (putJF 0x41#8 o) false 0#64)
  | .brx o => some (.compute, computeBytes (putJF 0x42#8 o) false 0#64)
  | .rcvt o => some (.compute, computeBytes (putJF 0x43#8 o) false 0#64)
  | .rcvm o => some (.compute, computeBytes (putSF 0x44#8 o) false 0#64)
  | .call o => some (.compute, computeBytes (putCF 0x45#8 o) true o.literal)
  | .callx o => some (.compute, computeBytes (putCF 0x46#8 o) true o.literal)
  | .ret o => some (.compute, computeBytes (putSF 0x47#8 o) false 0#64)
  | .unwind o => some (.compute, computeBytes (putSF 0x48#8 o) false 0#64)
  | .exit o => some (.compute, computeBytes (putSF 0x49#8 o) false 0#64)
  | .yield o => some (.compute, computeBytes (putSF 0x4A#8 o) false 0#64)
  | .idmc o => some (.compute, computeBytes (putSF 0x4B#8 o) false 0#64)
  | .lead o => some (.compute, computeBytes (putSF 0x4C#8 o) false 0#64)
  | .fadd o => some (.compute, computeBytes (putV3 0x60#8 o) o.lit o.literal)
  | .fsub o => some (.compute, computeBytes (putV3 0x61#8 o) o.lit o.literal)
  | .fmul o => some (.compute, computeBytes (putV3 0x62#8 o) o.lit o.literal)
  | .ffma o => some (.compute, computeBytes (putV3 0x63#8 o) o.lit o.literal)
  | .fmin o => some (.compute, computeBytes (putV3 0x64#8 o) o.lit o.literal)
  | .fmax o => some (.compute, computeBytes (putV3 0x65#8 o) o.lit o.literal)
  | .fcmp o => some (.compute, computeBytes (putV3 0x66#8 o) o.lit o.literal)
  | .fsel o => some (.compute, computeBytes (putV3 0x67#8 o) o.lit o.literal)
  | .frnd o => some (.compute, computeBytes (putV3 0x68#8 o) o.lit o.literal)
  | .fdot2 o => some (.compute, computeBytes (putV3 0x69#8 o) o.lit o.literal)
  | .frcp o => some (.compute, computeBytes (putV3 0x70#8 o) o.lit o.literal)
  | .frsq o => some (.compute, computeBytes (putV3 0x71#8 o) o.lit o.literal)
  | .fsqrt o => some (.compute, computeBytes (putV3 0x72#8 o) o.lit o.literal)
  | .fexp2 o => some (.compute, computeBytes (putV3 0x73#8 o) o.lit o.literal)
  | .flog2 o => some (.compute, computeBytes (putV3 0x74#8 o) o.lit o.literal)
  | .fsin o => some (.compute, computeBytes (putV3 0x75#8 o) o.lit o.literal)
  | .fcos o => some (.compute, computeBytes (putV3 0x76#8 o) o.lit o.literal)
  | .fcvt o => some (.compute, computeBytes (putV3 0x80#8 o) o.lit o.literal)
  | .cvtn o => some (.compute, computeBytes (putV3 0x81#8 o) o.lit o.literal)
  | .fsplit3 o => some (.compute, computeBytes (putV3 0x82#8 o) o.lit o.literal)
  | .hadd2 o => some (.compute, computeBytes (putV3 0x90#8 o) o.lit o.literal)
  | .hmul2 o => some (.compute, computeBytes (putV3 0x91#8 o) o.lit o.literal)
  | .hfma2 o => some (.compute, computeBytes (putV3 0x92#8 o) o.lit o.literal)
  | .shfl o => some (.compute, computeBytes (putV3 0xA0#8 o) o.lit o.literal)
  | .vote o => some (.compute, computeBytes (putV3 0xA1#8 o) o.lit o.literal)
  | .redl o => some (.compute, computeBytes (putV3 0xA2#8 o) o.lit o.literal)
  | .prmt o => some (.compute, computeBytes (putV3 0xA3#8 o) o.lit o.literal)
  | .matchLanes o => some (.compute, computeBytes (putV3 0xA4#8 o) o.lit o.literal)
  | .tex o => some (.compute, computeBytes (putV3 0xA8#8 o) o.lit o.literal)
  | .texg o => some (.compute, computeBytes (putV3 0xA9#8 o) o.lit o.literal)
  | .edge o => some (.compute, computeBytes (putV3 0xAA#8 o) o.lit o.literal)
  | .viewx o => some (.compute, computeBytes (putV3 0xAB#8 o) o.lit o.literal)
  | .packc o => some (.compute, computeBytes (putV3 0xAC#8 o) o.lit o.literal)
  | .ld o => some (.compute, computeBytes (putMF 0xB0#8 o) false 0#64)
  | .st o => some (.compute, computeBytes (putMF 0xB1#8 o) false 0#64)
  | .lds o => some (.compute, computeBytes (putMF 0xB2#8 o) false 0#64)
  | .sts o => some (.compute, computeBytes (putMF 0xB3#8 o) false 0#64)
  | .ldb o => some (.compute, computeBytes (putXF 0xB4#8 o) false 0#64)
  | .stb o => some (.compute, computeBytes (putXF 0xB5#8 o) false 0#64)
  | .ldx o => some (.compute, computeBytes (putXF 0xB6#8 o) false 0#64)
  | .stx o => some (.compute, computeBytes (putXF 0xB7#8 o) false 0#64)
  | .ldc o => some (.compute, computeBytes (putMF 0xB8#8 o) false 0#64)
  | .prf o => some (.compute, computeBytes (putMF 0xB9#8 o) false 0#64)
  | .atom o => some (.compute, computeBytes (putMF 0xBA#8 o) false 0#64)
  | .red o => some (.compute, computeBytes (putMF 0xBB#8 o) false 0#64)
  | .cas o => some (.compute, computeBytes (putMF 0xBC#8 o) false 0#64)
  | .fence o => some (.compute, computeBytes (putSF 0xBD#8 o) false 0#64)
  | .waita o => some (.compute, computeBytes (putMF 0xBE#8 o) false 0#64)
  | .copyt o => some (.compute, computeBytes (putSF 0xC0#8 o) false 0#64)
  | .copy16 o => some (.compute, computeBytes (putSF 0xC1#8 o) false 0#64)
  | .cwait o => some (.compute, computeBytes (putSF 0xC2#8 o) false 0#64)
  | .cwmk o => some (.compute, computeBytes (putSF 0xC3#8 o) false 0#64)
  | .bari o => some (.compute, computeBytes (putSF 0xC8#8 o) false 0#64)
  | .bara o => some (.compute, computeBytes (putSF 0xC9#8 o) false 0#64)
  | .barw o => some (.compute, computeBytes (putSF 0xCA#8 o) false 0#64)
  | .bars o => some (.compute, computeBytes (putSF 0xCB#8 o) false 0#64)
  | .barp o => some (.compute, computeBytes (putSF 0xCC#8 o) false 0#64)
  | .rini o => some (.compute, computeBytes (putSF 0xD0#8 o) false 0#64)
  | .rclm o => some (.compute, computeBytes (putSF 0xD1#8 o) false 0#64)
  | .rpub o => some (.compute, computeBytes (putSF 0xD2#8 o) false 0#64)
  | .rwfl o => some (.compute, computeBytes (putSF 0xD3#8 o) false 0#64)
  | .rrel o => some (.compute, computeBytes (putSF 0xD4#8 o) false 0#64)
  | .rwfr o => some (.compute, computeBytes (putSF 0xD5#8 o) false 0#64)
  | .fnew o => some (.compute, computeBytes (putSF 0xD8#8 o) false 0#64)
  | .fset o => some (.compute, computeBytes (putSF 0xD9#8 o) false 0#64)
  | .fwait o => some (.compute, computeBytes (putSF 0xDA#8 o) false 0#64)
  | .tspn o => some (.compute, computeBytes (putSF 0xDB#8 o) false 0#64)
  | .tend o => some (.compute, computeBytes (putSF 0xDC#8 o) false 0#64)
  | .lkaq o => some (.compute, computeBytes (putSF 0xDD#8 o) false 0#64)
  | .lkrl o => some (.compute, computeBytes (putSF 0xDE#8 o) false 0#64)
  | .ores o => some (.compute, computeBytes (putSF 0xE0#8 o) false 0#64)
  | .orel o => some (.compute, computeBytes (putSF 0xE1#8 o) false 0#64)
  | .mseq o => some (.compute, computeBytes (putSF 0xE2#8 o) false 0#64)
  | .trap o => some (.compute, computeBytes (putSF 0xF0#8 o) false 0#64)
  | .bkpt o => some (.compute, computeBytes (putSF 0xF1#8 o) false 0#64)
  | .rdc o => some (.compute, computeBytes (putSF 0xF2#8 o) false 0#64)
  | .wrc o => some (.compute, computeBytes (putSF 0xF3#8 o) false 0#64)
  | .rett o => some (.compute, computeBytes (putSF 0xF4#8 o) false 0#64)
  | .perfRd o => some (.compute, computeBytes (putSF 0xF5#8 o) false 0#64)
  | .perfMark o => some (.compute, computeBytes (putSF 0xF5#8 o) false 0#64)
  | .timeSliceSwap _ _ _ => none
  | .loadComplete _ _ => none
  | .frameAllocation _ => none
  | .eseSpill _ => none
  | .eseRefill _ _ => none
  | .workgroupBind _ => none
  | .taskStart _ _ _ => none
  | .taskRequeue _ _ => none
  | .copyComplete _ _ => none
  | .copy16Complete _ _ => none
  | .engineOpEnded _ _ => none
  | .matrixOpComplete _ => none
  | .lit v => some (.engine, engineBytes (0#1 ++ v))
  | .engineNop f => some (.engine, engineBytes (putEngine 0x00#5 f))
  | .ext f => some (.engine, engineBytes (putEngine 0x01#5 f))
  | .dup f => some (.engine, engineBytes (putEngine 0x02#5 f))
  | .drop f => some (.engine, engineBytes (putEngine 0x03#5 f))
  | .swap f => some (.engine, engineBytes (putEngine 0x04#5 f))
  | .overWord f => some (.engine, engineBytes (putEngine 0x05#5 f))
  | .add f => some (.engine, engineBytes (putEngine 0x06#5 f))
  | .addi f => some (.engine, engineBytes (putEngine 0x07#5 f))
  | .shape f => some (.engine, engineBytes (putEngine 0x08#5 f))
  | .mma f => some (.engine, engineBytes (putEngine 0x09#5 f))
  | .mmaz f => some (.engine, engineBytes (putEngine 0x0A#5 f))
  | .drain f => some (.engine, engineBytes (putEngine 0x0B#5 f))
  | .drainadd f => some (.engine, engineBytes (putEngine 0x0C#5 f))
  | .drainaddo f => some (.engine, engineBytes (putEngine 0x0D#5 f))
  | .arrive f => some (.engine, engineBytes (putEngine 0x0E#5 f))
  | .waitb f => some (.engine, engineBytes (putEngine 0x0F#5 f))
  | .loop f => some (.engine, engineBytes (putEngine 0x10#5 f))
  | .halt f => some (.engine, engineBytes (putEngine 0x11#5 f))
  | .dmma f => some (.engine, engineBytes (putEngine 0x18#5 f))
  | .dmmaz f => some (.engine, engineBytes (putEngine 0x19#5 f))
  | .dout f => some (.engine, engineBytes (putEngine 0x1A#5 f))
  | .dwt f => some (.engine, engineBytes (putEngine 0x1B#5 f))
  | .dline f => some (.engine, engineBytes (putEngine 0x1C#5 f))
  | .cluNop o => some (.cluster, wordBytes (putCW 0x00#7 o))
  | .cluIadd o => some (.cluster, wordBytes (putCW 0x01#7 o))
  | .cluIsub o => some (.cluster, wordBytes (putCW 0x02#7 o))
  | .cluAnd o => some (.cluster, wordBytes (putCW 0x03#7 o))
  | .cluOr o => some (.cluster, wordBytes (putCW 0x04#7 o))
  | .cluXor o => some (.cluster, wordBytes (putCW 0x05#7 o))
  | .cluShl o => some (.cluster, wordBytes (putCW 0x06#7 o))
  | .cluShr o => some (.cluster, wordBytes (putCW 0x07#7 o))
  | .cluSar o => some (.cluster, wordBytes (putCW 0x08#7 o))
  | .cluImin o => some (.cluster, wordBytes (putCW 0x09#7 o))
  | .cluImax o => some (.cluster, wordBytes (putCW 0x0A#7 o))
  | .cluIcmp o => some (.cluster, wordBytes (putCW 0x0B#7 o))
  | .cluXsel o => some (.cluster, wordBytes (putCW 0x0C#7 o))
  | .cluMov o => some (.cluster, wordBytes (putCW 0x0D#7 o))
  | .cluBr o => some (.cluster, wordBytes (putCW 0x10#7 o))
  | .cluLoopr o => some (.cluster, wordBytes (putCW 0x11#7 o))
  | .cluSetlc o => some (.cluster, wordBytes (putCW 0x12#7 o))
  | .cluEndl o => some (.cluster, wordBytes (putCW 0x13#7 o))
  | .cluGset o => some (.cluster, wordBytes (putCW 0x14#7 o))
  | .cluGlut o => some (.cluster, wordBytes (putCW 0x15#7 o))
  | .cluKpop o => some (.cluster, wordBytes (putCW 0x16#7 o))
  | .cluKpush o => some (.cluster, wordBytes (putCW 0x17#7 o))
  | .cluQlen o => some (.cluster, wordBytes (putCW 0x18#7 o))
  | .cluFadd o => some (.cluster, wordBytes (putCW 0x20#7 o))
  | .cluFmul o => some (.cluster, wordBytes (putCW 0x21#7 o))
  | .cluFfma o => some (.cluster, wordBytes (putCW 0x22#7 o))
  | .cluFmin o => some (.cluster, wordBytes (putCW 0x23#7 o))
  | .cluFmax o => some (.cluster, wordBytes (putCW 0x24#7 o))
  | .cluFcmp o => some (.cluster, wordBytes (putCW 0x25#7 o))
  | .cluFcvt o => some (.cluster, wordBytes (putCW 0x26#7 o))
  | .cluShuf o => some (.cluster, wordBytes (putCW 0x30#7 o))
  | .cluLerp o => some (.cluster, wordBytes (putCW 0x31#7 o))
  | .cluWarp o => some (.cluster, wordBytes (putCW 0x32#7 o))
  | .cluPose o => some (.cluster, wordBytes (putCW 0x33#7 o))
  | .cluSdrv o => some (.cluster, wordBytes (putCW 0x34#7 o))
  | .cluPack o => some (.cluster, wordBytes (putCW 0x35#7 o))
  | .cluLcpy o => some (.cluster, wordBytes (putCW 0x36#7 o))
  | .cluLdl o => some (.cluster, wordBytes (putCW 0x40#7 o))
  | .cluStl o => some (.cluster, wordBytes (putCW 0x41#7 o))
  | .fetch o => some (.selFetch, wordBytes (putEW0 1#4 o) ++ wordBytes (putEW1 o))
  | .store o => some (.selStore, wordBytes (putEW0 1#4 o) ++ wordBytes (putEW1 o))
  | .emit o => some (.selStore, wordBytes (putEW0 2#4 o) ++ wordBytes (putEW1 o))
  | .fetchRunComplete _ => none
  | .lineCopyStart _ => none
  | .lineScheduleStart _ => none
  | .scanOutLine _ => none
  | .reelRead _ => none
  | .frameReturn _ => none
  | .selhamLaunchEnd => none
  | .lineCoreReload _ => none
  | .dmeRestart => none
  | .poseCommit _ _ => none
  | .launch c => some (.command, commandBytes 0x01#8 c)
  | .selham c => some (.command, commandBytes 0x02#8 c)
  | .prio c => some (.command, commandBytes 0x03#8 c)
  | .preempt c => some (.command, commandBytes 0x04#8 c)
  | .resume c => some (.command, commandBytes 0x05#8 c)
  | .waitCmd c => some (.command, commandBytes 0x06#8 c)
  | .tlbinv c => some (.command, commandBytes 0x07#8 c)
  | .workgroupSave _ _ => none
  | .preemptTimeout _ => none
  | .launchCompletion _ _ => none
  | .doorbell _ _ _ => none
  | .contextKill _ _ => none
  | .killAll _ => none
  | .heartbeat => none
  | .heartbeatTimeout => none
  | .standinReload _ => none
  | .firmwareMemoryError _ => none
  | .debugStop _ _ => none
  | .debugStepGroup _ _ => none
  | .debugStepEntry _ _ _ _ => none
  | .debugResume _ _ => none
  | .l2sPwayWrite _ _ => none
  | .l2sVfwayWrite _ _ _ => none
  | .wayWalkComplete _ => none
  | .registerWrite _ _ _ => none
  | .createQueue _ _ _ => none
  | .vfConfigWrite _ _ => none
  | .vfCreate _ _ _ => none
  | .vfDestroy _ => none
  | .domainMove _ _ => none
  | .iaRanges _ _ _ _ => none
  | .attestationReport _ _ => none
  | .pluginLoad _ _ => none
  | .pluginCall _ _ _ => none
  | .boot _ _ _ _ => none
  | .thermalStop _ => none
  | .thermalRestart => none
  | .thermalHold _ => none
  | .hostAccessTimeout => none
  | .hostMemAccess _ _ _ _ _ _ => none
  | .hostSnoop _ _ => none
  | .stage2FaultResolve => none
  | .sifterMerge _ _ => none
  | .patrolScrub _ _ => none
  | .frameRetirement _ _ => none
  | .sliceRequest _ _ => none
  | .sideQueueRetry _ _ => none
  | .lineFill _ _ _ _ => none
  | .writeBackComplete _ _ => none
  | .lineYield _ => none
  | .drainAddArrive _ _ => none
  | .orderedContribution _ _ => none
  | .sequenceTimeout _ _ _ => none
  | .routerFlit _ _ _ => none
  | .linkDown _ _ _ => none
  | .linkRetry _ _ _ => none
  | .dieLinkFlitReceive _ _ _ => none
  | .dieLinkAck _ _ => none
  | .dieLinkNak _ _ => none
  | .dieLinkReplayTimeout _ _ => none
  | .dieLinkDown _ => none
  | .crossDieReceive _ => none
  | .beacon _ _ => none
  | .eventStamp => none
  | .errorRecord => none
  | .correctedReport _ => none
  | .swapthrExpiry _ _ _ => none
  | .powerLimitStep _ => none
  | .linkRetrain _ _ _ _ => none
  | .frameOwnerChange _ _ _ => none
  | .unassignedOpcode w => some (.compute, wordBytes w)
  | .unassignedEngineWord w => some (.engine, engineBytes w)

/-! ## The host's word -/

/-- The instruction that a word of the opcode table decodes to: 16 bits are an engine word, 64 bits a
compute word (the literal word, above them, is 0). -/
def decodeTableWord (nbits w : Nat) : Option Instr :=
  if nbits = 16 then
    match decode .engine (Machine.leBytes 2 w) with
    | .ok (i, _) => some i
    | .error _ => none
  else if nbits = 64 then
    match decode .compute (Machine.leBytes 16 w) with
    | .ok (i, _) => some i
    | .error _ => none
  else if nbits = 128 then
    match decode .compute (Machine.leBytes 16 w) with
    | .ok (i, _) => some i
    | .error _ => none
  else none

end Sys2Proof
end

