-- ==== Sys2Proof/Machine/Memory.lean ====
section
/-! DEFINITION. Device memory: bytes, poison, the L2 placement of an address, the tables of a virtual
function, and address translation in two stages (R85, R88-R95, R415, R416). -/

namespace Sys2Proof.Machine

/-! ## Bytes -/

/-- What an unlisted address reads as (DESIGN CHOICE, log 1). -/
def Memory.absent : Byte := 0

/-- The canonical form of a memory: addresses strictly rising, no entry that an unlisted address reads as. -/
def Memory.wf (m : List Host.Cell) : Bool := KMap.canon m Memory.absent

/-- One byte of a memory. -/
def Memory.byte (m : List Host.Cell) (a : Nat) : Byte := KMap.getD m a Memory.absent

/-- One byte written. -/
def Memory.setByte (m : List Host.Cell) (a : Nat) (v : Byte) : List Host.Cell := KMap.putD m a v Memory.absent

/-- Consecutive bytes written from address `a` upward. -/
def Memory.write : List Host.Cell → Nat → List Byte → List Host.Cell
  | m, _, [] => m
  | m, a, b :: t => Memory.write (Memory.setByte m a b) (a + 1) t

/-- The byte at PA `a`: stored, or cipher noise in a frame whose key was erased (R355). -/
def State.byte (s : State) (a : Nat) : Byte :=
  if s.noise.isEmpty then Memory.byte s.mem a
  else if s.noise.contains (a / 65536) then Config.cipherNoise a else Memory.byte s.mem a

/-- `n` bytes from PA `a`. -/
def State.bytes (s : State) (a n : Nat) : List Byte := (List.range n).map fun i => s.byte (a + i)

/-- The little-endian number in the `n` bytes from PA `a` (R5). -/
def State.readNat (s : State) (a n : Nat) : Nat := leNat (s.bytes a n)

/-- The eight bytes at PA `a`. -/
def State.word (s : State) (a : Nat) : W64 := BitVec.ofNat 64 (s.readNat a 8)

/-- The state with the bytes from PA `a` written, and nothing else changed. -/
def State.poke (s : State) (a : Nat) (bs : List Byte) : State := { s with mem := Memory.write s.mem a bs }

/-! ## Placement -/

/-- The home die of a PA (R18, R88). -/
def homeDie (pa : Nat) : Nat := bits pa 41 40

/-- The L2 slice of a PA on its home die (R85). -/
def sliceOf (pa : Nat) : Nat :=
  bits pa 10 7 ^^^ bits pa 14 11 ^^^ bits pa 18 15 ^^^ bits pa 22 19 ^^^ bits pa 26 23 ^^^ bits pa 30 27
    ^^^ bits pa 34 31 ^^^ bits pa 38 35 ^^^ bits pa 39 39

/-- The L2 set of a PA (R85). -/
def cacheSet (pa : Nat) : Nat := bits pa 21 11 ^^^ bits pa 32 22

/-- The colour of a PA (R85). -/
def colourOf (pa : Nat) : Nat := bits pa 21 16 ^^^ bits pa 32 27

/-- The channel of a PA (R89). -/
def channelOf (pa : Nat) : Nat := bits pa 39 8 % 6

/-- A populated offset of its die: below 72 GiB (R88). -/
def populated (pa : Nat) : Bool := decide (pa < 2 ^ 42) && decide (pa % 2 ^ 40 < 0x1200000000)

/-- The 128-byte line of a PA. -/
def lineOf (pa : Nat) : Nat := pa / 128

/-! ## Virtual functions -/

/-- The virtual function numbered `v`. -/
def State.vf (s : State) (v : Nat) : Vf := KMap.getD s.vfs v Vf.reset

/-- The state with virtual function `v` replaced. -/
def State.setVf (s : State) (v : Nat) (x : Vf) : State := { s with vfs := KMap.put s.vfs v x }

def Vf.valid (x : Vf) : Bool := x.cfg.w00.getLsbD 63
/-- DOMAINS: bit k says that domain Dk belongs to the virtual function (R356). -/
def Vf.ownsDomain (x : Vf) (k : Nat) : Bool := decide (k < 12) && x.cfg.w00.getLsbD (32 + k)
/-- WEIGHT: W of R51 (R356). -/
def Vf.weight (x : Vf) : Nat := bits x.cfg.w00.toNat 31 24
/-- ECC of domain k (R356). -/
def Vf.ecc (x : Vf) (k : Nat) : Bool := decide (k < 12) && x.cfg.w00.getLsbD k
def Vf.taskBase (x : Vf) : Nat := bits x.cfg.w08.toNat 54 0
def Vf.taskCnt (x : Vf) : Nat := bits x.cfg.w10.toNat 31 0
def Vf.regBase (x : Vf) : Nat := bits x.cfg.w18.toNat 54 0
def Vf.regCnt (x : Vf) : Nat := bits x.cfg.w20.toNat 16 0
def Vf.tqBase (x : Vf) : Nat := bits x.cfg.w28.toNat 54 0
def Vf.tqCnt (x : Vf) : Nat := bits x.cfg.w30.toNat 4 0

/-- The virtual function whose domain k has in-band ECC (R22). -/
def State.eccOn (s : State) (k : Nat) : Bool := s.vfs.any fun e => e.2.valid && e.2.ownsDomain k && e.2.ecc k

/-- The memory of a domain, a third of its die's 72 GiB, and the 1/32 of it that check bits take (R22) (DEDUCED, log 12). -/
def domainBytes : Nat := 0x600000000
def eccBytes : Nat := domainBytes / 32

/-- The first offset on its die of the range that firmware withholds for the check bits of domain `k`: a free multiple of
64 KiB that leaves the range within the domain's memory. -/
def eccStart (k : Nat) : Nat :=
  k % 3 * domainBytes + Config.eccBase k % ((domainBytes - eccBytes) / 65536 + 1) * 65536

/-- A PA in a range that firmware withholds for check bits (R90). -/
def State.withheld (s : State) (pa : Nat) : Bool :=
  (List.range 12).any fun k =>
    s.eccOn k && decide (homeDie pa = k / 3) && decide (eccStart k ≤ pa % 2 ^ 40)
      && decide (pa % 2 ^ 40 < eccStart k + eccBytes)

/-- The owner byte of a frame (R354). -/
def State.ownerOf (s : State) (frame : Nat) : Byte := KMap.getD s.fwc.owners frame 0

/-- A frame with ENC = 1 that belongs to another virtual function: it is that one's alone (R354). -/
def State.foreign (s : State) (v frame : Nat) : Bool :=
  (s.ownerOf frame).getLsbD 7 && decide ((s.ownerOf frame).toNat % 128 ≠ v)

/-! ## Translation -/

/-- What an access needs of a page (R92). -/
inductive Acc where
  | rd
  | wr
  | ex
  deriving DecidableEq, Repr

/-- The answer of a translation: a PA and PRES, a register page and offset, or a refusal with its cause,
its stage and, for stage 2, the intermediate address that stage 2 refused (R94). -/
inductive XRes where
  | mem (pa : Nat) (pres : Bool)
  | mmio (page : MmioPage) (off : Nat)
  | bad (cause : Cause) (stage2 : Bool) (ia : Nat)
  deriving DecidableEq, Repr

/-- A level-0 or level-1 entry that a walk can follow: V, not LEAF, reserved bits 0 (R92). -/
def ptrOk (e : Nat) : Bool := bit e 0 && !bit e 1 && decide (bits e 63 42 = 0) && decide (bits e 15 8 = 0)

/-- A level-2 entry that is a valid leaf (R92). -/
def leafOk (e : Nat) : Bool := bit e 0 && bit e 1 && decide (bits e 63 42 = 0) && decide (bits e 15 8 = 0)

/-- FRAME of an entry as an address. -/
def frameOf (e : Nat) : Nat := bits e 41 16 * 65536

/-- The index that level `l` of a walk takes from an address (R91). -/
def walkIndex (a l : Nat) : Nat := bits a (54 - 13 * l) (42 - 13 * l)

/-- The leaf permits the access (R92). -/
def permits (leaf : Nat) (acc : Acc) : Bool :=
  match acc with
  | .rd => bit leaf 2
  | .wr => bit leaf 3
  | .ex => bit leaf 4

/-- The cause of a refusal: COPY_ON_WRITE for a refused write whose entry has COW (R94). -/
def denial (leaf : Nat) (acc : Acc) : Cause :=
  match acc with
  | .wr => if bit leaf 7 then .copyOnWrite else .permission
  | .rd => .permission
  | .ex => .permission

/-- The page's stage-2 entry has lost its W for a merge or a retirement (R410, R420). -/
def State.inWindow (s : State) (v page : Nat) : Bool :=
  s.fwc.window.any fun w => w.entries.any fun e => decide (e.1 = v) && decide (e.2.1 = page)

/-- The entry that a TLB holds for a page of one stage. -/
def tlbFind (t : List TlbEnt) (v : Nat) (st2 : Bool) (page : Nat) : Option Nat :=
  (t.find? fun e => decide (e.vf = v) && (e.stage2 == st2) && decide (e.page = page)).map fun e => e.leaf.toNat

/-- A cached leaf where it permits the access, and the walked one otherwise (R94). -/
def cachedOr (cached : Option Nat) (acc : Acc) (walk : Option Nat) : Option Nat :=
  match cached with
  | some l => if permits l acc then some l else walk
  | none => walk

/-- A stage-2 walk: the leaf of an intermediate address (R91, R92). -/
def State.walk2 (s : State) (root : Nat) (ia : Nat) : Option Nat :=
  let e0 := s.readNat (root + 8 * walkIndex ia 0) 8
  if !ptrOk e0 || !populated (frameOf e0) then none
  else
    let e1 := s.readNat (frameOf e0 + 8 * walkIndex ia 1) 8
    if !ptrOk e1 || !populated (frameOf e1) then none
    else
      let e2 := s.readNat (frameOf e1 + 8 * walkIndex ia 2) 8
      if leafOk e2 then some e2 else none

/-- Stage 2: an intermediate address of virtual function `v` (R88, R94). A frame that is not populated has no translation; one
withheld for check bits, or another virtual function's with ENC = 1, is refused with PERMISSION (R90, R354; the cause of the
latter DEDUCED, log 7). A store to a page that is being merged or moved is refused with COPY_ON_WRITE (R410). Each page is
translated by its own entry, in a 32 MiB group that breaks R93 too (DESIGN CHOICE, log 40). -/
def State.xlate2 (s : State) (t : List TlbEnt) (v : Nat) (ia : Nat) (acc : Acc) : XRes :=
  let x := s.vf v
  if 2 ^ 55 ≤ ia then .bad .translation true ia
  else
    match x.mmio.find? fun p => decide (p.1 = ia / 65536) with
    | some (_, pg) =>
      match acc with
      | .ex => .bad .permission true ia
      | .rd => .mmio pg (ia % 65536)
      | .wr => .mmio pg (ia % 65536)
    | none =>
      match x.root2 with
      | none => .bad .translation true ia
      | some root =>
        match cachedOr (tlbFind t v true (ia / 65536)) acc (s.walk2 root ia) with
        | none => .bad .translation true ia
        | some leaf =>
          let pa := frameOf leaf + ia % 65536
          if !populated pa then .bad .translation true ia
          else if s.withheld pa || s.foreign v (pa / 65536) then .bad .permission true ia
          else if !permits leaf acc then
            .bad (if acc = .wr && s.inWindow v (ia / 65536) then .copyOnWrite else denial leaf acc) true ia
          else .mem pa (bit leaf 6)

/-- A stage-1 table entry read at its intermediate address through stage 2 (R94). -/
def State.entry1 (s : State) (t : List TlbEnt) (v : Nat) (ia : Nat) : Except XRes Nat :=
  match s.xlate2 t v ia .rd with
  | .mem pa _ => .ok (s.readNat pa 8)
  | .mmio _ _ => .error (.bad .translation true ia)
  | .bad c st i => .error (.bad c st i)

/-- A stage-1 walk: the leaf of a VA, or the refusal (R91, R94). -/
def State.walk1 (s : State) (t : List TlbEnt) (v root : Nat) (va : Nat) : Except XRes Nat :=
  match s.entry1 t v (root + 8 * walkIndex va 0) with
  | .error r => .error r
  | .ok e0 =>
    if !ptrOk e0 then .error (.bad .translation false 0)
    else
      match s.entry1 t v (frameOf e0 + 8 * walkIndex va 1) with
      | .error r => .error r
      | .ok e1 =>
        if !ptrOk e1 then .error (.bad .translation false 0)
        else
          match s.entry1 t v (frameOf e1 + 8 * walkIndex va 2) with
          | .error r => .error r
          | .ok e2 => if leafOk e2 then .ok e2 else .error (.bad .translation false 0)

/-- The stage-1 leaf of a VA: the cached one where it permits the access, else a walk. -/
def State.leaf1 (s : State) (t : List TlbEnt) (v va : Nat) (acc : Acc) : Except XRes Nat :=
  match (s.vf v).root1 with
  | none => .error (.bad .translation false 0)
  | some root =>
    match tlbFind t v false (va / 65536) with
    | some l => if permits l acc then .ok l else s.walk1 t v root va
    | none => s.walk1 t v root va

/-- Both stages: a VA of virtual function `v`, judged stage 1 first (R91, R94). -/
def State.xlate (s : State) (t : List TlbEnt) (v : Nat) (va : Nat) (acc : Acc) : XRes :=
  if 2 ^ 55 ≤ va then .bad .translation false 0
  else
    match s.leaf1 t v va acc with
    | .error r => r
    | .ok leaf =>
      if !permits leaf acc then .bad (denial leaf acc) false 0
      else
        match s.xlate2 t v (frameOf leaf + va % 65536) acc with
        | .mem pa pres => .mem pa (pres || bit leaf 6)
        | .mmio pg off => .mmio pg off
        | .bad c st ia => .bad c st ia

/-! ## TLBs -/

/-- The TLB entries that an access of core `c` can use: its L1 TLB and its die's TLB (R94). -/
def State.tlbOf (s : State) (c : Nat) : List TlbEnt :=
  (KMap.getD s.cores c Core.reset).tlb ++ (KMap.getD s.dies (c / 48) Die.reset).tlb

/-- A TLB with one more entry, the oldest dropped beyond `cap`. -/
def tlbAdd (cap : Nat) (t : List TlbEnt) (e : TlbEnt) : List TlbEnt :=
  if t.contains e then t else (e :: t.filter fun x => !(decide (x.vf = e.vf) && (x.stage2 == e.stage2) && decide (x.page = e.page))).take cap

/-- The leaves that a translated access of core `c` leaves in the L1 TLB (128 entries) and the die TLB
(16K entries) (R94). -/
def State.noteXlate (s : State) (c v va : Nat) (acc : Acc) : State :=
  let t := s.tlbOf c
  match s.leaf1 t v va acc with
  | .error _ => s
  | .ok leaf =>
    let ia := frameOf leaf + va % 65536
    let e1 : TlbEnt := { vf := v, stage2 := false, page := va / 65536, leaf := BitVec.ofNat 64 leaf }
    let adds := match (s.vf v).root2 with
      | none => [e1]
      | some root =>
        match cachedOr (tlbFind t v true (ia / 65536)) acc (s.walk2 root ia) with
        | none => [e1]
        | some l2 => [e1, { vf := v, stage2 := true, page := ia / 65536, leaf := BitVec.ofNat 64 l2 }]
    let k := KMap.getD s.cores c Core.reset
    let d := KMap.getD s.dies (c / 48) Die.reset
    { s with
      cores := KMap.put s.cores c { k with tlb := adds.foldl (tlbAdd 128) k.tlb }
      dies := KMap.put s.dies (c / 48) { d with tlb := adds.foldl (tlbAdd 16384) d.tlb } }

/-- Every cached translation that `p` selects is dropped (R351, R406). -/
def State.dropTlb (s : State) (p : TlbEnt → Bool) : State :=
  { s with
    cores := s.cores.map fun e => (e.1, { e.2 with tlb := e.2.tlb.filter fun x => !p x })
    dies := s.dies.map fun e => (e.1, { e.2 with tlb := e.2.tlb.filter fun x => !p x }) }

/-! ## Poison (R415, R416) -/

/-- A line of memory homed on a die that no path reaches (R441). -/
def State.lostHome (s : State) (pa : Nat) : Bool := (KMap.get? s.dies (homeDie pa)).any fun d => d.lost

/-- The line of a PA is poisoned; memory of a lost die reads so (R441). -/
def State.poisoned (s : State) (pa : Nat) : Bool := s.poison.contains (lineOf pa) || s.lostHome pa

/-- The lines that a list of (PA, bytes) writes covers whole. -/
def wholeLines (ws : List (Nat × List Byte)) : List Nat :=
  let covered := ws.foldl (fun acc w => (List.range w.2.length).map (fun i => w.1 + i) ++ acc) []
  ((ws.map fun w => lineOf w.1).eraseDups).filter fun l => (List.range 128).all fun i => covered.contains (128 * l + i)

/-- A write to a line wakes every entry with a monitor armed on it: all monitors of that entry go (R225). -/
def Quarter.wake (q : Quarter) (lines : List Nat) : Quarter :=
  let hit := q.monitors.filter fun m => lines.contains m.1
  if hit.isEmpty then q
  else { q with monitors := q.monitors.filter fun m => !hit.any fun h => decide (h.2 = m.2) }

def State.wakeMonitors (s : State) (lines : List Nat) : State :=
  { s with cores := s.cores.map fun e => (e.1, { e.2 with quarters := e.2.quarters.map fun q => q.wake lines }) }

end Sys2Proof.Machine
end

