-- ==== Sys2Proof/Machine/Events.lean ====
section
/-! DEFINITION. Causes, classes and hardware codes, and the events that sources raise for the event
arbiter (R367, R375, R376, R378). -/

namespace Sys2Proof.Machine

/-- The cause code of R367. -/
def Cause.code : Cause → Nat
  | .illegalOpcode => 0x01
  | .reservedField => 0x02
  | .shadowRead => 0x03
  | .frameDemand => 0x04
  | .regRange => 0x05
  | .misaligned => 0x06
  | .translation => 0x07
  | .permission => 0x08
  | .copyOnWrite => 0x09
  | .handleStale => 0x0A
  | .handleBounds => 0x0B
  | .scopeDenied => 0x0C
  | .codecRegion => 0x0D
  | .oresConflict => 0x0E
  | .matrixShape => 0x0F
  | .barrierMisuse => 0x10
  | .ringMisuse => 0x11
  | .unwindEmpty => 0x12
  | .reconvDepth => 0x13
  | .spillArea => 0x14
  | .swTrap => 0x15
  | .breakpoint => 0x16
  | .dataUncorrectable => 0x17
  | .fpException => 0x18
  | .queueOverflow => 0x40
  | .queueUnderflow => 0x41
  | .scheduleViolation => 0x42
  | .streamApart => 0x43
  | .tokenMisuse => 0x44
  | .engineStack => 0x50
  | .engineWord => 0x51

/-- The hardware codes of R376. -/
def codeCorrected : Nat := 0x80
def codeUncorrected : Nat := 0x81
def codeParity : Nat := 0x82
def codeLinkRetry : Nat := 0x83
def codeLinkDown : Nat := 0x84
def codeRouteDrop : Nat := 0x85
def codeThermal : Nat := 0x86
def codeHostDenied : Nat := 0x87
def codeEngineDrop : Nat := 0x88
def codeSeqReject : Nat := 0x89
def codeMark : Nat := 0x8A
def codeTakeover : Nat := 0x8B
def codeLateLine : Nat := 0x8C

/-- An event with nothing in it; VF 127 names no virtual function (R375). -/
def Event.blank : Event :=
  { kind := .record, code := 0, cls := 0, block := 0, die := 0, unit := 0, slot := 0, vf := 127,
    addrVa := false, nested := false, adopted := false, addr := 0, info := 0, task := 0, count := 0,
    launch := none }

/-! ## The sources of R378, one input of the arbiter each -/

def srcCore (c : Nat) : Nat := c
def srcSlice (d j : Nat) : Nat := 192 + 16 * d + j
def srcMemc (d : Nat) : Nat := 256 + d
def srcLink (l e : Nat) : Nat := 260 + 2 * l + e
def srcRouter (d r : Nat) : Nat := 300 + 64 * d + r
def srcSel (u : Nat) : Nat := 700 + u
def srcFw (f : Nat) : Nat := 740 + f
def srcPort (p : Nat) : Nat := 750 + p

/-- The firmware core that is the active scheduler: ACTIVE of FWC_SCHED (R447). -/
def State.activeFw (s : State) : Nat := s.fwc.sched.toNat % 2

/-- The die of an end of a die link: end 0 is the sending one of direction 0 (R17). -/
def linkDie (l e : Nat) : Nat := getAt [0, 1, 0, 2, 1, 3, 2, 3, 0, 4, 1, 4, 2, 4, 3, 4] (2 * l + e % 2) 4

/-- Block number, die and unit number of a source (R35, R375). -/
def srcPlace (n : Nat) : Nat × Nat × Nat :=
  if n < 192 then (0, n / 48, n % 48)
  else if n < 256 then (2, (n - 192) / 16, (n - 192) % 16)
  else if n < 260 then (5, n - 256, 0)
  else if n < 300 then (4, linkDie ((n - 260) / 2) (n % 2), (n - 260) / 2)
  else if n < 700 then (3, (n - 300) / 64, (n - 300) % 64)
  else if n < 716 then (13, 4, n - 700)
  else if n < 717 then (14, 4, 0)
  else if n < 740 then (15, 4, n - 717)
  else if n < 750 then (17, 4, n - 740)
  else (22, 4, n - 750)

/-- The class 0 event of a source with `n` corrections (R376). -/
def correctedEvent (src n : Nat) : Event :=
  { Event.blank with
    code := codeCorrected, cls := 0, block := (srcPlace src).1, die := (srcPlace src).2.1
    unit := (srcPlace src).2.2, count := BitVec.ofNat 64 n }

/-- The events appended to a source's input, in the order raised (R378). -/
def Eva.push (a : Eva) (src : Nat) (evs : List Event) : Eva :=
  { a with inputs := KMap.put a.inputs src (KMap.getD a.inputs src [] ++ evs) }

/-- An input of the arbiter has no room for another event with the corrections that go before it: its source waits (R376,
R378). -/
def State.inputFull (s : State) (src : Nat) : Bool :=
  let n := (KMap.getD s.eva.inputs src []).length + (if KMap.getD s.eva.corrections src 0 = 0 then 0 else 1)
  decide (0 < n) && decide (Config.inputRoom < n)

/-- A source raises an event that is not of class 0; its unsent corrections go first (R376). -/
def State.raise (s : State) (src : Nat) (e : Event) : State :=
  let n := KMap.getD s.eva.corrections src 0
  let evs := if n = 0 then [e] else [correctedEvent src n, e]
  { s with eva := { (s.eva.push src evs) with
    corrections := KMap.del s.eva.corrections src
    reported := if n = 0 then s.eva.reported else KMap.put s.eva.reported src s.clk.time } }

/-- A unit has corrected an error that it has not reported yet (R376). -/
def State.noteCorrection (s : State) (src : Nat) : State :=
  { s with eva := { s.eva with corrections := KMap.put s.eva.corrections src (KMap.getD s.eva.corrections src 0 + 1) } }

/-- A counter of R360 advances by `n`, modulo 2^64. -/
def State.perfAdd (s : State) (v k n : Nat) : State :=
  let x := s.vf v
  s.setVf v { x with perf := setAt x.perf k (getAt x.perf k 0 + BitVec.ofNat 64 n) }

/-- A class 1 event of an access that an agent could not make for virtual function `v` (R453). -/
def accessEvent (src v : Nat) (code : Nat) (addr : Nat) (task : W64) : Event :=
  { Event.blank with
    code := code, cls := 1, block := (srcPlace src).1, die := (srcPlace src).2.1, unit := (srcPlace src).2.2
    vf := v, addrVa := true, addr := BitVec.ofNat 64 addr, task := task }

/-- Such an event of the distributor, which lies on H (R35, R71, R72, R344). -/
def distEvent (v code addr : Nat) (task : W64) : Event :=
  { accessEvent 0 v code addr task with block := 11, die := 4, unit := 0 }

/-- The next free choice among `n` things, and the state that has made it (DESIGN CHOICE, log 3). -/
def State.choice (s : State) (n : Nat) : Nat × State :=
  (Config.choose s.choices % n, { s with choices := s.choices + 1 })

/-! ## Stores -/

/-- The codes that a record of a class can carry: the hardware codes that R376 gives the class, and for classes 1 to 4 the
cause codes of R367. -/
def classCodes (cls : Nat) : List Nat :=
  let causes := (List.range 0x18).map (fun i => i + 1) ++ [0x40, 0x41, 0x42, 0x43, 0x44, 0x50, 0x51]
  match cls with
  | 0 => [0x80]
  | 1 => [0x81, 0x82, 0x84, 0x85, 0x86, 0x87, 0x88, 0x89] ++ causes
  | 4 => [0x83, 0x8A, 0x8B] ++ causes
  | 5 => [0x8C]
  | _ => causes

/-- A code that the manual leaves open, among those of its class (R376). -/
def State.freeCode (s : State) (cls : Nat) : Nat :=
  getAt (classCodes cls) ((Config.freeWord s.frees).toNat % (classCodes cls).length) 0x81

/-- Stores to memory of a lost die are dropped, with a class 1 event whose CODE the manual does not give (R441). -/
def State.storesLost (s : State) (pa : Nat) : State :=
  { s with frees := s.frees + 1 }.raise (srcFw 0)
    { Event.blank with code := s.freeCode 1, cls := 1, block := 17, die := 4, addr := BitVec.ofNat 64 pa }

/-- Lines of 64 bytes that a host's cache may hold are taken back when device memory under them is written (R352). -/
def State.backInvalidate (s : State) (ws : List (Nat × List Byte)) : State :=
  if s.clk.hostHeld.isEmpty then s
  else
    let hit := fun (l : Nat) => ws.any fun w => decide (w.1 < 64 * l + 64) && decide (64 * l < w.1 + w.2.length)
    { s with clk := { s.clk with
      hostHeld := s.clk.hostHeld.filter fun l => !hit l
      hostOut := s.clk.hostOut ++ (s.clk.hostHeld.filter hit).map fun l => HostMsg.backInvalidate (64 * l) } }

/-- The words of 8 bytes that stores replace are kept for the fetches of the launches accepted before (R163). -/
def State.noteOld (s : State) (ws : List (Nat × List Byte)) : State :=
  if s.dist.launches.isEmpty then s
  else
    let words := (ws.flatMap fun w => (List.range ((w.1 % 8 + w.2.length + 7) / 8)).map fun i => w.1 / 8 + i).eraseDups
    let old := words.map fun n => ({ word := n, value := s.word (8 * n), before := s.dist.nextLaunch } : OldWord)
    { s with oldCode := s.oldCode ++ old.filter fun o => !s.oldCode.contains o }

/-- Plain writes to memory: the bytes in list order, so a later entry wins (R138), the poison of a line
that is written whole cleared (R416), and monitors of the written lines gone (R225). -/
def State.storeAll (s : State) (ws : List (Nat × List Byte)) : State :=
  let s := match ws.find? fun w => s.lostHome w.1 with
    | some w => s.storesLost w.1
    | none => s
  let ws := ws.filter fun w => !s.lostHome w.1
  let s1 := ws.foldl (fun a w => a.poke w.1 w.2) (s.noteOld ws)
  let s2 := if s.poison.isEmpty then s1 else
    { s1 with poison := s1.poison.filter fun l => !(wholeLines ws).contains l }
  (s2.backInvalidate ws).wakeMonitors (ws.map fun w => lineOf w.1)

end Sys2Proof.Machine
end

