-- ==== Sys2Proof/Machine/Entries.lean ====
section
/-! DEFINITION. Cores, groups and entries: access to them, registers, predicates, fixed-latency results,
the active set, and the fields of a launch header (R10, R43, R44, R53-R56, R341, R370). -/

namespace Sys2Proof.Machine

/-! ## Launch headers (R341) -/

def LaunchHdr.w (h : LaunchHdr) (i : Nat) : Nat := (getAt h.words i 0).toNat
def LaunchHdr.code (h : LaunchHdr) : Nat := bits (h.w 0) 54 0
/-- Registers of the entry frame (R60). -/
def LaunchHdr.entryF (h : LaunchHdr) : Nat := (bits (h.w 1) 52 48 + 1) * 8
def LaunchHdr.bind (h : LaunchHdr) (i : Nat) : Nat := bits (h.w 1) (37 + 2 * i) (36 + 2 * i)
def LaunchHdr.width (h : LaunchHdr) (i : Nat) : Nat := bits (h.w 1) (6 * i + 5) (6 * i)
def LaunchHdr.ext (h : LaunchHdr) (i : Nat) : Nat := bits (h.w (2 + i)) 32 0
def LaunchHdr.recCnt (h : LaunchHdr) : Nat := bits (h.w 8) 44 32
def LaunchHdr.part (h : LaunchHdr) : Nat := bits (h.w 8) 31 0
def LaunchHdr.recBase (h : LaunchHdr) : Nat := bits (h.w 9) 54 0
def LaunchHdr.trapVec (h : LaunchHdr) : Nat := bits (h.w 10) 54 0
def LaunchHdr.spillBase (h : LaunchHdr) : Nat := bits (h.w 11) 54 0
def LaunchHdr.vf (h : LaunchHdr) : Nat := bits (h.w 12) 38 32
def LaunchHdr.trapInvalid (h : LaunchHdr) : Bool := bit (h.w 12) 25
def LaunchHdr.trapDivZero (h : LaunchHdr) : Bool := bit (h.w 12) 26
def LaunchHdr.trapOverflow (h : LaunchHdr) : Bool := bit (h.w 12) 27
def LaunchHdr.chk (h : LaunchHdr) : Bool := bit (h.w 12) 24
def LaunchHdr.idem (h : LaunchHdr) : Bool := bit (h.w 12) 23
def LaunchHdr.prio (h : LaunchHdr) : Nat := bits (h.w 12) 22 20
def LaunchHdr.spills (h : LaunchHdr) : Nat := bits (h.w 12) 15 0

/-- REGS of a partition word, 0 meaning 16 (R79). -/
def partRegs (p : Nat) : Nat := if bits p 31 27 = 0 then 16 else bits p 31 27
def partAccs (p : Nat) : Nat := bits p 26 20
def partAccw (p : Nat) : Nat := bits p 19 16
def partScrw (p : Nat) : Nat := bits p 11 0

/-- A launch of no work, for a group whose launch is not in the table. -/
def Launch.blank : Launch :=
  { queue := 0, index := 0, hdr := { words := [] }, done := 0, prio := 0, next := 0, returned := [], picked := [],
    saved := [], bound := [], homes := [], total := 0, stopped := false, saves := 0, discards := 0, failure := none,
    failed := none, killed := none, ended := false, written := false }

def State.launch (s : State) (l : Nat) : Launch := KMap.getD s.dist.launches l Launch.blank

def State.setLaunch (s : State) (l : Nat) (x : Launch) : State :=
  { s with dist := { s.dist with launches := KMap.put s.dist.launches l x } }

/-! ## Cores, groups and entries -/

def State.core (s : State) (c : Nat) : Core := KMap.getD s.cores c Core.reset
def State.setCore (s : State) (c : Nat) (k : Core) : State := { s with cores := KMap.put s.cores c k }
def State.die (s : State) (d : Nat) : Die := KMap.getD s.dies d Die.reset
def State.setDie (s : State) (d : Nat) (x : Die) : State := { s with dies := KMap.put s.dies d x }

def Core.group? (k : Core) (slot : Nat) : Option Group := KMap.get? k.groups slot
def Core.setGroup (k : Core) (slot : Nat) (g : Group) : Core := { k with groups := KMap.put k.groups slot g }
def State.setGroup (s : State) (c slot : Nat) (g : Group) : State := s.setCore c ((s.core c).setGroup slot g)

def Group.entry? (g : Group) (id : EntId) : Option Entry := g.entries.find? fun e => decide (e.id = id)

/-- The entry with e's name replaced by `e`. -/
def Group.setEntry (g : Group) (e : Entry) : Group :=
  { g with entries := g.entries.map fun x => if x.id = e.id then e else x }

def Group.delEntry (g : Group) (id : EntId) : Group :=
  { g with entries := g.entries.filter fun x => decide (x.id ≠ id) }

/-- The quarter of a group slot: 128 slots each (R43). -/
def quarterOf (slot : Nat) : Nat := slot / 128

def Quarter.blank : Quarter := Quarter.reset
def Core.quarter (k : Core) (q : Nat) : Quarter := getAt k.quarters q Quarter.blank
def Core.setQuarter (k : Core) (q : Nat) (x : Quarter) : Core := { k with quarters := setAt k.quarters q x }

/-- The active-set place of an entry, if it has one (R44). -/
def Core.placeOf (k : Core) (slot : Nat) (id : EntId) : Option Nat :=
  ((k.quarter (quarterOf slot)).active.find? fun p => decide (p.2.slot = slot) && decide (p.2.ent = id)).map Prod.fst

/-- The workgroup of a group. -/
def Core.wg? (k : Core) (n : Nat) : Option Workgroup := KMap.get? k.wgs n

/-- A workgroup that holds nothing. -/
def Workgroup.blank : Workgroup :=
  { launch := 0, index := 0, vf := 0, isTask := true, idem := false, barriers := [], scratchBase := 0,
    scratchLen := 0, acc := [], res := [], ctx := none, slots := [], saving := false, draining := false
    stopping := false }

def Core.wg (k : Core) (n : Nat) : Workgroup := (k.wg? n).getD Workgroup.blank
def Core.setWg (k : Core) (n : Nat) (w : Workgroup) : Core := { k with wgs := KMap.put k.wgs n w }

/-! ## Predicates (R10, R59) -/

/-- Predicate i in all lanes; `p7` reads true. -/
def Group.pred (g : Group) (i : Nat) : Mask := if i = 7 then 0xFF#8 else g.preds.extractLsb' (8 * i) 8

/-- The lanes `m` of predicate i take the bits of `v`; a write to `p7` is discarded. -/
def Group.setPred (g : Group) (i : Nat) (m v : Mask) : Group :=
  if i = 7 then g
  else
    let nw : Mask := (g.pred i &&& ~~~m) ||| (v &&& m)
    let hole : W64 := ~~~((0xFF#64) <<< (8 * i))
    { g with preds := (g.preds &&& hole) ||| ((nw.setWidth 64) <<< (8 * i)) }

/-- The guard value of every lane (R161). -/
def Group.guard (g : Group) (x : Guard) : Mask :=
  if x.pn then ~~~(g.pred x.pred.toNat) else g.pred x.pred.toNat

/-! ## Registers (R11, R53, R58, R69) -/

/-- A frame, in the register part or in a spill record of the core. -/
def Core.frame? (k : Core) (id : Nat) : Option Frame :=
  match KMap.get? k.frames id with
  | some f => some f
  | none => (k.spills.findSome? fun r => KMap.get? r.2.frames id)

/-- A frame changed where it lies: in the register part, or in the spill record of its group. -/
def Core.updFrame (k : Core) (id : Nat) (f : Frame → Frame) : Core :=
  match KMap.get? k.frames id with
  | some x => { k with frames := KMap.put k.frames id (f x) }
  | none =>
    { k with spills := k.spills.map fun r => match r.2.kind, KMap.get? r.2.frames id with
      | .group _, some x => (r.1, { r.2 with frames := KMap.put r.2.frames id (f x) })
      | _, _ => r }

/-- The register at a place; a register not written since its frame was made reads 0 (R58, R370). -/
def Core.readLoc (k : Core) (l : RegLoc) : Reg :=
  match l with
  | .frame id r =>
    match k.frame? id with
    | some f => KMap.getD f.regs r 0
    | none => 0
  | .trap i r => KMap.getD (KMap.getD k.trapRegs i []) r 0

/-- Lane-bank writes of one register write: the base alone when all deltas are 0, otherwise all eight
banks (R53) (DESIGN CHOICE, log 13). -/
def bankWritesOf (r : Reg) : Nat := if (List.range 8).all fun i => decide (lane r i = lane r 0) then 1 else 8

/-- The lanes `m` of a register written; their poison marks clear (R415). -/
def Core.writeLoc (k : Core) (l : RegLoc) (m : Mask) (v : Reg) : Core :=
  let nw := mergeReg m (k.readLoc l) v
  let k := { k with bankWrites := k.bankWrites + bankWritesOf nw }
  match l with
  | .frame id r =>
    k.updFrame id fun f =>
      { f with regs := KMap.putD f.regs r nw 0, poison := KMap.putD f.poison r (KMap.getD f.poison r 0 &&& ~~~m) 0 }
  | .trap i r =>
    { k with
      trapRegs := KMap.put k.trapRegs i (KMap.putD (KMap.getD k.trapRegs i []) r nw 0)
      trapPoison := KMap.put k.trapPoison i
        (KMap.putD (KMap.getD k.trapPoison i []) r (KMap.getD (KMap.getD k.trapPoison i []) r 0 &&& ~~~m) 0) }

/-- The poisoned lanes of a register (R415). -/
def Core.poisonLoc (k : Core) (l : RegLoc) : Mask :=
  match l with
  | .frame id r =>
    match k.frame? id with
    | some f => KMap.getD f.poison r 0
    | none => 0
  | .trap i r => KMap.getD (KMap.getD k.trapPoison i []) r 0

/-- More lanes of a register marked poisoned (R415). -/
def Core.markPoison (k : Core) (l : RegLoc) (m : Mask) : Core :=
  if m = 0#8 then k
  else
    match l with
    | .frame id r => k.updFrame id fun f => { f with poison := KMap.putD f.poison r (KMap.getD f.poison r 0 ||| m) 0 }
    | .trap i r =>
      { k with
        trapPoison := KMap.put k.trapPoison i
          (KMap.putD (KMap.getD k.trapPoison i []) r (KMap.getD (KMap.getD k.trapPoison i []) r 0 ||| m) 0) }

/-! ## Fixed-latency results (R54, R56) -/

/-- The results that take effect and those that stay pending: a selected one takes every older result of
its own target with it, since writes to one register take effect in issue order (R56). -/
def splitPend (sel : Pend → Bool) : List Pend → List Pend × List Pend
  | [] => ([], [])
  | p :: t =>
    let r := splitPend sel t
    if sel p || t.any (fun q => sel q && decide (q.tgt = p.tgt)) then (p :: r.1, r.2) else (r.1, p :: r.2)

/-- One result written. -/
def Core.applyPend (k : Core) (slot : Nat) (p : Pend) : Core :=
  match p.tgt with
  | .reg l => k.writeLoc l p.mask p.val
  | .pred i =>
    match k.group? slot with
    | some g => k.setGroup slot (g.setPred i p.mask (p.val.extractLsb' 0 8))
    | none => k

/-- The selected results of a group take effect. -/
def Core.settle (k : Core) (slot : Nat) (sel : Pend → Bool) : Core :=
  match k.group? slot with
  | none => k
  | some g =>
    if g.pend.isEmpty then k
    else
      let r := splitPend sel g.pend
      r.1.foldl (fun a p => a.applyPend slot p) (k.setGroup slot { g with pend := r.2 })

/-- Every pending result of an entry completes: it leaves the issue stage (R56). -/
def Core.leaveIssue (k : Core) (slot : Nat) (id : EntId) : Core := k.settle slot fun p => decide (p.by_ = id)

/-- Every pending result of the group completes (R369, R383). -/
def Core.settleAll (k : Core) (slot : Nat) : Core := k.settle slot fun _ => true

/-! ## Waiting and holding -/

/-- A debugger has stopped the group or steps it; a stop that is still pending lets the clock's words issue (R383). -/
def Group.halted (g : Group) : Bool := decide (g.dbg = DbgState.stopped) || decide (g.dbg = DbgState.stepping)

/-- Another entry of the group runs a handler, or a debugger has stopped the group: the entry issues
nothing (R369, R383). -/
def Group.holds (g : Group) (id : EntId) : Bool :=
  g.halted || g.entries.any fun e => decide (e.id ≠ id) && e.handler.isSome

/-- The registers that a variable-latency result keeps busy (R55). -/
def Core.busy (k : Core) (l : RegLoc) : Bool := k.outs.any fun o => o.dests.any fun d => decide (d.loc = l)

/-- An entry without a wait. -/
def Entry.woken (e : Entry) (now : Nat) : Entry := { e with wait := .none, waitFrom := now }

end Sys2Proof.Machine
end

