-- ==== Sys2Proof/Machine/Agents.lean ====
section
/-! DEFINITION. Firmware's resolution of stage-2 faults (R408, R411, R456), and the accesses that a
hardware agent makes for a virtual function (R453). -/

namespace Sys2Proof.Machine

/-! ## Stage-2 resolution -/

/-- The PA of the level-2 entry of an intermediate address, where the pointers to it are valid. -/
def State.leafAddr2 (s : State) (root ia : Nat) : Option Nat :=
  let e0 := s.readNat (root + 8 * walkIndex ia 0) 8
  if !ptrOk e0 then none
  else
    let e1 := s.readNat (frameOf e0 + 8 * walkIndex ia 1) 8
    if !ptrOk e1 then none else some (frameOf e1 + 8 * walkIndex ia 2)

/-- Eight bytes written by firmware at a PA. -/
def State.poke64 (s : State) (a x : Nat) : State := s.poke a (leBytes 8 x)

/-- The memory of a 64 KiB frame set to zero, every byte of each of its lines (R416). -/
def State.zeroFrame (s : State) (f : Nat) : State :=
  { s with
    mem := s.mem.filter fun c => decide (c.1 / 65536 ≠ f)
    poison := s.poison.filter fun l => decide (l / 512 ≠ f)
    noise := s.noise.filter fun x => decide (x ≠ f) }

/-- The frame that stage 2 of a virtual function maps a page to. -/
def State.frameAt (s : State) (v page : Nat) : Option Nat :=
  match (s.vf v).root2 with
  | none => none
  | some root => (s.walk2 root (65536 * page)).map fun leaf => frameOf leaf / 65536

/-- Frames that resolutions took and that the virtual function's stage 2 maps no more are free for it again (R456). -/
def State.reclaim (s : State) (v : Nat) : State :=
  let x := s.vf v
  let used := fun (f : Nat) => x.taken.any fun e => decide (e.1 = f) && decide (s.frameAt v e.2 = some f)
  let back := ((x.taken.map Prod.fst).filter fun f => !used f).eraseDups
  s.setVf v { x with allowance := x.allowance ++ back, taken := x.taken.filter fun e => used e.1 }

/-- A frame that firmware may give to a virtual function: populated, not withheld for check bits, on a die of one of its
domains, and not another's with ENC = 1 (R90, R354, R456). -/
def State.frameFree (s : State) (v f : Nat) : Bool :=
  populated (65536 * f) && !s.withheld (65536 * f) && !s.foreign v f
    && (List.range 3).any fun k => (s.vf v).ownsDomain (3 * homeDie (65536 * f) + k)

/-- Firmware takes a frame of the allowance for a page, on die `d` if it has one there, else the first (R456). A table takes
one for no page. -/
def State.takeFrame (s : State) (v d : Nat) (page : Option Nat) : Option (Nat × State) :=
  let s := s.reclaim v
  let x := s.vf v
  let free := x.allowance.filter (s.frameFree v)
  match (free.find? fun f => decide (homeDie (f * 65536) = d)).orElse (fun _ => free.head?) with
  | none => none
  | some f =>
    let s := s.setVf v { x with
      allowance := x.allowance.erase f, taken := x.taken ++ (page.map fun p => (f, p)).toList }
    let s := { s with fwc := { s.fwc with owners := KMap.put s.fwc.owners f (BitVec.ofNat 8 (128 + v % 128)) } }
    some (f, s.zeroFrame f)

/-- A frame of the allowance as a stage-2 table: one of firmware's own frames (R354) (DESIGN CHOICE, log 14). -/
def State.takeTable (s : State) (v d : Nat) : Option (Nat × State) :=
  (s.takeFrame v d none).map fun x => (x.1, { x.2 with fwc := { x.2.fwc with owners := KMap.put x.2.fwc.owners x.1 0xFF } })

/-- The pointer at `a` made valid, with a fresh table from the allowance where it is not (DESIGN CHOICE, log 14). -/
def State.ensurePtr (s : State) (v d a : Nat) : Option State :=
  if ptrOk (s.readNat a 8) then some s
  else
    match s.takeTable v d with
    | none => none
    | some (f, s) => some (s.poke64 a (f * 65536 + 1))

/-- The stage-2 tables of a virtual function down to the leaf of `ia`. -/
def State.ensureTables (s : State) (v d ia : Nat) : Option (Nat × State) :=
  let withRoot : Option (Nat × State) :=
    match (s.vf v).root2 with
    | some r => some (r, s)
    | none =>
      match s.takeTable v d with
      | none => none
      | some (f, s) => some (f * 65536, s.setVf v { s.vf v with root2 := some (f * 65536) })
  match withRoot with
  | none => none
  | some (root, s) =>
    match s.ensurePtr v d (root + 8 * walkIndex ia 0) with
    | none => none
    | some s =>
      let t1 := frameOf (s.readNat (root + 8 * walkIndex ia 0) 8)
      match s.ensurePtr v d (t1 + 8 * walkIndex ia 1) with
      | none => none
      | some s => some (frameOf (s.readNat (t1 + 8 * walkIndex ia 1) 8) + 8 * walkIndex ia 2, s)

/-- The IA range that holds an intermediate address (R456). -/
def Vf.rangeOf (x : Vf) (ia : Nat) : Option IaRange :=
  x.ranges.find? fun r => decide (r.base ≤ ia / 65536) && decide (ia / 65536 < r.base + r.pages)

/-- A stage-2 leaf of frame `f` with a range's permissions (R92, R456). -/
def leafOf (f : Nat) (r : IaRange) : Nat :=
  f * 65536 + 3 + (if r.rd then 4 else 0) + (if r.wr then 8 else 0) + (if r.ex then 16 else 0)

/-- The bytes of frame `a` copied over frame `b`, with the poison of the lines read (R415). -/
def State.copyFrame (s : State) (a b : Nat) : State :=
  let src := s.mem.filter fun c => decide (c.1 / 65536 = a)
  let bad := (s.poison.filter fun l => decide (l / 512 = a)).map fun l => 512 * b + l % 512
  let t := src.foldl (fun st c => { st with mem := Memory.setByte st.mem (b * 65536 + c.1 % 65536) c.2 }) (s.zeroFrame b)
  { t with poison := t.poison ++ bad }

/-- Firmware has nothing left to do for a stage-2 fault: the page's entry, as it now stands, permits what the fault was
about. -/
def State.settled2 (s : State) (v ia : Nat) (cause : Cause) : Bool :=
  match (s.vf v).root2 with
  | none => false
  | some root =>
    match s.walk2 root ia with
    | none => false
    | some leaf => decide (cause = .translation) && populated (frameOf leaf) || decide (cause = .copyOnWrite) && bit leaf 3

/-- A merge is given up: W is back in both entries (R410). -/
def State.abandonMerge (s : State) (w : MoveWindow) : State :=
  let s := w.entries.foldl (fun s e => s.poke64 e.2.2.1 e.2.2.2) s
  { s with fwc := { s.fwc with window := none } }

/-- A retirement ends: the frame's bytes are in the spare frame, and every entry points at that one (R420). -/
def State.endRetirement (s : State) (w : MoveWindow) : State :=
  let moved := fun (f : Nat) => if f = w.frame then w.spare else f
  let owner := s.ownerOf w.frame
  let s := s.copyFrame w.frame w.spare
  let s := w.entries.foldl (fun s e => s.poke64 e.2.2.1 (w.spare * 65536 + bits e.2.2.2 15 0)) s
  let s := { s with
    vfs := s.vfs.map fun (e : Nat × Vf) => (e.1, { e.2 with
      allowance := e.2.allowance.map moved, taken := e.2.taken.map fun (t : Nat × Nat) => (moved t.1, t.2) })
    noise := s.noise.map moved
    fwc := { s.fwc with
      window := none, owners := KMap.put (KMap.putD s.fwc.owners w.spare owner 0) w.frame 0xFF
      merged := s.fwc.merged.map fun (m : Nat × Nat × Nat) => (m.1, m.2.1, moved m.2.2) } }
  s.dropTlb fun t => t.stage2

/-- The end of a merge or retirement that a store waits for (R410, R420, R456). -/
def State.closeWindow (s : State) : State :=
  match s.fwc.window with
  | none => s
  | some w => if w.merge then s.abandonMerge w else s.endRetirement w

/-- Firmware resolves a stage-2 fault at `ia`; none where it declines (R408, R411, R456). -/
def State.resolve2 (s : State) (v ia : Nat) (cause : Cause) (d : Nat) : Option State :=
  if s.inWindow v (ia / 65536) && (cause = .copyOnWrite || cause = .permission) then some s.closeWindow
  else if cause = .translation then
    match (s.vf v).rangeOf ia with
    | none => none
    | some r =>
      if !r.demand then none
      else
        match s.takeFrame v d (some (ia / 65536)) with
        | none => none
        | some (f, s) =>
          match s.ensureTables v d ia with
          | none => none
          | some (a, s) => some (s.poke64 a (leafOf f r))
  else if cause = .copyOnWrite then
    match (s.vf v).root2 with
    | none => none
    | some root =>
      match s.leafAddr2 root ia with
      | none => none
      | some a =>
        let old := s.readNat a 8
        match s.takeFrame v d (some (ia / 65536)) with
        | none => none
        | some (f, s) =>
          let s := s.copyFrame (frameOf old / 65536) f
          let s := s.poke64 a (f * 65536 + bits old 15 0 % 8 + 8 + (if bit old 4 then 16 else 0) + (if bit old 5 then 32 else 0)
            + (if bit old 6 then 64 else 0))
          let rest := s.fwc.merged.filter fun m => !(decide (m.1 = v) && decide (m.2.1 = ia / 65536))
          let left := rest.filter fun m => decide (m.1 = v) && decide (m.2.2 = frameOf old / 65536)
          let gone := match left with
            | [m] => rest.filter fun x => decide (x ≠ m)
            | _ => rest
          let s := { s with fwc := { s.fwc with merged := gone } }
          let s := match left with
            | [m] =>
              match s.leafAddr2 root (m.2.1 * 65536) with
              | some a' =>
                let l := s.readNat a' 8
                s.poke64 a' (l - (if bit l 7 then 128 else 0) + (if bit l 3 then 0 else 8))
              | none => s
            | _ => s
          let s := s.dropTlb fun t => decide (t.vf = v) && t.stage2
          some (s.perfAdd v 7 1)
  else none

/-! ### Faults that wait for firmware (R408) -/

/-- An entry that a held page keeps waiting goes on; where firmware declined the fault that the entry met, it traps at its next
issue. One that met another fault on the page issues again, and firmware judges that fault then. -/
def Entry.heldOver (e : Entry) (page now : Nat) (declined : Option Cause) : Entry :=
  match e.wait with
  | .stage2 p c =>
    if p = page then { e with wait := if declined = some c then Wait.declined page else Wait.none, waitFrom := now } else e
  | _ => e

def Group.heldOver (g : Group) (v page now : Nat) (declined : Option Cause) : Group :=
  if g.vf ≠ v then g else { g with entries := g.entries.map fun e => e.heldOver page now declined }

def Core.heldOver (k : Core) (v page now : Nat) (declined : Option Cause) : Core :=
  { k with groups := k.groups.map fun g => (g.1, g.2.heldOver v page now declined) }

def State.wakeHeld (s : State) (v page : Nat) (declined : Option Cause) : State :=
  { s with cores := s.cores.map fun c => (c.1, c.2.heldOver v page s.clk.compute declined) }

/-- Firmware answers the fault that reached it first: a page that needs nothing more is only released. -/
def State.answerHold (s : State) : State :=
  match s.fwc.holds with
  | [] => s
  | h :: t =>
    let s := { s with fwc := { s.fwc with holds := t } }
    if s.settled2 h.vf h.ia h.cause then s.wakeHeld h.vf (h.ia / 65536) none
    else
      match s.resolve2 h.vf h.ia h.cause h.die with
      | some s => s.wakeHeld h.vf (h.ia / 65536) none
      | none => s.wakeHeld h.vf (h.ia / 65536) (some h.cause)

/-- Every fault that reached firmware before is answered. -/
def State.answerAll : Nat → State → State
  | 0, s => s
  | n + 1, s => State.answerAll n s.answerHold

/-- Firmware handles an agent's stage-2 fault after those that reached it before, and each page once (R408, R453); none where
it declines. The agent's step stands for its access and for the wait before it (DESIGN CHOICE, log 28). -/
def State.faultIn (s : State) (v ia : Nat) (cause : Cause) (d : Nat) : Option State :=
  let s := State.answerAll s.fwc.holds.length s
  if s.settled2 v ia cause && !s.inWindow v (ia / 65536) then some s else s.resolve2 v ia cause d

/-! ## Accesses of hardware agents (R453) -/

/-- Every cached translation of a faulting page is gone before the fault is delivered (R406). -/
def State.dropFault (s : State) (v va ia : Nat) (stage2 : Bool) : State :=
  s.dropTlb fun t =>
    decide (t.vf = v) && (t.stage2 == stage2) && decide (t.page = (if stage2 then ia else va) / 65536)

/-- A VA of virtual function `v` reached by an agent on die `d`, with firmware resolving what it can: the PA and whether its page
is PRES. The error is the code of the event that R453 names. -/
def State.agentAddrFuel : Nat → State → Nat → Nat → Nat → Acc → State × Except Nat (Nat × Bool)
  | 0, s, _, _, _, _ => (s, .error Cause.translation.code)
  | n + 1, s, d, v, va, acc =>
    match s.xlate (s.die d).tlb v va acc with
    | .mem pa p => (s, .ok (pa, p))
    | .mmio _ _ => (s, .error Cause.permission.code)
    | .bad c st ia =>
      let s := s.dropFault v va ia st
      if !st then (s, .error c.code)
      else
        match s.faultIn v ia c d with
        | none => (s, .error c.code)
        | some s => State.agentAddrFuel n s d v va acc

def State.agentPlace (s : State) (d v va : Nat) (acc : Acc) : State × Except Nat (Nat × Bool) :=
  State.agentAddrFuel 6 s d v va acc

/-- The PA alone. -/
def State.agentAddr (s : State) (d v va : Nat) (acc : Acc) : State × Except Nat Nat :=
  let r := s.agentPlace d v va acc
  (r.1, r.2.map Prod.fst)

/-- An agent reads the eight bytes at a VA. -/
def State.agentRead (s : State) (d v va : Nat) : State × Except Nat W64 :=
  match s.agentAddr d v va .rd with
  | (s, .error c) => (s, .error c)
  | (s, .ok pa) => if s.poisoned pa then (s, .error codeUncorrected) else (s, .ok (s.word pa))

/-- An agent reads `n` words from a VA. -/
def State.agentReads : Nat → State → Nat → Nat → Nat → State × Except Nat (List W64)
  | 0, s, _, _, _ => (s, .ok [])
  | n + 1, s, d, v, va =>
    match s.agentRead d v va with
    | (s, .error c) => (s, .error c)
    | (s, .ok w) =>
      match State.agentReads n s d v (va + 8) with
      | (s, .error c) => (s, .error c)
      | (s, .ok ws) => (s, .ok (w :: ws))

/-- An agent writes the eight bytes at a VA. -/
def State.agentWrite (s : State) (d v va : Nat) (x : W64) : State × Except Nat Unit :=
  match s.agentAddr d v va .wr with
  | (s, .error c) => (s, .error c)
  | (s, .ok pa) => (s.storeAll [(pa, leBytes 8 x.toNat)], .ok ())

/-- An agent writes words from a VA upward. -/
def State.agentWrites : State → Nat → Nat → Nat → List W64 → State × Except Nat Unit
  | s, _, _, _, [] => (s, .ok ())
  | s, d, v, va, x :: t =>
    match s.agentWrite d v va x with
    | (s, .error c) => (s, .error c)
    | (s, .ok _) => State.agentWrites s d v (va + 8) t

/-! ## Host memory through CXL.cache (R28, R334, R352, R377) -/

/-- A line of 64 bytes of host memory: the copy that the part caches, or one fetched now, whose bytes are the host's and free
(log 37). -/
def State.hostLine (s : State) (line : Nat) : State × List Byte :=
  match s.clk.hostLines.find? fun l => decide (l.addr = line) with
  | some l => (s, l.bytes)
  | none =>
    let bs := (List.range 8).flatMap fun i => leBytes 8 (Config.freeWord (s.frees + i)).toNat
    ({ s with
        clk := { s.clk with hostLines := s.clk.hostLines ++ [{ addr := line, bytes := bs, dirty := false }] }
        frees := s.frees + 8 }, bs)

/-- `n` bytes of host memory that lie in one line. -/
def State.hostRead (s : State) (a n : Nat) : State × List Byte :=
  let r := s.hostLine (a / 64)
  (r.1, (r.2.drop (a % 64)).take n)

/-- Bytes written to host memory, within one line: into the cached copy, which is then dirty, or out to the host. -/
def State.hostStore (s : State) (a : Nat) (bs : List Byte) : State :=
  if s.clk.hostLines.any fun l => decide (l.addr = a / 64) then
    { s with clk := { s.clk with hostLines := s.clk.hostLines.map fun (l : HostLine) =>
        if l.addr = a / 64 then
          { l with bytes := l.bytes.take (a % 64) ++ bs ++ l.bytes.drop (a % 64 + bs.length), dirty := true }
        else l } }
  else { s with clk := { s.clk with hostOut := s.clk.hostOut ++ [.hostWrite a bs] } }

end Sys2Proof.Machine
end

