-- ==== Sys2Proof/Machine/Frames.lean ====
section
/-! DEFINITION. Register frames and header cells: blocks, first fit, allocation and freeing, spill
records, and the layout of a header cell (R58-R66). -/

namespace Sys2Proof.Machine

/-! ## Blocks (R58, R61) -/

/-- Blocks of the register part: 256 of 256 bytes for each 64 KiB unit. -/
def Core.blocks (k : Core) : Nat := k.regsPart * 256

/-- The header blocks that hold a cell. -/
def Core.hdrBlocks (k : Core) : List Nat := (k.frames.filterMap fun f => f.2.hdr.map fun h => h.cellBlock).eraseDups

/-- The runs of blocks in use: first block and length. -/
def Core.usedRuns (k : Core) : List (Nat × Nat) :=
  (k.frames.map fun f => (f.2.base, f.2.size / 8)) ++ k.hdrBlocks.map fun b => (b, 1)

/-- A run of `n` from `b` that lies below `total` and meets no used run. -/
def runFree (used : List (Nat × Nat)) (total n b : Nat) : Bool :=
  decide (b + n ≤ total) && used.all fun u => decide (u.1 + u.2 ≤ b) || decide (b + n ≤ u.1)

/-- The lowest free run of `n`: it starts at 0 or at the end of a used run (first fit, R58). -/
def firstFit (used : List (Nat × Nat)) (total n : Nat) : Option Nat :=
  ((0 :: used.map fun u => u.1 + u.2).filter (runFree used total n)).foldl
    (fun best b => match best with
      | none => some b
      | some x => some (min x b)) none

/-- A free header cell of the claimed blocks, or one of a new header block (R61). -/
def pickCell (cells : List (Nat × Nat)) (used : List (Nat × Nat)) (total : Nat) : Option (Nat × Nat) :=
  let blocks := (cells.map Prod.fst).eraseDups
  let free := blocks.flatMap fun b => (List.range 8).filterMap fun i => if cells.contains (b, i) then none else some (b, i)
  match free with
  | c :: _ => some c
  | [] => (firstFit used total 1).map fun b => (b, 0)

def Core.cells (k : Core) : List (Nat × Nat) := k.frames.filterMap fun f => f.2.hdr.map fun h => (h.cellBlock, h.cellIdx)

/-- Places for frames of the given sizes, each with a header cell or not; none where they do not all fit. The header cell comes before
the frame, as R191 makes them for a call (for an adoption and a refill DESIGN CHOICE, log 40). -/
def placeFrames (total : Nat) : List (Nat × Bool) → List (Nat × Nat) → List (Nat × Nat) →
    Option (List (Nat × Option (Nat × Nat)))
  | [], _, _ => some []
  | (size, hdr) :: t, used, cells =>
    let cell := if hdr then pickCell cells used total else none
    if hdr && cell.isNone then none
    else
      let claimed := cell.filter fun c => !cells.any fun x => decide (x.1 = c.1)
      let used := (claimed.map fun c => (c.1, 1)).toList ++ used
      match firstFit used total (size / 8) with
      | none => none
      | some b => (placeFrames total t ((b, size / 8) :: used) (cell.toList ++ cells)).map fun r => (b, cell) :: r

/-- Places for frames of the given sizes in the core's register part. -/
def Core.place (k : Core) (sizes : List (Nat × Bool)) : Option (List (Nat × Option (Nat × Nat))) :=
  placeFrames k.blocks sizes k.usedRuns k.cells

/-- A fresh frame, every register 0 (R58), at a place; its header cell takes the place's cell. -/
def Core.addFrame (k : Core) (slot size : Nat) (at_ : Nat × Option (Nat × Nat)) (parent : Option Nat)
    (hdr : Option Hdr) : Core × Nat :=
  let h := hdr.map fun h => { h with cellBlock := (at_.2.getD (0, 0)).1, cellIdx := (at_.2.getD (0, 0)).2 }
  let f : Frame := { slot := slot, base := at_.1, size := size, regs := [], poison := [], parent := parent, hdr := h }
  ({ k with frames := KMap.put k.frames k.nextFrame f, nextFrame := k.nextFrame + 1 }, k.nextFrame)

/-! ## Chains -/

/-- The frames from a frame up to its root, by fuel. -/
def Core.chainFuel : Nat → Core → Nat → List Nat
  | 0, _, _ => []
  | n + 1, k, id =>
    match k.frame? id with
    | none => []
    | some f =>
      match f.parent with
      | none => [id]
      | some p => id :: Core.chainFuel n k p

/-- The frames from a frame up to its root: at most 64 calls and the root (R60). -/
def Core.chain (k : Core) (id : Nat) : List Nat := Core.chainFuel 80 k id

/-- The registers of an entry's current frame (R58). -/
def Core.frameSize (k : Core) (id : Nat) : Nat := ((k.frame? id).map fun f => f.size).getD 0

/-- The innermost adoption header of a chain: the frame that it made, and the header (R62, R75). -/
def Core.adoption (k : Core) (id : Nat) : Option (Nat × Hdr) :=
  (k.chain id).findSome? fun i =>
    match (k.frame? i).bind fun f => f.hdr with
    | some h => if h.adoption then some (i, h) else none
    | none => none

/-- The task that an entry runs: one it has claimed and still needs a frame for, the innermost adopted one, else the
group's own (R371, R431). -/
def runningTask (k : Core) (g : Group) (e : Entry) : Option W64 :=
  match e.adopting, k.adoption e.frame with
  | some h, _ => some h
  | none, some (_, h) => some h.pad
  | none, none => g.task

/-- The entry runs an adopted task (R371). -/
def inAdopted (k : Core) (e : Entry) : Bool := e.adopting.isSome || (k.adoption e.frame).isSome

/-! ## Freeing (R58) -/

/-- The frames of a group that some entry still has as its current frame or above it. -/
def Core.liveFrames (k : Core) (g : Group) : List Nat := g.entries.flatMap fun e => k.chain e.frame

/-- Bytes of a spill record: 64, 256 for each frame block, 32 for each header cell, rounded up to a
multiple of 64 (R66). -/
def spillBytes (frames : List (Nat × Frame)) : Nat :=
  let b := frames.foldl (fun n f => n + f.2.size / 8) 0
  let h := (frames.filter fun f => f.2.hdr.isSome).length
  (64 + 256 * b + 32 * h + 63) / 64 * 64

/-- The frames and header cells of a slot that no entry holds are freed, spilled ones without a refill: the record keeps the
space of those that are left (R58, R68) (DESIGN CHOICE, log 15). -/
def Core.gcFrames (k : Core) (slot : Nat) (now : Nat) : Core :=
  let live := match k.group? slot with
    | some g => k.liveFrames g
    | none => []
  let keep := fun (f : Nat × Frame) => decide (f.2.slot ≠ slot) || live.contains f.1
  let left := k.frames.filter keep
  let spills := k.spills.map fun r =>
    match r.2.kind with
    | .group sl =>
      if sl = slot && r.2.frames.any (fun f => !keep f) then
        (r.1, { r.2 with frames := r.2.frames.filter keep, size := min r.2.size (spillBytes (r.2.frames.filter keep)) })
      else r
    | .park _ _ _ _ _ _ => r
    | .saved _ => r
  let spills := spills.filter fun r =>
    match r.2.kind with
    | .group _ => !r.2.frames.isEmpty
    | .park _ _ _ _ _ _ => true
    | .saved _ => true
  { k with
    frames := left
    spills := spills
    lastFree := if left.length = k.frames.length then k.lastFree else now }

/-! ## Header cells and spill records -/

/-- Bits [54:0] of a program counter: the width that a header cell holds of RPC and of PAD (R62). -/
def pc55 (w : W64) : W64 := (w.extractLsb' 0 55).setWidth 64

/-- The four words of a header cell (R62). -/
def hdrWords (h : Hdr) : List W64 :=
  [ pc55 h.rpc,
    if h.adoption then h.pad else pc55 h.pad ||| (if h.padv then 0x8000000000000000 else 0),
    BitVec.ofNat 64 ((if h.adoption then 2 ^ 47 else 0) + h.res * 2 ^ 39 + h.args.toNat * 2 ^ 31
      + h.vbase * 2 ^ 23 + h.fsize * 2 ^ 18 + h.csize * 2 ^ 13 + h.cbase),
    BitVec.ofNat 64 (h.psave.toNat * 2 ^ 16 + h.mask.toNat * 2 ^ 8 + h.adepth * 2 ^ 5 + h.tokh) ]

/-- The bytes of a frame's registers, register 0 first. -/
def frameBytes (f : Frame) : List Byte :=
  (List.range f.size).flatMap fun r => leBytes 32 (KMap.getD f.regs r 0).toNat

/-- The contents of a spill record: a 64-byte head whose first word is `tag`, the frames, then the header
cells (R66, R72) (DESIGN CHOICE, log 15). -/
def recordBytes (tag : W64) (frames : List (Nat × Frame)) : List Byte :=
  leBytes 64 tag.toNat ++ (frames.flatMap fun f => frameBytes f.2)
    ++ (frames.flatMap fun f => match f.2.hdr with
        | some h => (hdrWords h).flatMap fun w => leBytes 8 w.toNat
        | none => [])

/-- The virtual function in whose memory a spill record lies. -/
def Core.spillVf (k : Core) (r : SpillRec) : Option Nat :=
  match r.kind with
  | .group slot => (k.group? slot).map fun g => g.vf
  | .park _ v _ _ _ _ => some v
  | .saved x => some x.wg.vf

/-- The VA of a new spill record of `n` bytes in core `c`'s part of a launch's spill area, first fit among the records of the
launch's virtual function (R66). -/
def State.spillPlace (s : State) (c : Nat) (h : LaunchHdr) (n : Nat) : Option Nat :=
  let lo := h.spillBase + c * (h.spills * 65536)
  let k := s.core c
  let used := k.spills.filterMap fun r =>
    if k.spillVf r.2 = some h.vf && lo ≤ r.2.off && r.2.off < lo + h.spills * 65536 then some (r.2.off - lo, r.2.size) else none
  (firstFit used (h.spills * 65536) n).map fun o => lo + o

/-- Bytes written by an agent to consecutive words from a VA. -/
def State.agentBytes (s : State) (d v va : Nat) (bs : List Byte) : State × Except Nat Unit :=
  s.agentWrites d v va ((List.range (bs.length / 8)).map fun i => BitVec.ofNat 64 (leNat ((bs.drop (8 * i)).take 8)))

/-- A spill record written by core `c`'s ESE for virtual function `v`; none where it finds no room or an
access fails (R66, R453). -/
def State.writeSpill (s : State) (c v : Nat) (h : LaunchHdr) (tag : W64) (frames : List (Nat × Frame)) (extra : Nat)
    (kind : SpillKind) : State × Option Nat :=
  let n := (spillBytes frames + extra + 63) / 64 * 64
  match s.spillPlace c h n with
  | none => (s, none)
  | some va =>
    match s.agentBytes (c / 48) v va (recordBytes tag frames) with
    | (s, .error _) => (s, none)
    | (s, .ok _) =>
      let k := s.core c
      let r : SpillRec := { off := va, size := n, kind := kind, frames := frames }
      let s := s.setCore c { k with spills := KMap.put k.spills k.nextSpill r, nextSpill := k.nextSpill + 1 }
      (s.perfAdd v 3 n, some va)

/-- The sizes of frames with whether each has a header cell, for placing them again. -/
def frameSizes (fs : List (Nat × Frame)) : List (Nat × Bool) := fs.map fun f => (f.2.size, f.2.hdr.isSome)

/-- Frames at new places. -/
def restoreFrames (k : Core) : List (Nat × Frame) → List (Nat × Option (Nat × Nat)) → Core
  | (id, f) :: t, (b, c) :: ps =>
    let h := f.hdr.map fun h => { h with cellBlock := (c.getD (0, 0)).1, cellIdx := (c.getD (0, 0)).2 }
    restoreFrames { k with frames := KMap.put k.frames id { f with base := b, hdr := h } } t ps
  | _, _ => k

/-- CBASE in the headers of the calls made from frames that have come back to new blocks (R62). -/
def Core.rebase (k : Core) (ids : List Nat) : Core :=
  let fix := fun (f : Nat × Frame) => match f.2.parent, f.2.hdr with
    | some p, some h =>
      if ids.contains p then
        (f.1, { f.2 with hdr := some { h with cbase := ((KMap.get? k.frames p).map fun x => x.base).getD h.cbase } })
      else f
    | _, _ => f
  { k with
    frames := k.frames.map fix
    spills := k.spills.map fun (r : Nat × SpillRec) => (r.1, { r.2 with frames := r.2.frames.map fix }) }

/-- Frames put back at new places (R65). -/
def Core.putFrames (k : Core) (fs : List (Nat × Frame)) (ps : List (Nat × Option (Nat × Nat))) : Core :=
  (restoreFrames k fs ps).rebase (fs.map Prod.fst)

end Sys2Proof.Machine
end

