-- ==== Sys2Proof/Machine/Tokens.lean ====
section
/-! DEFINITION. Divergence and reconvergence: the token stack, splitting an entry, arriving at a token,
ending lanes, and freeing an entry (R44-R48, R190, R193). -/

namespace Sys2Proof.Machine

/-- An item of the group's token stack. -/
def Group.item? (g : Group) (id : Nat) : Option TokItem := g.items.find? fun i => decide (i.id = id)

/-- The items from a position outward, innermost first, by fuel. -/
def Group.itemsFuel : Nat → Group → Option Nat → List TokItem
  | 0, _, _ => []
  | _ + 1, _, none => []
  | n + 1, g, some id =>
    match g.item? id with
    | none => []
    | some t => t :: Group.itemsFuel n g t.parent

/-- The items at and below an entry's token-stack position, innermost first (R44). -/
def Group.stackOf (g : Group) (tok : Option Nat) : List TokItem := g.itemsFuel 17 tok

/-- The token-stack height of a position. -/
def Group.height (g : Group) (tok : Option Nat) : Nat := (g.stackOf tok).length

/-- An item taken off; what stood on it stands on the item below. -/
def Group.popItem (g : Group) (t : TokItem) : Group :=
  let fix := fun (p : Option Nat) => if p = some t.id then t.parent else p
  { g with
    items := (g.items.filter fun i => decide (i.id ≠ t.id)).map fun i => { i with parent := fix i.parent }
    entries := g.entries.map fun e => { e with tok := fix e.tok } }

/-- An item pushed at an entry's position; none when the stack holds 16 (R47, R48). -/
def Group.pushItem (g : Group) (e : Entry) (deferred : Bool) (pc : W64) (mask : Mask) : Option (Group × Nat) :=
  if 16 ≤ g.items.length then none
  else
    let t : TokItem :=
      { id := g.nextItem, parent := e.tok, deferred := deferred, pc := pc, mask := mask, arrived := 0, owner := e.id, depth := e.depth }
    some ({ g with items := t :: g.items, nextItem := g.nextItem + 1 }, g.nextItem)

/-- The items that no entry's position reaches are discarded (R192). -/
def Group.gcItems (g : Group) : Group :=
  let live := g.entries.flatMap fun e => (g.stackOf e.tok).map fun t => t.id
  { g with items := g.items.filter fun t => live.contains t.id }

/-- The fragment entries of a quarter that are occupied (R43, R44). -/
def Core.fragsUsed (k : Core) (q : Nat) : List Nat :=
  k.groups.flatMap fun g =>
    if quarterOf g.1 = q then g.2.entries.filterMap fun e => match e.id with
      | .own => none
      | .frag n => some n
    else []

/-- The free fragment entry that a detaching minority takes: the lowest-numbered (R45; DESIGN CHOICE, log 40). -/
def Core.freeFrag (k : Core) (q : Nat) : Option Nat :=
  let used := k.fragsUsed q
  firstBelow 256 fun n => !used.contains n

/-- An entry leaves the active set and its monitors go. -/
def Core.vacate (k : Core) (slot : Nat) (id : EntId) : Core :=
  let q := k.quarter (quarterOf slot)
  k.setQuarter (quarterOf slot)
    { q with
      active := q.active.filter fun p => !(decide (p.2.slot = slot) && decide (p.2.ent = id))
      monitors := q.monitors.filter fun m => !(decide (m.2.1 = slot) && decide (m.2.2 = id)) }

/-- An entry is freed, with the frames that no other entry holds (R44, R58). -/
def Core.freeEntry (k : Core) (slot : Nat) (id : EntId) (now : Nat) : Core :=
  let k := k.leaveIssue slot id
  let k := match k.group? slot with
    | some g => k.setGroup slot (g.delEntry id)
    | none => k
  (k.vacate slot id).gcFrames slot now

/-- An entry replaced in its group. -/
def Core.setEntry (k : Core) (slot : Nat) (e : Entry) : Core :=
  match k.group? slot with
  | some g => k.setGroup slot (g.setEntry e)
  | none => k

/-- An entry splits into lanes `t` at `tpc` and lanes `n` at `npc`: the whole entry moves when one set is
empty, else the minority (n on a tie) detaches into a free fragment entry, or a deferred record is
pushed (R45, R46); none where the record does not fit (RECONV_DEPTH, R396). A new fragment issues from clock
`next` (R187). -/
def Core.split (k : Core) (slot : Nat) (e : Entry) (t : Mask) (tpc : W64) (n : Mask) (npc : W64)
    (now next : Nat) : Option Core :=
  if n = 0#8 then some (k.setEntry slot { e with pc := tpc })
  else if t = 0#8 then some (k.setEntry slot { e with pc := npc })
  else
    match k.group? slot with
    | none => none
    | some g =>
      match k.freeFrag (quarterOf slot) with
      | some f =>
        let tMinor := countLanes t < countLanes n
        let stay := if tMinor then { e with mask := n, pc := npc } else { e with mask := t, pc := tpc }
        let go : Entry :=
          { e with
            id := .frag f, mask := if tMinor then t else n, pc := if tMinor then tpc else npc
            retried := false, handler := none, wait := .none, waitFrom := now, readyAt := none, lastIssue := now
            nextIssue := next }
        let g := g.setEntry stay
        some (k.setGroup slot { g with entries := g.entries ++ [go] })
      | none =>
        match g.pushItem e true npc n with
        | none => none
        | some (g, id) => some (k.setGroup slot (g.setEntry { e with mask := t, pc := tpc, tok := some id }))

/-- An entry whose lanes have all ended: it runs a deferred record on top, waits for a token it owns, or
is freed (R193). -/
def Core.emptyEntry (k : Core) (slot : Nat) (id : EntId) (now : Nat) : Core :=
  match k.group? slot with
  | none => k
  | some g =>
    match g.entry? id with
    | none => k
    | some e =>
      match (g.stackOf e.tok).head? with
      | some t =>
        if t.deferred then
          let g := g.popItem t
          k.setGroup slot (g.setEntry { e with mask := t.mask, pc := t.pc, tok := t.parent, wait := .none, waitFrom := now })
        else
          match g.items.find? fun t => !t.deferred && decide (t.owner = id) with
          | some t => k.setEntry slot { e with pc := t.pc, tok := some t.id, wait := .rcvm t.id, waitFrom := now }
          | none => k.freeEntry slot id now
      | none =>
        match g.items.find? fun t => !t.deferred && decide (t.owner = id) with
        | some t => k.setEntry slot { e with pc := t.pc, tok := some t.id, wait := .rcvm t.id, waitFrom := now }
        | none => k.freeEntry slot id now

/-- A complete token pops: its lanes continue after the `RCVM` in its owner; with no lanes, an owner that
holds none acts as R193 states (R47). -/
def Core.popToken (k : Core) (slot : Nat) (t : TokItem) (now : Nat) : Core :=
  match k.group? slot with
  | none => k
  | some g =>
    let g := g.popItem t
    if t.mask = 0#8 then
      let k := k.setGroup slot g
      match g.entry? t.owner with
      | some o => if o.mask = 0#8 && decide (o.wait = .rcvm t.id) then k.emptyEntry slot t.owner now else k
      | none => k
    else
      match g.entry? t.owner with
      | some o =>
        k.setGroup slot (g.setEntry { o with mask := t.arrived, pc := t.pc + 8, tok := t.parent, wait := .none, waitFrom := now })
      | none => k.setGroup slot g

/-- Every token whose arrived lanes are its expected lanes pops, innermost first (R47). -/
def Core.popComplete : Nat → Core → Nat → Nat → Core
  | 0, k, _, _ => k
  | n + 1, k, slot, now =>
    match k.group? slot with
    | none => k
    | some g =>
      match g.items.find? fun t => !t.deferred && decide (t.arrived = t.mask) with
      | none => k
      | some t => Core.popComplete n (k.popToken slot t now) slot now

/-- Lanes `l` of entry `e` end: they leave the expected mask of every token; then the entry goes on,
waits or is freed (R193). `e.pc` is advanced only where lanes are left. -/
def Core.exitLanes (k : Core) (slot : Nat) (e : Entry) (l : Mask) (now : Nat) : Core :=
  match k.group? slot with
  | none => k
  | some g =>
    let e := { e with mask := e.mask &&& ~~~l }
    let g := g.setEntry e
    let g := { g with items := g.items.map fun t => if t.deferred then t else { t with mask := t.mask &&& ~~~l } }
    let k := (k.setGroup slot g).popComplete 17 slot now
    match (k.group? slot).bind fun g => g.entry? e.id with
    | none => k
    | some e' =>
      if e' ≠ e && e'.mask ≠ e.mask then k
      else if e.mask ≠ 0#8 then k.setEntry slot { e' with pc := e'.pc + 8 }
      else if e'.wait ≠ e.wait then k
      else k.emptyEntry slot e.id now

/-- The group has no lane left: none in an entry, and none in a deferred record. -/
def Group.noLanes (g : Group) : Bool :=
  g.entries.all (fun e => decide (e.mask = 0#8)) && g.items.all fun t => !t.deferred || decide (t.mask = 0#8)

/-- An entry arrives at a token (R47): others than the owner are freed; the owner waits until every
expected lane has arrived. -/
def Core.arriveToken (k : Core) (slot : Nat) (e : Entry) (t : TokItem) (now : Nat) : Core :=
  match k.group? slot with
  | none => k
  | some g =>
    let t' := { t with arrived := t.arrived ||| e.mask }
    let g := { g with items := g.items.map fun x => if x.id = t.id then t' else x }
    let k := k.setGroup slot g
    let k := if t.owner = e.id then k.setEntry slot { e with wait := .rcvm t.id, waitFrom := now } else k.freeEntry slot e.id now
    k.popComplete 17 slot now

/-- The entry's stack cut back to height `h`: none where a deferred record lies above it (R68, R192). -/
def Group.cutTo (g : Group) (tok : Option Nat) (h : Nat) : Option (Option Nat) :=
  let st := g.stackOf tok
  let cut := st.take (st.length - h)
  if cut.any fun t => t.deferred then none else some (((st.drop (st.length - h)).head?).map fun t => t.id)

end Sys2Proof.Machine
end

