-- ==== Sys2Proof/Machine/Tasks.lean ====
section
/-! DEFINITION. Tasks, futures and owners, parking and adoption, the ends of groups, workgroups and
launches, and completions (R58-R77, R193, R233, R234, R339, R344, R431-R435). -/

namespace Sys2Proof.Machine

/-! ## Task records (R70) -/

def handleIndex (h : W64) : Nat := bits h.toNat 31 0
def handleGen (h : W64) : Nat := bits h.toNat 63 48
def ctlState (c : Nat) : Nat := bits c 7 5
def ctlAdopt (c : Nat) : Bool := bit c 8
def ctlPrio (c : Nat) : Nat := bits c 11 9
def ctlQueue (c : Nat) : Nat := bits c 15 12
def ctlGen (c : Nat) : Nat := bits c 31 16
def ctlVf (c : Nat) : Nat := bits c 38 32
def ctlReady (c : Nat) : Bool := bit c 39
def ctlFrame (c : Nat) : Nat := (bits c 4 0 + 1) * 8

/-- Bits [hi:lo] of `x` replaced by `v`. -/
def putBits (x hi lo v : Nat) : Nat := x - bits x hi lo * 2 ^ lo + (v % 2 ^ (hi + 1 - lo)) * 2 ^ lo

/-- The VA of a task's record (R70). -/
def State.taskVa (s : State) (v : Nat) (h : W64) : Nat := (s.vf v).taskBase + 64 * handleIndex h

/-- The record's control word with STATE, READY, RUNCORE, RUNSLOT and ADOPTED set (R71). -/
def ctlRun (c core slot : Nat) (adopted : Bool) : Nat :=
  putBits (putBits (putBits (putBits (putBits c 7 5 1) 39 39 0) 47 40 core) 56 48 slot) 57 57 (if adopted then 1 else 0)

/-- A handle that the table can hold: index below TASKCNT, bits [47:32] 0, generation not 0 (R70, R74). -/
def State.handleOk (s : State) (v : Nat) (h : W64) : Bool :=
  decide (handleIndex h < (s.vf v).taskCnt) && decide (bits h.toNat 47 32 = 0) && decide (handleGen h ≠ 0)

/-- The record of an owner that counts for adoption; a record that cannot be read sends one event (R74). -/
def State.ownerRec (s : State) (c v : Nat) (h : W64) : State × Option (List W64) :=
  if !s.handleOk v h then (s, none)
  else
    match State.agentReads 8 s (c / 48) v (s.taskVa v h) with
    | (s, .error code) => (s.raise (srcCore c) (accessEvent (srcCore c) v code (s.taskVa v h) h), none)
    | (s, .ok ws) =>
      let ctl := (getAt ws 1 0).toNat
      if ctlGen ctl = handleGen h && ctlVf ctl = v then (s, some ws) else (s, none)

/-! ## Futures (R73, R233) -/

/-- The VA of a future from its handle. -/
def futVa (h : W64) : Nat := bits h.toNat 47 0 * 32
def futState (w : Nat) : Nat := bits w 1 0
def futGen (w : Nat) : Nat := bits w 31 16

/-- The set or the failure of a future that ends a task makes: nothing where the GEN differs or FSTATE is
not 0; an FSTATE of 3 and an access that fails send an event (R77, R234, R453). -/
def State.endFuture (s : State) (c v : Nat) (h : W64) (fstate : Nat) (value : W64) : State :=
  if h = 0#64 then s
  else
    let va := futVa h
    let src := srcCore c
    match s.agentRead (c / 48) v (va + 8) with
    | (s, .error code) => s.raise src (accessEvent src v code va 0)
    | (s, .ok w) =>
      if futGen w.toNat ≠ handleGen h then s
      else if futState w.toNat = 3 then s.raise src (accessEvent src v codeUncorrected va 0)
      else if futState w.toNat ≠ 0 then s
      else
        match s.agentWrites (c / 48) v va [value, BitVec.ofNat 64 (putBits w.toNat 1 0 fstate), 0] with
        | (s, .error code) => s.raise src (accessEvent src v code va 0)
        | (s, .ok _) => s

/-- The compare-and-swap of a task's control word, whether it is made; one that cannot be made sends an event (R71, R453). -/
def State.swapCtl (s : State) (c v : Nat) (h : W64) (ctl : Nat) : State × Bool :=
  let va := s.taskVa v h
  match s.agentWrite (c / 48) v (va + 8) (BitVec.ofNat 64 ctl) with
  | (s, .error code) => (s.raise (srcCore c) (accessEvent (srcCore c) v code va h), false)
  | (s, .ok _) => (s, true)

/-- The control word of a task written, with an event where it cannot be (R453). -/
def State.setCtl (s : State) (c v : Nat) (h : W64) (ctl : Nat) : State := (s.swapCtl c v h ctl).1

/-- Steps 1 and 2 of R77: STATE becomes 4 and the future fails. -/
def State.failTask (s : State) (c v : Nat) (h : W64) : State :=
  match s.ownerRec c v h with
  | (s, none) => s
  | (s, some ws) =>
    let s := s.setCtl c v h (putBits (getAt ws 1 0).toNat 7 5 4)
    s.endFuture c v (getAt ws 2 0) 2 0

/-- The end of a task as `TEND` makes it: the future set with `value`, then STATE 3 unless it reads 4
(R193, R234). -/
def State.finishTask (s : State) (c v : Nat) (h : W64) (value : W64) : State :=
  match s.ownerRec c v h with
  | (s, none) => s
  | (s, some ws) =>
    let s := s.endFuture c v (getAt ws 2 0) 1 value
    match s.agentRead (c / 48) v (s.taskVa v h + 8) with
    | (s, .error code) => s.raise (srcCore c) (accessEvent (srcCore c) v code (s.taskVa v h) h)
    | (s, .ok ctl) => if ctlState ctl.toNat = 4 then s else s.setCtl c v h (putBits ctl.toNat 7 5 3)

/-! ## Task queues (R344) -/

/-- What a task queue descriptor names: LOGN, BASE, and whether it is usable. -/
structure TaskQueue where
  queue : Nat
  va : Nat
  logn : Nat
  base : Nat
  deriving DecidableEq, Repr

/-- The entry is that of queue `q` of virtual function `v`. -/
def TqcEnt.isFor (e : TqcEnt) (v q : Nat) : Bool := decide (e.vf = v) && decide (e.queue = q)

/-- A group of a virtual function is resident on a die. -/
def State.residentOn (s : State) (d v : Nat) : Bool :=
  s.cores.any fun c => decide (c.1 / 48 = d) && c.2.groups.any fun g => decide (g.2.vf = v)

/-- Every TQC but that of die `d` drops what it caches of a queue. -/
def State.dropQueueBut (s : State) (d v q : Nat) : State :=
  { s with dies := s.dies.map fun (e : Nat × Die) =>
      (e.1, if e.1 = d then e.2 else { e.2 with tqc := e.2.tqc.filter fun t => !t.isFor v q }) }

/-- The TQCs drop what they cache of a queue that is found unusable. -/
def State.dropQueue (s : State) (v q : Nat) : State :=
  { s with dies := s.dies.map fun (e : Nat × Die) => (e.1, { e.2 with tqc := e.2.tqc.filter fun t => !t.isFor v q }) }

/-- A changed entry is written back: the counts of its rings, and an event where they cannot be (R345, R453). -/
def State.writeBackTqc (s : State) (d : Nat) (e : TqcEnt) : State :=
  if !e.dirty then s
  else
    let va := (s.vf e.vf).tqBase + 128 * e.queue + 0x40
    match s.agentWrites d e.vf va (e.words.drop 8) with
    | (s, .ok _) => s
    | (s, .error c) => s.raise (srcFw s.activeFw) { distEvent e.vf c va 0 with block := 10, die := d }

/-- The sixteen words of a descriptor and its ring counts as the TQC of die `d` holds them, or as memory does; the TQC caches
those of a virtual function with a resident group on its die (R345). -/
def State.tqcWords (s : State) (d v q : Nat) : State × Except Nat (List W64) :=
  match (s.die d).tqc.find? fun e => e.isFor v q with
  | some e => (s, .ok e.words)
  | none =>
    match State.agentReads 16 s d v ((s.vf v).tqBase + 128 * q) with
    | (s, .error c) => (s, .error c)
    | (s, .ok ws) =>
      let x := s.die d
      (if s.residentOn d v then s.setDie d { x with tqc := x.tqc ++ [{ vf := v, queue := q, words := ws, dirty := false }] } else s,
        .ok ws)

/-- What the TQC of a die caches of a virtual function is written back and goes once the last group of it has left the die
(R345). -/
def State.dropTqc (s : State) (d v : Nat) : State :=
  let mine := (s.die d).tqc.filter fun e => decide (e.vf = v)
  if mine.isEmpty || s.residentOn d v then s
  else
    let s := mine.foldl (fun s e => s.writeBackTqc d e) s
    s.setDie d { s.die d with tqc := (s.die d).tqc.filter fun e => decide (e.vf ≠ v) }

/-- The descriptor of task queue `q`, or the code of the reason it is unusable. -/
def State.taskQueue (s : State) (d v q : Nat) : State × Except Nat TaskQueue :=
  let va := (s.vf v).tqBase + 128 * q
  match s.tqcWords d v q with
  | (s, .error c) => (s, .error c)
  | (s, .ok ws) =>
    let w := (getAt ws 0 0).toNat
    let logn := bits w 59 56
    if logn < 4 || bits w 54 0 % 64 ≠ 0 || bits w 63 60 ≠ 0 || bits w 55 55 ≠ 0
        || ((ws.take 8).drop 1).any (fun x => decide (x ≠ 0#64)) then
      (s, .error Cause.reservedField.code)
    else (s, .ok { queue := q, va := va, logn := logn, base := bits w 54 0 })

/-- HEAD and TAIL of ring `p`, as the TQC caches them or memory holds them (R345). -/
def State.ringCounts (s : State) (d v : Nat) (t : TaskQueue) (p : Nat) : State × Except Nat (Nat × Nat) :=
  match s.tqcWords d v t.queue with
  | (s, .error c) => (s, .error c)
  | (s, .ok ws) => (s, .ok (bits (getAt ws (8 + p) 0).toNat 31 0, bits (getAt ws (8 + p) 0).toNat 63 32))

/-- HEAD and TAIL of ring `p` written: at the home slice of the descriptor's line (R344), in the TQC's own copy, and no other
TQC keeps one (DESIGN CHOICE, log 33). -/
def State.putCounts (s : State) (d v : Nat) (t : TaskQueue) (p head tail : Nat) : State × Except Nat Unit :=
  let w := BitVec.ofNat 64 (head % 2 ^ 32 + (tail % 2 ^ 32) * 2 ^ 32)
  let s := s.dropQueueBut d v t.queue
  let x := s.die d
  let put := fun (e : TqcEnt) =>
    if e.isFor v t.queue then { e with words := setAt e.words (8 + p) w, dirty := true } else e
  let s := if x.tqc.isEmpty then s else s.setDie d { x with tqc := x.tqc.map put }
  s.agentWrite d v (t.va + 0x40 + 8 * p) w

/-- The VA of slot `i` of ring `p`. -/
def TaskQueue.slot (t : TaskQueue) (p i : Nat) : Nat := t.base + 8 * 2 ^ t.logn * p + 8 * (i % 2 ^ t.logn)

/-- The first failure on a queue since it was last usable sends one event (R344). -/
def State.queueBad (s : State) (src v q code : Nat) : State :=
  let s := s.dropQueue v q
  if s.dist.unusable.contains (16 * v + q) then s
  else
    let s := { s with dist := { s.dist with unusable := (16 * v + q) :: s.dist.unusable } }
    let e := distEvent v code ((s.vf v).tqBase + 128 * q) 0
    -- a core's append and a wake go through the TQC of the die (R35, R72)
    s.raise src (if src < 192 then { e with block := 10, die := src / 48 } else e)

def State.queueGood (s : State) (v q : Nat) : State :=
  { s with dist := { s.dist with unusable := s.dist.unusable.filter fun x => decide (x ≠ 16 * v + q) } }

/-- A handle put into a ring: at TAIL (`front` false) or before HEAD; false where the ring is full or the
queue unusable (R344). -/
def State.enqueue (s : State) (src d v q p : Nat) (h : W64) (front : Bool) : State × Bool :=
  match s.taskQueue d v q with
  | (s, .error c) => (s.queueBad src v q c, false)
  | (s, .ok t) =>
    match s.ringCounts d v t p with
    | (s, .error c) => (s.queueBad src v q c, false)
    | (s, .ok (head, tail)) =>
      if (tail + 2 ^ 32 - head) % 2 ^ 32 = 2 ^ t.logn then (s.queueGood v q, false)
      else
        let at_ := if front then (head + 2 ^ 32 - 1) % 2 ^ 32 else tail
        match s.agentWrite d v (t.slot p at_) h with
        | (s, .error c) => (s.queueBad src v q c, false)
        | (s, .ok _) =>
          match s.putCounts d v t p (if front then at_ else head) (if front then tail else tail + 1) with
          | (s, .error c) => (s.queueBad src v q c, false)
          | (s, .ok _) =>
            let s := s.queueGood v q
            ({ s with dist := { s.dist with order := s.dist.order ++ [(v, 8 * q + p, h)] } }, true)

/-- A wake under R72: READY is set and the handle goes to the head of its ring, or waits for a slot. -/
def State.wakeTask (s : State) (c v : Nat) (h : W64) : State :=
  match s.ownerRec c v h with
  | (s, none) => s
  | (s, some ws) =>
    let ctl := (getAt ws 1 0).toNat
    if ctlState ctl ≠ 2 || ctlReady ctl then s
    else
      let s := s.setCtl c v h (putBits ctl 39 39 1)
      match s.enqueue (srcCore c) (c / 48) v (ctlQueue ctl) (ctlPrio ctl) h true with
      | (s, true) => s
      | (s, false) => { s with dist := { s.dist with requeue := s.dist.requeue ++ [(v, h)] } }

/-! ## Completions (R339) -/

/-- A command ends: its completion event goes to the arbiter, its record is written later (R339). -/
def State.endCommand (s : State) (q i status cause field : Nat) (info done : W64) : State :=
  let c : Completion :=
    { queue := q, index := i, status := status, cause := cause, field := field, info := info, done := done, evseq := none }
  let s := { s with dist := { s.dist with completions := s.dist.completions ++ [c] } }
  s.raise (srcFw s.activeFw) { Event.blank with kind := .completion q i }

/-- A failure event of launch `l` that the arbiter has not taken yet. -/
def State.failurePending (s : State) (l : Nat) : Bool :=
  s.eva.inputs.any fun i => i.2.any fun e => decide (e.launch = some l)

/-- Every workgroup of a launch has exited. -/
def Launch.done? (x : Launch) : Bool :=
  x.bound.isEmpty && decide (x.total ≤ x.next) && x.returned.isEmpty && x.picked.isEmpty && x.saved.isEmpty

/-- A pre-emption ends once every workgroup that was bound, and every task that it pre-empts, has been discarded, drained, saved,
parked or killed (R346, R348, R438, R439). -/
def State.settlePreempts (s : State) (l : Nat) : State :=
  let finished := fun (p : Preempt) => decide (p.launch = l) && p.left.all fun w => ((s.core w.1).wg? w.2).isNone
  let ended := s.dist.preempts.filter finished
  if ended.isEmpty then s
  else
    let s := { s with dist := { s.dist with preempts := s.dist.preempts.filter fun p => !finished p } }
    ended.foldl (fun s p =>
      s.endCommand p.queue p.index 1 0 0 (BitVec.ofNat 64 (p.saves % 2 ^ 32 * 2 ^ 32 + p.discards % 2 ^ 32)) p.done) s

/-- A launch whose last workgroup has exited ends, once the arbiter has taken its failure events (R339,
R379, R435). -/
def State.settleLaunch (s : State) (l : Nat) : State :=
  match KMap.get? s.dist.launches l with
  | none => s
  | some x =>
    if x.ended || !x.done? || s.failurePending l then s
    else
      let s := s.setLaunch l { x with ended := true }
      let info := BitVec.ofNat 64 (x.saves % 2 ^ 32 * 2 ^ 32 + x.discards % 2 ^ 32)
      match x.killed, x.failure with
      | some r, _ => s.endCommand x.queue x.index 4 r 0 info x.done
      | none, some f => s.endCommand x.queue x.index 3 f.2 0 info x.done
      | none, none => s.endCommand x.queue x.index 1 0 0 info x.done

/-! ## The record cache (R98, R413) -/

/-- The copy that the record cache holds of a handle read through a record table. -/
def Core.cachedRec (k : Core) (h : W32) (table : Nat) : Option LatchedRec :=
  k.latched.find? fun r => decide (r.handle = h) && decide (r.table = table)

/-- The cache counts one more operation that latched the record, and holds its words and those of its region record. A copy that
no operation holds makes way for a record of a later generation in its slot. -/
def Core.latchRec (k : Core) (h : W32) (table : Nat) (words : List W64) (region : Option (List W64)) : Core :=
  match k.cachedRec h table with
  | some r => { k with latched := k.latched.map fun x => if x = r then { r with count := r.count + 1 } else x }
  | none =>
    let stale := fun (x : LatchedRec) =>
      decide (x.count = 0) && decide (x.table = table) && decide (bits x.handle.toNat 15 0 = bits h.toNat 15 0)
    { k with latched :=
        { handle := h, table := table, words := words, region := region, count := 1 } :: k.latched.filter fun x => !stale x }

/-- One operation that latched the record has ended; the cached copy stays until a later generation supersedes it (R413). -/
def Core.unlatchRec (k : Core) (r : W32 × Nat) : Core :=
  { k with latched := k.latched.map fun (x : LatchedRec) =>
      if x.handle = r.1 && x.table = r.2 then { x with count := x.count - 1 } else x }

/-- An operation that latched records has ended. -/
def Core.unlatchAll (k : Core) (rs : List (W32 × Nat)) : Core := rs.foldl Core.unlatchRec k

/-! ## Ends of groups and workgroups -/

/-- A trap frame discarded, with every result that is still to come to one of its registers (R370, R372). -/
def Core.freeTrap (k : Core) (i : Nat) : Core :=
  let here := fun (l : RegLoc) => match l with
    | .trap j _ => decide (j = i)
    | .frame _ _ => false
  { k with
    traps := KMap.del k.traps i, trapRegs := KMap.del k.trapRegs i, trapPoison := KMap.del k.trapPoison i
    outs := k.outs.map fun o => { o with dests := o.dests.filter fun d => !here d.loc } }

/-- The results to come of a group that has ended go nowhere; the records that they latched are let go when they arrive, and
atomics that wait for their line are made all the same (R193, R399, R436). No slot has the number 512. -/
def Core.loseOuts (k : Core) (slot : Nat) : Core :=
  { k with
    outs := k.outs.map fun o => if o.slot = slot then { o with dests := [], slot := 512 } else o
    atoms := k.atoms.map fun a => if a.slot = slot then { a with slot := 512 } else a }

/-- A tenant that holds no entry in a quarter any more keeps no credit there (R51). -/
def Core.dropCredit (k : Core) (q v : Nat) : Core :=
  if k.groups.any fun g => decide (quarterOf g.1 = q) && decide (g.2.vf = v) then k
  else k.setQuarter q { k.quarter q with deficit := KMap.del (k.quarter q).deficit v }

/-- A workgroup that holds no group any more is freed with its scratchpad, accumulator slots and context,
and leaves its launch (R81, R193). -/
def State.endWorkgroup (s : State) (c n : Nat) : State :=
  let k := s.core c
  match k.wg? n with
  | none => s
  | some w =>
    if !w.slots.isEmpty then s
    else
      let ctxs := match w.ctx with
        | some i => KMap.del k.ctxs i
        | none => k.ctxs
      let s := s.setCore c { k with wgs := KMap.del k.wgs n, ctxs := ctxs }
      let x := s.launch w.launch
      if w.isTask then s.settlePreempts w.launch
      else
        let s := s.setLaunch w.launch { x with bound := x.bound.filter fun b => decide (b ≠ (c, n)) }
        (s.settlePreempts w.launch).settleLaunch w.launch

/-- A group slot freed with every frame and header cell it holds; nothing is done for a task (R193). -/
def State.dropGroup (s : State) (c slot : Nat) : State :=
  let k := s.core c
  match k.group? slot with
  | none => s
  | some g =>
    let k := k.settleAll slot
    let k := g.entries.foldl (fun k e => k.vacate slot e.id) k
    let k := ((k.traps.filter fun t => decide (t.2.slot = slot)).map Prod.fst).foldl Core.freeTrap k
    let k := k.loseOuts slot
    let k := { k with
      groups := KMap.del k.groups slot
      spills := k.spills.filter fun r => match r.2.kind with
        | .group n => decide (n ≠ slot)
        | .park _ _ _ _ _ _ => true
        | .saved _ => true
      allocs := k.allocs.filter fun a => decide (a.slot ≠ slot) }
    let k := (k.gcFrames slot s.clk.compute).dropCredit (quarterOf slot) g.vf
    let w := k.wg g.wg
    let k := if (k.wg? g.wg).isSome then k.setWg g.wg { w with slots := w.slots.filter fun x => decide (x ≠ slot) } else k
    ((s.setCore c k).endWorkgroup c g.wg).dropTqc (c / 48) g.vf

/-- The tasks that a group runs by adoption (R434). -/
def Core.adoptedTasks (k : Core) (g : Group) : List W64 :=
  (g.entries.filterMap fun e => e.adopting) ++ ((g.entries.flatMap fun e => k.chain e.frame).eraseDups).filterMap fun i =>
    match (k.frame? i).bind fun f => f.hdr with
    | some h => if h.adoption then some h.pad else none
    | none => none

/-- A group without lanes ends: tasks it runs by adoption fail (R434); its own task fails where the end is
forced, and otherwise ends as `TEND` with value 0 (R193). -/
def State.endGroup (s : State) (c slot : Nat) : State :=
  let k := s.core c
  match k.group? slot with
  | none => s
  | some g =>
    let s := (k.adoptedTasks g).foldl (fun s h => s.failTask c g.vf h) s
    let s := match g.task with
      | none => s
      | some h => if g.forced then s.failTask c g.vf h else s.finishTask c g.vf h 0
    s.dropGroup c slot

/-- The group ends if no lane is left. -/
def State.endIfEmpty (s : State) (c slot : Nat) : State :=
  match (s.core c).group? slot with
  | some g => if g.noLanes then s.endGroup c slot else s
  | none => s

/-- Lanes `l` of an entry end (R193); a task that the entry ran by adoption and that no entry of the group runs any more
fails (R434). -/
def State.exitEntry (s : State) (c slot : Nat) (e : Entry) (l : Mask) : State :=
  let k := s.core c
  match k.group? slot with
  | none => s
  | some g =>
    let k' := k.exitLanes slot e l s.clk.compute
    let left := match k'.group? slot with
      | some g => k'.adoptedTasks g
      | none => []
    let gone := (k.adoptedTasks { g with entries := [e] }).filter fun h => !left.contains h
    (gone.foldl (fun s h => s.failTask c g.vf h) (s.setCore c k')).endIfEmpty c slot

/-- Every lane of a group ends by force (R373, R399, R434, R436, R441). -/
def State.forceEnd (s : State) (c slot : Nat) : State :=
  let k := s.core c
  match k.group? slot with
  | none => s
  | some g => (s.setCore c (k.setGroup slot { g with forced := true })).endGroup c slot

/-! ## Fatal ends of a group (R373, R375, R419) -/

/-- The class 2 event of a fatal trap: the cause and `%tinfo` of the first trap (R373, R375). -/
def fatalEvent (c slot : Nat) (k : Core) (g : Group) (e : Entry) (cause : Nat) (i0 i1 : W32) (nested hasVa : Bool) : Event :=
  let adopted := inAdopted k e
  { Event.blank with
    code := cause, cls := 2, block := 0, die := c / 48, unit := c % 48, slot := slot, vf := g.vf
    addrVa := hasVa, nested := nested, adopted := adopted
    addr := if hasVa then BitVec.ofNat 64 (i0.toNat + bits i1.toNat 22 0 * 2 ^ 32) else 0
    info := pair i0 i1, task := (runningTask k g e).getD 0
    launch := if adopted || g.task.isSome then none else some g.launch }

/-- Every lane of a group ends as by a fatal trap of entry `e`, with every task that the group runs by adoption: the header to
which an adopted task would return cannot be read (R419, R434). The event fails the group's launch (R435). -/
def State.loseGroup (s : State) (c slot : Nat) (e : Entry) (cause : Cause) : State :=
  let k := s.core c
  match k.group? slot with
  | none => s
  | some g =>
    (s.raise (srcCore c) { fatalEvent c slot k g e cause.code 0 0 false false with
      launch := if g.task.isSome then none else some g.launch }).forceEnd c slot

/-- A header cell among the given frames carries an uncorrectable error (R419). -/
def Core.badCells (k : Core) (ids : List Nat) : Bool :=
  ids.any fun i => ((k.frame? i).bind fun f => f.hdr).any fun h => h.bad

/-! ## Leaving adopted code (R76) -/

/-- The entry leaves every frame above its innermost adoption header, pops it, and restores what the header
holds; it continues at RPC. A header cell in error ends the group (R419). Other fragment entries of the adopted task go on in its
frames (DESIGN CHOICE, log 16). -/
def State.leaveAdoption (s : State) (c slot : Nat) (e : Entry) : State :=
  let k := (s.core c).leaveIssue slot e.id
  match k.adoption e.frame, k.group? slot with
  | some (i, h), some g =>
    if h.bad then s.loseGroup c slot e .dataUncorrectable
    else
      let parent := ((k.frame? i).bind fun f => f.parent).getD 0
      let e' : Entry :=
        { e with
          mask := h.mask, adepth := h.adepth, tok := h.tok, pc := h.rpc, frame := parent
          depth := (k.chain parent).length - 1, wait := .none, waitFrom := s.clk.compute, handler := none }
      let preds : W64 := (h.args.setWidth 64 <<< 48) ||| (h.psave.setWidth 64)
      let g := ({ g with preds := preds }.setEntry e').gcItems
      s.setCore c ((k.setGroup slot g).gcFrames slot s.clk.compute)
  | _, _ => s

/-- The entry's request is served. -/
def Core.doneAlloc (k : Core) (slot : Nat) (ent : EntId) : Core :=
  { k with allocs := k.allocs.filter fun a => !(decide (a.slot = slot) && decide (a.ent = some ent)) }

/-- The consequences of a fatal trap: an adopted task fails and the entry leaves it, one that has only claimed it with the
predicates that it had at the trap (R77, R431); any other group ends by force (R373). -/
def State.fatalEnd (s : State) (c slot : Nat) (e : Entry) : State :=
  let k := s.core c
  let saved := e.handler.bind fun i => KMap.get? k.traps i
  let k := match e.handler with
    | some i => k.freeTrap i
    | none => k
  let s := s.setCore c k
  match e.adopting, k.adoption e.frame, k.group? slot with
  | some h, _, some g =>
    let s := s.failTask c g.vf h
    let g := { g with preds := (saved.map TrapState.pred).getD g.preds }
    let back : Entry :=
      { e with adopting := none, handler := none, wait := .none, pc := (saved.map TrapState.resume).getD e.pc }
    s.setCore c (((s.core c).setGroup slot (g.setEntry back)).doneAlloc slot e.id)
  | none, some (_, h), some g =>
    let s := (s.failTask c g.vf h.pad).leaveAdoption c slot e
    s.setCore c ((s.core c).doneAlloc slot e.id)
  | _, _, _ => s.forceEnd c slot

/-- The group's trap is fatal: at a header cell with an uncorrectable error that entry `e` reads, or at a request of the ESE, for
which `e` is none. It is the trap of an entry that runs an adopted task, where one does, and that task fails (R77, R373, R419,
R430). -/
def State.fatalGroup (s : State) (c slot : Nat) (e : Option Entry) (cause : Cause) (i0 i1 : W32) : State :=
  let k := s.core c
  match k.group? slot with
  | none => s
  | some g =>
    match e.orElse fun _ => (g.entries.find? fun x => inAdopted k x).orElse fun _ => g.entries.head? with
    | none => s.forceEnd c slot
    | some e => (s.raise (srcCore c) (fatalEvent c slot k g e cause.code i0 i1 false false)).fatalEnd c slot e

/-! ## Results that arrive (R55, R413, R415) -/

/-- One destination register written, with the lanes that rest on uncorrectable data marked. -/
def Core.arrive (k : Core) (d : OutDest) : Core := (k.writeLoc d.loc d.mask d.val).markPoison d.loc (d.poison &&& d.mask)

/-- The core's record of its 16 most recent poisoning loads. -/
def Core.notePoison (k : Core) (ds : List OutDest) : Core :=
  let bad : Mask := ds.foldl (fun m d => m ||| (d.poison &&& d.mask)) 0
  match ds with
  | [] => k
  | d :: _ => if bad = 0#8 then k else { k with poisonLoads := ((ds.map (fun x => x.loc), bad, d.vas) :: k.poisonLoads).take 16 }

/-- A result whose requests have all been answered: its registers are written and free, and the record that it latched
is let go. -/
def Core.landOut (k : Core) (o : Out) : Core :=
  let k := { k with outs := k.outs.filter fun x => decide (x.id ≠ o.id) }
  ((o.dests.foldl Core.arrive k).notePoison o.dests).unlatchAll o.latched

/-- The outstanding results that go to one of the given frames. -/
def Core.outsOnto (k : Core) (ids : List Nat) : List Out :=
  k.outs.filter fun o => o.dests.any fun d => match d.loc with
    | .frame i _ => ids.contains i
    | .trap _ _ => false

/-- The answers to a result's requests have come, and its atomics are done (R55, R150). -/
def Core.answered (k : Core) (o : Out) : Bool := decide (o.reqs = 0) && !k.atoms.any fun a => decide (a.out = o.id)

/-- The results to the given frames that have come are written: their latency is open (DESIGN CHOICE, log 3). -/
def Core.landOnto (k : Core) (ids : List Nat) : Core :=
  ((k.outsOnto ids).filter fun o => k.answered o).foldl Core.landOut k

/-! ## Parking (R72, R75) -/

/-- The wait that an entry of a saved or parked context keeps: that of `BARS` and of `RCVM`, whose words are past or hold
other lanes; any other word issues again (R347, R440). -/
def savedWait (w : Wait) : Wait :=
  match w with
  | .bars b t => .bars b t
  | .rcvm i => .rcvm i
  | .sequencer t => .sequencer t
  | _ => .none

/-- The frames of a context from frame `root` upward, `root` first. -/
def Core.above (k : Core) (root : Nat) (es : List Entry) : List Nat :=
  let up := fun (e : Entry) => ((k.chain e.frame).take ((k.chain e.frame).length - (k.chain root).length + 1)).reverse
  (es.flatMap up).eraseDups

/-- The entries that run the context above frame `root`, entry `e` first. -/
def Core.contextOf (k : Core) (g : Group) (e : Entry) (root : Nat) : List Entry :=
  e :: g.entries.filter fun x => decide (x.id ≠ e.id) && (k.chain x.frame).contains root

/-- Park the entries `es` of a context from frame `root` upward under handle `h`, the first of them waiting for `w`; none
where no room is found. -/
def State.parkFrames (s : State) (c : Nat) (g : Group) (es : List Entry) (h : W64) (root : Nat) (w : Wait) :
    State × Option Nat :=
  let k := s.core c
  let base := (k.chain root).length - 1
  let below : List Nat := match (k.frame? root).bind fun f => f.hdr with
    | some hd => (g.stackOf hd.tok).map fun (t : TokItem) => t.id
    | none => []
  let up := fun (p : Nat) => if below.contains p then none else some p
  let call := fun (h : Hdr) => { h with tokh := h.tokh - below.length, tok := h.tok.bind up, adepth := 0 }
  let fs := (k.above root es).filterMap fun i => (k.frame? i).map fun f =>
    (i, if i = root then { f with parent := none, hdr := none } else { f with hdr := f.hdr.map call })
  let reach := es.flatMap fun e => (g.stackOf e.tok).map fun (t : TokItem) => t.id
  let items := (g.items.filter fun t => reach.contains t.id && !below.contains t.id).map fun t =>
    { t with depth := t.depth - base, parent := t.parent.bind up }
  let strip := fun (e : Entry) =>
    { e with depth := e.depth - base, adepth := 0, wait := savedWait e.wait, handler := none, readyAt := none, tok := e.tok.bind up }
  let ents := match es with
    | [] => []
    | e :: t => { strip e with wait := w } :: t.map strip
  s.writeSpill c g.vf (s.launch g.launch).hdr h fs 0 (.park h g.vf ents items g.preds root)

/-- The context above `root` can be parked: none of its entries is in a handler or about to adopt, and no other entry
runs a task that it adopted itself (DEDUCED, log 16). -/
def Core.parkable (k : Core) (es : List Entry) (root : Nat) : Bool :=
  es.all fun x => x.handler.isNone && x.adopting.isNone
    && (match k.adoption x.frame with
        | some (i, _) => decide (i = root)
        | none => true)

/-- The other entries of a context that has been parked leave their group. -/
def Core.dropEntries (k : Core) (slot : Nat) (es : List Entry) (now : Nat) : Core :=
  es.foldl (fun k x =>
    let k := k.freeEntry slot x.id now
    { k with allocs := k.allocs.filter fun a => !(decide (a.slot = slot) && decide (a.ent = some x.id)) }) k

/-- The record of a parked task: STATE 2, PARKVA, ADOPTED 0 (R72, R75). -/
def State.markParked (s : State) (c v : Nat) (h : W64) (va : Nat) : State :=
  match s.ownerRec c v h with
  | (s, none) => s
  | (s, some ws) =>
    let src := srcCore c
    let s := match s.agentWrite (c / 48) v (s.taskVa v h + 0x18) (BitVec.ofNat 64 va) with
      | (s, .error code) => s.raise src (accessEvent src v code (s.taskVa v h) h)
      | (s, .ok _) => s
    s.setCtl c v h (putBits (putBits (putBits (getAt ws 1 0).toNat 7 5 2) 39 39 0) 57 57 0)

/-- `e` waits in place (R49). -/
def State.waitHere (s : State) (c slot : Nat) (e : Entry) (w : Wait) : State :=
  s.setCore c ((s.core c).setEntry slot { e with wait := w, waitFrom := s.clk.compute })

/-- `WaitOrPark` of R75: adopted code parks and the entry falls back one level, a task's group parks, and any other entry
waits; a park needs room. Results that are still to come to its frames are awaited first (DEDUCED, log 16). -/
def State.waitOrPark (s : State) (c slot : Nat) (e : Entry) (w : Wait) : State :=
  let k := s.core c
  match k.group? slot with
  | none => s
  | some g0 =>
    let root := match k.adoption e.frame with
      | some (i, _) => i
      | none => ((k.chain e.frame).getLast?).getD 0
    let es := k.contextOf g0 e root
    -- every pending write completes before the context leaves the issue stage (R56)
    let k1 := (k.settleAll slot).landOnto (k.above root es)
    let g := (k1.group? slot).getD g0
    if (k.adoption e.frame).isNone && g0.task.isNone || !k.parkable es root then s.waitHere c slot e w
    else if k.badCells (k.above root es) then s.fatalGroup c slot (some e) .dataUncorrectable 0 0
    else if !(k1.outsOnto (k.above root es)).isEmpty then
      s.waitHere c slot e (.busyReg ((k1.outsOnto (k.above root es)).map fun o => o.id) [])
    else
      match k.adoption e.frame, g0.task with
      | some (_, h), _ =>
        match (s.setCore c k1).parkFrames c g es h.pad root w with
        | (_, none) => s.waitHere c slot e w
        | (s, some va) =>
          let s := s.markParked c g.vf h.pad va
          (s.setCore c ((s.core c).dropEntries slot (es.drop 1) s.clk.compute)).leaveAdoption c slot e
      | none, some h =>
        match (s.setCore c k1).parkFrames c g es h root w with
        | (_, none) => s.waitHere c slot e w
        | (s, some va) => (s.markParked c g.vf h va).dropGroup c slot
      | none, none => s.waitHere c slot e w

/-! ## Adoption (R75) -/

/-- The live spill record of a parked task: its core and key. -/
def State.findPark (s : State) (h : W64) (v : Nat) : Option (Nat × Nat × SpillRec) :=
  s.cores.findSome? fun c => c.2.spills.findSome? fun r =>
    match r.2.kind with
    | .park h' v' _ _ _ _ => if h' = h && v' = v then some (c.1, r.1, r.2) else none
    | .group _ => none
    | .saved _ => none

/-- The code of the event of a start that finds no live record at PARKVA: one that cannot be read, or whose first word is
not the task's handle, for which the manual gives no code (R72) (DESIGN CHOICE, log 10); none where the record is live. -/
def State.parkDead (s : State) (d v : Nat) (h : W64) (parkVa : Nat) : State × Option Nat :=
  match s.agentRead d v parkVa with
  | (s, .error code) => (s, some code)
  | (s, .ok w) =>
    match s.findPark h v with
    | some (_, _, r) =>
      if w = h then
        match State.agentReads (r.size / 8) s d v r.off with
        | (s, .error code) => (s, some code)
        | (s, .ok _) => (s, none)
      else ({ s with frees := s.frees + 1 }, some (s.freeCode 1))
    | none => ({ s with frees := s.frees + 1 }, some (s.freeCode 1))

/-- A parked record is marked free and its space reused (R72). -/
def State.freePark (s : State) (d v : Nat) (h : W64) : State :=
  match s.findPark h v with
  | none => s
  | some (c, key, r) =>
    let s := match s.agentWrite d v r.off 0 with
      | (s, .error _) => s
      | (s, .ok _) => s
    let k := s.core c
    s.setCore c { k with spills := KMap.del k.spills key }

/-- Frames given fresh names on core `k`, and the name that `id` took. -/
def renameFrames (k : Core) (slot : Nat) (fs : List (Nat × Frame)) : List (Nat × Frame) :=
  let new := fun (id : Nat) => k.nextFrame + ((fs.map Prod.fst).takeWhile fun x => decide (x ≠ id)).length
  fs.map fun f => (new f.1, { f.2 with slot := slot, parent := f.2.parent.map new })

/-- The name that frame `id` takes under `renameFrames`. -/
def renamedFrame (k : Core) (fs : List (Nat × Frame)) (id : Nat) : Nat :=
  k.nextFrame + ((fs.map Prod.fst).takeWhile fun x => decide (x ≠ id)).length

/-- A parked context put into entry `e` of slot `slot`, its root frame under `parent` with header `hdr`, or
none where its frames do not fit. -/
def State.refillPark (s : State) (c slot : Nat) (g : Group) (e : Entry) (r : SpillRec) (parent : Option Nat)
    (hdr : Option Hdr) : Option (Core × Entry × Group) :=
  match r.kind with
  | .group _ => none
  | .saved _ => none
  | .park _ _ pes items preds root =>
    let k := s.core c
    let fixTok := fun (t : Nat) => g.nextItem + t
    let call := fun (h : Hdr) => { h with
      tokh := h.tokh + g.height e.tok, adepth := if parent.isSome then e.adepth + 1 else 0
      tok := match h.tok with
        | some t => some (fixTok t)
        | none => e.tok }
    let fs := r.frames.map fun f =>
      if f.1 = root then (f.1, { f.2 with parent := none, hdr := hdr }) else (f.1, { f.2 with hdr := f.2.hdr.map call })
    match k.place (frameSizes fs), pes with
    | none, _ => none
    | some _, [] => none
    | some ps, pe :: rest =>
      let rootId := renamedFrame k fs root
      let fs' := (renameFrames k slot fs).map fun f =>
        if f.1 = rootId then (f.1, { f.2 with parent := parent }) else f
      let k' := Core.putFrames { k with nextFrame := k.nextFrame + fs.length } fs' ps
      let base := match parent with
        | some p => (k.chain p).length
        | none => 0
      let used := k.fragsUsed (quarterOf slot)
      let frags := ((List.range (used.length + rest.length)).filter fun n => !used.contains n).map EntId.frag
      let ids : List (EntId × EntId) := (pe.id, e.id) :: (rest.map fun x => x.id).zip frags
      let newId := fun (i : EntId) => ((ids.find? fun p => decide (p.1 = i)).map Prod.snd).getD e.id
      let items' := items.map fun t =>
        { t with
          id := fixTok t.id, owner := newId t.owner, depth := t.depth + base
          parent := match t.parent with
            | some p => some (fixTok p)
            | none => e.tok }
      let top := items.foldl (fun n t => max n (t.id + 1)) 0
      let back := fun (x : Entry) =>
        { x with
          id := newId x.id, depth := x.depth + base, frame := renamedFrame k fs x.frame, adepth := e.adepth
          waitFrom := s.clk.compute, nextIssue := max x.nextIssue e.nextIssue, lastIssue := e.lastIssue
          wait := match x.wait with
            | .rcvm i => .rcvm (fixTok i)
            | w => w
          tok := match x.tok with
            | some t => some (fixTok t)
            | none => e.tok }
      let rest' := rest.map back
      let g' := { g with
        entries := g.entries ++ rest', items := items' ++ g.items, nextItem := g.nextItem + top, preds := preds }
      let b := back pe
      let e' : Entry :=
        { e with
          mask := b.mask, pc := b.pc, depth := b.depth, retried := b.retried, frame := b.frame, wait := savedWait b.wait
          waitFrom := s.clk.compute, tok := b.tok }
      some (k', e', g')

/-- The four arguments of a task in v0:v1 to v6:v7 of a frame, the same in every lane (R72). -/
def Core.putArgs (k : Core) (id : Nat) (args : List W64) : Core :=
  (List.range 4).foldl (fun k i =>
    (k.writeLoc (.frame id (2 * i)) 0xFF (splat (lo32 (getAt args i 0)))).writeLoc (.frame id (2 * i + 1)) 0xFF
      (splat (hi32 (getAt args i 0)))) k

/-- The adoption header of R62 and R75 for entry `e` and task `h`. -/
def adoptHeader (k : Core) (g : Group) (e : Entry) (h : W64) (size : Nat) : Hdr :=
  { rpc := pc55 e.pc, padv := false, pad := h, adoption := true, res := 0, args := g.preds.extractLsb' 48 8, vbase := 0
    fsize := size / 8 - 1, csize := k.frameSize e.frame / 8 - 1
    cbase := ((k.frame? e.frame).map fun f => f.base).getD 0, psave := g.preds.extractLsb' 0 48, mask := e.mask
    adepth := e.adepth, tokh := g.height e.tok, tok := e.tok, cellBlock := 0, cellIdx := 0, bad := false }

/-- The oldest waiting request of the core is this entry's, or nothing waits (R63). -/
def Core.mayAlloc (k : Core) (slot : Nat) (ent : EntId) : Bool :=
  match k.allocs with
  | [] => true
  | a :: _ => decide (a.slot = slot) && decide (a.ent = some ent)

/-- The entry waits for frame allocation; its request keeps its age (R63). -/
def State.waitAlloc (s : State) (c slot : Nat) (e : Entry) (size : Nat) : State :=
  let k := s.core c
  let mine := k.allocs.any fun a => decide (a.slot = slot) && decide (a.ent = some e.id)
  let a : AllocReq := { slot := slot, ent := some e.id, since := s.clk.compute, size := size }
  let k := if mine then k else { k with allocs := k.allocs ++ [a] }
  s.setCore c (k.setEntry slot { e with wait := .alloc, waitFrom := s.clk.compute })

/-- A claimed task gets its frames in entry `e`: a fresh frame, or its parked context; where they do not
fit, the helper waits as a `CALL` does (R72, R75, R431). -/
def State.placeAdopted (s : State) (c slot : Nat) (e : Entry) (h : W64) : State :=
  let k := (s.core c).leaveIssue slot e.id
  match k.group? slot with
  | none => s
  | some g =>
    let v := g.vf
    match s.ownerRec c v h with
    | (s, none) => s.setCore c (k.setEntry slot { e with adopting := none })
    | (s, some ws) =>
      let size := ctlFrame (getAt ws 1 0).toNat
      match s.findPark h v with
      | some (_, _, r) =>
        let rootSize := match r.kind with
          | .park _ _ _ _ _ root => ((KMap.get? r.frames root).map fun f => f.size).getD 8
          | .group _ => 8
          | .saved _ => 8
        if !k.mayAlloc slot e.id then s.waitAlloc c slot { e with adopting := some h } rootSize
        else
          match (s.setCore c k).refillPark c slot g e r (some e.frame) (some (adoptHeader k g e h rootSize)) with
          | none => s.waitAlloc c slot { e with adopting := some h } rootSize
          | some (k', e', g') =>
            let deeper := { g' with entries := g'.entries.map fun x =>
              if (g.entry? x.id).isSome then x else { x with adepth := e.adepth + 1 } }
            let s := s.setCore c (((k'.setGroup slot deeper).setEntry slot { e' with adepth := e.adepth + 1, adopting := none }).doneAlloc slot e.id)
            (s.freePark (c / 48) v h).perfAdd v 4 1
      | none =>
        if !k.mayAlloc slot e.id then s.waitAlloc c slot { e with adopting := some h } size
        else
          match k.place [(size, true)] with
          | some [p] =>
            let (k, id) := k.addFrame slot size p (some e.frame) (some (adoptHeader k g e h size))
            let k := k.putArgs id (ws.drop 4)
            let e' : Entry :=
              { e with
                mask := 0xFF, pc := BitVec.ofNat 64 (bits (getAt ws 0 0).toNat 54 0), frame := id
                depth := e.depth + 1, adepth := e.adepth + 1, retried := false, wait := .none, adopting := none }
            let s := s.setCore c (((k.setGroup slot { g with preds := 0 }).setEntry slot e').doneAlloc slot e.id)
            s.perfAdd v 4 1
          | _ => s.waitAlloc c slot { e with adopting := some h } size

/-- A stage-2 fault goes to firmware: the instruction is held until firmware has worked on the page (R368,
R408). -/
def State.holdStage2 (s : State) (c slot : Nat) (e : Entry) (v ia : Nat) (cause : Cause) : State :=
  let page := ia / 65536
  let h : S2Hold := { vf := v, ia := ia, cause := cause, die := c / 48 }
  let known := s.fwc.holds.any fun x => decide (x.vf = v) && decide (x.ia / 65536 = page)
  let s := if known then s else { s with fwc := { s.fwc with holds := s.fwc.holds ++ [h] } }
  s.waitHere c slot e (.stage2 page cause)

/-- The page whose stage-2 fault holds the instruction of entry `e` at the read of an owner's record: one on which firmware
has not just declined (R74, R408). -/
def State.ownerHold (s : State) (c v : Nat) (e : Entry) (h : W64) : Option (Nat × Cause) :=
  if !s.handleOk v h then none
  else
    match s.xlate (s.tlbOf c) v (s.taskVa v h) .rd with
    | .bad cause true ia => if e.wait = .declined (ia / 65536) then none else some (ia, cause)
    | _ => none

/-- `FWAIT`, `LKAQ` or `RWFL` in entry `e` would block on an object with owner `o`; the instruction is at
`e.pc`, and `isFut` says that the object is a future (R75). -/
def State.adoptOrWait (s : State) (c slot : Nat) (e : Entry) (o : W64) (isFut : Bool) (w : Wait) : State :=
  match (s.core c).group? slot with
  | none => s
  | some g =>
    let v := g.vf
    if o = 0#64 then s.waitOrPark c slot e w
    else
      match s.ownerHold c v e o with
      | some (ia, cause) => (s.dropFault v (s.taskVa v o) ia true).holdStage2 c slot e v ia cause
      | none =>
        match s.ownerRec c v o with
        | (s, none) => s.waitOrPark c slot e w
        | (s, some ws) =>
          let ctl := (getAt ws 1 0).toNat
          let ended := fun (s : State) =>
            if isFut && !e.retried then s.setCore c ((s.core c).setEntry slot { e with retried := true })
            else s.waitOrPark c slot e w
          if !ctlAdopt ctl || e.adepth = 4 || 64 ≤ e.depth then s.waitOrPark c slot e w
          else if ctlState ctl = 3 || ctlState ctl = 4 then ended s
          else if ctlState ctl = 0 || (ctlState ctl = 2 && ctlReady ctl) then
            match s.swapCtl c v o (ctlRun ctl c slot true) with
            | (s, false) => s.waitOrPark c slot e w
            | (s, true) =>
              let claim := fun (s : State) =>
                let k := s.core c
                let s := s.setCore c (k.setWg g.wg { k.wg g.wg with idem := false })
                s.placeAdopted c slot e o
              if ctlState ctl = 0 then claim s
              else
                match s.parkDead (c / 48) v o (bits (getAt ws 3 0).toNat 54 0) with
                | (s, none) => claim s
                | (s, some code) =>
                  let s := s.failTask c v o
                  ended (s.raise (srcCore c) (accessEvent (srcCore c) v code (bits (getAt ws 3 0).toNat 54 0) o))
          else s.waitOrPark c slot e w

end Sys2Proof.Machine
end

