-- ==== Sys2Proof/Machine/Waits.lean ====
section
/-! DEFINITION. What an entry waits for and when the wait is over, and the swaps of a quarter's active set (R49, R50,
R63, R72, R194). -/

namespace Sys2Proof.Machine

/-! ## The objects of a core that an entry can wait for (R155, R229-R231, R235, R243) -/

/-- A barrier at workgroup start. -/
def Barrier.start : Barrier := { expected := 0, arrival := 0, phase := 0 }

def Workgroup.barrier (w : Workgroup) (b : Nat) : Barrier := KMap.getD w.barriers b Barrier.start

def Ring.slotsN (r : Ring) : Nat := 2 ^ r.c
/-- Bytes of a slot. -/
def Ring.slotBytes (r : Ring) : Nat := 32 * 2 ^ r.s
def Ring.slot (r : Ring) (i : Nat) : RingSlot := getAt r.slots i .free
def Ring.setSlot (r : Ring) (i : Nat) (x : RingSlot) : Ring := { r with slots := setAt r.slots i x }
/-- K − F = 2^c: no slot is free for a claim. -/
def Ring.full (r : Ring) : Bool := decide (r.slotsN ≤ r.k - r.f)
/-- Slot T mod 2^c is published. -/
def Ring.ready (r : Ring) : Bool := decide (r.slot (r.t % r.slotsN) = .published)

/-- The home core of a ring id on the issuer's die, and the ring's index; none for item 1 of R232. -/
def State.ringPlace (s : State) (c : Nat) (id : W32) : Option (Nat × Nat) :=
  let n := id.toNat
  let home := c / 48 * 48 + n % 64
  if 1024 ≤ n || 48 ≤ n % 64 || !(s.core home).usable then none else some (home, n / 64)

def Core.chan (k : Core) (ch : Nat) : CopyChan :=
  KMap.getD k.chans ch { used := false, wmk := 0, lo := 0, hi := 0, op := none }
/-- WMK(ch) ≥ a, or the channel holds no copy whose range contains a. -/
def Core.copyPast (k : Core) (ch wg a : Nat) : Bool :=
  let c := k.chan ch
  let inside := match c.op with
    | some op => !op.bst && decide (op.wg = wg) && decide (c.lo ≤ a) && decide (a < c.hi)
    | none => false
  decide (a ≤ c.wmk) || !inside

/-- A byte of [off, off + n) lies in the range of a copy of the workgroup at or above its watermark (R155). -/
def Core.copyStalls (k : Core) (wg off n : Nat) : Bool :=
  k.chans.any fun c => match c.2.op with
    | some op => decide (op.wg = wg) && !op.bst && decide (max off c.2.wmk < min (off + n) c.2.hi)
    | none => false

/-- A launched matrix operation of the workgroup reads reservation `r` (R235). -/
def Core.readsRes (k : Core) (wg r : Nat) : Bool :=
  k.launchQ.any fun o => match o with
    | .mma _ w _ a b _ _ _ _ _ _ _ _ _ => decide (w = wg) && (decide (a = r) || decide (b = r))
    | .drain _ _ _ _ _ _ _ _ _ _ _ _ _ _ _ _ _ => false

/-- A free context of the core (R243). -/
def Core.freeCtx (k : Core) : Option Nat := firstBelow 8 fun i => (KMap.get? k.ctxs i).isNone

/-! ## When a wait is over -/

/-- A wait for a future, a lock or a ring is over, as core `c` sees it for virtual function `v`; an object that can
no longer be read ends the wait, so that the instruction meets the fault (R49, R72, R225). -/
def State.objectOver (s : State) (c v : Nat) (w : Wait) : Bool :=
  match w with
  | .future h =>
    match s.xlate (s.tlbOf c) v (futVa h) .rd with
    | .mem pa _ => decide (futGen (s.readNat (pa + 8) 8) ≠ handleGen h) || decide (futState (s.readNat (pa + 8) 8) ≠ 0)
    | .mmio _ _ => true
    | .bad _ _ _ => true
  | .lock va =>
    match s.xlate (s.tlbOf c) v va.toNat .wr with
    | .mem pa _ => decide (s.word pa = 0#64)
    | .mmio _ _ => true
    | .bad _ _ _ => true
  | .ringData id =>
    match s.ringPlace c id with
    | none => true
    | some (h, i) => ((KMap.get? (s.core h).rings i).map Ring.ready).getD true
  | .ringFree id =>
    match s.ringPlace c id with
    | none => true
    | some (h, i) => ((KMap.get? (s.core h).rings i).map fun r => !r.full).getD true
  | _ => false

/-- The wait of an entry of slot `slot` is over. A frame, a token and a stage-2 page end theirs by a step of their own
(R47, R63, R408). -/
def State.waitOver (s : State) (c slot : Nat) (g : Group) (e : Entry) : Bool :=
  let k := s.core c
  let w := k.wg g.wg
  match e.wait with
  | .none => true
  | .busyReg ids _ => !k.outs.any fun o => ids.contains o.id
  | .barrier b t => decide ((w.barrier b).phase ≠ t)
  | .bars b t => decide ((w.barrier b).phase ≠ t)
  | .copyMark ch off => k.copyPast ch g.wg off
  | .copyIdle ch => (k.chan ch).op.isNone
  | .scratchMark off n => !k.copyStalls g.wg off n
  | .monitor => !(k.quarter (quarterOf slot)).monitors.any fun m => decide (m.2.1 = slot) && decide (m.2.2 = e.id)
  | .future _ => s.objectOver c g.vf e.wait
  | .lock _ => s.objectOver c g.vf e.wait
  | .ringData _ => s.objectOver c g.vf e.wait
  | .ringFree _ => s.objectOver c g.vf e.wait
  | .reservation r => !k.readsRes g.wg r
  | .alloc => false
  | .yield => true
  | .rcvm _ => false
  | .sequencer _ => w.ctx.isNone && k.freeCtx.isSome
  | .stage2 _ _ => false
  | .declined _ => true

/-- The workgroup issues nothing: it is being saved, or a context of it has stopped (R347, R399). -/
def Workgroup.held (w : Workgroup) : Bool := w.saving || w.stopping

/-- The entry can issue in this clock, but for its place in the active set: its wait is over, its group is not held,
stopped, saved or spilled, and its stall count has run out (R49, R54, R65, R347, R369, R383, R399). -/
def State.entryReady (s : State) (c slot : Nat) (g : Group) (e : Entry) : Bool :=
  decide (e.mask ≠ 0#8) && !g.spilled && !g.holds e.id && decide (e.nextIssue ≤ s.clk.compute)
    && !((s.core c).wg g.wg).held && s.waitOver c slot g e

/-- The entry meets a long-latency dependence (R49, R194, R235, R408). -/
def Core.longWait (k : Core) (e : Entry) : Bool :=
  match e.wait with
  | .none => false
  | .busyReg _ reads => k.outs.any fun o => reads.contains o.id && o.long
  | .declined _ => false
  | _ => true

/-! ## Swaps (R49, R50) -/

/-- The entries of a quarter that hold no place of its active set, with their slots. -/
def Core.pendingEntries (k : Core) (q : Nat) : List (Nat × Group × Entry) :=
  k.groups.flatMap fun g =>
    if quarterOf g.1 = q then
      (g.2.entries.filter fun e => (k.placeOf g.1 e.id).isNone).map fun e => (g.1, g.2, e)
    else []

/-- The ready pending entries of a quarter. -/
def State.readyPending (s : State) (c q : Nat) : List (Nat × Group × Entry) :=
  ((s.core c).pendingEntries q).filter fun x => s.entryReady c x.1 x.2.1 x.2.2

/-- Entry `a` takes a slot before entry `b`: the tenant `v` first, then the larger deficit, then the lower virtual
function, then the one that has been ready longest (R49). -/
def swapBefore (d : KMap Nat) (v now : Nat) (a b : Nat × Group × Entry) : Bool :=
  let key := fun (x : Nat × Group × Entry) => (x.2.1.vf, KMap.getD d x.2.1.vf 0, x.2.2.readyAt.getD now)
  let (va, da, ra) := key a
  let (vb, db, rb) := key b
  if (va == v) != (vb == v) then va == v
  else if da ≠ db then db < da
  else if va ≠ vb then va < vb
  else ra < rb

/-- The entry that takes a slot; of several entries of one tenant that have been ready since the same clock, the first in slot
and entry order (DESIGN CHOICE, log 40). -/
def pickPending (d : KMap Nat) (v now : Nat) (l : List (Nat × Group × Entry)) : Option (Nat × Group × Entry) :=
  l.foldl (fun best x => match best with
    | none => some x
    | some b => if swapBefore d v now x b then some x else some b) none

/-- An entry enters place `p` of quarter `q`; it issues from clock `from_` on. -/
def Core.enter (k : Core) (q p : Nat) (x : Nat × Group × Entry) (now from_ : Nat) : Core :=
  let qt := k.quarter q
  let place : Place := { slot := x.1, ent := x.2.2.id, since := now, from_ := from_ }
  (k.setQuarter q { qt with active := KMap.put qt.active p place }).setEntry x.1 { x.2.2 with lastIssue := now, readyAt := none }

/-- The entry in place `p` leaves the issue stage with its pending writes complete, and a ready pending entry takes the
place after the 2 clocks of the swap, which follow the present one where the slot has issued in it; none where no pending
entry is ready (R49, R56, R194). -/
def State.swapPlace (s : State) (c q p : Nat) (issued : Bool) (ok : Group → Bool) : Option State :=
  let now := s.clk.compute
  match KMap.get? ((s.core c).quarter q).active p with
  | none => none
  | some pl =>
    let v := (((s.core c).group? pl.slot).map fun g => g.vf).getD 0
    match pickPending ((s.core c).quarter q).deficit v now ((s.readyPending c q).filter fun x => ok x.2.1) with
    | none => none
    | some x =>
      let k := (s.core c).leaveIssue pl.slot pl.ent
      let k := match (k.group? pl.slot).bind fun g => g.entry? pl.ent with
        | none => k
        | some e =>
          k.setEntry pl.slot
            (if e.wait = Wait.yield then { e with wait := .none, readyAt := some now } else { e with readyAt := none })
      let g := (k.group? x.1).getD x.2.1
      let e := (g.entry? x.2.2.id).getD x.2.2
      some ((s.setCore c (k.enter q p (x.1, g, e) now (now + if issued then 3 else 2))).perfAdd v 2 1)

/-- An entry that has just met a long-latency dependence is swapped out if a pending entry is ready; a `YIELD` that
finds none has no further effect (R49, R194). `issued` says that its word issued in this clock. -/
def State.meetWait (s : State) (c slot : Nat) (id : EntId) (issued : Bool) : State :=
  let k := s.core c
  match (k.group? slot).bind fun g => g.entry? id with
  | none => s
  | some e =>
    if !k.longWait e || e.handler.isSome then s
    else
      match k.placeOf slot id with
      | none => s
      | some p =>
        match s.swapPlace c (quarterOf slot) p issued (fun _ => true) with
        | some s => s
        | none => if e.wait = Wait.yield then s.setCore c (k.setEntry slot { e with wait := .none }) else s

end Sys2Proof.Machine
end

