-- ==== Sys2Proof/Machine/Ops.lean ====
section
/-! DEFINITION. The issue of a compute instruction: the checks of R385 in their order, trap entry and the
return from a trap (R369-R374), and how each kind of result takes effect (R54-R56, R161). -/

namespace Sys2Proof.Machine

/-- What a step of the machine gives. -/
abbrev Result := Host.Outcome State Fault Refusal

/-- The instruction at issue: its core, slot and entry, and Active() (R14, R161). -/
structure Iss where
  c : Nat
  slot : Nat
  k : Core
  g : Group
  e : Entry
  act : Mask
  now : Nat
  deriving DecidableEq, Repr

/-- The lowest-numbered lane of Active() (R219). -/
def Iss.low (x : Iss) : Nat := lowLane x.act

/-- The task that the entry has claimed and still needs a frame for; its handler issues all the same (R431). -/
def Iss.claimed (x : Iss) : Option W64 := if x.e.handler.isSome then none else x.e.adopting

/-- The virtual function of the issuing group. -/
def Iss.v (x : Iss) : Nat := x.g.vf

/-! ## Registers named by a word (R61, R370) -/

/-- The place of register field `f`; none where R61 or R370 raises REG_RANGE. -/
def locOf (k : Core) (e : Entry) (f : Nat) : Option RegLoc :=
  match e.handler with
  | some i =>
    if f < 64 then some (.trap i f)
    else if f < 256 && f - 64 < k.frameSize e.frame then some (.frame e.frame (f - 64)) else none
  | none => if f < k.frameSize e.frame then some (.frame e.frame f) else none

/-- The `n` registers from field `f` can be named: none at or above the frame size, and in a handler none
across v63 to v64. -/
def rangeOk (k : Core) (e : Entry) (f n : Nat) : Bool :=
  (List.range n).all (fun i => (locOf k e (f + i)).isSome)
    && (e.handler.isNone || decide (64 ≤ f) || decide (f + n ≤ 64))

/-- Register field `f` of the issuing entry, all lanes. -/
def Iss.reg (x : Iss) (f : Nat) : Reg :=
  match locOf x.k x.e f with
  | some l => x.k.readLoc l
  | none => 0

/-- Lane `i` of register field `f`. -/
def Iss.lane (x : Iss) (f i : Nat) : W32 := Machine.lane (x.reg f) i

/-- Lane `i` of the pair at field `f` (R11). -/
def Iss.pair (x : Iss) (f i : Nat) : W64 := Machine.pair (x.lane f i) (x.lane (f + 1) i)

/-! ## What the issue stage needs to know of a word -/

/-- The facts of a word that steps 2 to 6 of R385 use. -/
structure Spec where
  instr : Instr
  g : Guard
  /-- The instruction carries a literal word: 16 bytes (R162). -/
  lit : Bool := false
  /-- R390 allows it in a handler. -/
  inHandler : Bool := true
  /-- It moves every lane of the entry together (R188). -/
  whole : Bool := false
  /-- No reserved field or value (step 3). -/
  fields : Bool := true
  /-- Register ranges written and read: field and count, in field order (steps 4, 5). -/
  dsts : List (Nat × Nat) := []
  srcs : List (Nat × Nat) := []
  /-- Predicates read beside the guard. -/
  psrcs : List Nat := []
  /-- The SCOPE code that step 6 checks, 0 for none. -/
  scope : Nat := 0
  /-- Step 5 applies; `PRF` makes no check beyond the fields (R221). -/
  shadow : Bool := true
  /-- Registers that the word waits for and reads beside those, in an order of its own (R191, R221). -/
  args : List (Nat × Nat) := []
  /-- Checks that the word's own rule puts before step 5 (R191). -/
  early : Iss → Option Trap := fun _ => none

def Spec.len (sp : Spec) : Nat := if sp.lit then 16 else 8

/-- The instruction word, for `%tinfo0` and `%tinfo1` (R371). -/
def Spec.word (sp : Spec) : W64 :=
  match encode sp.instr with
  | some (_, bs) => BitVec.ofNat 64 (leNat (bs.take 8))
  | none => 0

/-! ## Traps (R369-R374) -/

def trapPlain (c : Cause) (i0 i1 : W32) (m : Mask) : Trap :=
  { cause := c, i0 := i0, i1 := i1, fmask := m, va := false, stage2 := false, ia := 0 }

/-- A trap whose `%tinfo` hold a VA (R371). -/
def trapVa (c : Cause) (va : Nat) (m : Mask) : Trap :=
  { trapPlain c (BitVec.ofNat 32 va) (BitVec.ofNat 32 (bits va 54 32)) m with va := true }

/-- The place of an entry in its quarter's active set, made if it has none: a free one, or one whose entry runs no handler;
none where handlers hold all eight (R69). -/
def Core.ensurePlace (k : Core) (slot : Nat) (id : EntId) (now : Nat) : Option (Core × Nat) :=
  match k.placeOf slot id with
  | some p => some (k, p)
  | none =>
    let q := k.quarter (quarterOf slot)
    let free := firstBelow 8 fun i => (KMap.get? q.active i).isNone
    let idle := firstBelow 8 fun i =>
      match KMap.get? q.active i with
      | none => true
      | some p =>
        match (k.group? p.slot).bind fun g => g.entry? p.ent with
        | some e => e.handler.isNone
        | none => true
    (free.orElse fun _ => idle).map fun p =>
      (k.setQuarter (quarterOf slot)
        { q with active := KMap.put q.active p { slot := slot, ent := id, since := now, from_ := now } }, p)

/-- `%tinfo3` (R371). -/
def tinfo3 (k : Core) (slot : Nat) (e : Entry) (m : Mask) : W32 :=
  BitVec.ofNat 32 (m.toNat * 2 ^ 24 + (if inAdopted k e then 2 ^ 23 else 0)
    + (e.adepth + (if e.adopting.isSome then 1 else 0)) * 2 ^ 20 + slot)

/-- `%tinfo2`: the index of the running task, or all ones (R369). -/
def tinfo2 (k : Core) (g : Group) (e : Entry) : W32 :=
  match runningTask k g e with
  | some h => BitVec.ofNat 32 (handleIndex h)
  | none => 0xFFFFFFFF

/-- The resume PC of R372. -/
def resumePc (c : Cause) (pc : W64) (len : Nat) : W64 :=
  match c with
  | .swTrap => pc + BitVec.ofNat 64 len
  | .breakpoint => pc + BitVec.ofNat 64 len
  | .fpException => pc + BitVec.ofNat 64 len
  | _ => pc

/-- The monitors of a group go, so that every `WAITA` of it wakes (R225). -/
def Core.wakeGroup (k : Core) (slot : Nat) : Core :=
  let q := k.quarter (quarterOf slot)
  k.setQuarter (quarterOf slot) { q with monitors := q.monitors.filter fun m => decide (m.2.1 ≠ slot) }

/-- A trap of entry `e` in a group: fatal where the vector is 0 or the entry is in a handler, and else the
entry of the handler: the cause and information saved, the other entries held, pending writes completed, waits for a monitor
over, the predicates saved, and the PC at the vector (R225, R369, R373, R374). An entry for which handlers leave no slot does
not issue (R69). -/
def State.takeTrap (s : State) (c slot : Nat) (id : EntId) (t : Trap) (len : Nat) : State :=
  let k := s.core c
  match k.group? slot with
  | none => s
  | some g =>
    match g.entry? id with
    | none => s
    | some e =>
      let vec := (s.launch g.launch).hdr.trapVec
      let i1 : W32 := if t.stage2 then t.i1 ||| 0x00800000 else t.i1
      match e.handler with
      | some i =>
        let ts := KMap.get? k.traps i
        let ev := match ts with
          | some ts => fatalEvent c slot k g e (bits ts.tcause.toNat 7 0) ts.tinfo0 ts.tinfo1 true ts.va
          | none => fatalEvent c slot k g e t.cause.code t.i0 i1 true t.va
        (s.raise (srcCore c) ev).fatalEnd c slot e
      | none =>
        if vec = 0 then
          let s := s.raise (srcCore c) (fatalEvent c slot k g e t.cause.code t.i0 i1 false t.va)
          (s.setCore c ((s.core c).wakeGroup slot)).fatalEnd c slot e
        else
          let k := (k.settleAll slot).wakeGroup slot
          let g := (k.group? slot).getD g
          match k.ensurePlace slot id s.clk.compute with
          | none => s
          | some (k, p) =>
            let i := 8 * quarterOf slot + p
            let ts : TrapState :=
              { slot := slot, ent := id, tcause := BitVec.ofNat 32 t.cause.code, tpc := e.pc, tinfo0 := t.i0, tinfo1 := i1
                tinfo2 := tinfo2 k g e, tinfo3 := tinfo3 k slot e t.fmask, resume := resumePc t.cause e.pc len
                pred := g.preds, cause := t.cause, va := t.va }
            let k := k.freeTrap i
            let e := { e with
              handler := some i, pc := BitVec.ofNat 64 vec, wait := .none, waitFrom := s.clk.compute
              nextIssue := s.clk.compute + 1, lastIssue := s.clk.compute }
            s.setCore c ({ k with traps := KMap.put k.traps i ts }.setEntry slot e)

/-- `RETT`: the handler ends, the predicates are restored, the held entries are released, and the entry
goes on at the resume PC with its trap frame discarded (R372). -/
def State.returnFromTrap (s : State) (c slot : Nat) (e : Entry) : State :=
  let k := (s.core c).settleAll slot
  match e.handler, k.group? slot with
  | some i, some g =>
    match KMap.get? k.traps i with
    | none => s
    | some ts =>
      let e := { e with handler := none, pc := ts.resume, wait := .none }
      let k := k.freeTrap i
      s.setCore c (k.setGroup slot ({ g with preds := ts.pred }.setEntry e))
  | _, _ => s

/-- A cause of an instruction delivered: cached translations of the page dropped (R406), a stage-2 cause to
firmware first unless firmware has just declined that page (R368, R408), any other to `takeTrap`. -/
def State.deliver (s : State) (x : Iss) (t : Trap) (len : Nat) : State :=
  let va := t.i0.toNat + bits t.i1.toNat 22 0 * 2 ^ 32
  let s := match t.cause with
    | .translation => s.dropFault x.v va t.ia t.stage2
    | .permission => s.dropFault x.v va t.ia t.stage2
    | .copyOnWrite => s.dropFault x.v va t.ia t.stage2
    | _ => s
  if t.stage2 && decide (x.e.wait ≠ .declined (t.ia / 65536)) then s.holdStage2 x.c x.slot x.e x.v t.ia t.cause
  else s.takeTrap x.c x.slot x.e.id t len

/-! ## Results -/

/-- What an instruction does after its checks. -/
inductive Res where
  /-- It traps, with no effect. -/
  | trap (t : Trap)
  /-- Fixed-latency results: registers and predicates with the lanes written (R54). -/
  | fixed (lat : Nat) (ws : List (Nat × Mask × Reg)) (ps : List (Nat × Mask × Mask))
  /-- A variable-latency result in Active() with no request to memory (R55). -/
  | later (ws : List (Nat × Reg))
  /-- The effect is in the state; the PC moves past the instruction. -/
  | done (s : State)
  /-- The effect and the new PC are in the state. -/
  | moved (s : State)
  /-- The entry waits and issues the instruction again. -/
  | wait (s : State) (w : Wait)

/-- The issue is over: no agent has the turn. -/
def State.endTurn (s : State) : State := { s with turn := none }

/-- A wait that its entry keeps to its issue: it says what the word met when it first issued (R243, R408). -/
def Wait.kept (w : Wait) : Bool :=
  match w with
  | .declined _ => true
  | .sequencer _ => true
  | _ => false

/-- The timing of an entry's next issue (R54), if the entry still exists. -/
def State.stamp (s : State) (x : Iss) (stall : Nat) : State :=
  let k := s.core x.c
  match (k.group? x.slot).bind fun g => g.entry? x.e.id with
  | none => s
  | some e =>
    s.setCore x.c (k.setEntry x.slot { e with
      nextIssue := x.now + 1 + stall, lastIssue := x.now, wait := if e.wait.kept then .none else e.wait })

/-- The PC moves past the instruction. -/
def State.advance (s : State) (x : Iss) (stall len : Nat) : State :=
  let k := s.core x.c
  match (k.group? x.slot).bind fun g => g.entry? x.e.id with
  | none => s
  | some e =>
    s.setCore x.c (k.setEntry x.slot { e with
      pc := e.pc + BitVec.ofNat 64 len, nextIssue := x.now + 1 + stall, lastIssue := x.now, wait := .none
      retried := false })

/-- Results joined to the group's pending ones: writes to one register take effect in issue order, so a result is
not ready before an older one of its target (R54, R56). -/
def Core.addPend (k : Core) (x : Iss) (lat : Nat) (ws : List (Nat × Mask × Reg)) (ps : List (Nat × Mask × Mask)) : Core :=
  match k.group? x.slot with
  | none => k
  | some g =>
    let after := fun (tgt : PendTgt) => g.pend.foldl (fun n p => if p.tgt = tgt then max n p.ready else n) (x.now + lat)
    let rs := ws.filterMap fun w => (locOf k x.e w.1).map fun l =>
      ({ by_ := x.e.id, ready := after (.reg l), tgt := .reg l, mask := w.2.1, val := w.2.2 } : Pend)
    let qs := (ps.filter fun p => decide (p.1 ≠ 7)).map fun p =>
      ({ by_ := x.e.id, ready := after (.pred p.1), tgt := .pred p.1, mask := p.2.1, val := p.2.2.setWidth 256 } : Pend)
    k.setGroup x.slot { g with pend := g.pend ++ rs ++ qs }

/-- A register or predicate written with the instruction's effect; behind an older result of it that is pending, the write
takes effect with that one (R56). -/
def Core.putNow (k : Core) (x : Iss) (tgt : PendTgt) (m : Mask) (v : Reg) : Core :=
  match k.group? x.slot with
  | none => k
  | some g =>
    let older := g.pend.filter fun q => decide (q.tgt = tgt)
    let p : Pend := { by_ := x.e.id, ready := older.foldl (fun n q => max n q.ready) x.now, tgt := tgt, mask := m, val := v }
    if older.isEmpty then k.applyPend x.slot p else k.setGroup x.slot { g with pend := g.pend ++ [p] }

/-- A predicate so written. -/
def Core.putPred (k : Core) (x : Iss) (p : Nat) (m v : Mask) : Core := k.putNow x (.pred p) m (v.setWidth 256)

/-- A new outstanding result: its registers are busy until `LOAD_COMPLETE` (R55), which comes after older fixed-latency results
of the same registers (R56). -/
def Core.addOut (k : Core) (x : Iss) (dests : List OutDest) (reqs : Nat) (load : Bool) (latched : List (W32 × Nat)) : Core :=
  let o : Out :=
    { id := k.nextId, slot := x.slot, since := x.now, dests := dests, reqs := reqs, load := load, long := false, latched := latched }
  { k with outs := k.outs ++ [o], nextId := k.nextId + 1 }

/-- A counted issue (R360). -/
def State.countIssue (s : State) (x : Iss) : State := s.perfAdd x.v 0 1

/-- The outcome of a result. -/
def State.finish (s : State) (x : Iss) (sp : Spec) (r : Res) : Result :=
  let stall := sp.g.stall.toNat
  match r with
  | .trap t => .next (s.deliver x t sp.len).endTurn
  | .fixed lat ws ps =>
    .next ((((s.setCore x.c ((s.core x.c).addPend x lat ws ps)).advance x stall sp.len).countIssue x).endTurn)
  | .later ws =>
    let k := s.core x.c
    let ds := ws.filterMap fun w => (locOf k x.e w.1).map fun l =>
      ({ loc := l, mask := x.act, val := w.2, poison := 0, vas := [] } : OutDest)
    .next ((((s.setCore x.c (k.addOut x ds 0 false [])).advance x stall sp.len).countIssue x).endTurn)
  | .done s' => .next (((s'.advance x stall sp.len).countIssue x).endTurn)
  | .moved s' => .next ((((s'.stamp x stall).countIssue x).meetWait x.c x.slot x.e.id true).endTurn)
  | .wait s' w => .next (((s'.waitHere x.c x.slot x.e w).meetWait x.c x.slot x.e.id false).endTurn)

/-! ## The checks at issue (R385) -/

/-- The first register range that breaks R61 or R370. -/
def badRange (k : Core) (e : Entry) (rs : List (Nat × Nat)) : Option Nat :=
  (rs.find? fun r => !rangeOk k e r.1 r.2).map Prod.fst

/-- The results that keep the given registers busy (R55). -/
def Core.outsOf (k : Core) (ls : List RegLoc) : List Nat :=
  (k.outs.filter fun o => o.dests.any fun d => ls.contains d.loc).map fun o => o.id

/-- The registers of ranges of fields, and the results that keep them busy. -/
def rangeLocs (k : Core) (e : Entry) (rs : List (Nat × Nat)) : List RegLoc :=
  rs.flatMap fun r => (List.range r.2).filterMap fun i => locOf k e (r.1 + i)
def busyOuts (k : Core) (e : Entry) (dsts srcs : List (Nat × Nat)) : Wait :=
  .busyReg (k.outsOf (rangeLocs k e (dsts ++ srcs))) (k.outsOf (rangeLocs k e srcs))

/-- The atomics of an entry that wait for their line: what the entry does next comes after them (R150; DESIGN CHOICE, log 4). -/
def Core.atomsOf (k : Core) (slot : Nat) (id : EntId) : List Nat :=
  ((k.atoms.filter fun a => decide (a.slot = slot) && decide (a.ent = id)).map fun a => a.out).eraseDups

/-- A register that the word names is busy (R55). -/
def anyBusy (k : Core) (e : Entry) (rs : List (Nat × Nat)) : Bool :=
  rs.any fun r => (List.range r.2).any fun i =>
    match locOf k e (r.1 + i) with
    | some l => k.busy l
    | none => false

/-- The pending results that a word reads: clocks left, 1 for a predicate, and the number (R393, R394). -/
def shadowed (x : Iss) (srcs : List (Nat × Nat)) (psrcs : List Nat) : List (Nat × Nat × Nat) :=
  let left := fun (t : PendTgt) => x.g.pend.filterMap fun p => if p.tgt = t then some (p.ready - x.now) else none
  let regs := if x.e.handler.isSome then [] else srcs.flatMap fun r => (List.range r.2).flatMap fun i =>
    match locOf x.k x.e (r.1 + i) with
    | some l => (left (.reg l)).map fun n => (n, 0, r.1 + i)
    | none => []
  regs ++ psrcs.flatMap fun p => (left (.pred p)).map fun n => (n, 1, p)

/-- The earliest of them; on a tie a register before a predicate, then the lower number (R394). -/
def earliest (l : List (Nat × Nat × Nat)) : Option (Nat × Nat × Nat) :=
  l.foldl (fun best a => match best with
    | none => some a
    | some b =>
      if a.1 < b.1 || (a.1 = b.1 && (a.2.1 < b.2.1 || (a.2.1 = b.2.1 && a.2.2 < b.2.2))) then some a else some b) none

/-- A `.PKG` or `.SYS` scope that FWC_HPOL does not permit the virtual function (R141, R395). -/
def State.scopeDenied (s : State) (v code : Nat) : Bool :=
  (decide (code = 5) && !(s.vf v).hpol.getLsbD 0) || (decide (code = 6) && !(s.vf v).hpol.getLsbD 1)

/-- The poisoned lanes of Active() that a word reads, with the first register that holds one (R415). -/
def poisonRead (x : Iss) (srcs : List (Nat × Nat)) : Option (RegLoc × Mask) :=
  let locs := srcs.flatMap fun r => (List.range r.2).filterMap fun i => locOf x.k x.e (r.1 + i)
  let m := locs.foldl (fun a l => a ||| (x.k.poisonLoc l &&& x.act)) 0
  if m = 0#8 then none
  else (locs.find? fun l => (x.k.poisonLoc l).getLsbD (lowLane m)).map fun l => (l, m)

/-- The DATA_UNCORRECTABLE trap of a poisoned operand: the VA of the lowest lane's load while the core
still records it (R415). -/
def poisonTrap (x : Iss) (l : RegLoc) (m : Mask) : Trap :=
  match x.k.poisonLoads.find? fun r => r.1.contains l && r.2.1.getLsbD (lowLane m) with
  | some r => trapVa .dataUncorrectable (getAt r.2.2 (lowLane m) 0).toNat m
  | none => trapPlain .dataUncorrectable 0 0 m

/-- The turn's entry, with the results that are ready by now in place. -/
def State.issuer (s : State) (g : Guard) : Option (State × Iss) :=
  match s.turn with
  | some (.entry c slot id) =>
    let now := s.clk.compute
    let k := (s.core c).settle slot fun p => decide (p.ready ≤ now)
    match k.group? slot with
    | none => none
    | some gr =>
      match gr.entry? id with
      | none => none
      | some e =>
        some (s.setCore c k, { c := c, slot := slot, k := k, g := gr, e := e, act := e.mask &&& gr.guard g, now := now })
  | _ => none

/-- The SHADOW_READ trap of a word that reads the given registers and predicates, where the launch checks
(R56, R393). -/
def State.shadowTrap (s : State) (x : Iss) (srcs : List (Nat × Nat)) (psrcs : List Nat) : Option Trap :=
  match (if (s.launch x.g.launch).hdr.chk then earliest (shadowed x srcs psrcs) else none) with
  | some (n, p, f) => some (trapPlain .shadowRead (BitVec.ofNat 32 (f + 256 * p)) (BitVec.ofNat 32 n) x.act)
  | none => none

/-- Step 5 of R385 for a word: SHADOW_READ of its guard, its predicates and its registers. -/
def State.shadowOf (s : State) (x : Iss) (sp : Spec) : Option Trap :=
  if sp.shadow then s.shadowTrap x (sp.srcs ++ sp.args) (sp.g.pred.toNat :: sp.psrcs) else none

/-- Steps 3 to 7 of R385 after the split of R188, then `body`. -/
def State.checked (s : State) (x : Iss) (sp : Spec) (body : Iss → State → Res) : Result :=
  let all := sp.dsts ++ sp.srcs
  if !sp.fields then s.finish x sp (.trap (trapPlain .reservedField (lo32 sp.word) (hi32 sp.word) x.act))
  else
    match badRange x.k x.e all with
    | some f =>
      s.finish x sp (.trap (trapPlain .regRange (BitVec.ofNat 32 f) (BitVec.ofNat 32 (x.k.frameSize x.e.frame)) x.act))
    | none =>
      match (sp.early x).orElse fun _ => s.shadowOf x sp with
      | some t => s.finish x sp (.trap t)
      | none =>
        if x.act = 0#8 then s.finish x sp (.done s)
        else if s.scopeDenied x.v sp.scope then
          s.finish x sp (.trap (trapPlain .scopeDenied (BitVec.ofNat 32 sp.scope) 0 x.act))
        else
          match poisonRead x sp.srcs with
          | some (l, m) => s.finish x sp (.trap (poisonTrap x l m))
          | none => s.finish x sp (body x s)

/-- The issue of a compute instruction by the entry whose turn it is (R385). -/
def issue (sp : Spec) (body : Iss → State → Res) (s : State) : Result :=
  match s.issuer sp.g with
  | none => .refused .noIssuer
  | some (s, x) =>
    match x.claimed with
    | some h => .next (((s.placeAdopted x.c x.slot x.e h).meetWait x.c x.slot x.e.id false).endTurn)
    | none =>
      if !sp.inHandler && x.e.handler.isSome then
        s.finish x sp (.trap (trapPlain .illegalOpcode (lo32 sp.word) (hi32 sp.word) x.act))
      else if anyBusy x.k x.e (sp.dsts ++ sp.srcs ++ sp.args) then
        s.finish x sp (.wait s (busyOuts x.k x.e sp.dsts (sp.srcs ++ sp.args)))
      else if !(x.k.atomsOf x.slot x.e.id).isEmpty then
        s.finish x sp (.wait s (.busyReg (x.k.atomsOf x.slot x.e.id) []))
      else if sp.whole && decide (x.act ≠ 0#8) && decide (x.act ≠ x.e.mask) then
        match x.k.split x.slot x.e x.act x.e.pc (x.e.mask &&& ~~~x.act) (x.e.pc + BitVec.ofNat 64 sp.len) x.now
            (x.now + 1 + sp.g.stall.toNat) with
        | some k => s.finish x sp (.moved (s.setCore x.c k))
        | none =>
          s.finish x sp (.trap (trapPlain .reconvDepth (BitVec.ofNat 32 x.e.depth) (BitVec.ofNat 32 (x.g.height x.e.tok)) x.act))
      else s.checked x sp body

end Sys2Proof.Machine
end

