-- ==== Sys2Proof/Machine/Operands.lean ====
section
/-! DEFINITION. The operand forms of compute words: TYPE codes, registers, pairs, immediates, literals and
sign modifiers, which fields a word uses, and how results are put (R165, R166, R180, R197). -/

namespace Sys2Proof.Machine

/-- The width of an integer TYPE code (R180). -/
def tyBits (t : Nat) : Nat :=
  match t with
  | 2 => 64
  | 3 => 64
  | 4 => 16
  | 5 => 16
  | 6 => 8
  | 7 => 8
  | 9 => 64
  | _ => 32

/-- A signed integer TYPE code (R180). -/
def tySigned (t : Nat) : Bool := decide (t % 2 = 0) && decide (t < 8)

/-- A 64-bit TYPE: S64, N64 or F64. -/
def tyWide (t : Nat) : Bool := decide (tyBits t = 64)

/-- What a word does with an operand field. -/
inductive Use where
  /-- Not used: the field must be 0 (R164). -/
  | no
  /-- One register, whatever TYPE says. -/
  | one
  /-- A register, or a pair under a 64-bit TYPE. -/
  | typed
  /-- Always a pair. -/
  | two
  /-- A predicate number. -/
  | pred
  /-- A number that the instruction itself judges. -/
  | num
  deriving DecidableEq, Repr

/-- The registers that a field names. -/
def Use.count (u : Use) (ty : Nat) : Nat :=
  match u with
  | .no => 0
  | .one => 1
  | .typed => if tyWide ty then 2 else 1
  | .two => 2
  | .pred => 0
  | .num => 0

/-- The field holds no reserved value: 0 where unused, below 8 for a predicate, even for a pair (R164, R180). -/
def Use.ok (u : Use) (ty f : Nat) : Bool :=
  match u with
  | .no => decide (f = 0)
  | .one => true
  | .typed => !tyWide ty || decide (f % 2 = 0)
  | .two => decide (f % 2 = 0)
  | .pred => decide (f < 8)
  | .num => true

/-- The register range of a field, if it names registers. -/
def Use.range (u : Use) (ty f : Nat) : List (Nat × Nat) := if u.count ty = 0 then [] else [(f, u.count ty)]

/-- The predicate of a field, if it names one. -/
def Use.preds (u : Use) (f : Nat) : List Nat := if u = .pred then [f] else []

/-- How a V3 word uses its four operand fields. -/
structure Uses where
  d : Use
  a : Use
  b : Use
  c : Use
  deriving DecidableEq, Repr

/-- LIT and BI: not both; B is 0 beside a literal; a literal's upper half is 0 unless TYPE is 64 bits; neither
bit where B is not an operand (R165). -/
def litOk (o : V3) (b : Use) : Bool :=
  !(o.lit && o.bi) && (!o.lit || decide (o.b = 0#8)) && (!o.lit || tyWide o.ty.toNat || decide (hi32 o.literal = 0#32))
    && ((decide (b ≠ .no) && decide (b ≠ .pred)) || (!o.lit && !o.bi))

/-- The operand fields of a V3 word hold no reserved value. -/
def usesOk (o : V3) (u : Uses) : Bool :=
  let t := o.ty.toNat
  u.d.ok t o.d.toNat && u.a.ok t o.a.toNat && (o.lit || o.bi || u.b.ok t o.b.toNat) && u.c.ok t o.c.toNat

/-- No reserved field in an integer V3 word: no float modifier with an integer TYPE, TYPE and FUNC listed by
the instruction (R165, R166, R180). -/
def intOk (o : V3) (u : Uses) (types funcs : List Nat) : Bool :=
  decide (o.rm = 0#3) && !o.na && !o.nb && !o.nc && !o.aa && litOk o u.b && types.contains o.ty.toNat
    && funcs.contains o.func.toNat && usesOk o u

/-- The facts of a V3 word for the issue stage, with a verdict on its fields. -/
def v3Spec (o : V3) (i : Instr) (u : Uses) (ok : Bool) : Spec :=
  let t := o.ty.toNat
  { instr := i, g := o.g, lit := o.lit, fields := ok, dsts := u.d.range t o.d.toNat
    srcs := u.a.range t o.a.toNat ++ (if o.lit || o.bi then [] else u.b.range t o.b.toNat) ++ u.c.range t o.c.toNat
    psrcs := u.a.preds o.a.toNat ++ u.b.preds o.b.toNat ++ u.c.preds o.c.toNat }

/-- The facts of an integer V3 word (R180). -/
def intSpec (o : V3) (i : Instr) (u : Uses) (types funcs : List Nat) : Spec := v3Spec o i u (intOk o u types funcs)

/-! ## Reading integer operands (R180) -/

/-- The n-bit field of a register or pair in a lane. -/
def Iss.raw (x : Iss) (f n i : Nat) : Nat := if n = 64 then (x.pair f i).toNat else (x.lane f i).toNat % 2 ^ n

/-- The n-bit field of operand B: literal, immediate or register (R165). -/
def Iss.rawB (x : Iss) (o : V3) (n i : Nat) : Nat :=
  if o.lit then o.literal.toNat % 2 ^ n
  else if o.bi then o.b.toNat % 2 ^ n
  else x.raw o.b.toNat n i

/-- An n-bit field as the number that TYPE reads (R180). -/
def readAs (t n raw : Nat) : Int := if tySigned t then signExt raw n else (raw : Int)

/-- `Opd` of field A, B and C (R180). -/
def Iss.opdA (x : Iss) (o : V3) (i : Nat) : Int := readAs o.ty.toNat (tyBits o.ty.toNat) (x.raw o.a.toNat (tyBits o.ty.toNat) i)
def Iss.opdB (x : Iss) (o : V3) (i : Nat) : Int := readAs o.ty.toNat (tyBits o.ty.toNat) (x.rawB o (tyBits o.ty.toNat) i)
def Iss.opdC (x : Iss) (o : V3) (i : Nat) : Int := readAs o.ty.toNat (tyBits o.ty.toNat) (x.raw o.c.toNat (tyBits o.ty.toNat) i)

/-- Operand B as a 32-bit natural number, whatever TYPE says (R182). -/
def Iss.amount (x : Iss) (o : V3) (i : Nat) : Nat := x.rawB o 32 i

/-! ## Putting results -/

/-- One register written in Active(). -/
def Iss.put1 (x : Iss) (d : Nat) (f : Nat → Nat) : List (Nat × Mask × Reg) :=
  [(d, x.act, mkReg fun i => BitVec.ofNat 32 (f i))]

/-- A pair written in Active() (R11). -/
def Iss.put2 (x : Iss) (d : Nat) (f : Nat → Nat) : List (Nat × Mask × Reg) :=
  [(d, x.act, mkReg fun i => BitVec.ofNat 32 (f i)), (d + 1, x.act, mkReg fun i => BitVec.ofNat 32 (f i / 2 ^ 32))]

/-- `Put` of R180: the exact result narrowed to n bits and extended as TYPE says. -/
def Iss.putT (x : Iss) (t d : Nat) (f : Nat → Int) : List (Nat × Mask × Reg) :=
  let n := tyBits t
  if n = 64 then x.put2 d fun i => narrow (f i) 64
  else if tySigned t then x.put1 d fun i => narrow (signExt (narrow (f i) n) n) 32
  else x.put1 d fun i => narrow (f i) n

/-- A fixed-latency integer result in vD. -/
def Iss.intRes (x : Iss) (lat : Nat) (o : V3) (f : Nat → Int) : Res := .fixed lat (x.putT o.ty.toNat o.d.toNat f) []

/-- A fixed-latency predicate result in Active(). -/
def Iss.predRes (x : Iss) (lat d : Nat) (f : Nat → Bool) : Res := .fixed lat [] [(d, x.act, maskOf f)]

/-- A predicate of the issuing group in lane `i`. -/
def Iss.pred (x : Iss) (p i : Nat) : Bool := (x.g.pred p).getLsbD i

end Sys2Proof.Machine
end

