-- ==== Sys2Proof/Machine/Flags.lean ====
section
/-! DEFINITION. Conditions and floating-point exceptions: the compare codes of R185, and which exceptions of
a result trap under FPTRAPEN (R123). -/

namespace Sys2Proof.Machine

/-- The cc codes of `ICMP`: 0 EQ to 5 GE (R185). -/
def ccHolds (cc : Nat) (a b : Int) : Bool :=
  match cc with
  | 0 => decide (a = b)
  | 1 => decide (a ≠ b)
  | 2 => decide (a < b)
  | 3 => decide (a ≤ b)
  | 4 => decide (b < a)
  | 5 => decide (b ≤ a)
  | _ => false

/-- `%tinfo0` of FP_EXCEPTION for one lane: the exceptions that the launch traps (R123, R371). -/
def trappedFlags (h : LaunchHdr) (r : FRes) : Nat :=
  (if r.invalid && h.trapInvalid then 1 else 0) + (if r.divZero && h.trapDivZero then 2 else 0)
    + (if r.overflow && h.trapOverflow then 4 else 0)

/-- The FP_EXCEPTION trap of an instruction whose lane `i` gives `f i`, if any lane of Active() raises a
trapped exception; the flags are joined over the lanes (R123, R371). -/
def fpTrap (h : LaunchHdr) (x : Iss) (f : Nat → FRes) : Option Trap :=
  let bad := maskOf fun i => x.act.getLsbD i && decide (trappedFlags h (f i) ≠ 0)
  if bad = 0#8 then none
  else
    let j := (lanesOf bad).foldl (fun a i => a ||| trappedFlags h (f i)) 0
    some (trapPlain .fpException (BitVec.ofNat 32 j) 0 bad)

end Sys2Proof.Machine
end

