-- ==== Sys2Proof/Machine/Control.lean ====
section
/-! DEFINITION. The control instructions: opcodes 0x40 to 0x4C (R187-R196, R68, R391). -/

namespace Sys2Proof.Machine

/-- A word of format S whose named fields are as given and whose other fields are 0 (R164, R189). -/
def sfZero (o : SF) (d a b c ctrl : Bool) : Bool :=
  (d || decide (o.d = 0#8)) && (a || decide (o.a = 0#8)) && (b || decide (o.b = 0#8)) && (c || decide (o.c = 0#8))
    && (ctrl || decide (o.ctrl = 0#16))

/-- A target relative to the instruction's address, in 8-byte words, wrapped modulo 2^64 (R187). -/
def relTarget (pc : W64) (off : BitVec 32) : W64 := pc + (off.signExtend 64) * 8

/-- Bits [2:0] of a target are 0 (R187). -/
def aligned8 (t : W64) : Bool := decide (t.toNat % 8 = 0)

/-- RECONV_DEPTH and UNWIND_EMPTY carry the call depth and the token-stack height (R371). -/
def stackTrap (c : Cause) (x : Iss) (m : Mask) : Trap :=
  trapPlain c (BitVec.ofNat 32 x.e.depth) (BitVec.ofNat 32 (x.g.height x.e.tok)) m

/-- The entry with a new PC. -/
def State.jump (s : State) (x : Iss) (pc : W64) : State :=
  s.setCore x.c (x.k.setEntry x.slot { x.e with pc := pc, wait := .none, retried := false })

/-- Lanes `t` go to `tpc`, the other lanes of the mask to `npc` (R45, R46, R188). -/
def State.branch (s : State) (x : Iss) (stall : Nat) (t : Mask) (tpc npc : W64) : Res :=
  let e := { x.e with wait := .none, retried := false }
  match x.k.split x.slot e t tpc (e.mask &&& ~~~t) npc x.now (x.now + 1 + stall) with
  | some k => .moved (s.setCore x.c k)
  | none => .trap (stackTrap .reconvDepth x x.act)

def execNop (o : SF) (s : State) : Result :=
  issue { instr := .nop o, g := o.g, fields := sfZero o false false false false false } (fun _ s => .done s) s

/-- `BRA`: the lanes whose guard holds go to the target; in a handler the whole entry follows the lowest
lane of Active() (R188, R391). -/
def execBra (o : JF) (s : State) : Result :=
  issue { instr := .bra o, g := o.g, fields := decide (o.z = 0#8) && decide (o.a = 0#8) }
    (fun x s =>
      let t := relTarget x.e.pc o.off
      if !aligned8 t then .trap (trapVa .misaligned t.toNat x.act)
      else if x.e.handler.isSome then .moved (s.jump x t)
      else s.branch x o.g.stall.toNat x.act t (x.e.pc + 8)) s

/-- The lowest target among Active() of an indirect branch, by the pair at field `f` (R188). -/
def lowTarget (x : Iss) (f : Nat) : W64 :=
  (lanesOf x.act).foldl (fun d i => if (x.pair f i).toNat < d.toNat then x.pair f i else d) (x.pair f x.low)

/-- The lanes of Active() whose target is `d`. -/
def targetLanes (x : Iss) (f : Nat) (d : W64) : Mask :=
  maskOf fun i => x.act.getLsbD i && decide (x.pair f i = d)

/-- `BRX`: the lanes of the lowest target go there; the others issue it again while they hold a lane of
Active() (R188). -/
def execBrx (o : JF) (s : State) : Result :=
  let f := o.a.toNat
  issue { instr := .brx o, g := o.g, srcs := [(f, 2)]
          fields := decide (o.z = 0#8) && decide (f % 2 = 0) && decide (o.off = 0#32) }
    (fun x s =>
      if x.e.handler.isSome then
        let t := x.pair f x.low
        if aligned8 t then .moved (s.jump x t) else .trap (trapVa .misaligned t.toNat x.act)
      else
        let d := lowTarget x f
        let t := targetLanes x f d
        if !aligned8 d then .trap (trapVa .misaligned d.toNat t)
        else s.branch x o.g.stall.toNat t d (if x.act &&& ~~~t = 0#8 then x.e.pc + 8 else x.e.pc)) s

/-- `RCVT`: a token with the entry's mask as expected mask and the entry as owner (R47, R190). -/
def execRcvt (o : JF) (s : State) : Result :=
  issue { instr := .rcvt o, g := o.g, inHandler := false, fields := decide (o.z = 0#8) && decide (o.a = 0#8) }
    (fun x s =>
      match x.g.pushItem x.e false (relTarget x.e.pc o.off) x.e.mask with
      | none => .trap (stackTrap .reconvDepth x x.act)
      | some (g, id) => .done (s.setCore x.c (x.k.setGroup x.slot (g.setEntry { x.e with tok := some id })))) s

/-- `RCVM`: the not-taken side of a deferred record over this `RCVM`'s token runs next; at its token the
entry arrives; elsewhere, and under two records of one token, it acts as `NOP` (R190; DEDUCED, log 42). -/
def execRcvm (o : SF) (s : State) : Result :=
  issue { instr := .rcvm o, g := o.g, inHandler := false, fields := sfZero o false false false false false }
    (fun x s =>
      let e := { x.e with wait := .none, retried := false }
      let pass := Res.done s
      match x.g.stackOf e.tok with
      | [] => pass
      | top :: rest =>
        if top.deferred then
          match rest.head?.filter fun t => !t.deferred with
          | none => pass
          | some tok =>
            if tok.pc ≠ e.pc then pass
            else if tok.depth ≠ e.depth then .trap (stackTrap .reconvDepth x x.act)
            else
              let g := x.g.popItem top
              let g : Group := { g with items := g.items.map fun (t : TokItem) => if t.id = tok.id then { t with arrived := t.arrived ||| e.mask } else t }
              .moved (s.setCore x.c (x.k.setGroup x.slot (g.setEntry { e with mask := top.mask, pc := top.pc, tok := top.parent })))
        else if top.pc ≠ e.pc then pass
        else if top.depth ≠ e.depth then .trap (stackTrap .reconvDepth x x.act)
        else .moved (s.setCore x.c (x.k.arriveToken x.slot e top x.now))) s

/-! ## Calls (R191) -/

/-- The registers that a call copies into the callee. -/
def callArgs (o : CF) : List (Nat × Nat) := if o.args.toNat = 0 then [] else [(o.vbase.toNat, o.args.toNat)]

/-- The register ranges of a call against the two frames (R61, R191). -/
def callRange (o : CF) (x : Iss) : Option Trap :=
  let f := (o.fsize.toNat + 1) * 8
  let fc := x.k.frameSize x.e.frame
  let vb := o.vbase.toNat
  if fc < vb + o.args.toNat || fc < vb + o.res.toNat || f < o.args.toNat || f < o.res.toNat then
    some (trapPlain .regRange (BitVec.ofNat 32 vb) (BitVec.ofNat 32 fc) x.act)
  else none

/-- PADOFF without LP, and TGTOFF of a `CALLX` (R171, R191). -/
def callField (o : CF) (instr : Instr) (indirect : Bool) (x : Iss) : Option Trap :=
  let word : Spec := { instr := instr, g := o.g }
  if (!o.lp && decide (hi32 o.literal ≠ 0#32)) || (indirect && decide (lo32 o.literal ≠ 0#32)) then
    some (trapPlain .reservedField (lo32 word.word) (hi32 word.word) x.act)
  else none

/-- The checks of a call in the order of R191: those that depend on its word alone are made with no lane in Active() too (R386). -/
def callEarly (o : CF) (instr : Instr) (indirect : Bool) (x : Iss) : Option Trap :=
  let deep := if x.act ≠ 0#8 && decide (64 ≤ x.e.depth) then
      some (trapPlain .frameDemand (BitVec.ofNat 32 ((o.fsize.toNat + 1) * 8)) (BitVec.ofNat 32 x.e.depth) x.act)
    else none
  (callRange o x).orElse fun _ => deep.orElse fun _ => callField o instr indirect x

/-- The header cell of a call (R62, R191). -/
def callHdr (o : CF) (x : Iss) : Hdr :=
  { rpc := pc55 (x.e.pc + 16), padv := o.lp, pad := if o.lp then pc55 (relTarget x.e.pc (hi32 o.literal)) else 0, adoption := false
    res := o.res.toNat, args := o.args, vbase := o.vbase.toNat, fsize := o.fsize.toNat, csize := x.k.frameSize x.e.frame / 8 - 1
    cbase := ((x.k.frame? x.e.frame).map fun f => f.base).getD 0, psave := 0, mask := x.e.mask
    adepth := x.e.adepth, tokh := x.g.height x.e.tok, tok := x.e.tok, cellBlock := 0, cellIdx := 0, bad := false }

/-- A call to `tgt` once every lane of the mask is active and its checks are past: the frame and header cell, or the wait for
them. MISALIGNED of the target and poisoned lanes of the copied range come before the wait (DESIGN CHOICE, log 40). -/
def callBody (o : CF) (tgt : W64) (x : Iss) (s : State) : Res :=
  let f := (o.fsize.toNat + 1) * 8
  let n := o.args.toNat
  let vb := o.vbase.toNat
  if !aligned8 tgt then .trap (trapVa .misaligned tgt.toNat x.act)
  else
    match poisonRead x (callArgs o) with
    | some (l, pm) => .trap (poisonTrap x l pm)
    | none =>
      if !x.k.mayAlloc x.slot x.e.id then .wait (s.waitAlloc x.c x.slot x.e f) .alloc
      else
        match x.k.place [(f, true)] with
        | some [p] =>
          let (k, id) := x.k.addFrame x.slot f p (some x.e.frame) (some (callHdr o x))
          let k := (List.range n).foldl (fun k i =>
            (k.writeLoc (.frame id i) 0xFF (k.readLoc (.frame x.e.frame (vb + i)))).markPoison (.frame id i)
              (k.poisonLoc (.frame x.e.frame (vb + i)))) k
          let e := { x.e with frame := id, depth := x.e.depth + 1, pc := tgt, wait := .none, retried := false }
          .moved (s.setCore x.c ((k.setEntry x.slot e).doneAlloc x.slot x.e.id))
        | _ => .wait (s.waitAlloc x.c x.slot x.e f) .alloc

def execCall (o : CF) (s : State) : Result :=
  issue { instr := .call o, g := o.g, lit := true, inHandler := false, whole := true
          fields := decide (o.a = 0#8) && decide (o.rsv = 0#10), args := callArgs o
          early := callEarly o (.call o) false }
    (fun x s => callBody o (relTarget x.e.pc (lo32 o.literal)) x s) s

/-- `CALLX`: with more than one target the entry splits at its own address first (R188). -/
def execCallx (o : CF) (s : State) : Result :=
  let f := o.a.toNat
  issue { instr := .callx o, g := o.g, lit := true, inHandler := false, whole := true, srcs := [(f, 2)]
          fields := decide (f % 2 = 0) && decide (o.rsv = 0#10), args := callArgs o
          early := fun x => if targetLanes x f (lowTarget x f) = x.act then callEarly o (.callx o) true x else none }
    (fun x s =>
      let d := lowTarget x f
      let t := targetLanes x f d
      if t ≠ x.act then s.branch x o.g.stall.toNat t x.e.pc x.e.pc
      else callBody o d x s) s

/-! ## Return and unwind (R68, R192) -/

/-- The spilled frames of a group are asked for, unless they already are (R65). -/
def Core.askRefill (k : Core) (slot now : Nat) : Core :=
  let mine := k.allocs.any fun a => decide (a.slot = slot) && decide (a.ent = none)
  let a : AllocReq := { slot := slot, ent := none, since := now, size := 0 }
  if mine then k else { k with allocs := k.allocs ++ [a] }

/-- A wait until the spilled frames of the group are back (R65, R192). -/
def State.waitRefill (s : State) (x : Iss) : Res := .wait (s.setCore x.c (x.k.askRefill x.slot x.now)) .alloc

/-- The trap at a header cell with an uncorrectable error is fatal (R419). -/
def State.badCell (s : State) (x : Iss) : Res := .moved (s.fatalGroup x.c x.slot (some x.e) .dataUncorrectable 0 0)

/-- The entry leaves for `frame`, which it then holds, with its token stack at `tok` (R192). -/
def State.leaveTo (s : State) (x : Iss) (k : Core) (frame : Nat) (tok : Option Nat) (pc : W64) : State :=
  let e := { x.e with
    frame := frame, depth := (x.k.chain frame).length - 1, tok := tok, pc := pc, wait := .none, retried := false }
  match k.group? x.slot with
  | none => s
  | some g => s.setCore x.c ((k.setGroup x.slot ((g.setEntry e).gcItems)).gcFrames x.slot x.now)

def retBody (x : Iss) (s : State) : Res :=
  if x.e.depth = 0 then
    if (runningTask x.k x.g x.e).isSome then .trap (stackTrap .unwindEmpty x x.act)
    else .moved ((s.setCore x.c x.k).exitEntry x.c x.slot { x.e with wait := .none } x.e.mask)
  else
    match x.k.frame? x.e.frame with
    | none => .trap (stackTrap .unwindEmpty x x.act)
    | some fr =>
      match fr.hdr, fr.parent with
      | some h, some caller =>
        if h.bad then s.badCell x
        else if h.adoption then .trap (stackTrap .unwindEmpty x x.act)
        else
          match x.g.cutTo x.e.tok h.tokh with
          | none => .trap (stackTrap .reconvDepth x x.act)
          | some tok =>
            if (KMap.get? x.k.frames caller).isNone then s.waitRefill x
            else
              let all : List (Nat × Nat) := if h.res = 0 then [] else [(0, h.res)]
              let outs : List RegLoc := (List.range h.res).map fun i => .frame caller (h.vbase + i)
              if anyBusy x.k x.e all || outs.any (fun l => x.k.busy l) then
                .wait s (.busyReg (x.k.outsOf (outs ++ rangeLocs x.k x.e all)) (x.k.outsOf (rangeLocs x.k x.e all)))
              else
                match poisonRead x all with
                | some (l, pm) => .trap (poisonTrap x l pm)
                | none =>
                  -- the copy names no register, so it finds every older result in place (R56, R264)
                  let k0 := x.k.settle x.slot fun p => match p.tgt with
                    | .reg l => (rangeLocs x.k x.e all).contains l
                    | .pred _ => false
                  let k := (List.range h.res).foldl (fun k i =>
                    k.putNow x (.reg (.frame caller (h.vbase + i))) x.e.mask (k.readLoc (.frame x.e.frame i))) k0
                  .moved (s.leaveTo x k caller tok h.rpc)
      | _, _ => .trap (stackTrap .unwindEmpty x x.act)

def execRet (o : SF) (s : State) : Result :=
  issue { instr := .ret o, g := o.g, inHandler := false, whole := true, fields := sfZero o false false false false false }
    retBody s

/-- The frame made by the nearest `CALL.L` in a chain, before any adoption header, and its header (R68). -/
def landing (k : Core) : List Nat → Option (Nat × Hdr)
  | [] => none
  | i :: t =>
    match (k.frame? i).bind fun f => f.hdr with
    | none => none
    | some h => if h.adoption then none else if h.padv then some (i, h) else landing k t

/-- The headers that `UNWIND` reads: from the current frame to the first of a `CALL.L` or of an adoption (R68). -/
def walked (k : Core) : List Nat → List Hdr
  | [] => []
  | i :: t =>
    match (k.frame? i).bind fun f => f.hdr with
    | none => []
    | some h => if h.adoption || h.padv then [h] else h :: walked k t

/-- The entry of an `UNWIND` whose frame is spilled waits at PAD until it is back; the frames that it left need no refill (R65,
R68). -/
def State.awaitFrame (s : State) (x : Iss) (frame : Nat) : State :=
  let k := s.core x.c
  if (KMap.get? k.frames frame).isSome then s
  else
    match (k.group? x.slot).bind fun g => g.entry? x.e.id with
    | none => s
    | some e => (s.setCore x.c (k.askRefill x.slot x.now)).waitHere x.c x.slot e .alloc

def execUnwind (o : SF) (s : State) : Result :=
  issue { instr := .unwind o, g := o.g, inHandler := false, whole := true, srcs := [(o.a.toNat, 1)]
          fields := sfZero o false true false false false }
    (fun x s =>
      if (walked x.k (x.k.chain x.e.frame)).any fun h => h.bad then s.badCell x
      else
        match landing x.k (x.k.chain x.e.frame) with
        | none => .trap (stackTrap .unwindEmpty x x.act)
        | some (i, h) =>
          match x.g.cutTo x.e.tok h.tokh with
          | none => .trap (stackTrap .reconvDepth x x.act)
          | some tok =>
            let dst := ((x.k.frame? i).bind fun f => f.parent).getD 0
            let v0 : RegLoc := .frame dst 0
            if x.k.busy v0 then .wait s (.busyReg (x.k.outsOf [v0]) [])
            else
              let k := x.k.putNow x (.reg v0) x.act (x.reg o.a.toNat)
              .moved ((s.leaveTo x k dst tok h.pad).awaitFrame x dst)) s

/-! ## Exit, yield, idempotence and lead (R193-R196) -/

/-- `EXIT`: the lanes of Active() end; in a handler it is fatal (R193, R373). -/
def execExit (o : SF) (s : State) : Result :=
  issue { instr := .exit o, g := o.g, fields := sfZero o false false false false false }
    (fun x s =>
      match x.e.handler with
      | some i =>
        let ev := match KMap.get? x.k.traps i with
          | some ts =>
            fatalEvent x.c x.slot x.k x.g x.e (bits ts.tcause.toNat 7 0) ts.tinfo0 ts.tinfo1 false ts.va
          | none => fatalEvent x.c x.slot x.k x.g x.e 0 0 0 false false
        .moved ((s.raise (srcCore x.c) ev).fatalEnd x.c x.slot x.e)
      | none =>
        .moved ((s.setCore x.c x.k).exitEntry x.c x.slot { x.e with wait := .none, retried := false } x.act)) s

/-- `YIELD`: past the word, and a candidate for the swap of R49 while a ready entry is pending (R194). -/
def execYield (o : SF) (s : State) : Result :=
  issue { instr := .yield o, g := o.g, inHandler := false, fields := sfZero o false false false false false }
    (fun x s => .moved (s.setCore x.c (x.k.setEntry x.slot { x.e with
      pc := x.e.pc + 8, wait := .yield, waitFrom := x.now, retried := false }))) s

def execIdmc (o : SF) (s : State) : Result :=
  issue { instr := .idmc o, g := o.g, inHandler := false, fields := sfZero o false false false false false }
    (fun x s => .done (s.setCore x.c (x.k.setWg x.g.wg { x.k.wg x.g.wg with idem := false }))) s

/-- `LEAD`: 1 in the lowest lane of Active(), 0 in the other lanes of the mask, before the next issue (R196). -/
def execLead (o : SF) (s : State) : Result :=
  let d := o.d.toNat
  issue { instr := .lead o, g := o.g, fields := decide (d < 8) && sfZero o true false false false false }
    (fun x s =>
      .done (s.setCore x.c (x.k.putPred x d x.e.mask (maskOf fun i => decide (i = x.low))))) s

end Sys2Proof.Machine
end

