-- ==== Sys2Proof/Machine/FloatOps.lean ====
section
/-! DEFINITION. The floating-point instructions in the IEEE formats: arithmetic, comparison, selection,
special functions, conversions, packed and dot forms (R197-R204, R206, R207). -/

namespace Sys2Proof.Machine

/-! ## Operands (R165, R197) -/

/-- The IEEE format of a TYPE code. -/
def fmtOf (t : Nat) : FFmt :=
  match t with
  | 9 => f64
  | 10 => f16
  | 11 => bf16
  | _ => f32

/-- The rounding mode of an RM code (R120). -/
def rmOf (rm : Nat) : Rm :=
  match rm with
  | 1 => .rz
  | 2 => .ru
  | 3 => .rd
  | _ => .rn

/-- Which modifier bits an instruction takes; a bit that it does not take is 0 (R197). -/
structure FMods where
  rm : Bool
  na : Bool
  nb : Bool
  nc : Bool
  aa : Bool
  deriving DecidableEq, Repr

def modsNone : FMods := { rm := false, na := false, nb := false, nc := false, aa := false }

/-- No reserved field in a floating-point V3 word (R165, R197). -/
def fltOk (o : V3) (u : Uses) (types funcs : List Nat) (m : FMods) : Bool :=
  decide (o.rm.toNat < 4) && (m.rm || decide (o.rm = 0#3)) && (m.na || !o.na) && (m.nb || !o.nb) && (m.nc || !o.nc)
    && (m.aa || !o.aa) && !(o.bi && decide (8 ≤ o.ty.toNat) && decide (o.ty.toNat ≤ 11)) && litOk o u.b
    && types.contains o.ty.toNat && funcs.contains o.func.toNat && usesOk o u

def fltSpec (o : V3) (i : Instr) (u : Uses) (types funcs : List Nat) (m : FMods) : Spec :=
  v3Spec o i u (fltOk o u types funcs m)

/-- The sign modifiers of R197: the absolute value first, then the negation. -/
def signMods (f : FFmt) (aa neg : Bool) (x : Nat) : Nat :=
  let x := if aa then fmag f x else x
  if neg then fFlip f x else x

/-- The bits of a field in a format (R197). -/
def Iss.fraw (x : Iss) (f : FFmt) (fld i : Nat) : Nat :=
  if f.width = 64 then (x.pair fld i).toNat else (x.lane fld i).toNat % 2 ^ f.width

/-- The bits of operand B in a format. -/
def Iss.frawB (x : Iss) (o : V3) (f : FFmt) (i : Nat) : Nat :=
  if o.lit then o.literal.toNat % 2 ^ f.width else x.fraw f o.b.toNat i

/-- Operands A, B and C of a floating-point instruction, with their sign modifiers. -/
def Iss.fA (x : Iss) (o : V3) (i : Nat) : Nat :=
  signMods (fmtOf o.ty.toNat) o.aa o.na (x.fraw (fmtOf o.ty.toNat) o.a.toNat i)
def Iss.fB (x : Iss) (o : V3) (i : Nat) : Nat :=
  signMods (fmtOf o.ty.toNat) false o.nb (x.frawB o (fmtOf o.ty.toNat) i)
def Iss.fC (x : Iss) (o : V3) (i : Nat) : Nat :=
  signMods (fmtOf o.ty.toNat) false o.nc (x.fraw (fmtOf o.ty.toNat) o.c.toNat i)

/-- A result written to vD: a pair for F64, else the lane with zeros above the format (R124, R197). -/
def Iss.putF (x : Iss) (f : FFmt) (d : Nat) (r : Nat → Nat) : List (Nat × Mask × Reg) :=
  if f.width = 64 then x.put2 d r else x.put1 d fun i => r i % 2 ^ f.width

/-- The latency of a fixed-latency instruction at a TYPE (R198). -/
def fltLat (t : Nat) : Nat := if t = 9 then 8 else 5

/-- A fixed-latency result with its exceptions: an enabled one traps before any lane writes (R123). -/
def Iss.fltRes (x : Iss) (s : State) (lat : Nat) (f : FFmt) (d : Nat) (r : Nat → FRes) : Res :=
  match fpTrap (s.launch x.g.launch).hdr x r with
  | some t => .trap t
  | none => .fixed lat (x.putF f d fun i => (r i).bits) []

/-! ## Arithmetic, comparison and selection (R199-R202) -/

def fu2 : Uses := { d := .typed, a := .typed, b := .typed, c := .no }
def fu3 : Uses := { d := .typed, a := .typed, b := .typed, c := .typed }
def fu1 : Uses := { d := .typed, a := .typed, b := .no, c := .no }

/-- A two-operand arithmetic instruction (R199). -/
def fltBinary (i : Instr) (o : V3) (f : FFmt → Rm → Nat → Nat → FRes) (s : State) : Result :=
  issue (fltSpec o i fu2 [8, 9, 10, 11] [0] { rm := true, na := true, nb := true, nc := false, aa := true })
    (fun x s => x.fltRes s (fltLat o.ty.toNat) (fmtOf o.ty.toNat) o.d.toNat fun l =>
      f (fmtOf o.ty.toNat) (rmOf o.rm.toNat) (x.fA o l) (x.fB o l)) s

def execFadd (o : V3) (s : State) : Result := fltBinary (.fadd o) o fAdd s
def execFsub (o : V3) (s : State) : Result := fltBinary (.fsub o) o fSub s
def execFmul (o : V3) (s : State) : Result := fltBinary (.fmul o) o fMul s

def execFfma (o : V3) (s : State) : Result :=
  issue (fltSpec o (.ffma o) fu3 [8, 9, 10, 11] [0] { rm := true, na := true, nb := true, nc := true, aa := true })
    (fun x s => x.fltRes s (fltLat o.ty.toNat) (fmtOf o.ty.toNat) o.d.toNat fun l =>
      fFma (fmtOf o.ty.toNat) (rmOf o.rm.toNat) (x.fA o l) (x.fB o l) (x.fC o l)) s

/-- `FMIN` and `FMAX` (R200). -/
def fltMinMax (i : Instr) (o : V3) (max : Bool) (s : State) : Result :=
  issue (fltSpec o i fu2 [8, 9, 10, 11] [0] { rm := false, na := true, nb := true, nc := false, aa := true })
    (fun x s => x.fltRes s (fltLat o.ty.toNat) (fmtOf o.ty.toNat) o.d.toNat fun l =>
      fMinMax (fmtOf o.ty.toNat) max (x.fA o l) (x.fB o l)) s

def execFmin (o : V3) (s : State) : Result := fltMinMax (.fmin o) o false s
def execFmax (o : V3) (s : State) : Result := fltMinMax (.fmax o) o true s

/-- `FCMP`: pD := Compare(a, b) and pC (R201). -/
def execFcmp (o : V3) (s : State) : Result :=
  issue (fltSpec o (.fcmp o) { d := .pred, a := .typed, b := .typed, c := .pred } [8, 9, 10, 11] [0, 1, 2, 3, 4, 5, 6, 7]
      { rm := false, na := true, nb := true, nc := false, aa := true })
    (fun x s =>
      let r := fun (l : Nat) => fCompare (fmtOf o.ty.toNat) o.func.toNat (x.fA o l) (x.fB o l)
      match fpTrap (s.launch x.g.launch).hdr x fun l => { FRes.plain 0 with invalid := (r l).2 } with
      | some t => .trap t
      | none => x.predRes (fltLat o.ty.toNat) o.d.toNat fun l => (r l).1 && x.pred o.c.toNat l) s

/-- `FSEL`: the bits of a or b, unchanged (R202). -/
def execFsel (o : V3) (s : State) : Result :=
  issue (fltSpec o (.fsel o) { d := .typed, a := .typed, b := .typed, c := .pred } [8, 9, 10, 11] [0] modsNone)
    (fun x _ => .fixed (fltLat o.ty.toNat)
      (x.putF (fmtOf o.ty.toNat) o.d.toNat fun l => if x.pred o.c.toNat l then x.fA o l else x.fB o l) []) s

def execFrnd (o : V3) (s : State) : Result :=
  issue (fltSpec o (.frnd o) fu1 [8, 9, 10, 11] [0] { rm := true, na := true, nb := false, nc := false, aa := true })
    (fun x s => x.fltRes s (fltLat o.ty.toNat) (fmtOf o.ty.toNat) o.d.toNat fun l =>
      fRnd (fmtOf o.ty.toNat) (rmOf o.rm.toNat) (x.fA o l)) s

/-! ## Special functions (R136, R137, R203) -/

/-- A special function: a variable-latency result in Active() (R198). -/
def sfu (i : Instr) (o : V3) (types : List Nat) (anyRm : Bool) (f : FFmt → Rm → Nat → FRes) (s : State) : Result :=
  issue (fltSpec o i fu1 types [0] { rm := anyRm, na := true, nb := false, nc := false, aa := true })
    (fun x s =>
      let fmt := fmtOf o.ty.toNat
      let r := fun (l : Nat) => f fmt (rmOf o.rm.toNat) (x.fA o l)
      match fpTrap (s.launch x.g.launch).hdr x r with
      | some t => .trap t
      | none => .later ((x.putF fmt o.d.toNat fun l => (r l).bits).map fun w => (w.1, w.2.2))) s

def execFrcp (o : V3) (s : State) : Result := sfu (.frcp o) o [8, 9, 10] false (fun f _ a => fRcp f a) s
def execFrsq (o : V3) (s : State) : Result := sfu (.frsq o) o [8, 9, 10] false (fun f _ a => fRsq f a) s
def execFsqrt (o : V3) (s : State) : Result := sfu (.fsqrt o) o [8, 9, 10] true fSqrt s
def execFexp2 (o : V3) (s : State) : Result := sfu (.fexp2 o) o [8, 10] false (fun f _ a => fExp2 f a) s
def execFlog2 (o : V3) (s : State) : Result := sfu (.flog2 o) o [8, 10] false (fun f _ a => fLog2 f a) s
def execFsin (o : V3) (s : State) : Result := sfu (.fsin o) o [8, 10] false (fun f _ a => fSinCos false f a) s
def execFcos (o : V3) (s : State) : Result := sfu (.fcos o) o [8, 10] false (fun f _ a => fSinCos true f a) s

/-! ## Conversions (R204, R206) -/

/-- A float TYPE code. -/
def isFloatTy (t : Nat) : Bool := decide (8 ≤ t) && decide (t ≤ 11)

/-- The conversion of one lane from format code `src` to `dst` (R204, R135); a same-format conversion copies and
quietens. -/
def fcvtLane (src dst : Nat) (rm : Rm) (neg abs : Bool) (raw : Nat) : FRes :=
  if isFloatTy src then
    let a := signMods (fmtOf src) abs neg raw
    if isFloatTy dst then fConv (fmtOf src) (fmtOf dst) rm a
    else fToInt (fmtOf src) rm (tySigned dst) (tyBits dst) a
  else intToF (fmtOf dst) rm (readAs src (tyBits src) raw)

/-- `FCVT`: TYPE is a float code; C holds OTHER and DIR (R204). -/
def execFcvt (o : V3) (s : State) : Result :=
  let t := o.ty.toNat
  let other := bits o.c.toNat 3 0
  let dir := bit o.c.toNat 4
  let src := if dir then t else other
  let dst := if dir then other else t
  let ok := decide (o.rm.toNat < 4) && !o.nb && !o.nc && ((!o.na && !o.aa) || isFloatTy src) && !o.lit && !o.bi
    && decide (o.b = 0#8) && isFloatTy t && decide (o.func = 0#3) && decide (o.c.toNat < 32) && decide (other < 12)
    && (!tyWide src || decide (o.a.toNat % 2 = 0)) && (!tyWide dst || decide (o.d.toNat % 2 = 0))
  issue
    { instr := .fcvt o, g := o.g, fields := ok
      dsts := [(o.d.toNat, if tyWide dst then 2 else 1)], srcs := [(o.a.toNat, if tyWide src then 2 else 1)] }
    (fun x s =>
      let n := if isFloatTy src then (fmtOf src).width else tyBits src
      let r := fun (l : Nat) => fcvtLane src dst (rmOf o.rm.toNat) o.na o.aa (x.raw o.a.toNat n l)
      match fpTrap (s.launch x.g.launch).hdr x r with
      | some t => .trap t
      | none =>
        let lat := if tyWide src || tyWide dst then 8 else 5
        if isFloatTy dst then .fixed lat (x.putF (fmtOf dst) o.d.toNat fun l => (r l).bits) []
        else .fixed lat (x.putT dst o.d.toNat fun l => readAs dst (tyBits dst) (r l).bits) []) s

/-- The three BF16 parts of an F32 value (R206). -/
def split3 (a : Nat) : Nat × Nat × Nat :=
  if fIsNan f32 a || fIsInf f32 a then ((fConv f32 bf16 .rn a).bits, 0, 0)
  else
    let near := roundDy bf16 .rn (fneg f32 a) (fVal f32 a)
    let hi := if fIsInf bf16 near.bits then (roundDy bf16 .rz (fneg f32 a) (fVal f32 a)).bits else near.bits
    let r := (fVal f32 a).sub (fVal bf16 hi)
    let mid := (roundDy bf16 .rn false r).bits
    (hi, mid, (roundDy bf16 .rn false (r.sub (fVal bf16 mid))).bits)

/-- `FSPLIT3`; LIT = 1 is a reserved value in it (DESIGN CHOICE, log 40). -/
def execFsplit3 (o : V3) (s : State) : Result :=
  let d := o.d.toNat
  issue
    { instr := .fsplit3 o, g := o.g
      fields := fltOk o { d := .num, a := .one, b := .one, c := .no } [11] [0] modsNone && !o.lit
      dsts := [(d, 3)], srcs := [(o.a.toNat, 1), (o.b.toNat, 1)] }
    (fun x _ =>
      let p := fun (sel : Nat × Nat × Nat → Nat) (l : Nat) =>
        sel (split3 (x.lane o.a.toNat l).toNat) + sel (split3 (x.lane o.b.toNat l).toNat) * 65536
      .fixed 5 (x.put1 d (p fun r => r.1) ++ x.put1 (d + 1) (p fun r => r.2.1) ++ x.put1 (d + 2) (p fun r => r.2.2)) []) s

/-! ## Packed and dot forms (R207) -/

/-- Half `h` of a lane value, with the sign modifiers of its operand. -/
def half (f : FFmt) (aa neg : Bool) (h w : Nat) : Nat := signMods f aa neg (w / 65536 ^ h % 65536)

/-- Two half results joined, with the exceptions of both. -/
def joinHalves (a b : FRes) : FRes :=
  { bits := a.bits + b.bits * 65536, invalid := a.invalid || b.invalid, divZero := a.divZero || b.divZero
    overflow := a.overflow || b.overflow }

/-- The 32 bits of operand B of a packed form. -/
def Iss.packB (x : Iss) (o : V3) (l : Nat) : Nat := if o.lit then o.literal.toNat % 2 ^ 32 else (x.lane o.b.toNat l).toNat

/-- A packed instruction: `f` on each half (R207). -/
def packed (i : Instr) (o : V3) (useC : Bool) (f : FFmt → Rm → Nat → Nat → Nat → FRes) (s : State) : Result :=
  let u : Uses := { d := .one, a := .one, b := .one, c := if useC then .one else .no }
  issue (fltSpec o i u [10, 11] [0] { rm := true, na := true, nb := true, nc := useC, aa := true })
    (fun x s =>
      let fmt := fmtOf o.ty.toNat
      let r := fun (l : Nat) =>
        let a := (x.lane o.a.toNat l).toNat
        let b := x.packB o l
        let c := (x.lane o.c.toNat l).toNat
        let h := fun (k : Nat) =>
          f fmt (rmOf o.rm.toNat) (half fmt o.aa o.na k a) (half fmt false o.nb k b) (half fmt false o.nc k c)
        joinHalves (h 0) (h 1)
      x.fltRes s 5 f32 o.d.toNat r) s

def execHadd2 (o : V3) (s : State) : Result := packed (.hadd2 o) o false (fun f rm a b _ => fAdd f rm a b) s
def execHmul2 (o : V3) (s : State) : Result := packed (.hmul2 o) o false (fun f rm a b _ => fMul f rm a b) s
def execHfma2 (o : V3) (s : State) : Result := packed (.hfma2 o) o true fFma s

/-- Σ products + addend, one rounding, for operands that are no NaN: the invalid cases and infinities, then the
exact sum. An exact zero sum keeps a common sign of its terms, and is otherwise +0, or -0 under RD (DESIGN CHOICE, log 40). -/
def dotSum (f : FFmt) (rm : Rm) (ps : List (Nat × Nat)) (c : Nat) : FRes :=
  let psign := fun (p : Nat × Nat) => fneg f p.1 != fneg f p.2
  let infs := (ps.filterMap fun p => if fIsInf f p.1 || fIsInf f p.2 then some (psign p) else none)
  if sumIsInvalid f ps then FRes.inval f32.defNan
  else
    let infs := infs ++ (if fIsInf f32 c then [fneg f32 c] else [])
    if infs.contains true && infs.contains false then FRes.inval f32.defNan
    else if infs.contains true then FRes.plain (fSigned f32 true f32.inf)
    else if infs.contains false then FRes.plain f32.inf
    else
      let sum := ps.foldl (fun a p => a.add ((fVal f p.1).mul (fVal f p.2))) (fVal f32 c)
      let negs := (ps.map psign) ++ [fneg f32 c]
      let zneg := if negs.all fun n => n then true else if negs.all fun n => !n then false else decide (rm = .rd)
      FRes.ofRounded (roundDy f32 rm zneg sum)

/-- `FDOT2`: a₀b₀ + a₁b₁ + c with one rounding to F32 (R207). -/
def fdot2 (f : FFmt) (rm : Rm) (a0 a1 b0 b1 c : Nat) : FRes :=
  let inv := [a0, a1, b0, b1].any (fIsSnan f) || fIsSnan f32 c
  match [a0, a1, b0, b1].find? (fIsNan f) with
  | some x => { FRes.plain (nanTo f f32 x) with invalid := inv }
  | none =>
    if fIsNan f32 c then { FRes.plain (fQuiet f32 c) with invalid := inv } else dotSum f rm [(a0, b0), (a1, b1)] c

def execFdot2 (o : V3) (s : State) : Result :=
  issue (fltSpec o (.fdot2 o) { d := .one, a := .one, b := .one, c := .one } [10, 11] [0]
      { rm := true, na := true, nb := true, nc := true, aa := true })
    (fun x s =>
      let fmt := fmtOf o.ty.toNat
      x.fltRes s 5 f32 o.d.toNat fun l =>
        let a := (x.lane o.a.toNat l).toNat
        let b := x.packB o l
        fdot2 fmt (rmOf o.rm.toNat) (half fmt o.aa o.na 0 a) (half fmt o.aa o.na 1 a) (half fmt false o.nb 0 b)
          (half fmt false o.nb 1 b) (signMods f32 false o.nc (x.lane o.c.toNat l).toNat)) s

end Sys2Proof.Machine
end

