-- ==== Sys2Proof/Machine/Narrow.lean ====
section
/-! DEFINITION. The narrow formats TW8 and MO4 and `CVTN` (R126-R130, R205). -/

namespace Sys2Proof.Machine

/-! ## Values (R126, R128) -/

/-- t(s, e) in units of 2^(−6): 0 for e = 7, else ± 2^(6 − e). -/
def narrowTerm (s : Bool) (e : Nat) : Int :=
  if e = 7 then 0 else if s then -(2 ^ (6 - e) : Int) else 2 ^ (6 - e)

/-- The value of a TW8 encoding in units of 1/64 (R126). -/
def tw8Val (c : Nat) : Int := narrowTerm (bit c 7) (bits c 6 4) + narrowTerm (bit c 3) (bits c 2 0)

/-- The value of an MO4 encoding in units of 1/64 (R128). -/
def mo4Val (c : Nat) : Int := narrowTerm (bit c 3) (bits c 2 0)

/-- The canonical TW8 encodings, by the kinds of R127. -/
def tw8Canonical (c : Nat) : Bool :=
  let sa := bit c 7
  let ea := bits c 6 4
  let sb := bit c 3
  let eb := bits c 2 0
  decide (c = 0x77)
    || (decide (ea < 7) && decide (eb = 7) && !sb)
    || (decide (ea = 0) && decide (eb = 0) && (sa == sb))
    || (decide (ea < eb) && decide (eb ≤ 6) && (sa == sb))
    || (decide (ea + 3 ≤ eb) && decide (eb ≤ 6) && (sa != sb))

/-- The canonical encodings in ascending order. -/
def tw8Codes : List Nat := (List.range 256).filter tw8Canonical
def mo4Codes : List Nat := List.range 15

/-- The code whose value is nearest to u = m · 2^e, the smaller code on a tie (R129); `u` is scaled to units of
1/64. -/
def nearestCode (codes : List Nat) (val : Nat → Int) (zeroCode : Nat) (u : Dy) : Nat :=
  let u64 : Dy := { u with e := u.e + 6 }
  let dist := fun (c : Nat) =>
    let d := u64.sub (Dy.ofInt (val c))
    ({ d with m := (d.m.natAbs : Int) } : Dy)
  (codes.foldl
    (fun (best : Option (Nat × Dy)) c =>
      let d := dist c
      match best with
      | none => some (c, d)
      | some (_, bd) => if d.lt bd then some (c, d) else best)
    none).elim zeroCode Prod.fst

/-- The conversion of R129 of an F32 value, scaled by 2^k. -/
def toNarrow (tw : Bool) (k : Int) (a : Nat) : Nat :=
  let zeroCode := if tw then 0x77 else 0x7
  let minus := if tw then 0x88 else 0x8
  if fIsNan f32 a || fIsZero f32 a then zeroCode
  else if fIsInf f32 a then (if fneg f32 a then minus else 0)
  else
    let v := fVal f32 a
    if tw then nearestCode tw8Codes tw8Val zeroCode { v with e := v.e + k }
    else nearestCode mo4Codes mo4Val zeroCode { v with e := v.e + k }

/-- A narrow element's value times 2^k, exact. -/
def narrowDy (tw : Bool) (k : Int) (c : Nat) : Dy := { m := if tw then tw8Val c else mo4Val c, e := k - 6 }

/-- A narrow element's value times 2^k, rounded to F32 (R101, R205). -/
def fromNarrow (tw : Bool) (k : Int) (c : Nat) : Nat := (roundDy f32 .rn false (narrowDy tw k c)).bits

/-! ## `CVTN` (R205) -/

/-- `CVTN`: FUNC 0 packs F32 values from consecutive registers, FUNC 1 unpacks them; the scale byte is operand B. -/
def execCvtn (o : V3) (s : State) : Result :=
  let tw := decide (o.ty.toNat = 12)
  let n := if tw then 4 else 8
  let w := if tw then 8 else 4
  let pack := decide (o.func = 0#3)
  let a := o.a.toNat
  let d := o.d.toNat
  issue
    { instr := .cvtn o, g := o.g, lit := o.lit
      fields := fltOk o { d := .num, a := .num, b := .one, c := .no } [12, 13] [0, 1] modsNone
      dsts := [(d, if pack then 1 else n)]
      srcs := [(a, if pack then n else 1)] ++ if o.lit || o.bi then [] else [(o.b.toNat, 1)] }
    (fun x _ =>
      let sc := fun (l : Nat) => ((x.amount o l % 256 : Nat) : Int)
      if pack then
        .fixed 5 (x.put1 d fun l =>
          (List.range n).foldl (fun r i => r + toNarrow tw (127 - sc l) (x.lane (a + i) l).toNat * 2 ^ (w * i)) 0) []
      else
        .fixed 5 ((List.range n).flatMap fun i =>
          x.put1 (d + i) fun l => fromNarrow tw (sc l - 127) (bits (x.lane a l).toNat (w * i + w - 1) (w * i))) []) s

end Sys2Proof.Machine
end

