-- ==== Sys2Proof/Machine/Codec.lean ====
section
/-! DEFINITION. The conversion stage of buffer records (R101) and the FP64 block codec (R108-R113, R117). -/

namespace Sys2Proof.Machine

/-! ## The conversion stage (R101) -/

/-- An exact value clamped between two others. -/
def Dy.clamp (lo hi x : Dy) : Dy := if x.lt lo then lo else if hi.lt x then hi else x

/-- The SCALE field as a signed exponent (R97). -/
def scaleExp (sc : Nat) : Int := signExt sc 16

/-- An element of 2^ESIZE bytes loaded into a lane, or a pair for 8 bytes (R101). -/
def convLoad (enc esize sc raw : Nat) : Nat :=
  let n := 8 * 2 ^ esize
  match enc with
  | 0x01 => narrow (signExt raw n) 32
  | 0x03 => (fConv f16 f32 .rn raw).bits
  | 0x04 => (fConv bf16 f32 .rn raw).bits
  | 0x05 => (roundRat f32 .rn false raw (2 ^ n - 1) 0).bits
  | 0x06 =>
    let v := signExt raw n
    let mag := min v.natAbs (2 ^ (n - 1) - 1)
    (roundRat f32 .rn (decide (v < 0)) mag (2 ^ (n - 1) - 1) 0).bits
  | 0x07 => (roundDy f32 .rn false { m := signExt raw 32, e := scaleExp sc }).bits
  | 0x08 => fromNarrow true (scaleExp sc) raw
  | _ => raw

/-- A signed integer saturated to n bits. -/
def satS (n : Nat) (x : Int) : Nat := narrow (max (-(2 ^ (n - 1) : Int)) (min x (2 ^ (n - 1) - 1))) n

/-- A lane stored as an element of 2^ESIZE bytes (R101). -/
def convStore (enc esize sc v : Nat) : Nat :=
  let n := 8 * 2 ^ esize
  match enc with
  | 0x01 => satS n (signExt v 32)
  | 0x02 => min v (2 ^ n - 1)
  | 0x03 => (fConv f32 f16 .rn v).bits
  | 0x04 => (fConv f32 bf16 .rn v).bits
  | 0x05 =>
    if fIsNan f32 v then 0
    else if fIsInf f32 v then (if fneg f32 v then 0 else 2 ^ n - 1)
    else
      let x := Dy.clamp (Dy.ofInt 0) (Dy.ofInt 1) (fVal f32 v)
      (roundInt .rn { x with m := x.m * (2 ^ n - 1 : Nat) }).toNat
  | 0x06 =>
    if fIsNan f32 v then 0
    else
      let k : Int := (2 ^ (n - 1) - 1 : Nat)
      if fIsInf f32 v then narrow (if fneg f32 v then -k else k) n
      else
        let x := Dy.clamp (Dy.ofInt (-1)) (Dy.ofInt 1) (fVal f32 v)
        narrow (roundInt .rn { x with m := x.m * k }) n
  | 0x07 =>
    if fIsNan f32 v then 0
    else if fIsInf f32 v then (if fneg f32 v then 2 ^ 31 else 2 ^ 31 - 1)
    else satS 32 (roundInt .rn { fVal f32 v with e := (fVal f32 v).e - scaleExp sc })
  | 0x08 => toNarrow true (-(scaleExp sc)) v
  | _ => v % 2 ^ n

/-- The ESIZE codes of an encoding (R101); none for a reserved one. -/
def encSizes (enc : Nat) : List Nat :=
  match enc with
  | 0x00 => [0, 1, 2, 3]
  | 0x01 => [0, 1]
  | 0x02 => [0, 1]
  | 0x03 => [1]
  | 0x04 => [1]
  | 0x05 => [0, 1]
  | 0x06 => [0, 1]
  | 0x07 => [2]
  | 0x08 => [0]
  | 0x09 => [3]
  | _ => []

/-! ## Blocks (R109) -/

/-- Block bits, blocks per line, and the widths W0, W1, W2 = W3, W4 to W7 of a budget code (R109). -/
structure Budget where
  n : Nat
  p : Nat
  w0 : Nat
  w1 : Nat
  w2 : Nat
  w4 : Nat
  deriving DecidableEq, Repr

def budgetOf (code : Nat) : Budget :=
  match code with
  | 0 => { n := 64, p := 16, w0 := 40, w1 := 0, w2 := 0, w4 := 0 }
  | 1 => { n := 128, p := 8, w0 := 22, w1 := 14, w2 := 12, w4 := 11 }
  | 2 => { n := 192, p := 5, w0 := 32, w1 := 24, w2 := 20, w4 := 18 }
  | 3 => { n := 256, p := 4, w0 := 40, w1 := 32, w2 := 28, w4 := 26 }
  | _ => { n := 320, p := 3, w0 := 48, w1 := 40, w2 := 36, w4 := 34 }

/-- The field widths c0, d1 to d7. -/
def Budget.widths (b : Budget) : List Nat := [b.w0, b.w1, b.w2, b.w2, b.w4, b.w4, b.w4, b.w4]

/-- How many low bits of each field hold the non-finite information of special mode (R112). -/
def Budget.infoBits (b : Budget) : List Nat := if b.n = 64 then [24, 0, 0, 0, 0, 0, 0, 0] else [0, 0, 0, 0, 6, 6, 6, 6]

/-! ## The transform (R111) -/

def codecLift (a b : Int) : Int × Int := (b + (a - b) / 2, a - b)
def codecUnlift (s d : Int) : Int × Int := (d + (s - d / 2), s - d / 2)

/-- Spare sign bits of an F-bit field. -/
def signSpare (v : Int) (f : Nat) : Nat :=
  let m := if v < 0 then (-v - 1).toNat else v.toNat
  f - 1 - (if m = 0 then 0 else Nat.log2 m + 1)

/-- v / 2^k rounded half to even. -/
def roundHalfEven (v : Int) (k : Nat) : Int := roundInt .rn { m := v, e := -(k : Int) }

/-- `Keep`: the top W bits of an F-bit field. -/
def codecKeep (v : Int) (f w : Nat) : Int :=
  if w = 0 then 0 else max (-(2 ^ (w - 1) : Int)) (min (roundHalfEven v (f - w)) (2 ^ (w - 1) - 1))

/-- The exponent e of a block from the biased exponent E. -/
def blockExp (e : Nat) : Int := if e = 0 then -1022 else (e : Int) - 1023

/-- The coefficients c0, d1 to d7 of eight scaled values. -/
def codecForward (q : List Int) : List Int :=
  let g := fun (i : Nat) => getAt q i 0
  let a0 := codecLift (g 0) (g 1)
  let a1 := codecLift (g 2) (g 3)
  let a2 := codecLift (g 4) (g 5)
  let a3 := codecLift (g 6) (g 7)
  let b0 := codecLift a0.1 a1.1
  let b1 := codecLift a2.1 a3.1
  let c := codecLift b0.1 b1.1
  [c.1, c.2, b0.2, b1.2, a0.2, a1.2, a2.2, a3.2]

/-- The eight scaled values from coefficients (R113). -/
def codecInverse (k : List Int) : List Int :=
  let g := fun (i : Nat) => getAt k i 0
  let t := codecUnlift (g 0) (g 1)
  let s0 := codecUnlift t.1 (g 2)
  let s1 := codecUnlift t.2 (g 3)
  let q0 := codecUnlift s0.1 (g 4)
  let q1 := codecUnlift s0.2 (g 5)
  let q2 := codecUnlift s1.1 (g 6)
  let q3 := codecUnlift s1.2 (g 7)
  [q0.1, q0.2, q1.1, q1.2, q2.1, q2.2, q3.1, q3.2]

/-- Fields of the given widths packed upward from bit 24. -/
def packFields : Nat → List (Nat × Nat) → Nat
  | _, [] => 0
  | at_, (w, v) :: t => v % 2 ^ w * 2 ^ at_ + packFields (at_ + w) t

/-- A non-finite F64 value. -/
def f64NonFinite (x : Nat) : Bool := decide (f64.inf ≤ fmag f64 x)

/-- The kind of a non-finite value (R112). -/
def kindOf (x : Nat) : Nat := (if fIsNan f64 x then 2 else 0) + (if fneg f64 x then 1 else 0)

/-- The non-finite information of eight values (R112). -/
def infoOf (xs : List Nat) : Nat :=
  (List.range 8).foldl (fun a i =>
    let x := getAt xs i 0
    if f64NonFinite x then a + 2 ^ i + kindOf x * 2 ^ (8 + 2 * i) else a) 0

/-- The mode of a block (R110). -/
def blockMode (code : Nat) (xs : List Nat) : Nat :=
  if xs.any f64NonFinite then 2
  else if xs.all fun x => decide (x = 0) then 0
  else if 1 ≤ code && xs.all fun x => decide (x = getAt xs 0 0) then 1
  else 3

/-- The block of eight F64 values under a budget code (R110-R112). -/
def encodeBlock (code : Nat) (xs : List Nat) : Nat :=
  let b := budgetOf code
  let mode := blockMode code xs
  if mode = 0 then 0
  else if mode = 1 then 1 + getAt xs 0 0 * 2 ^ 24
  else
    let special := decide (mode = 2)
    let fin := xs.map fun x => if f64NonFinite x then 0 else x
    let e := (fin.map fun x => fmag f64 x / 2 ^ 52).foldl max 0
    let q := fin.map fun x => roundInt .rn { fVal f64 x with e := (fVal f64 x).e + (58 - blockExp e) }
    let ks := codecForward q
    let ds := ks.drop 1
    let h := if b.n = 64 || xs.all f64NonFinite then 0
      else ds.foldl (fun a d => min a (signSpare d 62)) 63
    let info := infoOf xs
    let extra := if special then b.infoBits else List.replicate 8 0
    let fields := (List.range 8).map fun i =>
      let x := getAt extra i 0
      let w := getAt b.widths i 0 - x
      let kept := if i = 0 then codecKeep (getAt ks 0 0) 60 w else codecKeep (getAt ks i 0 * 2 ^ h) 62 w
      let low := if x = 24 then info else if x = 6 then info / 64 ^ (i - 4) % 64 else 0
      (w + x, narrow kept w * 2 ^ x + low)
    mode + e * 4 + h * 2 ^ 13 + packFields 24 fields

/-- The fields of a block from bit 24, by their widths. -/
def unpackFields : Nat → List Nat → Nat → List Nat
  | _, [], _ => []
  | at_, w :: t, blk => blk / 2 ^ at_ % 2 ^ w :: unpackFields (at_ + w) t blk

/-- The eight F64 values that a block decodes to (R113). -/
def decodeBlock (code blk : Nat) : List Nat :=
  let b := budgetOf code
  let mode := blk % 4
  if mode = 0 || (mode = 1 && b.n = 64) then List.replicate 8 0
  else if mode = 1 then List.replicate 8 (bits blk 87 24)
  else
    let e := blockExp (bits blk 12 2)
    let h := bits blk 18 13
    let extra := if mode = 2 then b.infoBits else List.replicate 8 0
    let fs := unpackFields 24 b.widths blk
    let ks := (List.range 8).map fun i =>
      let x := getAt extra i 0
      let w := getAt b.widths i 0 - x
      let v := signExt (getAt fs i 0 / 2 ^ x) w
      if i = 0 then v * 2 ^ (60 - w) else if w = 0 then 0 else v * 2 ^ (62 - w) / 2 ^ h
    let info := (List.range 8).foldl (fun a i =>
      let x := getAt extra i 0
      a + (if x = 24 then getAt fs i 0 % 2 ^ 24 else if x = 6 then getAt fs i 0 % 64 * 64 ^ (i - 4) else 0)) 0
    let ys := (codecInverse ks).map fun q =>
      if q = 0 then 0
      else
        let r := (roundDy f64 .rn false { m := q, e := e - 58 }).bits
        if fIsInf f64 r then r - 1 else r
    if mode = 2 then
      (List.range 8).map fun i =>
        if bit info i then
          match bits info (9 + 2 * i) (8 + 2 * i) with
          | 0 => 0x7FF0000000000000
          | 1 => 0xFFF0000000000000
          | 2 => 0x7FF8000000000000
          | _ => 0xFFF8000000000000
        else getAt ys i 0
    else ys

/-- Block `slot` of a line, whose bit k is bit k mod 8 of byte k / 8 (R108). -/
def lineBlock (code line slot : Nat) : Nat := line / 2 ^ (slot * (budgetOf code).n) % 2 ^ (budgetOf code).n

/-- A line with block `slot` replaced; bits at or above P · N are written 0 (R108). -/
def putBlock (code line slot blk : Nat) : Nat :=
  let b := budgetOf code
  let line := line % 2 ^ (b.p * b.n)
  line - lineBlock code line slot * 2 ^ (slot * b.n) + blk % 2 ^ b.n * 2 ^ (slot * b.n)

/-! ## Counters (R117) -/

/-- The error exponent of one encode relative to e: none where no finite value differs (R117). -/
def errExp (code : Nat) (xs : List Nat) : Option Int :=
  let mode := blockMode code xs
  if mode = 0 || mode = 1 then none
  else
    let blk := encodeBlock code xs
    let ys := decodeBlock code blk
    let e := blockExp (bits blk 12 2)
    (List.range 8).foldl (fun a i =>
      let x := getAt xs i 0
      if f64NonFinite x then a
      else
        let d := (fVal f64 (getAt ys i 0)).sub (fVal f64 x)
        if d.m = 0 then a
        else
          let v := d.log2 - e
          match a with
          | none => some v
          | some b => some (max b v)) none

/-- A block whose decode differs from its input in any bit (R117). -/
def lossy (code : Nat) (xs : List Nat) : Bool := decide (decodeBlock code (encodeBlock code xs) ≠ xs)

/-- What one encode of a store adds to the counters (R117). -/
def encNote (code : Nat) (xs : List Nat) (partial_ : Bool) : EncNote :=
  { lossy := lossy code xs, special := decide (blockMode code xs = 2), partial_ := partial_, err := errExp code xs }

/-- The counter words 0x18 to 0x30 of a region record after one encode (R117). -/
def EncNote.count (n : EncNote) (c18 c20 c28 c30 : Nat) : List Nat :=
  let sat := fun (x : Nat) => min (x + 1) (2 ^ 64 - 1)
  let mx := bits c30 15 0
  let mx' := match n.err with
    | none => mx
    | some v => if mx = 0x8000 then narrow v 16 else narrow (max v (signExt mx 16)) 16
  let rmw := bits c30 63 32
  let rmw' := if n.partial_ then min (rmw + 1) (2 ^ 32 - 1) else rmw
  [ sat c18, if n.lossy then sat c20 else c20, if n.special then sat c28 else c28,
    rmw' * 2 ^ 32 + bits c30 31 16 * 2 ^ 16 + mx' ]

/-- The counter words after one encode of a block's values. -/
def countEncode (code : Nat) (xs : List Nat) (partial_ : Bool) (c18 c20 c28 c30 : Nat) : List Nat :=
  (encNote code xs partial_).count c18 c20 c28 c30

end Sys2Proof.Machine
end

