-- ==== Sys2Proof/Machine/Fabric.lean ====
section
/-! DEFINITION. The fabric as a sender uses it: places of cores and slices, turn lists and routes, injection,
die-link directions with their compression tables, and requests to slices (R265-R273, R149). -/

namespace Sys2Proof.Machine

/-! ## Places (R265, R266) -/

/-- The router of a core, by its local number, and of a slice: 4 × quadrant + j. -/
def coreRouter (u : Nat) : Nat := 4 * (u / 12) + u % 12 / 3
def sliceRouter (j : Nat) : Nat := j
/-- The router at which a die's link to die `e` ends: H, the row neighbour, the column neighbour. -/
def gatewayRouter (d e : Nat) : Nat := if e = 4 then 3 else if e = d ^^^ 1 then 7 else 11
/-- The router that the external port of router `r` (not a gateway) leads to. -/
def longLinkEnd (r : Nat) : Nat :=
  let q := r / 4
  let q2 := (q + r % 4 + 1) % 4
  4 * q2 + (q + 3 - q2 + 4) % 4 % 4

/-! ## Routes (R268, R269) -/

/-- `Local(a, b)`. -/
def localTurn (a b : Nat) : List Nat := if a = b then [] else [(b + 4 - a) % 4]

/-- `MinRoute` between two routers of a die. -/
def minRoute (r r2 : Nat) : List Nat :=
  let q := r / 4
  let q2 := r2 / 4
  if q = q2 then localTurn (r % 4) (r2 % 4)
  else localTurn (r % 4) ((q2 + 3 - q) % 4) ++ [4] ++ localTurn ((q + 3 - q2) % 4) (r2 % 4)

/-- The alternative route through the lower-numbered of the two other quadrants (R269). -/
def altRoute (r r2 : Nat) : List Nat :=
  let q := r / 4
  let q2 := r2 / 4
  let m := (firstBelow 4 fun m => decide (m ≠ q) && decide (m ≠ q2)).getD 0
  let g := 4 * m + (q2 + 3 - m) % 4
  minRoute r g ++ [4] ++ localTurn ((m + 3 - q2) % 4) (r2 % 4)

/-! ### Links out of service (R423) -/

/-- The other end of a router link: router and port. -/
def linkEnd (r p : Nat) : Nat × Nat := if p = 7 then (longLinkEnd r, 7) else (4 * (r / 4) + (r % 4 + p - 3) % 4, 10 - p)

/-- A router link is out of service, in either direction. -/
def Die.deadLink (x : Die) (r p : Nat) : Bool :=
  let e := linkEnd r p
  ((KMap.get? x.links (8 * r + p)).any fun l => l.down) || (KMap.get? x.links (8 * e.1 + e.2)).any fun l => l.down

/-- A local turn, or two through another router of the quadrant where its link is down. -/
def Die.localHop (x : Die) (r t : Nat) : List Nat :=
  if !x.deadLink r (3 + t) then [t]
  else
    match [1, 2, 3].find? fun k => decide (k ≠ t) && !x.deadLink r (3 + k)
        && !x.deadLink (linkEnd r (3 + k)).1 (3 + (t + 4 - k) % 4) with
    | some k => [k, (t + 4 - k) % 4]
    | none => [t]

/-- A route from router `r` with its down local links replaced. -/
def Die.mendRoute (x : Die) : Nat → List Nat → List Nat
  | _, [] => []
  | r, t :: ts =>
    if t = 4 then 4 :: Die.mendRoute x (longLinkEnd r) ts else x.localHop r t ++ Die.mendRoute x (linkEnd r (3 + t)).1 ts

/-- A long link on a route is down. -/
def Die.longDead (x : Die) : Nat → List Nat → Bool
  | _, [] => false
  | r, t :: ts => if t = 4 then x.deadLink r 7 || Die.longDead x (longLinkEnd r) ts else Die.longDead x (linkEnd r (3 + t)).1 ts

/-- The route between two routers of the die and whether it is the alternative one; a down long link forces that. -/
def Die.routeTo (x : Die) (r r2 : Nat) (alt : Bool) : List Nat × Bool :=
  let alt := decide (r / 4 ≠ r2 / 4) && (alt || x.longDead r (minRoute r r2))
  (x.mendRoute r (if alt then altRoute r r2 else minRoute r r2), alt)

/-- A turn list: V in bit 15, the first turn in [2:0] (R268). -/
def packTurns (ts : List Nat) : BitVec 16 :=
  BitVec.ofNat 16 (2 ^ 15 + (ts.foldr (fun t a => t + 8 * a) 0) % 2 ^ 15)

/-! ## Flits -/

/-- The words of a message in the model's own layout (DESIGN CHOICE, log 17). -/
def msgWords (m : Msg) : List Nat :=
  match m with
  | .req r j =>
    [1, r.line, r.line / 2 ^ 32, r.core, r.vf, (r.out.map fun o => o + 1).getD 0, j, if r.pres then 1 else 0,
      match r.kind with
      | .load => 0
      | .store => 1
      | .atomic => 2
      | .codec => 3
      | .codecEnd => 4
      | .red => 5
      | .count => 6
      | .add _ => 7]
  | .resp c o => [2, c, o]
  | .contrib c j =>
    [3, c.line, c.line / 2 ^ 32, c.vf, if c.pres then 1 else 0, j, (c.seq.map fun x => x.1 + 1).getD 0, (c.seq.map fun x => x.2).getD 0]
      ++ c.elems.map fun e => e.2.toNat
  | .codecGrant r j => [6, r.line, r.line / 2 ^ 32, r.core, j]
  | .write l ws => [4, l, l / 2 ^ 32] ++ ws.map fun w => w.toNat
  | .beacon n => [5, n]

/-- The words of a flit's packet. -/
def packetWords (f : Flit) : List Nat :=
  [f.turns.toNat, f.dstDie, f.dstRouter * 8 + f.dstPort, f.chan, f.src] ++ msgWords f.msg

/-- The 16 words of a flit: those of its part of the packet (R267). -/
def flitWords (f : Flit) : List W32 :=
  let ws := (packetWords f).drop (16 * f.part)
  (List.range 16).map fun i => BitVec.ofNat 32 (getAt ws i 0)

/-- The CRC-16 that a flit carries (R267). -/
def flitCrc (f : Flit) : BitVec 16 :=
  BitVec.ofNat 16 (crc16 ((flitWords f).flatMap fun w => leBytes 4 w.toNat))

/-- The flits of a packet, the head first (R267). -/
def packetFlits (f : Flit) : List Flit :=
  let n := max 1 (((packetWords f).length + 15) / 16)
  (List.range n).map fun i =>
    let g := { f with id := f.pkt + i, part := i, parts := n }
    { g with crc := flitCrc g }

/-- The last flit of its packet: with it the message has arrived. -/
def Flit.last (f : Flit) : Bool := decide (f.parts ≤ f.part + 1)

/-! ## Die links (R17, R272, R273, R424) -/

/-- The position of the direction from die `d` to die `e`, where the dies are linked. -/
def State.linkPos (s : State) (d e : Nat) : Option Nat :=
  firstBelow s.dlinks.length fun i =>
    match s.dlinks[i]? with
    | some l => decide (l.src = d) && decide (l.dst = e)
    | none => false

/-- The link from `d` to `e` exists and is up. -/
def State.linkUp (s : State) (d e : Nat) : Bool :=
  match s.linkPos d e with
  | some i => !((s.dlinks[i]?).elim true fun l => l.down)
  | none => false

/-- The next die on the path from `d` to `e` (R17); round a link that is down (R424). -/
def State.nextHop (s : State) (d e : Nat) : Nat :=
  if e = 4 then (if s.linkUp d 4 then 4 else d ^^^ 1)
  else if d = 4 then (if s.linkUp 4 e then e else e ^^^ 1)
  else if e = d ^^^ 3 then (if s.linkUp d (d ^^^ 1) then d ^^^ 1 else 4)
  else if s.linkUp d e then e
  else 4

/-- The lowest-numbered entry of a table equal to a word, else the word (R272). -/
def encodeSym (t : List W32) (w : W32) : Sym :=
  match firstBelow 64 fun i => decide (t[i]? = some w) with
  | some i => .hit i
  | none => .miss w

/-- The word that a symbol stands for. -/
def decodeSym (t : List W32) (y : Sym) : W32 :=
  match y with
  | .hit i => getAt t i 0
  | .miss w => w

/-- The update of a table by one word of a flit (R272). -/
def updateTable (t : List W32) (y : Sym) : List W32 :=
  match y with
  | .hit i => if i < 3 then t else setAt (setAt t i (getAt t (i - 1) 0)) (i - 1) (getAt t i 0)
  | .miss w => setAt t 63 w

/-- The update of a flit, its words in order. -/
def updateFlit (t : List W32) (ys : List Sym) : List W32 := ys.foldl updateTable t

/-- The compressed bits of a flit: a hit is 1 and its index, a miss 0 and the word, lowest bit first (DESIGN CHOICE, log 11). -/
def symBits (ys : List Sym) : Nat × Nat :=
  ys.foldl (fun a y => match y with
    | .hit i => (a.1 + (1 + 2 * i) * 2 ^ a.2, a.2 + 7)
    | .miss w => (a.1 + 2 * w.toNat * 2 ^ a.2, a.2 + 33)) (0, 0)

/-- The CRC-32 over the sequence number and the compressed bits (R273). -/
def linkCrc (seq : Nat) (ys : List Sym) : W32 :=
  let b := symBits ys
  BitVec.ofNat 32 (crc32 (leBytes (1 + (b.2 + 7) / 8) (seq % 256 + 256 * b.1)))

/-- The pending updates of one end, the oldest applied once 64 wait (R273). -/
def applyOldest (t : List W32) (pend : List (List Sym)) : List W32 × List (List Sym) :=
  if pend.length < 64 then (t, pend)
  else
    match pend with
    | y :: rest => (updateFlit t y, rest)
    | [] => (t, [])

/-- One flit encoded and sent: the update of flit s − 64 is applied first (R272, R273). -/
def LinkDir.sendOne (l : LinkDir) (f : Flit) (stamp : List Nat) : LinkDir :=
  let (t, pend) := applyOldest l.sendTable l.sendPend
  let ys := (flitWords f).map (encodeSym t)
  let c : CFlit :=
    { seq := l.sendSeq % 256, syms := ys, crc := linkCrc l.sendSeq ys, words := flitWords f, flit := f, stamp := stamp }
  { l with
    sendTable := t, sendPend := pend ++ [ys], sendSeq := l.sendSeq + 1, replay := l.replay ++ [c], wire := l.wire ++ [c] }

/-- Waiting flits are sent while fewer than 64 are unacknowledged and the link is up (R273). -/
def LinkDir.pump (l : LinkDir) : LinkDir :=
  let room := if l.down then 0 else 64 - l.replay.length
  let r := (l.queue.take room).foldl (fun (a : LinkDir) x => a.sendOne x.1 x.2) l
  { r with queue := l.queue.drop room }

/-- The state with a link direction changed. -/
def State.setLink (s : State) (i : Nat) (l : LinkDir) : State := { s with dlinks := setAt s.dlinks i l }

/-- A message enters the link from die `d` toward die `e`. -/
def State.linkSend (s : State) (d e : Nat) (f : Flit) (stamp : List Nat) : State :=
  match s.linkPos d (s.nextHop d e) with
  | none => s
  | some i =>
    match s.dlinks[i]? with
    | none => s
    | some l =>
      let l := if l.replay.isEmpty then { l with lastAck := s.clk.fabric } else l
      s.setLink i { l with queue := l.queue ++ [(f, stamp)] }.pump

/-! ## Counts between dies (R149) -/

/-- A write for the counts of R149. -/
def Msg.isWrite (m : Msg) : Bool :=
  match m with
  | .req r _ => decide (r.kind ≠ .load)
  | .resp _ _ => false
  | .contrib _ _ => true
  | .codecGrant _ _ => false
  | .write _ _ => true
  | .beacon _ => false

/-- `a` does not exceed `b`, as signed differences modulo 2^20. -/
def countLe (a b : Nat) : Bool := decide ((b + 2 ^ 20 - a % 2 ^ 20) % 2 ^ 20 < 2 ^ 19)

/-- The count of its own die that a message carries: the number of a write. -/
def Flit.number (f : Flit) : Nat := getAt f.stamp f.srcDie 0

/-- The writes to die `e` up to number `n` that are still in the network of the die, but for those of `pkt`. -/
def Die.writesTo (x : Die) (e n : Nat) (pkt : Option Nat) : List Flit :=
  x.flits.filter fun g =>
    g.msg.isWrite && decide (g.dstDie = e) && !g.stamp.isEmpty && decide (pkt ≠ some g.pkt) && countLe g.number n

/-- The count that a beacon on the path to die `e` can carry: `n`, or less than the number of any write to `e` that is still
in the network. -/
def Die.pathCount (x : Die) (e n : Nat) (pkt : Option Nat) : Nat :=
  (x.writesTo e n pkt).foldl (fun c g => if countLe g.number c then (g.number + 2 ^ 20 - 1) % 2 ^ 20 else c) n

/-- The later of two counts. -/
def countMax (a b : Nat) : Nat := if countLe a b then b else a

/-- A message that carries the count `n` goes out on the path to die `e`. -/
def Die.noteSent (x : Die) (e n now : Nat) : Die :=
  { x with sent := setAt x.sent e (countMax (getAt x.sent e 0) n), sentAt := setAt x.sentAt e now }

/-- A message leaves die `d` for another die on the path to it, with the vector that it was given when it was sent (R149). -/
def State.crossOut (s : State) (d : Nat) (f : Flit) : State :=
  (s.setDie d ((s.die d).noteSent f.dstDie f.number s.clk.fabric)).linkSend d f.dstDie f f.stamp

/-- The count of die `e`'s writes that this die has received, less any that it has not applied yet (R149). -/
def Die.appliedCount (x : Die) (e : Nat) : Nat :=
  x.unapplied.foldl (fun n u => if u.1 = e && countLe u.2 n then (u.2 + 2 ^ 20 - 1) % 2 ^ 20 else n) (getAt x.recv e 0)

/-- With the count `own`, die `d` issues no cross-die write: the applied count of some die trails it by 2^18 or more (R149). -/
def State.countsTrail (s : State) (d own : Nat) : Bool :=
  (List.range 5).any fun e =>
    decide (e ≠ d) && !(s.die e).lost && decide (2 ^ 18 ≤ (own + 2 ^ 20 - (s.die e).appliedCount d) % 2 ^ 20)

/-! ## Injection (R268-R270) -/

/-- The router whose long link the minimal route between two quadrants takes. -/
def longRouter (r r2 : Nat) : Nat := 4 * (r / 4) + (r2 / 4 + 3 - r / 4) % 4

/-- The long link of a router holds more than ALTTHR request flits (R270, R271). -/
def Die.congested (x : Die) (g : Nat) : Bool :=
  let waiting := (x.flits.filter fun f =>
    decide (f.router = g) && decide (f.chan = 0) && !f.waits && decide (f.turns.toNat % 8 = 4)).length
  decide (bits x.fabCtl.toNat 15 8 < waiting)

/-- The long links signal their congestion in a fabric clock. -/
def Die.signal (x : Die) (now : Nat) : Die :=
  if x.flits.isEmpty then x
  else { x with signals := (List.range 16).foldl (fun m g => if g % 4 ≠ 3 && x.congested g then KMap.put m g now else m) x.signals }

/-- A long link has signalled congestion within the last 64 fabric clocks. -/
def Die.signalled (x : Die) (g now : Nat) : Bool := (KMap.get? x.signals g).any fun c => decide (now ≤ c + 64)

/-- Another packet of the same port to the same endpoint. -/
def Flit.fellow (f g : Flit) : Bool :=
  decide (g.src = f.src) && decide (g.dstDie = f.dstDie) && decide (g.dstRouter = f.dstRouter) && decide (g.dstPort = f.dstPort)
    && decide (g.pkt ≠ f.pkt)

/-- Where the route of a flit in die `d` ends: its endpoint, or the gateway to its die. -/
def State.routeEnd (s : State) (d : Nat) (f : Flit) : Nat :=
  if f.dstDie = d then f.dstRouter else gatewayRouter d (s.nextHop d f.dstDie)

/-- A packet may take the alternative route: within the die, where the long link of the minimal route has signalled and no
packet of the port to the endpoint is on the other route (R269, R270). -/
def State.mayAlt (s : State) (d : Nat) (f : Flit) : Bool :=
  let x := s.die d
  let r := f.src / 8
  x.fabCtl.getLsbD 0 && decide (f.dstDie = d) && decide (r / 4 ≠ f.dstRouter / 4)
    && x.signalled (longRouter r f.dstRouter) s.clk.fabric && x.flits.all fun g => !f.fellow g || g.alt

/-- A packet's route from its injection port, where it does not have to wait for one on the other route (R270), nor, as a write
to another die, for that die's counts (R149); a long link out of service leaves only the alternative route (R423). -/
def State.setOff (s : State) (d : Nat) (f : Flit) (alt : Bool) : Option Flit :=
  let x := s.die d
  let r := f.src / 8
  let target := s.routeEnd d f
  let (route, a) := x.routeTo r target (alt && s.mayAlt d f)
  let earlier := (x.flits.takeWhile fun g => decide (g.pkt ≠ f.pkt)).any fun g => f.fellow g && g.waits
  let other := x.flits.any fun g => f.fellow g && !g.waits && (g.alt != a)
  let stalled := f.msg.isWrite && decide (f.dstDie ≠ d) && s.countsTrail d ((f.number + 2 ^ 20 - 1) % 2 ^ 20)
  if earlier || stalled || (other && !x.longDead r (minRoute r target)) then none
  else some { f with turns := packTurns route, alt := a, waits := false }

/-- A packet enters the network of die `d` at a port for an endpoint, or for the gateway to another die; a message to another
die carries the die's vector, and a write takes the next number (R149). A free choice takes the alternative route where R270
allows it. -/
def State.inject (s : State) (d src : Nat) (dstDie dstRouter dstPort chan : Nat) (msg : Msg) : State :=
  let x := s.die d
  let own := (getAt x.vec d 0 + (if msg.isWrite then 1 else 0)) % 2 ^ 20
  let vec := if dstDie = d then x.vec else setAt x.vec d own
  let f : Flit :=
    { id := 0, pkt := x.flits.foldl (fun n f => max n (f.id + 1)) 0, part := 0, parts := 1, waits := true
      stamp := if dstDie = d then [] else vec, router := src / 8, turns := packTurns [], dstDie := dstDie
      dstRouter := dstRouter, dstPort := dstPort, chan := chan, second := false, srcDie := d, src := src, alt := false
      via := src, resends := 0, crc := 0, msg := msg }
  let (n, s) := if s.mayAlt d f then s.choice 2 else (0, s)
  let f := (s.setOff d f (decide (n = 1))).getD f
  s.setDie d { x with vec := vec, flits := x.flits ++ packetFlits f }

/-- The endpoint that names a core: its router, port and injecting port. -/
def corePort (c : Nat) : Nat := coreRouter (c % 48) * 8 + c % 48 % 3

/-- The ways in which a line of virtual function `v` may be allocated (R86, R87). -/
def Die.ways (x : Die) (v : Nat) (pres : Bool) : W32 :=
  let p := x.pway &&& 0xFFFF
  if pres then p else (KMap.getD x.vfway v 0xFFFF &&& 0xFFFF) &&& ~~~p

/-- A request of a core for a line goes to the line's home slice (R85, R274). -/
def State.sendReq (s : State) (c v : Nat) (kind : ReqKind) (line : Nat) (pres : Bool) (out : Option Nat) : State :=
  let pa := line * 128
  let j := sliceOf pa
  s.inject (c / 48) (corePort c) (homeDie pa) (sliceRouter j) 3 0
    (.req { kind := kind, line := line, core := c, vf := v, pres := pres, out := out, num := none } j)

/-- Requests for distinct lines, in order. -/
def State.sendReqs (s : State) (c v : Nat) (kind : ReqKind) (out : Option Nat) (lines : List (Nat × Bool)) : State :=
  lines.foldl (fun s l => s.sendReq c v kind l.1 l.2 out) s

/-- A slice answers a core's result `out` (R274). -/
def State.sendResp (s : State) (d j c out : Nat) : State :=
  s.inject d (sliceRouter j * 8 + 3) (c / 48) (coreRouter (c % 48)) (c % 48 % 3) 1 (.resp c out)

/-! ## L1 data caches (R84, R150) -/

/-- Lines of an L1 data cache: 16 ways of 128 sets; a placement that R84 leaves open takes the oldest out first (DESIGN CHOICE,
log 20). -/
def l1Lines : Nat := 2048

/-- A line enters the L1 of core `c`, as it is or decoded for a region of a virtual function (R114); a line that it pushes out
is no longer owned. -/
def State.fillL1 (s : State) (c line : Nat) (tag : Option (Nat × Nat)) : State :=
  let k := s.core c
  let l := (line, tag) :: k.l1.filter fun x => decide (x.1 ≠ line)
  let out := (l.drop l1Lines).map Prod.fst
  let s := s.setCore c { k with l1 := l.take l1Lines }
  if out.isEmpty then s else { s with l1own := s.l1own.filter fun o => !(out.contains o.1 && decide (o.2.1 = c)) }

/-- A line leaves the L1 of core `c`. -/
def State.dropL1 (s : State) (c line : Nat) : State :=
  let k := s.core c
  s.setCore c { k with l1 := k.l1.filter fun x => decide (x.1 ≠ line) }

/-- The line leaves the L1 that owns it (R150, R276). -/
def State.recall (s : State) (line : Nat) : State :=
  match KMap.get? s.l1own line with
  | none => s
  | some (c, _) => { s.dropL1 c line with l1own := KMap.del s.l1own line }

end Sys2Proof.Machine
end

