-- ==== Sys2Proof/Machine/Mmio.lean ====
section
/-! DEFINITION. The memory-mapped registers: where each stands in its block, what a read returns, and the pages that the
hypervisor maps into an address space: doorbells and notification ring (R337, R381), frame hand-over (R307), the pose mailbox
(R303), and whole register blocks (R35, R455). -/

namespace Sys2Proof.Machine

/-! ## Doorbells (R337) -/

/-- A doorbell write: nothing for a queue that firmware has not created. -/
def State.ringDoorbell (s : State) (v k : Nat) (widx : W32) : State :=
  let q := 8 * v + k
  match KMap.get? s.dist.queues q with
  | none => s
  | some x =>
    let word := KMap.getD s.dist.kick (q / 32) 0 ||| BitVec.ofNat 32 (2 ^ (q % 32))
    { s with dist := { s.dist with
        queues := KMap.put s.dist.queues q { x with widx := widx }, kick := KMap.put s.dist.kick (q / 32) word } }

/-! ## The pose mailbox (R303) -/

/-- A 32-bit word of a slot's staging record written; a reserved offset holds nothing. -/
def State.stagePose (s : State) (slot i : Nat) (w : W32) : State :=
  let keep := i < 7 || i = 8 || i = 9 || i = 14
  if slot < 8 && keep then
    let r := KMap.getD s.sel.pmbStage slot (List.replicate 16 0)
    { s with sel := { s.sel with pmbStage := KMap.put s.sel.pmbStage slot (setAt r i w) } }
  else s

/-- The staging record becomes the committed one in one step. -/
def State.commitPose (s : State) (slot : Nat) : State :=
  if slot < 8 then
    { s with sel := { s.sel with
        pmbCommit := KMap.put s.sel.pmbCommit slot (KMap.getD s.sel.pmbStage slot (List.replicate 16 0)) } }
  else s

/-- A 32-bit write to the mailbox: offset 0x38 commits. -/
def State.writePose (s : State) (off : Nat) (w : W32) : State :=
  let s := s.stagePose (off / 64) (off % 64 / 4) w
  if off % 64 = 0x38 then s.commitPose (off / 64) else s

/-! ## 32-bit accesses to a page -/

/-- The state with a head changed. -/
def State.setHead (s : State) (h : Nat) (x : Head) : State := { s with sel := { s.sel with heads := setAt s.sel.heads h x } }
def State.head (s : State) (h : Nat) : Head := getAt s.sel.heads h Head.reset

/-- A word of the notification registers of virtual function `v` written (R381). -/
def State.writeNotify (s : State) (v off : Nat) (w : W32) : State :=
  let x := s.vf v
  match off with
  | 0x100 => s.setVf v { x with nbase := (hi32 x.nbase) ++ (w &&& 0xFFFFFFE0) }
  | 0x104 => s.setVf v { x with nbase := (w &&& 0x007FFFFF) ++ (lo32 x.nbase) }
  | 0x108 =>
    let ovf := x.nctl &&& 0x8000 &&& ~~~w
    s.setVf v { x with nctl := (w &&& 0xFFFF001F) ||| ovf }
  | _ => s

/-! ## Registers by block and offset (R10, R35) -/

/-- The register at a 32-bit offset of a block, and whether it is its upper half. -/
def blockReg (b : RegBlock) (off : Nat) : Option (MmioReg × Bool) :=
  match b with
  | .core c => if off = 0x100 then some (.eseCtl c, false) else if off = 0x200 then some (.coreDbg c, false) else none
  | .quarter c q => if off = 0x10 then some (.qtrSched c q, false) else none
  | .slices d =>
    if off = 0 then some (.l2sPway d, false)
    else if off = 0x40 then some (.l2sWmstat d, false)
    else if off = 0x48 then some (.l2sSeqto d, false)
    else if 0x100 ≤ off && off < 0x300 then some (.l2sVfway d ((off - 0x100) / 4), false)
    else none
  | .fabric d => if off = 0 then some (.fabCtl d, false) else none
  | .memc d => if off = 0x80 then some (.memcScrub d, false) else none
  | .dist =>
    if 0x200 ≤ off && off < 0x280 then some (.distKick ((off - 0x200) / 4), false)
    else if off = 0x300 then some (.distPto, false)
    else none
  | .fwc =>
    match off with
    | 0x00 => some (.fwcPkgid, false)
    | 0x40 => some (.fwcErrcfg, false)
    | 0x44 => some (.fwcErrcfg, true)
    | 0x48 => some (.fwcErridx, false)
    | 0x4C => some (.fwcErridx, true)
    | 0x80 => some (.fwcSched, false)
    | 0x90 => some (.fwcKill, false)
    | 0x94 => some (.fwcKill, true)
    | _ => if 0x1000 ≤ off && off < 0x1200 then some (.fwcHpol ((off - 0x1000) / 4), false) else none
  | .sift => if off = 0 then some (.siftCtl, false) else none
  | .scan h => if off = 0x20 then some (.scanStat h, false) else none

/-- The register at a 32-bit offset of a page. -/
def pageReg (p : MmioPage) (off : Nat) : Option (MmioReg × Bool) :=
  match p with
  | .doorbells v =>
    if off < 32 then some (.distDbell v (off / 4), false)
    else
      match off with
      | 0x100 => some (.distNbase v, false)
      | 0x104 => some (.distNbase v, true)
      | 0x108 => some (.distNctl v, false)
      | 0x10C => some (.distNstat v, false)
      | _ => none
  | .sel =>
    if off = 0x10 then some (.selBwres, false)
    else if off = 0x20 then some (.selRctl, false)
    else if 0x100 ≤ off && off < 0x110 then some (.selFrdy ((off - 0x100) / 4), false)
    else if 0x110 ≤ off && off < 0x120 then some (.selFrtn ((off - 0x110) / 4), false)
    else none
  | .pmb => if off < 512 then some (.pmb (off / 64) (off % 64), false) else none
  | .block b => blockReg b off

/-- The registers that no tenant writes: a tenant's store is a permission fault (R52, R67, R86, R87, R271, R279, R306, R308,
R338, R358, R361, R377, R382, R420, R422, R437, R439, R444, R447, R455). -/
def firmwareOnly (r : MmioReg) : Bool :=
  match r with
  | .distDbell _ _ => false
  | .distNbase _ => false
  | .distNctl _ => false
  | .distNstat _ => false
  | .fwcPkgid => false
  | .selFrdy _ => false
  | .selFrtn _ => false
  | .pmb _ _ => false
  | .qtrSched _ _ => true
  | .eseCtl _ => true
  | .coreDbg _ => true
  | .l2sPway _ => true
  | .l2sVfway _ _ => true
  | .l2sWmstat _ => true
  | .l2sSeqto _ => true
  | .fabCtl _ => true
  | .memcScrub _ => true
  | .distKick _ => true
  | .distPto => true
  | .fwcErrcfg => true
  | .fwcErridx => true
  | .fwcSched => true
  | .fwcKill => true
  | .fwcHpol _ => true
  | .siftCtl => true
  | .selBwres => true
  | .selRctl => true
  | .scanStat _ => true

/-- The registers that no tenant reaches, reads included (R338, R377, R437). -/
def beyondTenants (r : MmioReg) : Bool :=
  match r with
  | .distKick _ => true
  | .fwcErrcfg => true
  | .fwcErridx => true
  | .fwcKill => true
  | _ => false

/-- SEL_RCTL: RLIMIT, and RCOUNT the restarts of the last second of Selham clocks (R444). -/
def State.rctlValue (s : State) : W32 :=
  let n := (s.sel.restarts.filter fun t => decide (s.clk.selham < t + 2000000000)).length
  (s.sel.rctl &&& 0xFF00) ||| BitVec.ofNat 32 (min n 255 * 65536)

/-- STATUS of CORE_DBG, for the group that SLOT names (R382). -/
def Core.dbgStatus (k : Core) : Nat :=
  match k.group? (bits k.dbg.toNat 8 0) with
  | none => 0
  | some g =>
    match g.dbg with
    | .running => 0
    | .stopped => 1
    | .stepping => 2
    | .stopPending => 3

/-- The value that a read of a register returns; a write-only field reads 0. -/
def State.regValue (s : State) (r : MmioReg) : W64 :=
  let w := fun (x : W32) => x.setWidth 64
  match r with
  | .qtrSched c q => w ((s.core c).quarter q).sched
  | .eseCtl c => w (s.core c).eseCtl
  | .coreDbg c => w ((s.core c).dbg ||| BitVec.ofNat 32 ((s.core c).dbgStatus * 2 ^ 30))
  | .l2sPway d => w (s.die d).pway
  | .l2sVfway d v => w (KMap.getD (s.die d).vfway v 0xFFFF)
  | .l2sWmstat d => w (s.die d).wmstat
  | .l2sSeqto d => w (s.die d).seqto
  | .fabCtl d => w (s.die d).fabCtl
  | .memcScrub d => w (s.die d).memcScrub
  | .distDbell _ _ => 0
  | .distKick n => w (KMap.getD s.dist.kick n 0)
  | .distPto => w s.dist.pto
  | .distNbase v => (s.vf v).nbase
  | .distNctl v => w (s.vf v).nctl
  | .distNstat v => w (s.vf v).nstat
  | .fwcPkgid => w s.fwc.pkgid
  | .fwcErrcfg => s.fwc.errcfg
  | .fwcErridx => s.fwc.erridx
  | .fwcSched => w s.fwc.sched
  | .fwcKill => s.fwc.kill
  | .fwcHpol v => w (s.vf v).hpol
  | .siftCtl => w s.fwc.sift
  | .selBwres => w s.sel.bwres
  | .selRctl => w s.rctlValue
  | .selFrdy h => w (s.head h).frdy
  | .selFrtn h => w (s.head h).frtn
  | .scanStat h => w (s.head h).stat
  | .pmb slot off => w (getAt (KMap.getD s.sel.pmbStage slot []) (off / 4) 0)

/-! ## A tenant's accesses to a page -/

/-- A tenant's 32-bit store to a register page; PERMISSION for a register that only firmware writes (R455). -/
def State.mmioWrite (s : State) (p : MmioPage) (off : Nat) (w : W32) : Except Cause State :=
  match pageReg p off with
  | none => .ok s
  | some (r, _) =>
    if firmwareOnly r then .error .permission
    else
      .ok (match r with
        | .distDbell v k => s.ringDoorbell v k w
        | .distNbase v => s.writeNotify v off w
        | .distNctl v => s.writeNotify v off w
        | .selFrdy h => s.setHead h { s.head h with frdy := w }
        | .pmb _ _ => s.writePose off w
        | _ => s)

/-- A 32-bit load from a register page; a write-only or unnamed offset reads 0 (DESIGN CHOICE, log 19). -/
def State.mmioRead (s : State) (p : MmioPage) (off : Nat) : W32 :=
  match pageReg p off with
  | none => 0
  | some (r, upper) => if upper then hi32 (s.regValue r) else lo32 (s.regValue r)

/-- The bytes of an aligned access of `n` bytes to a register page. -/
def State.mmioBytes (s : State) (p : MmioPage) (off n : Nat) : List Byte :=
  (List.range n).map fun i =>
    BitVec.ofNat 8 ((s.mmioRead p ((off + i) / 4 * 4)).toNat / 256 ^ ((off + i) % 4))

/-- Whether an access of `n` bytes to a register page is refused: it names a register that a tenant may not write, or not
reach. -/
def mmioDenied (p : MmioPage) (off n : Nat) (acc : Acc) : Bool :=
  (List.range ((n + 3) / 4)).any fun i =>
    match pageReg p ((off + 4 * i) / 4 * 4) with
    | none => false
    | some (r, _) => if acc = .rd then beyondTenants r else firmwareOnly r

/-- An aligned store to a register page, word by word upward; a store narrower than a word changes no register
(DESIGN CHOICE, log 19). -/
def State.mmioStore (s : State) (p : MmioPage) (off : Nat) (bs : List Byte) : Except Cause State :=
  if mmioDenied p off bs.length .wr then .error .permission
  else if bs.length < 4 then .ok s
  else
    (List.range (bs.length / 4)).foldl
      (fun a i => match a with
        | .error c => .error c
        | .ok s => s.mmioWrite p (off + 4 * i) (BitVec.ofNat 32 (leNat ((bs.drop (4 * i)).take 4))))
      (.ok s)

end Sys2Proof.Machine
end

