-- ==== Sys2Proof/Machine/Records.lean ====
section
/-! DEFINITION. Per-lane checks, buffer and layout records and codec regions: the checks of R96 to R100 and
R107, the address of an element (R99), and translation of the lanes of one access (R218, R387). -/

namespace Sys2Proof.Machine

/-! ## Checks over lanes (R386, R387) -/

/-- The trap of several failing lanes: stage-2 causes first, then the lowest lane; FMASK holds every lane that
fails with the same cause in the same stage (R387). -/
def pickTrap (errs : List (Nat × Trap)) : Option Trap :=
  let st2 := errs.filter fun e => e.2.stage2
  let pool := if st2.isEmpty then errs else st2
  match pool with
  | [] => none
  | (_, t) :: _ =>
    let same := fun (i : Nat) (e : Nat × Trap) =>
      decide (e.1 = i) && decide (e.2.cause = t.cause) && (e.2.stage2 == t.stage2)
    some { t with fmask := maskOf fun i => pool.any (same i) }

/-- One check of every lane: each lane's result, or the trap of R387. -/
def overLanes {α : Type} (ls : List Nat) (f : Nat → Except Trap α) : Except Trap (List (Nat × α)) :=
  let rs := ls.map fun l => (l, f l)
  match pickTrap (rs.filterMap fun r => match r.2 with
    | .error t => some (r.1, t)
    | .ok _ => none) with
  | some t => .error t
  | none => .ok (rs.filterMap fun r => match r.2 with
    | .error _ => none
    | .ok a => some (r.1, a))

/-! ## Translation at issue -/

/-- The trap of a refused translation: the VA, bit 23 for a stage-2 cause (R371). -/
def xlateTrap (va : Nat) (c : Cause) (st2 : Bool) (ia : Nat) : Trap :=
  { trapVa c va 0 with stage2 := st2, ia := ia }

/-- A place that a lane's access reaches. -/
inductive Reach where
  | mem (pa : Nat) (pres : Bool)
  | mmio (page : MmioPage) (off : Nat)
  deriving DecidableEq, Repr

/-- A VA reached by an access of the issuing group, or its trap (R94). -/
def State.reach (s : State) (x : Iss) (va : Nat) (acc : Acc) : Except Trap Reach :=
  match s.xlate (s.tlbOf x.c) x.v va acc with
  | .mem pa pres => .ok (.mem pa pres)
  | .mmio p off => .ok (.mmio p off)
  | .bad c st2 ia => .error (xlateTrap va c st2 ia)

/-- As `reach`, for an access that only memory can serve. -/
def State.reachMem (s : State) (x : Iss) (va : Nat) (acc : Acc) : Except Trap (Nat × Bool) :=
  match s.reach x va acc with
  | .ok (.mem pa pres) => .ok (pa, pres)
  | .ok (.mmio _ _) => .error (xlateTrap va .permission false 0)
  | .error t => .error t

/-! ## Record slots (R96) -/

def recGen (h : W32) : Nat := bits h.toNat 31 16
def recIndex (h : W32) : Nat := bits h.toNat 15 0

/-- A trap that names a 32-bit handle (R371). -/
def handleTrap (c : Cause) (h : W32) : Trap := trapPlain c h 0 0

/-- The RESERVED_FIELD trap of the issuing word (R371). -/
def reservedTrap (w : W64) : Trap := trapPlain .reservedField (lo32 w) (hi32 w) 0

/-- The record table of the issuing launch. -/
def State.recTable (s : State) (x : Iss) : Nat := (s.launch x.g.launch).hdr.recBase

/-- The generation that a slot's words hold, by the slot's KIND; none in a free slot (R97, R102). -/
def slotGen (ws : List W64) : Option Nat :=
  match bits (getAt ws 7 0).toNat 1 0 with
  | 1 => some (bits (getAt ws 1 0).toNat 55 40)
  | 2 => some (bits (getAt ws 1 0).toNat 31 16)
  | _ => none

/-- A later generation has superseded the slot of a handle, as the core sees it (R413). -/
def State.superseded (s : State) (x : Iss) (h : W32) : Bool :=
  match s.reachMem x (s.recTable x + 64 * recIndex h) .rd with
  | .error _ => false
  | .ok (pa, _) => (slotGen ((List.range 8).map fun i => s.word (pa + 8 * i))).any fun g => decide (g ≠ recGen h)

/-- The record cache's copy of a handle's record: it stays while an operation holds it or no later generation has superseded the
slot (R98, R413). -/
def State.liveCopy (s : State) (x : Iss) (h : W32) : Option LatchedRec :=
  (x.k.cachedRec h (s.recTable x)).filter fun r => decide (r.count ≠ 0) || !s.superseded x h

/-- The copy of a record that an issue uses, where the record cache serves it. -/
def State.copyOf (s : State) (x : Iss) (cached : Bool) (h : W32) : Option LatchedRec :=
  if cached then s.liveCopy x h else none

/-- The words of the region record that the cache holds with a record of these words (R418). -/
def State.latchedRegion (s : State) (x : Iss) (h : W32) (ws : List W64) : Option (List W64) :=
  (s.liveCopy x h).bind fun r => if r.words = ws then r.region else none

/-- The eight words of the slot that a handle names: the copy that the record cache holds, where it is used, or
memory (R98). -/
def State.slotWords (s : State) (x : Iss) (cached : Bool) (h : W32) : Except Trap (List W64) :=
  match s.copyOf x cached h with
  | some r => .ok r.words
  | none =>
    match s.reachMem x (s.recTable x + 64 * recIndex h) .rd with
    | .error t => .error t
    | .ok (pa, _) =>
      if s.poisoned pa then .error (trapPlain .dataUncorrectable h 0x80000000 0)
      else .ok ((List.range 8).map fun i => s.word (pa + 8 * i))

/-- Word `i` of a record as a number. -/
def recWord (ws : List W64) (i : Nat) : Nat := (getAt ws i 0).toNat

/-- The first bytes of a record. -/
def recBytes (ws : List W64) (n : Nat) : List Byte := (ws.flatMap fun w => leBytes 8 w.toNat).take n

/-- Steps 1 and 2 of R96 for a kind, with the generation at `gen`. -/
def State.slotChecked (s : State) (x : Iss) (cached : Bool) (h : W32) (kind : Nat) (gen : List W64 → Nat) :
    Except Trap (List W64) :=
  if (s.launch x.g.launch).hdr.recCnt ≤ recIndex h then .error (handleTrap .handleBounds h)
  else
    match s.slotWords x cached h with
    | .error t => .error t
    | .ok ws =>
      if bits (recWord ws 7) 1 0 ≠ kind || recGen h = 0 || recGen h ≠ gen ws then .error (handleTrap .handleStale h)
      else .ok ws

/-! ## Buffer records (R97, R100, R107) -/

/-- What an access latches of a codec region (R107). -/
structure Region where
  index : Nat
  lbase : Nat
  sbase : Nat
  llen : Nat
  budget : Nat
  /-- PA of the region record, and its words as latched. -/
  pa : Nat
  words : List W64
  deriving DecidableEq, Repr

/-- A latched buffer record. -/
structure Brec where
  handle : W32
  base : Nat
  len : Nat
  scale : Nat
  esize : Nat
  inter : Nat
  enc : Nat
  tileH : Nat
  tileW : Nat
  pitch : Nat
  region : Option Region
  words : List W64
  deriving DecidableEq, Repr

/-- What an access needs of a buffer record. -/
inductive RecNeed where
  | read
  | write
  deriving DecidableEq, Repr

/-- Reserved bits or values of a buffer record (R97, R101). -/
def brecReserved (ws : List W64) : Bool :=
  let w := recWord ws
  decide (bits (w 0) 63 57 ≠ 0) || decide (bits (w 1) 63 60 ≠ 0) || decide (bits (w 2) 63 51 ≠ 0)
    || decide (5 ≤ bits (w 2) 50 48) || !(encSizes (bits (w 2) 5 0)).contains (bits (w 2) 15 12)
    || decide (bits (w 4) 47 7 ≠ 0) || decide (w 5 ≠ 0) || decide (w 6 ≠ 0) || decide (bits (w 7) 63 2 ≠ 0)

/-- CODEC_REGION with the region index and the row of R107 (R371). -/
def codecTrap (region row : Nat) : Trap :=
  trapPlain .codecRegion (BitVec.ofNat 32 region) (BitVec.ofNat 32 row) 0

/-- The region checks of R107, on the words that the record cache holds with the record (R418), or on memory. A record in a
poisoned line traps as one whose CRC does not match, and one with a reserved bit, an LBASE or LLEN that is no multiple of 64 or an
SBASE that is no multiple of 128 is used as it stands (DESIGN CHOICE, log 40). -/
def State.regionOf (s : State) (x : Iss) (latched : Option (List W64)) (ws : List W64) : Except Trap Region :=
  let w := recWord ws
  let i := bits (w 2) 47 32
  let f := s.vf x.v
  if f.regCnt ≤ i then .error (codecTrap i 1)
  else
    match s.reachMem x (f.regBase + 64 * i) .rd with
    | .error t => .error t
    | .ok (pa, _) =>
      let r := latched.getD ((List.range 8).map fun j => s.word (pa + 8 * j))
      let lbase := bits (recWord r 0) 56 0
      let llen := bits (recWord r 2) 39 0
      let budget := bits (recWord r 2) 50 48
      let base := bits (w 0) 56 0
      if (latched.isNone && s.poisoned pa) || crc16 (recBytes r 24) ≠ bits (recWord r 7) 63 48 then
        .error (trapPlain .dataUncorrectable (BitVec.ofNat 32 i) 0xC0000000 0)
      else if !bit (recWord r 2) 63 || 5 ≤ budget || budget ≠ bits (w 2) 50 48 then .error (codecTrap i 3)
      else if base < lbase || lbase + llen < base + bits (w 1) 39 0 || (base - lbase) % 8 ≠ 0 then
        .error (codecTrap i 4)
      else
        .ok { index := i, lbase := lbase, sbase := bits (recWord r 1) 56 0, llen := llen, budget := budget, pa := pa, words := r }

/-- A buffer record latched by one lane: every check of R96 (R97-R100). -/
def State.latchBrec (s : State) (x : Iss) (cached : Bool) (h : W32) (need : RecNeed) (word : W64) : Except Trap Brec :=
  match s.slotChecked x cached h 1 (fun ws => bits (recWord ws 1) 55 40) with
  | .error t => .error t
  | .ok ws =>
    let w := recWord ws
    let flag := match need with
      | .read => bit (w 1) 56
      | .write => bit (w 1) 57
    let codec := bit (w 1) 59
    let enc := bits (w 2) 5 0
    if crc16 (recBytes ws 38) ≠ bits (w 4) 63 48 then .error (trapPlain .dataUncorrectable h 0x80000000 0)
    else if bits (w 4) 6 0 ≠ x.v then .error (handleTrap .permission h)
    else if !flag then .error (handleTrap .permission h)
    else if brecReserved ws then .error (reservedTrap word)
    else
      let mk := fun (r : Option Region) =>
        ({ handle := h, base := bits (w 0) 56 0, len := bits (w 1) 39 0, scale := bits (w 2) 31 16
           esize := bits (w 2) 15 12, inter := bits (w 2) 11 6, enc := enc, tileH := bits (w 3) 63 48
           tileW := bits (w 3) 47 32, pitch := bits (w 3) 31 0, region := r, words := ws } : Brec)
      if codec != decide (enc = 9) then .error (codecTrap (bits (w 2) 47 32) 0)
      else if !codec then .ok (mk none)
      else if bits (w 2) 11 6 ≠ 0 || bits (w 3) 31 0 ≠ 0 then .error (codecTrap (bits (w 2) 47 32) 0)
      else
        match s.regionOf x (s.latchedRegion x h ws) ws with
        | .error t => .error t
        | .ok r => .ok (mk (some r))

/-- The byte offset of an element (R99). A tiled record with a ROWPITCH of 0 keeps the pseudocode's row within the tile, which
its prose leaves out (DESIGN CHOICE, log 40). -/
def Brec.offset (r : Brec) (ex ey : Nat) : Nat :=
  let step := (r.inter + 1) * 2 ^ r.esize
  if r.tileW = 0 || r.tileH = 0 then ey * r.pitch + ex * step
  else
    ey / r.tileH * r.pitch * r.tileH + ex / r.tileW * r.tileW * r.tileH * step
      + (ey % r.tileH * r.tileW + ex % r.tileW) * step

/-- The VA of an element inside the record, or HANDLE_BOUNDS (R99). -/
def Brec.elemVa (r : Brec) (ex ey : Nat) : Except Trap Nat :=
  if r.len < r.offset ex ey + 2 ^ r.esize then .error (handleTrap .handleBounds r.handle)
  else .ok (r.base + r.offset ex ey)

/-- The element's VA is a multiple of its size (R99). -/
def Brec.elemAligned (r : Brec) (va : Nat) : Except Trap Unit :=
  if va % 2 ^ r.esize ≠ 0 then .error (trapVa .misaligned va 0) else .ok ()

/-- The storage line VA, slot and position of a logical address in a region (R108). -/
def Region.place (r : Region) (va : Nat) : Nat × Nat × Nat :=
  let j := (va - r.lbase) / 8
  let b := j / 8
  let p := (budgetOf r.budget).p
  (r.sbase + 128 * (b / p), b % p, j % 8)

/-! ## Layout records (R102) -/

/-- A latched layout record. -/
structure Lrec where
  base : Nat
  fill : Nat
  esize : Nat
  rank : Nat
  ext : List Nat
  stride : List Nat
  deriving DecidableEq, Repr

def lrecOf (ws : List W64) : Lrec :=
  let w := recWord ws
  { base := bits (w 0) 56 0, fill := bits (w 1) 7 6, esize := bits (w 1) 5 4, rank := bits (w 1) 2 0
    ext := [bits (w 2) 31 0, bits (w 2) 63 32, bits (w 3) 31 0, bits (w 3) 63 32]
    stride := [2 ^ bits (w 1) 5 4, bits (w 4) 39 0, bits (w 5) 39 0, bits (w 6) 39 0] }

/-- Reserved bits or values of a layout record (R102). -/
def lrecReserved (ws : List W64) : Bool :=
  let w := recWord ws
  let r := lrecOf ws
  decide (bits (w 0) 63 57 ≠ 0) || decide (bits (w 1) 63 39 ≠ 0) || decide (bits (w 1) 15 8 ≠ 0) || bit (w 1) 3
    || decide (2 ≤ r.fill) || decide (r.rank = 0) || decide (5 ≤ r.rank) || decide (bits (w 4) 63 40 ≠ 0)
    || decide (bits (w 5) 63 40 ≠ 0) || decide (bits (w 6) 63 40 ≠ 0) || decide (bits (w 7) 47 2 ≠ 0)
    || (List.range 4).any (fun j => decide (r.rank ≤ j) && (decide (getAt r.ext j 0 ≠ 0) || (decide (0 < j) && decide (getAt r.stride j 0 ≠ 0))))
    || decide (r.base % 16 ≠ 0) || (List.range 3).any fun j => decide (getAt r.stride (j + 1) 0 % 16 ≠ 0)

/-- A layout record latched: steps 1 to 4 and 6 of R96 (R228). -/
def State.latchLrec (s : State) (x : Iss) (cached : Bool) (h : W32) (word : W64) : Except Trap (List W64) :=
  match s.slotChecked x cached h 2 (fun ws => bits (recWord ws 1) 31 16) with
  | .error t => .error t
  | .ok ws =>
    let w := recWord ws
    if crc16 (recBytes ws 56) ≠ bits (w 7) 63 48 then .error (trapPlain .dataUncorrectable h 0x80000000 0)
    else if bits (w 1) 38 32 ≠ x.v then .error (handleTrap .permission h)
    else if lrecReserved ws then .error (reservedTrap word)
    else .ok ws

end Sys2Proof.Machine
end

