-- ==== Sys2Proof/Machine/MemAccess.lean ====
section
/-! DEFINITION. Loads, stores, gathers, record accesses, atomics, monitors and fences (R138-R142, R155,
R218-R226). -/

namespace Sys2Proof.Machine

/-! ## Shapes (R167, R168) -/

/-- Bytes and registers of a SIZE code. -/
def szBytes (z : Nat) : Nat :=
  match z with
  | 0 => 1
  | 1 => 1
  | 2 => 2
  | 3 => 2
  | 5 => 8
  | 6 => 16
  | _ => 4
def szRegs (z : Nat) : Nat :=
  match z with
  | 5 => 2
  | 6 => 4
  | _ => 1
/-- A register that the SIZE code allows: even for 5, a multiple of 4 for 6. -/
def szAligned (z f : Nat) : Bool := decide (f % szRegs z = 0)

/-- The annotation is one of `ords` with a SCOPE that is not reserved; SCOPE is 0 without one (R142, R167). -/
def annOk (scope ord : Nat) (ords : List Nat) : Bool :=
  decide (scope ≠ 7) && (if ord = 0 then decide (scope = 0) else ords.contains ord)

/-- The loaded bytes extended into the lane (R168). -/
def szExtend (z v : Nat) : Nat :=
  match z with
  | 1 => narrow (signExt v 8) 32
  | 3 => narrow (signExt v 16) 32
  | _ => v

/-- The value that lane `l` has in a list of lanes, 0 where it is not listed. -/
def laneVal (vs : List (Nat × Nat)) (l : Nat) : Nat := ((vs.find? fun v => decide (v.1 = l)).map Prod.snd).getD 0

/-- The registers that hold a value of each lane, low 32 bits first. -/
def laneRegs (n : Nat) (vs : List (Nat × Nat)) : List Reg :=
  (List.range n).map fun i => mkReg fun l => BitVec.ofNat 32 (laneVal vs l / 2 ^ (32 * i))

/-- The number in `n` consecutive registers of a lane. -/
def Iss.wide (x : Iss) (f n l : Nat) : Nat :=
  (List.range n).foldl (fun a i => a + (x.lane (f + i) l).toNat * 2 ^ (32 * i)) 0

/-! ## Results that arrive later (R55) -/

/-- Destinations from register field `d` upward made busy with the values of the lanes; `load` marks the result of a load. -/
def State.addResult (s : State) (x : Iss) (d : Nat) (vals : List Reg) (poison : Mask) (vas : List W64) (reqs : Nat)
    (load : Bool) (latched : List (W32 × Nat)) : State :=
  let k := s.core x.c
  let ds := (List.range vals.length).filterMap fun i => (locOf k x.e (d + i)).map fun l =>
    ({ loc := l, mask := x.act, val := getAt vals i 0, poison := poison, vas := vas } : OutDest)
  s.setCore x.c (k.addOut x ds reqs load latched)

/-- The VA of each lane, for the record of poisoning loads (R415). -/
def laneVas (vs : List (Nat × Nat)) : List W64 := (List.range 8).map fun l => BitVec.ofNat 64 (laneVal vs l)

/-- The distinct lines of a list of places. -/
def placeLines (ps : List (Nat × Reach)) : List (Nat × Bool) :=
  (ps.filterMap fun p => match p.2 with
    | .mem pa pres => some (lineOf pa, pres)
    | .mmio _ _ => none).eraseDups

/-- A load looks for a line in its core's L1, as it is or decoded for a region of its virtual function (R114): a request is sent where the L1 does not list it, and where a free choice has
displaced it in the meantime (R84, R280; DESIGN CHOICE, log 20). -/
def State.loadLine (s : State) (c line : Nat) (tag : Option (Nat × Nat)) : State × Bool :=
  if (s.core c).l1.contains (line, tag) then
    let (n, s) := s.choice 2
    if n = 0 then (s, false) else (s.fillL1 c line tag, true)
  else (s.fillL1 c line tag, true)

/-- The requests of a load, one for each line that the L1 does not give it (R55, R280). -/
def State.loadReqs (s : State) (x : Iss) (tag : Option (Nat × Nat)) (lines : List (Nat × Bool)) (id : Nat) : State × Nat :=
  lines.foldl (fun a l =>
    let (s, miss) := a.1.loadLine x.c l.1 tag
    if miss then (s.sendReq x.c x.v .load l.1 l.2 (some id), a.2 + 1) else (s, a.2)) (s, 0)

/-- The translations that an access leaves in the TLBs (R94). -/
def State.noteAll (s : State) (x : Iss) (vas : List Nat) (acc : Acc) : State :=
  ((vas.map fun a => a / 65536).eraseDups).foldl (fun s p => s.noteXlate x.c x.v (p * 65536) acc) s

/-! ## Steps 5 and 6 of R218 -/

/-- Each lane's place by `f`, once the address of every lane is a multiple of `n`. -/
def alignedLanes (addrs : List (Nat × Nat)) (n : Nat) (f : Nat → Except Trap Reach) : Except Trap (List (Nat × Reach)) :=
  let at_ := laneVal addrs
  match overLanes (addrs.map Prod.fst) (fun l =>
      if at_ l % n = 0 then (.ok () : Except Trap Unit) else .error (trapVa .misaligned (at_ l) 0)) with
  | .error t => .error t
  | .ok _ => overLanes (addrs.map Prod.fst) fun l => f (at_ l)

/-- The address of every lane is a multiple of `n` and reaches memory or a register page. -/
def State.reachAll (s : State) (x : Iss) (addrs : List (Nat × Nat)) (n : Nat) (acc : Acc) :
    Except Trap (List (Nat × Reach)) :=
  alignedLanes addrs n fun va =>
    match s.reach x va acc with
    | .ok (.mmio p off) => if mmioDenied p off n acc then .error (xlateTrap va .permission false 0) else .ok (.mmio p off)
    | r => r

/-- The `n` bytes at a place. -/
def State.placeBytes (s : State) (p : Reach) (n : Nat) : List Byte :=
  match p with
  | .mem pa _ => s.bytes pa n
  | .mmio pg off => s.mmioBytes pg off n

/-- The lanes whose place lies in a poisoned line. -/
def State.poisonMask (s : State) (ps : List (Nat × Reach)) : Mask :=
  maskOf fun l => ps.any fun p => decide (p.1 = l) && match p.2 with
    | .mem pa _ => s.poisoned pa
    | .mmio _ _ => false

/-- A load of every lane: bytes at issue, extended, into vD when they arrive. -/
def loadBody (z d : Nat) (addrs : List (Nat × Nat)) (x : Iss) (s : State) : Res :=
  let n := szBytes z
  match s.reachAll x addrs n .rd with
  | .error t => .trap t
  | .ok ps =>
    let vals := ps.map fun p => (p.1, szExtend z (leNat (s.placeBytes p.2 n)))
    let s := s.noteAll x (addrs.map Prod.snd) .rd
    let id := (s.core x.c).nextId
    let (s, reqs) := s.loadReqs x none (placeLines ps) id
    .done (s.addResult x d (laneRegs (szRegs z) vals) (s.poisonMask ps) (laneVas addrs) reqs true [])

/-- The bytes of each lane stored, in ascending lane order (R138). -/
def State.storePlaces (s : State) (ps : List (Nat × Reach)) (data : Nat → List Byte) : State :=
  let s := s.storeAll (ps.filterMap fun p => match p.2 with
    | .mem pa _ => some (pa, data p.1)
    | .mmio _ _ => none)
  ps.foldl (fun s p => match p.2 with
    | .mem _ _ => s
    | .mmio pg off =>
      match s.mmioStore pg off (data p.1) with
      | .ok s => s
      | .error _ => s) s

/-- A store of every lane: the low bytes of the data registers. -/
def storeBody (z src : Nat) (addrs : List (Nat × Nat)) (x : Iss) (s : State) : Res :=
  let n := szBytes z
  match s.reachAll x addrs n .wr with
  | .error t => .trap t
  | .ok ps =>
    let s := s.storePlaces ps fun l => leBytes n (x.wide src (szRegs z) l)
    let s := s.noteAll x (addrs.map Prod.snd) .wr
    .done (s.sendReqs x.c x.v .store none (placeLines ps))

/-! ## `LD`, `ST`, `LDC`, `PRF` (R220, R221) -/

/-- The global address of a lane (R164). -/
def Iss.memAddr (x : Iss) (o : MF) (l : Nat) : Nat :=
  narrow ((x.pair o.a.toNat l).toNat + signExt o.imm16.toNat 16) 64
def Iss.memAddrs (x : Iss) (o : MF) : List (Nat × Nat) := (lanesOf x.act).map fun l => (l, x.memAddr o l)

/-- The facts of a load word. -/
def loadSpec (i : Instr) (o : MF) (ords : List Nat) : Spec :=
  let z := o.size.toNat
  { instr := i, g := o.g, dsts := [(o.d.toNat, szRegs z)], srcs := [(o.a.toNat, 2)], scope := o.scope.toNat
    fields := decide (z ≠ 7) && szAligned z o.d.toNat && decide (o.a.toNat % 2 = 0) && decide (o.b = 0#8)
      && annOk o.scope.toNat o.ord.toNat ords }

def execLd (o : MF) (s : State) : Result :=
  issue (loadSpec (.ld o) o [2]) (fun x s => loadBody o.size.toNat o.d.toNat (x.memAddrs o) x s) s

def execSt (o : MF) (s : State) : Result :=
  let z := o.size.toNat
  issue
    { instr := .st o, g := o.g, srcs := [(o.a.toNat, 2), (o.b.toNat, szRegs z)], scope := o.scope.toNat
      fields := decide (z ≠ 7) && szAligned z o.b.toNat && decide (o.a.toNat % 2 = 0) && decide (o.d = 0#8)
        && annOk o.scope.toNat o.ord.toNat [1] }
    (fun x s => storeBody z o.b.toNat (x.memAddrs o) x s) s

/-- `LDC`: a later value than the launch's is allowed, and this one is memory's (R221). -/
def execLdc (o : MF) (s : State) : Result :=
  issue (loadSpec (.ldc o) o []) (fun x s => loadBody o.size.toNat o.d.toNat (x.memAddrs o) x s) s

/-- `PRF`: no check beyond the fields, and no effect; it waits for a busy address register as any reader does (R55, R221). -/
def execPrf (o : MF) (s : State) : Result :=
  issue
    { instr := .prf o, g := o.g, shadow := false, args := [(o.a.toNat, 2)]
      fields := decide (o.d = 0#8) && decide (o.a.toNat % 2 = 0) && decide (o.b = 0#8) && decide (o.size = 0#3)
        && decide (o.ord = 0#2) && decide (o.scope = 0#3) }
    (fun _ s => .done s) s

/-! ## `LDS`, `STS` (R82, R155, R220) -/

/-- The scratchpad offset of a lane, a natural 32-bit value. -/
def Iss.scrAddr (x : Iss) (o : MF) (l : Nat) : Nat := narrow ((x.lane o.a.toNat l).toNat + signExt o.imm16.toNat 16) 32
def Iss.scrAddrs (x : Iss) (o : MF) : List (Nat × Nat) := (lanesOf x.act).map fun l => (l, x.scrAddr o l)

/-- A trap of a scratchpad access: the offset, `%tinfo1` 0 (R371). -/
def scrTrap (c : Cause) (off : Nat) : Trap := trapPlain c (BitVec.ofNat 32 off) 0 0

/-- The checks of R82 in every lane. -/
def scrChecks (w : Workgroup) (addrs : List (Nat × Nat)) (n : Nat) : Option Trap :=
  let at_ := laneVal addrs
  match overLanes (addrs.map Prod.fst) (fun l =>
      if at_ l % n = 0 then (.ok () : Except Trap Unit) else .error (scrTrap .misaligned (at_ l))) with
  | .error t => some t
  | .ok _ =>
    match overLanes (addrs.map Prod.fst) (fun l =>
        if at_ l + n ≤ w.scratchLen then (.ok () : Except Trap Unit) else .error (scrTrap .permission (at_ l))) with
    | .error t => some t
    | .ok _ => none

/-- Bytes of a workgroup's scratchpad. -/
def Core.scrBytes (k : Core) (w : Workgroup) (off n : Nat) : List Byte :=
  (List.range n).map fun i => KMap.getD k.scratch (w.scratchBase + off + i) 0

/-- Bytes of the pool's scratchpad written; their poison goes. -/
def Core.putScratch (k : Core) (a : Nat) (bs : List Byte) : Core :=
  let m := (List.range bs.length).foldl (fun m i => KMap.putD m (a + i) (getAt bs i 0) 0) k.scratch
  { k with
    scratch := m
    scratchPoison := if k.scratchPoison.isEmpty then [] else k.scratchPoison.filter fun p => !(decide (a ≤ p) && decide (p < a + bs.length)) }

def execLds (o : MF) (s : State) : Result :=
  let z := o.size.toNat
  let n := szBytes z
  issue
    { instr := .lds o, g := o.g, dsts := [(o.d.toNat, szRegs z)], srcs := [(o.a.toNat, 1)], scope := o.scope.toNat
      fields := decide (z ≠ 7) && szAligned z o.d.toNat && decide (o.b = 0#8) && annOk o.scope.toNat o.ord.toNat [2] }
    (fun x s =>
      let w := x.k.wg x.g.wg
      let addrs := x.scrAddrs o
      match scrChecks w addrs n with
      | some t => .trap t
      | none =>
        match addrs.find? fun a => x.k.copyStalls x.g.wg a.2 n with
        | some a => .wait s (.scratchMark a.2 n)
        | none =>
          let vals := addrs.map fun a => (a.1, szExtend z (leNat (x.k.scrBytes w a.2 n)))
          let pz := maskOf fun l => addrs.any fun a =>
            decide (a.1 = l) && x.k.scratchPoison.any fun p =>
              decide (w.scratchBase + a.2 ≤ p) && decide (p < w.scratchBase + a.2 + n)
          .done (s.addResult x o.d.toNat (laneRegs (szRegs z) vals) pz (laneVas addrs) 0 true [])) s

def execSts (o : MF) (s : State) : Result :=
  let z := o.size.toNat
  let n := szBytes z
  issue
    { instr := .sts o, g := o.g, srcs := [(o.a.toNat, 1), (o.b.toNat, szRegs z)], scope := o.scope.toNat
      fields := decide (z ≠ 7) && szAligned z o.b.toNat && decide (o.d = 0#8) && annOk o.scope.toNat o.ord.toNat [1] }
    (fun x s =>
      let w := x.k.wg x.g.wg
      let addrs := x.scrAddrs o
      match scrChecks w addrs n with
      | some t => .trap t
      | none =>
        let k := addrs.foldl (fun k a =>
          k.putScratch (w.scratchBase + a.2) (leBytes n (x.wide o.b.toNat (szRegs z) a.1))) (s.core x.c)
        .done (s.setCore x.c k)) s

/-! ## Gathers (R164, R170, R222) -/

/-- The extended index of a lane. -/
def Iss.index (x : Iss) (o : XF) (l : Nat) : Int :=
  let n := 8 * 2 ^ o.iw.toNat
  let raw := if n = 64 then (x.pair o.b.toNat l).toNat else (x.lane o.b.toNat l).toNat % 2 ^ n
  if o.isg then signExt raw n else (raw : Int)

def Iss.gatherAddrs (x : Iss) (o : XF) : List (Nat × Nat) :=
  (lanesOf x.act).map fun l => (l, narrow ((x.pair o.a.toNat l).toNat + x.index o l * (o.scl.toNat + 1)) 64)

/-- The index registers of a gather. -/
def idxRegs (o : XF) : Nat := if o.iw = 3#2 then 2 else 1

/-- The fields common to `LDX` and `STX`. -/
def gatherOk (o : XF) (data : Nat) (ords : List Nat) : Bool :=
  decide (o.size.toNat ≠ 7) && szAligned o.size.toNat data && decide (o.a.toNat % 2 = 0)
    && decide (o.b.toNat % (idxRegs o) = 0) && !o.rsv && annOk o.scope.toNat o.ord.toNat ords

def execLdx (o : XF) (s : State) : Result :=
  let z := o.size.toNat
  issue
    { instr := .ldx o, g := o.g, dsts := [(o.d.toNat, szRegs z)], srcs := [(o.a.toNat, 2), (o.b.toNat, idxRegs o)]
      scope := o.scope.toNat, fields := gatherOk o o.d.toNat [2] && decide (o.c = 0#8) }
    (fun x s => loadBody z o.d.toNat (x.gatherAddrs o) x s) s

def execStx (o : XF) (s : State) : Result :=
  let z := o.size.toNat
  issue
    { instr := .stx o, g := o.g, srcs := [(o.a.toNat, 2), (o.b.toNat, idxRegs o), (o.c.toNat, szRegs z)]
      scope := o.scope.toNat, fields := gatherOk o o.c.toNat [1] && decide (o.d = 0#8) }
    (fun x s => storeBody z o.c.toNat (x.gatherAddrs o) x s) s

/-! ## Record accesses (R99-R101, R114-R117, R222) -/

/-- The fields common to `LDB` and `STB`; their SIZE is judged after the handle checks (R222). -/
def recordOk (o : XF) (ords : List Nat) : Bool :=
  decide (o.iw = 0#2) && !o.isg && decide (o.scl = 0#4) && !o.rsv && annOk o.scope.toNat o.ord.toNat ords

/-- The SIZE of a record access fits the element size of its record, and the data register fits SIZE (R222). -/
def recordSize (size data esize : Nat) : Bool := decide (size = if esize = 3 then 5 else 4) && szAligned size data

/-- The record of every lane latched, the SIZE judged after them (R222), then each lane's address against the bounds of its record,
and then its alignment (R99, R218). -/
def State.recordLanes (s : State) (x : Iss) (o : XF) (data : Nat) (need : RecNeed) (word : W64) (cached : Bool) :
    Except Trap (List (Nat × Brec × Nat)) :=
  match overLanes (lanesOf x.act) fun l => s.latchBrec x cached (x.lane o.a.toNat l) need word with
  | .error t => .error t
  | .ok rs =>
    match overLanes (rs.map Prod.fst) (fun l =>
        let r := (rs.find? fun r => decide (r.1 = l)).map Prod.snd
        let es : Nat := (r.map fun (r : Brec) => r.esize).getD 0
        if recordSize o.size.toNat data es then (.ok () : Except Trap Unit) else .error (reservedTrap word)) with
    | .error t => .error t
    | .ok _ =>
      let elems := overLanes (rs.map Prod.fst) fun l =>
        match rs.find? fun r => decide (r.1 = l) with
        | none => .error (reservedTrap word)
        | some (_, r) =>
          match r.elemVa (x.lane o.b.toNat l).toNat (x.lane (o.b.toNat + 1) l).toNat with
          | .error t => .error t
          | .ok va => .ok (r, va)
      match elems with
      | .error t => .error t
      | .ok es =>
        match overLanes (es.map Prod.fst) (fun l => match es.find? fun e => decide (e.1 = l) with
            | none => .ok ()
            | some e => e.2.1.elemAligned e.2.2) with
        | .error t => .error t
        | .ok _ => .ok (es.map fun e => (e.1, e.2.1, e.2.2))

/-- The distinct records of an access. -/
def accessRecords (rs : List (Nat × Brec × Nat)) : List Brec :=
  let hs := (rs.map fun r => r.2.1.handle).eraseDups
  hs.filterMap fun h => (rs.find? fun r => decide (r.2.1.handle = h)).map fun r => r.2.1

/-- Records that an operation in flight latches, counted in the record cache with their region records (R413, R418). -/
def State.latchAll (s : State) (x : Iss) (rs : List Brec) : State :=
  s.setCore x.c (rs.foldl (fun k r => k.latchRec r.handle (s.recTable x) r.words (r.region.map fun g => g.words)) (s.core x.c))

/-- What the operation lets go when it ends. -/
def State.latchKeys (s : State) (x : Iss) (rs : List Brec) : List (W32 × Nat) := rs.map fun r => (r.handle, s.recTable x)

/-- The VA that an element's access translates: its own, or the storage line of its block (R108). -/
def accessVa (r : Brec) (va : Nat) : Nat :=
  match r.region with
  | none => va
  | some g => (g.place va).1

/-- The places of the lanes' accesses. -/
def State.reachRecords (s : State) (x : Iss) (rs : List (Nat × Brec × Nat)) (acc : Acc) :
    Except Trap (List (Nat × Brec × Nat × Nat × Bool)) :=
  let res := overLanes (rs.map Prod.fst) fun l =>
    match rs.find? fun r => decide (r.1 = l) with
    | none => .error (trapVa .permission 0 0)
    | some (_, r, va) =>
      match s.reachMem x (accessVa r va) acc with
      | .error t => .error t
      | .ok (pa, pres) => .ok (r, va, pa, pres)
  match res with
  | .error t => .error t
  | .ok ps => .ok (ps.map fun p => (p.1, p.2.1, p.2.2.1, p.2.2.2.1, p.2.2.2.2))

/-- The lane value that a record access loads. -/
def State.recordValue (s : State) (r : Brec) (va pa : Nat) : Nat :=
  match r.region with
  | none => convLoad r.enc r.esize r.scale (s.readNat pa (2 ^ r.esize))
  | some g =>
    let p := g.place va
    getAt (decodeBlock g.budget (lineBlock g.budget (s.readNat pa 128) p.2.1)) p.2.2 0

def execLdb (o : XF) (s : State) : Result :=
  let z := o.size.toNat
  let sp : Spec :=
    { instr := .ldb o, g := o.g, dsts := [(o.d.toNat, szRegs z)], srcs := [(o.a.toNat, 1), (o.b.toNat, 2)]
      scope := o.scope.toNat, fields := recordOk o [2] && decide (o.c = 0#8) }
  issue sp
    (fun x s =>
      let (n, s) := s.choice 2
      match s.recordLanes x o o.d.toNat .read sp.word (decide (n = 1)) with
      | .error t => .trap t
      | .ok rs =>
        match s.reachRecords x rs .rd with
        | .error t => .trap t
        | .ok ps =>
          let vals := ps.map fun p => (p.1, s.recordValue p.2.1 p.2.2.1 p.2.2.2.1)
          let pz := maskOf fun l => ps.any fun p => decide (p.1 = l) && s.poisoned p.2.2.2.1
          let vas := ps.map fun p => (p.1, accessVa p.2.1 p.2.2.1)
          let tag := fun (p : Nat × Brec × Nat × Nat × Bool) => p.2.1.region.map fun g => (g.pa, x.v)
          let lines := fun (t : Option (Nat × Nat)) =>
            ((ps.filter fun p => decide (tag p = t)).map fun p => (lineOf p.2.2.2.1, p.2.2.2.2)).eraseDups
          let recs := accessRecords rs
          let s := (s.noteAll x (vas.map Prod.snd) .rd).latchAll x recs
          let id := (s.core x.c).nextId
          let (s, reqs) := ((ps.map tag).eraseDups).foldl (fun (a : State × Nat) t =>
            let (s, n) := a.1.loadReqs x t (lines t) id
            (s, a.2 + n)) (s, 0)
          .done (s.addResult x o.d.toNat (laneRegs (szRegs z) vals) pz (laneVas vas) reqs true (s.latchKeys x recs))) s

/-- One line of a codec store, with the elements that the lanes give. -/
structure LineStore where
  pa : Nat
  pres : Bool
  /-- Region, slot, position and value of each lane in ascending lane order. -/
  elems : List (Region × Nat × Nat × Nat)
  deriving DecidableEq, Repr

/-- The lanes of a codec store gathered by line. -/
def gatherLines : List (Nat × Brec × Nat × Nat × Bool) → (Nat → Nat) → List LineStore → List LineStore
  | [], _, acc => acc
  | (l, r, va, pa, pres) :: t, val, acc =>
    match r.region with
    | none => gatherLines t val acc
    | some g =>
      let p := g.place va
      let e := (g, p.2.1, p.2.2, val l)
      let acc := if acc.any fun a => decide (a.pa = pa) then
          acc.map fun a => if a.pa = pa then { a with elems := a.elems ++ [e] } else a
        else acc ++ [{ pa := pa, pres := pres, elems := [e] }]
      gatherLines t val acc

/-- What names a region in a store: the PA of its record, and its budget. Two records of one region may have latched different
counters. -/
def Region.name (g : Region) : Nat × Nat := (g.pa, g.budget)

/-- The blocks that a line store touches: region and slot. -/
def LineStore.blocks (ls : LineStore) : List ((Nat × Nat) × Nat) := (ls.elems.map fun e => (e.1.name, e.2.1)).eraseDups

/-- A block's eight values after the store, and whether the lanes gave all of them. -/
def storedBlock (ls : LineStore) (b : (Nat × Nat) × Nat) (line : Nat) : List Nat × Bool :=
  let es := (ls.elems.filter fun e => decide (e.1.name = b.1) && decide (e.2.1 = b.2)).map fun e => e.2.2
  let old := decodeBlock b.1.2 (lineBlock b.1.2 line b.2)
  let xs := es.foldl (fun xs e => setAt xs e.1 e.2) old
  (xs, (List.range 8).all fun i => es.any fun e => decide (e.1 = i))

/-- The counters of the region record at `pa` after encodes, in order (R117). -/
def State.countNotes (s : State) (pa : Nat) (notes : List EncNote) : State :=
  let w := fun (i : Nat) => s.readNat (pa + 0x18 + 8 * i) 8
  let ws := notes.foldl (fun (c : List Nat) n => n.count (getAt c 0 0) (getAt c 1 0) (getAt c 2 0) (getAt c 3 0)) [w 0, w 1, w 2, w 3]
  s.storeAll [(pa + 0x18, ws.flatMap fun x => leBytes 8 x)]

/-- The encodes of one region's blocks: the counters change as part of the store (R118), and its packet goes to the home slice of
the record's line, whose adders they are (R117, R276). -/
def State.countRegion (s : State) (x : Iss) (pa : Nat) (notes : List EncNote) : State :=
  (s.countNotes pa notes).sendReq x.c x.v .count (lineOf pa) false none

/-- One line of a codec store: every touched block encoded under its own region, one line write, the counters (R115-R117); a
poisoned line takes only a store that covers all its blocks (R417). -/
def State.storeLine (s : State) (x : Iss) (ls : LineStore) : State :=
  let line := s.readNat ls.pa 128
  let blks := ls.blocks.map fun b => (b, storedBlock ls b line)
  let whole := blks.all fun k => k.2.2
  let full := blks.any fun k => decide ((blks.filter fun j => decide (j.1.1 = k.1.1)).length = (budgetOf k.1.1.2).p)
  if s.poisoned ls.pa && !(whole && full) then
    let src := srcSlice (homeDie ls.pa) (sliceOf ls.pa)
    s.raise src { accessEvent src x.v codeUncorrected ls.pa 0 with addrVa := false }
  else
    let new := blks.foldl (fun n k => putBlock k.1.1.2 n k.1.2 (encodeBlock k.1.1.2 k.2.1)) line
    let s := (s.storeAll [(ls.pa, leBytes 128 new)]).dropL1 x.c (lineOf ls.pa)
    let s := s.sendReq x.c x.v (if whole then .store else .codec) (lineOf ls.pa) ls.pres none
    ((blks.map fun k => k.1.1).eraseDups).foldl (fun s g =>
      s.countRegion x g.1 ((blks.filter fun k => decide (k.1.1 = g)).map fun k => encNote g.2 k.2.1 (!k.2.2))) s

def execStb (o : XF) (s : State) : Result :=
  let z := o.size.toNat
  let sp : Spec :=
    { instr := .stb o, g := o.g, srcs := [(o.a.toNat, 1), (o.b.toNat, 2), (o.c.toNat, szRegs z)]
      scope := o.scope.toNat, fields := recordOk o [1] && decide (o.d = 0#8) }
  issue sp
    (fun x s =>
      let (n, s) := s.choice 2
      match s.recordLanes x o o.c.toNat .write sp.word (decide (n = 1)) with
      | .error t => .trap t
      | .ok rs =>
        match s.reachRecords x rs .wr with
        | .error t => .trap t
        | .ok ps =>
          let val := fun (l : Nat) => x.wide o.c.toNat (szRegs z) l
          let plain := ps.filter fun p => p.2.1.region.isNone
          let writes := plain.map fun p =>
            (p.2.2.2.1, leBytes (2 ^ p.2.1.esize) (convStore p.2.1.enc p.2.1.esize p.2.1.scale (val p.1)))
          let lines := (plain.map fun p => (lineOf p.2.2.2.1, p.2.2.2.2)).eraseDups
          let s := s.noteAll x (ps.map fun p => accessVa p.2.1 p.2.2.1) .wr
          let s := (s.storeAll writes).sendReqs x.c x.v .store none lines
          .done ((gatherLines ps val []).foldl (fun s ls => s.storeLine x ls) s)) s

/-! ## Atomics (R169, R223, R224) -/

def aopOf (o : MF) : Nat := bits o.imm16.toNat 15 12
def atyOf (o : MF) : Nat := bits o.imm16.toNat 11 8

/-- The TYPE codes that an AOP accepts (R223). -/
def aopTypes (aop : Nat) : List Nat :=
  match aop with
  | 0 => [0, 1, 2, 3, 8, 9]
  | 1 => [0, 1, 2, 3, 8, 9]
  | 2 => [0, 1, 2, 3, 8, 9]
  | 3 => [0, 1, 2, 3]
  | 4 => [0, 1, 2, 3]
  | 5 => [0, 1, 2, 3]
  | 6 => [0, 1, 2, 3, 8, 9]
  | 7 => [1, 3]
  | 8 => [1, 3]
  | _ => []

/-- Op(old, b) of R223 at a TYPE, both as n-bit fields. -/
def atomOp (aop t old b : Nat) : Nat :=
  let flt := decide (8 ≤ t)
  let f := fmtOf t
  let n := tyBits t
  match aop with
  | 0 => if flt then (fAdd f .rn old b).bits else (old + b) % 2 ^ n
  | 1 => if flt then (fMinMax f false old b).bits else if readAs t n old ≤ readAs t n b then old else b
  | 2 => if flt then (fMinMax f true old b).bits else if readAs t n old ≤ readAs t n b then b else old
  | 3 => old &&& b
  | 4 => old ||| b
  | 5 => old ^^^ b
  | 6 => b
  | 7 => if b ≤ old then 0 else old + 1
  | _ => if old = 0 || b < old then b else old - 1

/-- The fields of an atomic word: even address, the atomic control, SIZE agreeing with TYPE, and pairs that are
even. -/
def atomOk (o : MF) (types : List Nat) (regs : List Nat) (ords : List Nat) : Bool :=
  let wide := tyWide (atyOf o)
  decide (o.a.toNat % 2 = 0) && decide (bits o.imm16.toNat 7 0 = 0) && types.contains (atyOf o)
    && decide (o.size.toNat = if wide then 5 else 4) && regs.all (fun f => szAligned o.size.toNat f)
    && annOk o.scope.toNat o.ord.toNat ords

/-- The address of each lane of an atomic: the pair vA, offset 0 (R164). -/
def Iss.atomAddrs (x : Iss) (o : MF) : List (Nat × Nat) := (lanesOf x.act).map fun l => (l, (x.pair o.a.toNat l).toNat)

/-- A register page serves no atomic (DESIGN CHOICE, log 19). An atomic names its location by an address pair (R223), so none
comes through a codec record and none meets the CODEC_REGION of R107 (DESIGN CHOICE, log 40). -/
def State.reachAtoms (s : State) (x : Iss) (addrs : List (Nat × Nat)) (n : Nat) (acc : Acc) :
    Except Trap (List (Nat × Reach)) :=
  alignedLanes addrs n fun va =>
    match s.reach x va acc with
    | .ok (.mmio _ _) => .error (xlateTrap va .permission false 0)
    | r => r

/-- What an atomic writes where it finds `old`. -/
def AtomFn.apply (f : AtomFn) (old : Nat) : Nat :=
  match f with
  | .op aop ty b => atomOp aop ty old b
  | .cas cmp new => if old = cmp then new else old

/-- The old value of a lane's atomic joined to its result. -/
def Core.putOld (k : Core) (a : AtomLane) (old : Nat) (bad : Bool) : Core :=
  let m : Mask := 1#8 <<< a.lane
  let put := fun (d : OutDest × Nat) =>
    { d.1 with
      val := mergeReg m d.1.val (splat (BitVec.ofNat 32 (old / 2 ^ (32 * d.2))))
      poison := if bad then d.1.poison ||| m else d.1.poison }
  { k with outs := k.outs.map fun o => if o.id = a.out then { o with dests := o.dests.zipIdx.map put } else o }

/-- One lane's atomic is done: the location takes its new value and the result the old one. On a poisoned line it is not
performed: a result is poisoned, and a `RED` sends an event (R223, R224, R415). -/
def State.doLane (s : State) (c : Nat) (a : AtomLane) : State :=
  let old := s.readNat a.pa a.size
  let bad := s.poisoned a.pa
  let k := s.core c
  let k := { k with atoms := k.atoms.erase a }
  let s := s.setCore c (if a.returns then k.putOld a old bad else k)
  if !bad then s.storeAll [(a.pa, leBytes a.size (a.fn.apply old))]
  else if a.returns then s
  else
    let src := srcSlice (homeDie a.pa) (sliceOf a.pa)
    s.raise src { accessEvent src a.vf codeUncorrected (a.pa / 128 * 128) 0 with addrVa := false }

/-- The home slice is asked for ownership of the line of a lane's atomic (R150). -/
def State.askLine (s : State) (c : Nat) (a : AtomLane) : State :=
  let k := s.core c
  let s := s.setCore c { k with outs := k.outs.map fun o => if o.id = a.out then { o with reqs := o.reqs + 1 } else o }
  s.sendReq c a.vf .atomic (lineOf a.pa) a.pres (some a.out)

/-- Lanes of atomics to one line, in order, while the core's L1 owns the line: without limit until another core has requested it,
then at most 16 more; the line is asked for again for those that are left (R150, R224). -/
def State.runLanes (s : State) (c line : Nat) : List AtomLane → State
  | [] => s
  | a :: t =>
    match KMap.get? s.l1own line with
    | none => s.askLine c a
    | some (o, left) =>
      if o ≠ c then s.askLine c a
      else
        let s := s.doLane c a
        let own := if 16 < left then s.l1own else if left ≤ 1 then KMap.del s.l1own line else KMap.put s.l1own line (c, left - 1)
        State.runLanes { s with l1own := own } c line t

/-- The lanes of a core's atomics that wait for ownership of a line. -/
def Core.atomsAt (k : Core) (line : Nat) : List AtomLane :=
  k.atoms.filter fun a => decide (lineOf a.pa = line) && !a.bypass

/-- A `RED` to a line whose virtual function has no way for it is done by the slice's bypass unit (R278). -/
def State.bypasses (s : State) (a : AtomLane) : Bool :=
  !a.returns && decide ((s.die (homeDie a.pa)).ways a.vf a.pres = 0)

/-- The home slice's bypass unit is asked for the lanes of a `RED` to one line. -/
def State.askBypass (s : State) (c line : Nat) (a : AtomLane) (lanes : List AtomLane) : State :=
  let k := s.core c
  let s := s.setCore c { k with
    atoms := k.atoms ++ lanes.map fun a => { a with bypass := true }
    outs := k.outs.map fun o => if o.id = a.out then { o with reqs := o.reqs + 1 } else o }
  s.sendReq c a.vf .red line a.pres (some a.out)

/-- Lanes of an atomic that has just issued, all to one line: they run where the L1 owns the line, and wait behind earlier ones; a
bypassing `RED` goes to the slice (R150, R278). -/
def State.startLine (s : State) (c line : Nat) (lanes : List AtomLane) : State :=
  match lanes.head? with
  | none => s
  | some a =>
    if s.bypasses a then s.askBypass c line a lanes
    else
      let k := s.core c
      let s := s.setCore c { k with atoms := k.atoms ++ lanes }
      if (k.atomsAt line).isEmpty then s.runLanes c line lanes else s

/-- The lanes of an atomic instruction. -/
def atomLanes (x : Iss) (size : Nat) (returns : Bool) (fn : Nat → AtomFn) (id : Nat) (ps : List (Nat × Reach)) : List AtomLane :=
  ps.filterMap fun p => match p.2 with
    | .mem pa pres =>
      some { slot := x.slot, ent := x.e.id, vf := x.v, launch := x.g.launch, out := id, lane := p.1, pa := pa, size := size, pres := pres
             returns := returns, bypass := false, fn := fn p.1 }
    | .mmio _ _ => none

/-- An atomic instruction starts: its lanes' atomics line by line (R224). -/
def State.startAtoms (s : State) (c : Nat) (lanes : List AtomLane) : State :=
  ((lanes.map fun a => lineOf a.pa).eraseDups).foldl (fun s l => s.startLine c l (lanes.filter fun a => decide (lineOf a.pa = l))) s

/-- An atomic that returns the old values in `n` registers from field `d`, or returns nothing for `n` = 0; its result stays
outstanding until every lane's atomic is done. -/
def atomBody (o : MF) (d n : Nat) (fn : Iss → Nat → AtomFn) (x : Iss) (s : State) : Res :=
  let size := szBytes o.size.toNat
  let addrs := x.atomAddrs o
  match s.reachAtoms x addrs size .wr with
  | .error t => .trap t
  | .ok ps =>
    let s := s.noteAll x (addrs.map Prod.snd) .wr
    let id := (s.core x.c).nextId
    let s := s.addResult x d (List.replicate n 0) 0 (laneVas addrs) 0 false []
    .done (s.startAtoms x.c (atomLanes x size (decide (n ≠ 0)) (fn x) id ps))

/-- What a lane of `ATOM` or `RED` does: AOP at TYPE with vB. -/
def opFn (o : MF) (x : Iss) (l : Nat) : AtomFn := .op (aopOf o) (atyOf o) (x.wide o.b.toNat (szRegs o.size.toNat) l)

def execAtom (o : MF) (s : State) : Result :=
  let z := o.size.toNat
  issue
    { instr := .atom o, g := o.g, dsts := [(o.d.toNat, szRegs z)], srcs := [(o.a.toNat, 2), (o.b.toNat, szRegs z)]
      scope := o.scope.toNat, fields := atomOk o (aopTypes (aopOf o)) [o.d.toNat, o.b.toNat] [1, 2, 3] }
    (atomBody o o.d.toNat (szRegs z) (opFn o)) s

/-- `RED` on a poisoned line is not performed and sends an event (R415). -/
def execRed (o : MF) (s : State) : Result :=
  let z := o.size.toNat
  issue
    { instr := .red o, g := o.g, srcs := [(o.a.toNat, 2), (o.b.toNat, szRegs z)], scope := o.scope.toNat
      fields := atomOk o (aopTypes (aopOf o)) [o.b.toNat] [1] && decide (o.d = 0#8) }
    (atomBody o 0 0 (opFn o)) s

/-- `CAS`: the comparison is of bits; vD holds the value compared and receives the old one (R223). -/
def execCas (o : MF) (s : State) : Result :=
  let z := o.size.toNat
  issue
    { instr := .cas o, g := o.g, dsts := [(o.d.toNat, szRegs z)]
      srcs := [(o.d.toNat, szRegs z), (o.a.toNat, 2), (o.b.toNat, szRegs z)], scope := o.scope.toNat
      fields := atomOk o [0, 1, 2, 3, 8, 9] [o.d.toNat, o.b.toNat] [1, 2, 3] && decide ((aopOf o) = 0) }
    (atomBody o o.d.toNat (szRegs z) fun x l => .cas (x.wide o.d.toNat (szRegs z) l) (x.wide o.b.toNat (szRegs z) l)) s

/-! ## `WAITA` (R225) -/

/-- `WAITA`: where every lane's location equals vB, the entry goes past the word and waits for a write to one of
the lines, unless the monitor table is full. -/
def execWaita (o : MF) (s : State) : Result :=
  let z := o.size.toNat
  let n := szBytes z
  issue
    { instr := .waita o, g := o.g, dsts := [(o.d.toNat, szRegs z)], srcs := [(o.a.toNat, 2), (o.b.toNat, szRegs z)]
      fields := atomOk o [0, 1, 2, 3] [o.d.toNat, o.b.toNat] [] && decide ((aopOf o) = 0) }
    (fun x s =>
      let addrs := x.atomAddrs o
      match s.reachAtoms x addrs n .rd with
      | .error t => .trap t
      | .ok ps =>
        let olds := ps.map fun p => (p.1, leNat (s.placeBytes p.2 n))
        let same := olds.all fun v => decide (v.2 = x.wide o.b.toNat (szRegs z) v.1)
        let pz := s.poisonMask ps
        let s := s.noteAll x (addrs.map Prod.snd) .rd
        let id := (s.core x.c).nextId
        let (s, reqs) := s.loadReqs x none (placeLines ps) id
        let s := s.addResult x o.d.toNat (laneRegs (szRegs z) olds) pz (laneVas addrs) reqs false []
        let k := s.core x.c
        let q := k.quarter (quarterOf x.slot)
        let arm := (placeLines ps).map fun l => (l.1, x.slot, x.e.id)
        if !same || 32 < q.monitors.length + arm.length then .done s
        else
          let k := k.setQuarter (quarterOf x.slot) { q with monitors := q.monitors ++ arm }
          .moved (s.setCore x.c (k.setEntry x.slot { x.e with
            pc := x.e.pc + 8, wait := .monitor, waitFrom := x.now, retried := false }))) s

/-! ## `FENCE` (R142, R226) -/

/-- `FENCE`: the edges that it adds hold in one coherent store already (DESIGN CHOICE, log 4). -/
def execFence (o : SF) (s : State) : Result :=
  issue
    { instr := .fence o, g := o.g, scope := bits o.ctrl.toNat 15 13
      fields := decide (o.d = 0#8) && decide (o.a = 0#8) && decide (o.b = 0#8) && decide (o.c = 0#8)
        && decide (bits o.ctrl.toNat 10 0 = 0) && decide (bits o.ctrl.toNat 15 13 ≠ 7) }
    (fun _ s => .done s) s

end Sys2Proof.Machine
end

