-- ==== Sys2Proof/Machine/Sync.lean ====
section
/-! DEFINITION. Barriers, futures, tasks and locks (R72-R77, R230, R233, R234). -/

namespace Sys2Proof.Machine

/-! ## Entry-wide operands and results (R219) -/

/-- The low half-word, word and pair of the lowest lane. -/
def Iss.low32 (x : Iss) (f : Nat) : W32 := x.lane f x.low
def Iss.low64 (x : Iss) (f : Nat) : W64 := x.pair f x.low

/-- A word in every lane of Active() of register `d`, once the result arrives. -/
def State.give32 (s : State) (x : Iss) (d v : Nat) : State :=
  s.addResult x d [splat (BitVec.ofNat 32 v)] 0 [] 0 false []

/-- A pair in every lane of Active(). -/
def State.give64 (s : State) (x : Iss) (d : Nat) (v : W64) : State :=
  s.addResult x d [splat (lo32 v), splat (hi32 v)] 0 [] 0 false []

/-- A predicate result of an instruction of variable latency, in Active(). -/
def State.givePred (s : State) (x : Iss) (p : Nat) (v : Mask) : State :=
  s.setCore x.c ((s.core x.c).putPred x p x.act v)

/-- Every lane or none. -/
def allLanes (b : Bool) : Mask := if b then 0xFF#8 else 0#8

/-! ## Barriers (R230) -/

/-- `Arrive(b, n)`; none is BARRIER_MISUSE. -/
def Barrier.arrive (x : Barrier) (n : Nat) : Option Barrier :=
  if x.expected = 0 || x.expected < x.arrival + n then none
  else if x.arrival + n = x.expected then some { x with phase := x.phase + 1, arrival := 0 }
  else some { x with arrival := x.arrival + n }

def Core.setBarrier (k : Core) (wg b : Nat) (x : Barrier) : Core :=
  let w := k.wg wg
  k.setWg wg { w with barriers := KMap.put w.barriers b x }

/-- An arrival on a barrier of a workgroup of core `c`. -/
def State.arriveBar (s : State) (c wg b n : Nat) : Option State :=
  let k := s.core c
  match k.wg? wg with
  | none => none
  | some w =>
    match (w.barrier b).arrive n with
    | none => none
    | some x => some (s.setCore c (k.setBarrier wg b x))

/-- BARRIER_MISUSE with the barrier's number and counts (R371). -/
def barTrap (x : Iss) (b : Nat) : Trap :=
  let r := (x.k.wg x.g.wg).barrier b
  trapPlain .barrierMisuse (BitVec.ofNat 32 b) (BitVec.ofNat 32 (r.expected * 65536 + r.arrival)) x.act

/-- The facts of a barrier word. -/
def barSpec (o : SF) (i : Instr) (d a imm : Bool) : Spec :=
  { instr := i, g := o.g, inHandler := false
    dsts := if d then [(o.d.toNat, 1)] else [], srcs := if a then [(o.a.toNat, 1)] else []
    fields := sfZero o d a false true imm && decide (o.c.toNat < 16) }

def execBari (o : SF) (s : State) : Result :=
  issue (barSpec o (.bari o) false false true)
    (fun x s =>
      let b := o.c.toNat
      let r := (x.k.wg x.g.wg).barrier b
      if r.arrival ≠ 0 || o.ctrl = 0#16 then .trap (barTrap x b)
      else .done (s.setCore x.c (x.k.setBarrier x.g.wg b { r with expected := o.ctrl.toNat, arrival := 0 }))) s

/-- The count of `BARA` and `BARS`: 0 means 1. -/
def barCount (o : SF) : Nat := if o.ctrl = 0#16 then 1 else o.ctrl.toNat

def execBara (o : SF) (s : State) : Result :=
  issue (barSpec o (.bara o) false false true)
    (fun x s =>
      match s.arriveBar x.c x.g.wg o.c.toNat (barCount o) with
      | none => .trap (barTrap x o.c.toNat)
      | some s => .done s) s

def execBarw (o : SF) (s : State) : Result :=
  issue (barSpec o (.barw o) false true false)
    (fun x s =>
      let b := o.c.toNat
      let t := (x.low32 o.a.toNat).extractLsb' 0 16
      if ((x.k.wg x.g.wg).barrier b).phase = t then .wait s (.barrier b t) else .done s) s

/-- `BARS`: one arrival, then the entry stands past the word until the phase has left its token. -/
def execBars (o : SF) (s : State) : Result :=
  issue (barSpec o (.bars o) false false true)
    (fun x s =>
      let b := o.c.toNat
      let t := ((x.k.wg x.g.wg).barrier b).phase
      match s.arriveBar x.c x.g.wg b (barCount o) with
      | none => .trap (barTrap x b)
      | some s =>
        let k := s.core x.c
        if ((k.wg x.g.wg).barrier b).phase ≠ t then .done s
        else
          .moved (s.setCore x.c (k.setEntry x.slot { x.e with
            pc := x.e.pc + 8, wait := .bars b t, waitFrom := x.now, retried := false }))) s

def execBarp (o : SF) (s : State) : Result :=
  issue { barSpec o (.barp o) true false false with inHandler := true }
    (fun x _ =>
      .later [(o.d.toNat, splat (((x.k.wg x.g.wg).barrier o.c.toNat).phase.setWidth 32))]) s

/-! ## Futures (R233) -/

/-- The facts of a future, task or lock word: even pairs, IMM16 0, unnamed fields 0. -/
def futSpec (o : SF) (i : Instr) (d a b c : Bool) : Spec :=
  { instr := i, g := o.g, inHandler := false
    fields := sfZero o d a b c false && decide (o.a.toNat % 2 = 0) && decide (o.b.toNat % 2 = 0) }

/-- A trap that names a 64-bit handle (R371). -/
def handle64Trap (c : Cause) (h : W64) : Trap := trapPlain c (lo32 h) (hi32 h) 0

/-- The PA and status word of the future that a handle names, or the trap of R233. -/
def State.futureAt (s : State) (x : Iss) (h : W64) (acc : Acc) : Except Trap (Nat × Nat) :=
  let va := futVa h
  match s.reachMem x va acc with
  | .error t => .error t
  | .ok (pa, _) =>
    let w := s.readNat (pa + 8) 8
    if s.poisoned pa then .error (trapVa .dataUncorrectable va 0)
    else if futGen w ≠ handleGen h then .error (handle64Trap .handleStale h)
    else if futState w = 3 then .error (trapVa .dataUncorrectable va 0)
    else .ok (pa, w)

/-- The trap of the lowest lane with FMASK Active(), for an entry-wide cause (R371). -/
def wideTrap (x : Iss) (t : Trap) : Trap := { t with fmask := x.act }

/-- An object written by one atomic operation at the home slice of its line. -/
def State.objectWrite (s : State) (x : Iss) (pa : Nat) (ws : List W64) : State :=
  (s.storeAll [(pa, ws.flatMap fun w => leBytes 8 w.toNat)]).sendReq x.c x.v .store (lineOf pa) false none

/-- The next generation of a future: 0 is skipped. -/
def nextGen (g : Nat) : Nat := if (g + 1) % 65536 = 0 then 1 else (g + 1) % 65536

/-- The handle of R233 for a generation and an address. -/
def futHandle (gen va : Nat) : W64 := BitVec.ofNat 64 (gen * 2 ^ 48 + va / 32 % 2 ^ 48)

/-- `FNEW` of the lanes in turn: the whole future in one write, and each lane's handle. -/
def State.newFutures (s : State) (x : Iss) : List (Nat × Nat × Nat) → State × List (Nat × Nat)
  | [] => (s, [])
  | (l, va, pa) :: t =>
    let gen := nextGen (futGen (s.readNat (pa + 8) 8))
    let r := (s.objectWrite x pa [0, BitVec.ofNat 64 (gen * 65536), 0, 0]).newFutures x t
    (r.1, (l, (futHandle gen va).toNat) :: r.2)

def execFnew (o : SF) (s : State) : Result :=
  issue { futSpec o (.fnew o) true true false false with
          dsts := [(o.d.toNat, 2)], srcs := [(o.a.toNat, 2)]
          fields := (futSpec o (.fnew o) true true false false).fields && decide (o.d.toNat % 2 = 0) }
    (fun x s =>
      let ls := lanesOf x.act
      let at_ := fun (l : Nat) => (x.pair o.a.toNat l).toNat
      match overLanes ls (fun l =>
          if at_ l % 32 = 0 then (.ok () : Except Trap Unit) else .error (trapVa .misaligned (at_ l) 0)) with
      | .error t => .trap t
      | .ok _ =>
        match overLanes ls (fun l =>
            if 2 ^ 53 ≤ at_ l then (.error (trapVa .translation (at_ l) 0) : Except Trap Nat)
            else match s.reachMem x (at_ l) .wr with
              | .error t => .error t
              | .ok (pa, _) => .ok pa) with
        | .error t => .trap t
        | .ok ps =>
          let (s, vs) := s.newFutures x (ps.map fun p => (p.1, at_ p.1, p.2))
          .done (s.addResult x o.d.toNat (laneRegs 2 vs) 0 [] 0 false [])) s

/-- `FSET` of the lanes in ascending order: VALUE, FSTATE 1 and OWNER 0 where the future is empty. -/
def State.setFutures (s : State) (x : Iss) (val : Nat → W64) : List (Nat × Nat × Nat) → State × List Nat
  | [] => (s, [])
  | (l, pa, _) :: t =>
    let w := s.readNat (pa + 8) 8
    if futState w = 0 then
      let r := (s.objectWrite x pa [val l, BitVec.ofNat 64 (putBits w 1 0 1), 0]).setFutures x val t
      (r.1, l :: r.2)
    else s.setFutures x val t

def execFset (o : SF) (s : State) : Result :=
  let sp := futSpec o (.fset o) true true true false
  issue { sp with srcs := [(o.a.toNat, 2), (o.b.toNat, 2)], fields := sp.fields && decide (o.d.toNat < 8) }
    (fun x s =>
      match overLanes (lanesOf x.act) fun l => s.futureAt x (x.pair o.a.toNat l) .wr with
      | .error t => .trap t
      | .ok fs =>
        let (s, set) := s.setFutures x (fun l => x.pair o.b.toNat l) fs
        .done (s.givePred x o.d.toNat (maskOf fun l => set.contains l))) s

def execFwait (o : SF) (s : State) : Result :=
  let sp := futSpec o (.fwait o) true true false true
  issue { sp with
          dsts := [(o.d.toNat, 2)], srcs := [(o.a.toNat, 2)]
          fields := sp.fields && decide (o.d.toNat % 2 = 0) && decide (o.c.toNat < 8) }
    (fun x s =>
      let h := x.low64 o.a.toNat
      match s.futureAt x h .rd with
      | .error t => .trap (wideTrap x t)
      | .ok (pa, w) =>
        if futState w = 0 then .moved (s.adoptOrWait x.c x.slot x.e (s.word (pa + 16)) true (.future h))
        else
          let v := if futState w = 1 then s.word pa else 0
          .done ((s.give64 x o.d.toNat v).givePred x o.c.toNat (allLanes (futState w = 2)))) s

/-! ## Tasks (R234) -/

/-- What `TSPN` has checked of a lane: the handle, the record's PA and the PA of the future it names. -/
structure Spawn where
  h : W64
  recPa : Nat
  fut : Option Nat
  deriving DecidableEq, Repr

/-- The PA of the task record that a handle names, read at step 6 of R218. -/
def State.spawnRead (s : State) (x : Iss) (h : W64) : Except Trap Nat :=
  match s.reachMem x (s.taskVa x.v h) .rd with
  | .error t => .error t
  | .ok (pa, _) => if s.poisoned pa then .error (trapVa .dataUncorrectable (s.taskVa x.v h) 0) else .ok pa

/-- The handle against its record: generation, virtual function and queue (R96, R234). -/
def State.spawnHandle (s : State) (x : Iss) (h : W64) (pa : Nat) : Option Trap :=
  let ctl := s.readNat (pa + 8) 8
  if handleGen h = 0 || ctlGen ctl ≠ handleGen h || bits h.toNat 47 32 ≠ 0 then some (handle64Trap .handleStale h)
  else if ctlVf ctl ≠ x.v then some (handle64Trap .permission h)
  else if (s.vf x.v).tqCnt ≤ ctlQueue ctl then some (handle64Trap .handleBounds h)
  else none

/-- The future that a record names, translated for write. -/
def State.spawnFuture (s : State) (x : Iss) (h : W64) (pa : Nat) : Except Trap Spawn :=
  let fut := s.word (pa + 16)
  if fut = 0#64 then .ok { h := h, recPa := pa, fut := none }
  else
    match s.reachMem x (futVa fut) .wr with
    | .error t => .error t
    | .ok (fpa, _) => .ok { h := h, recPa := pa, fut := some fpa }

/-- A check that either passes or traps. -/
def passes (t : Option Trap) : Except Trap Unit :=
  match t with
  | some t => .error t
  | none => .ok ()

/-- One lane of `TSPN` at step 6 of R218: its record read, its handle judged against it, and the future translated (R234; the
place of the handle's checks DEDUCED, log 21). -/
def State.spawnLane (s : State) (x : Iss) (h : W64) : Except Trap Spawn :=
  match s.spawnRead x h with
  | .error t => .error t
  | .ok pa =>
    match s.spawnHandle x h pa with
    | some t => .error t
    | none => s.spawnFuture x h pa

/-- The checks of `TSPN`: the index of every lane's handle at step 4 of R218, then step 6 in every lane (R218, R234, R387). -/
def State.spawnCheck (s : State) (x : Iss) (ls : List Nat) (h : Nat → W64) : Except Trap (List (Nat × Spawn)) :=
  match overLanes ls fun l =>
      passes (if (s.vf x.v).taskCnt ≤ handleIndex (h l) then some (handle64Trap .handleBounds (h l)) else none) with
  | .error t => .error t
  | .ok _ => overLanes ls fun l => s.spawnLane x (h l)

/-- The lanes of `TSPN` in ascending order, and those whose task entered its queue. -/
def State.spawn (s : State) (x : Iss) : List (Nat × Spawn) → State × List Nat
  | [] => (s, [])
  | (l, p) :: t =>
    let ctl := s.readNat (p.recPa + 8) 8
    if ctlState ctl ≠ 0 then s.spawn x t
    else
      match s.enqueue (srcCore x.c) (x.c / 48) x.v (ctlQueue ctl) (ctlPrio ctl) p.h false with
      | (s, false) => s.spawn x t
      | (s, true) =>
        let s := match p.fut with
          | none => s
          | some a => s.objectWrite x (a + 16) [p.h]
        let r := s.spawn x t
        (r.1, l :: r.2)

def execTspn (o : SF) (s : State) : Result :=
  let sp := futSpec o (.tspn o) true true false false
  issue { sp with srcs := [(o.a.toNat, 2)], fields := sp.fields && decide (o.d.toNat < 8) }
    (fun x s =>
      match s.spawnCheck x (lanesOf x.act) fun l => x.pair o.a.toNat l with
      | .error t => .trap t
      | .ok ps =>
        let (s, ok) := s.spawn x ps
        .done (s.givePred x o.d.toNat (maskOf fun l => ok.contains l))) s

/-- `TEND` of the running task: its record and future translated, the future set and STATE 3; adopted code leaves
its frames, and any other task's group ends (R76, R234). -/
def tendBody (o : SF) (x : Iss) (s : State) : Res :=
  match runningTask x.k x.g x.e with
  | none => .done s
  | some h =>
    let va := s.taskVa x.v h
    match s.reachMem x va .rd with
    | .error t => .trap (wideTrap x t)
    | .ok (pa, _) =>
      match s.reachMem x va .wr with
      | .error t => .trap (wideTrap x t)
      | .ok _ =>
        let fut := s.word (pa + 16)
        match (if fut = 0#64 then .ok (0, false) else s.reachMem x (futVa fut) .wr : Except Trap (Nat × Bool)) with
        | .error t => .trap (wideTrap x t)
        | .ok _ =>
          let s := s.finishTask x.c x.v h (x.low64 o.a.toNat)
          if (x.k.adoption x.e.frame).isSome then .moved (s.leaveAdoption x.c x.slot x.e)
          else
            let s := (x.k.adoptedTasks x.g).foldl (fun s t => s.failTask x.c x.v t) s
            .moved (s.dropGroup x.c x.slot)

def execTend (o : SF) (s : State) : Result :=
  let sp := { futSpec o (.tend o) false true false false with srcs := [(o.a.toNat, 2)] }
  match s.issuer o.g with
  | none => .refused .noIssuer
  | some (s', x) =>
    if (runningTask x.k x.g x.e).isNone && x.claimed.isNone then
      s'.finish x sp (.trap (trapPlain .illegalOpcode (lo32 sp.word) (hi32 sp.word) x.act))
    else issue sp (tendBody o) s

/-! ## Locks (R73, R233) -/

/-- The PA of the lock that the lowest lane names. -/
def State.lockAt (s : State) (x : Iss) (va : Nat) : Except Trap Nat :=
  if va % 16 ≠ 0 then .error (trapVa .misaligned va x.act)
  else
    match s.reachMem x va .wr with
    | .error t => .error (wideTrap x t)
    | .ok (pa, _) =>
      if s.poisoned pa then .error (trapVa .dataUncorrectable va x.act) else .ok pa

def execLkaq (o : SF) (s : State) : Result :=
  issue { futSpec o (.lkaq o) false true false false with srcs := [(o.a.toNat, 2)] }
    (fun x s =>
      let va := x.low64 o.a.toNat
      match s.lockAt x va.toNat with
      | .error t => .trap t
      | .ok pa =>
        if s.word pa = 0#64 then .done (s.objectWrite x pa [1, (runningTask x.k x.g x.e).getD 0])
        else .moved (s.adoptOrWait x.c x.slot x.e (s.word (pa + 8)) false (.lock va))) s

def execLkrl (o : SF) (s : State) : Result :=
  issue { futSpec o (.lkrl o) false true false false with srcs := [(o.a.toNat, 2)] }
    (fun x s =>
      match s.lockAt x (x.low64 o.a.toNat).toNat with
      | .error t => .trap t
      | .ok pa => .done (s.objectWrite x pa [0, 0])) s

end Sys2Proof.Machine
end

