-- ==== Sys2Proof/Machine/System.lean ====
section
/-! DEFINITION. The system instructions: opcodes 0xF0 to 0xF5, and unassigned opcodes (R236, R359, R360, R372,
R383, R388, R390). -/

namespace Sys2Proof.Machine

def execTrap (o : SF) (s : State) : Result :=
  issue { instr := .trap o, g := o.g, fields := sfZero o false false false false true }
    (fun x _ => .trap (trapPlain .swTrap (o.ctrl.setWidth 32) 0 x.act)) s

/-- BKSTOP of CORE_DBG (R382). -/
def Core.bkstop (k : Core) : Bool := k.dbg.getLsbD 29

/-- The group stops: its entries are held and its pending fixed-latency writes complete (R383). -/
def State.stopGroup (s : State) (c slot : Nat) (by_ : Option (EntId × W64)) : State :=
  let k := (s.core c).settleAll slot
  match k.group? slot with
  | none => s
  | some g => s.setCore c (k.setGroup slot { g with dbg := .stopped, bkpt := by_ })

/-- `BKPT` traps, or stops the group where BKSTOP is set, with `%tpc` at the word: then it goes on after the word when it is resumed. -/
def execBkpt (o : SF) (s : State) : Result :=
  issue { instr := .bkpt o, g := o.g, fields := sfZero o false false false false true }
    (fun x s =>
      if x.k.bkstop then .moved (s.stopGroup x.c x.slot (some (x.e.id, x.e.pc)))
      else .trap (trapPlain .breakpoint (o.ctrl.setWidth 32) 0 x.act)) s

/-! ## Control registers (R359) -/

/-- A `c.` number that exists, whether it is 64 bits wide, and whether a tenant may read it. -/
def cregKnown (n : Nat) : Bool := decide (n < 2) || decide (n = 0x100) || decide (n = 0x101)
def cregWide (n : Nat) : Bool := decide (n ≠ 0x100)
def cregReadable (n : Nat) : Bool := decide (n < 2)

/-- The value of a control register for a group of virtual function `v`. -/
def State.creg (s : State) (v n : Nat) : Nat :=
  match n with
  | 0x0000 => s.clk.compute
  | 0x0001 => s.clk.time
  | 0x0100 => (s.vf v).hpol.toNat
  | _ => (s.vf v).cfg.w00.toNat

/-- A register or a pair. -/
def cregRegs (n f : Nat) : List (Nat × Nat) := [(f, if cregWide n then 2 else 1)]

def execRdc (o : SF) (s : State) : Result :=
  let n := o.ctrl.toNat
  let d := o.d.toNat
  issue
    { instr := .rdc o, g := o.g, dsts := cregRegs n d
      fields := sfZero o true false false false true && cregKnown n && (!cregWide n || decide (d % 2 = 0)) }
    (fun x s =>
      let v := BitVec.ofNat 64 (s.creg x.v n)
      if !cregReadable n then .trap (trapPlain .permission (BitVec.ofNat 32 n) 0 x.act)
      else if cregWide n then .later [(d, splat (lo32 v)), (d + 1, splat (hi32 v))]
      else .later [(d, splat (lo32 v))]) s

/-- No tenant writes a control register: `WRC` traps with PERMISSION (R359). -/
def execWrc (o : SF) (s : State) : Result :=
  let n := o.ctrl.toNat
  let a := o.a.toNat
  issue
    { instr := .wrc o, g := o.g, srcs := cregRegs n a
      fields := sfZero o false true false false true && cregKnown n && (!cregWide n || decide (a % 2 = 0)) }
    (fun x _ => .trap (trapPlain .permission (BitVec.ofNat 32 n) 0 x.act)) s

/-! ## `RETT` (R372, R390) -/

def execRett (o : SF) (s : State) : Result :=
  let sp : Spec := { instr := .rett o, g := o.g, fields := sfZero o false false false false false }
  match s.issuer o.g with
  | none => .refused .noIssuer
  | some (s', x) =>
    if x.e.handler.isNone && x.claimed.isNone then
      s'.finish x sp (.trap (trapPlain .illegalOpcode (lo32 sp.word) (hi32 sp.word) x.act))
    else issue sp (fun x s => .moved (s.returnFromTrap x.c x.slot x.e)) s

/-! ## Counters and marks (R236, R360) -/

/-- Counter `n` of virtual function `v`; lane-bank writes are counted in the cores that serve it. -/
def State.perfCounter (s : State) (v n : Nat) : W64 :=
  let base := getAt (s.vf v).perf n 0
  if n = 1 then
    base + BitVec.ofNat 64 ((s.cores.filter fun c => decide (c.2.lastVf = some v)).foldl (fun a c => a + c.2.bankWrites) 0)
  else base

def execPerfRd (o : SF) (s : State) : Result :=
  let n := o.ctrl.toNat
  let d := o.d.toNat
  issue
    { instr := .perfRd o, g := o.g, dsts := [(d, 2)]
      fields := sfZero o true false false true true && decide (o.c = 0#8) && decide (d % 2 = 0) && decide (n < 8) }
    (fun x s =>
      if !((s.vf x.v).hpol.getLsbD 4) then .trap (trapPlain .permission (BitVec.ofNat 32 n) 0 x.act)
      else .later [(d, splat (lo32 (s.perfCounter x.v n))), (d + 1, splat (hi32 (s.perfCounter x.v n)))]) s

/-- The event that `PERF.MARK` sends (R376): a notice that carries the immediate. -/
def markEvent (x : Iss) (imm : BitVec 16) : Event :=
  { Event.blank with
    code := codeMark, cls := 4, block := 0, die := x.c / 48, unit := x.c % 48, slot := 0, vf := x.v
    info := imm.setWidth 64, task := (runningTask x.k x.g x.e).getD 0 }

def execPerfMark (o : SF) (s : State) : Result :=
  issue
    { instr := .perfMark o, g := o.g
      fields := sfZero o false false false true true && decide (o.c = 1#8) }
    (fun x s => .done (s.raise (srcCore x.c) (markEvent x o.ctrl))) s

/-! ## Unassigned opcodes (R388) -/

/-- The guard of a word whose opcode is unassigned (R160). -/
def wordGuard (w : W64) : Guard :=
  { stall := w.extractLsb' 52 4, pn := w.getLsbD 51, pred := w.extractLsb' 48 3 }

def execUnassignedOpcode (w : W64) (s : State) : Result :=
  let sp : Spec := { instr := .unassignedOpcode w, g := wordGuard w }
  match s.issuer sp.g with
  | none => .refused .noIssuer
  | some (s, x) =>
    match x.claimed with
    | some h => .next (((s.placeAdopted x.c x.slot x.e h).meetWait x.c x.slot x.e.id false).endTurn)
    | none => s.finish x sp (.trap (trapPlain .illegalOpcode (lo32 w) (hi32 w) x.act))

end Sys2Proof.Machine
end

