-- ==== Sys2Proof/Machine/CoreEvents.lean ====
section
/-! DEFINITION. The steps that a core's hardware takes by itself: swaps, results that arrive, frame allocation, spills and
refills, and a debugger's stops and steps (R49, R50, R55, R63-R67, R382-R384, R415, R419, R429-R431). -/

namespace Sys2Proof.Machine

/-! ## Swaps (R49, R50) -/

/-- The entry in a place of an active set. -/
def State.placed (s : State) (c q p : Nat) : Option (Place × Group × Entry) :=
  let k := s.core c
  match KMap.get? (k.quarter q).active p with
  | none => none
  | some pl =>
    match k.group? pl.slot with
    | none => none
    | some g => (g.entry? pl.ent).map fun e => (pl, g, e)

/-- An entry that has held its place for 2,048 clocks leaves it while a ready pending entry of a tenant with weight
exists; one that runs a handler stays (R50, R69). -/
def State.sliceOver (s : State) (c q p : Nat) : Option State :=
  match s.placed c q p with
  | none => none
  | some (pl, _, e) =>
    if s.clk.compute < pl.since + 2048 || e.handler.isSome then none
    else s.swapPlace c q p false fun g => decide ((s.vf g.vf).weight ≠ 0)

def execTimeSliceSwap (core quarter place : Nat) (s : State) : Result :=
  match s.sliceOver core quarter place with
  | some s => .next s
  | none => .refused (.notEnabled "TIME_SLICE_SWAP")

/-- The loads whose registers the entry in a place reads and stalls on, and that have been outstanding for more than SWAPTHR clocks (R49,
R52). -/
def State.lateOuts (s : State) (c q p : Nat) : List Nat :=
  let k := s.core c
  match s.placed c q p with
  | none => []
  | some (_, _, e) =>
    match e.wait with
    | .busyReg _ reads =>
      (k.outs.filter fun o =>
        reads.contains o.id && o.load && !o.long && decide (bits (k.quarter q).sched.toNat 7 0 < s.clk.compute - o.since)).map fun o => o.id
    | _ => []

/-- The stall becomes a long-latency dependence and the entry is swapped out if another is ready (R49). -/
def execSwapthrExpiry (core quarter place : Nat) (s : State) : Result :=
  let late := s.lateOuts core quarter place
  match late, s.placed core quarter place with
  | _ :: _, some (pl, _, e) =>
    let k := s.core core
    let k := { k with outs := k.outs.map fun o => if late.contains o.id then { o with long := true } else o }
    .next ((s.setCore core k).meetWait core pl.slot e.id false)
  | _, _ => .refused (.notEnabled "SWAPTHR_EXPIRY")

/-! ## Results that arrive (R55, R413, R415) -/

/-- A result whose requests have all been answered is written, after the older fixed-latency results of its registers (R56); its
registers are free, and the record that it latched is let go. -/
def execLoadComplete (core id : Nat) (s : State) : Result :=
  let k := s.core core
  match k.outs.find? fun o => decide (o.id = id) with
  | none => .refused (.notEnabled "LOAD_COMPLETE")
  | some o =>
    let older := fun (p : Pend) => o.dests.any fun d => decide (p.tgt = .reg d.loc)
    let early := ((k.group? o.slot).map fun g => g.pend).any fun ps =>
      ps.any fun p => older p && decide (s.clk.compute < p.ready)
    if !k.answered o || early then .refused (.notEnabled "LOAD_COMPLETE")
    else
      .next (s.setCore core ((k.settle o.slot older).landOut o))

/-! ## Refills (R65, R430) -/

/-- The spill records of a group, and the frames that they hold. -/
def Core.spillsOf (k : Core) (slot : Nat) : List (Nat × SpillRec) :=
  k.spills.filter fun r => match r.2.kind with
    | .group n => decide (n = slot)
    | .park _ _ _ _ _ _ => false
    | .saved _ => false

def Core.spilledFrames (k : Core) (slot : Nat) : List (Nat × Frame) := (k.spillsOf slot).flatMap fun r => r.2.frames

/-- The places of a spilled group's frames, where they all fit. -/
def Core.refillPlace (k : Core) (slot : Nat) : Option (List (Nat × Option (Nat × Nat))) :=
  k.place (frameSizes (k.spilledFrames slot))

/-- A spill record that the ESE cannot read, or that holds uncorrectable data (R419, R453). -/
def State.recordsBad (s : State) (c v : Nat) : List (Nat × SpillRec) → State × Bool
  | [] => (s, false)
  | r :: t =>
    match State.agentReads (r.2.size / 8) s (c / 48) v r.2.off with
    | (s, .error _) => (s, true)
    | (s, .ok _) => s.recordsBad c v t

/-- The frames of a spilled group come back to new places, its records are free, and the entries that waited for them
issue again (R65). -/
def State.refill (s : State) (c slot : Nat) (ps : List (Nat × Option (Nat × Nat))) : State :=
  let k := s.core c
  match k.group? slot with
  | none => s
  | some g =>
    let cells := k.badCells ((k.spilledFrames slot).map Prod.fst)
    match s.recordsBad c g.vf (k.spillsOf slot) with
    | (s, true) => s.fatalGroup c slot none .dataUncorrectable 0 0
    | (s, false) =>
      if cells then s.fatalGroup c slot none .dataUncorrectable 0 0 else
      let k := s.core c
      let recs := (k.spillsOf slot).map Prod.fst
      let fs := k.spilledFrames slot
      let k := k.putFrames fs ps
      let own := fun (id : EntId) => k.allocs.any fun a => decide (a.slot = slot) && decide (a.ent = some id)
      let g := { g with
        spilled := false
        entries := g.entries.map fun e => if e.wait = .alloc && !own e.id then e.woken s.clk.compute else e }
      let k := { k with
        spills := k.spills.filter fun r => !recs.contains r.1
        allocs := k.allocs.filter fun a => !(decide (a.slot = slot) && decide (a.ent = none)) }
      s.setCore c (k.setGroup slot g)

/-- An entry of a spilled group that would issue. -/
def State.wantsRefill (s : State) (c slot : Nat) : Bool :=
  match (s.core c).group? slot with
  | none => false
  | some g => g.spilled && g.entries.any fun e => s.entryReady c slot { g with spilled := false } e

/-- A spilled group with a ready entry asks for its frames, and gets them at once when no older request waits and they
fit (R63, R65). -/
def execEseRefill (core slot : Nat) (s : State) : Result :=
  let k := s.core core
  let asked := k.allocs.any fun a => decide (a.slot = slot) && decide (a.ent = none)
  if !s.wantsRefill core slot || asked then .refused (.notEnabled "ESE_REFILL")
  else
    match k.allocs, k.refillPlace slot with
    | [], some ps => .next (s.refill core slot ps)
    | _, _ =>
      let a : AllocReq := { slot := slot, ent := none, since := s.clk.compute, size := 0 }
      .next (s.setCore core { k with allocs := k.allocs ++ [a] })

/-! ## Allocation (R63) -/

/-- The sizes of the frames that an entry's request needs: one fresh frame, or those of the parked context that it
adopts. -/
def State.allocSizes (s : State) (v : Nat) (e : Entry) (size : Nat) : List (Nat × Bool) :=
  match e.adopting.bind fun h => s.findPark h v with
  | none => [(size, true)]
  | some (_, _, r) =>
    match r.kind with
    | .park _ _ _ _ _ root => r.frames.map fun f => (f.2.size, decide (f.1 = root) || f.2.hdr.isSome)
    | .group _ => []
    | .saved _ => []

/-- The oldest request of a core can be placed; that of a group that has been spilled meanwhile needs the group's own frames
first, at the age of the request (R63, R65). -/
def State.allocFits (s : State) (c : Nat) (a : AllocReq) : Bool :=
  let k := s.core c
  match a.ent with
  | none => (k.refillPlace a.slot).isSome
  | some id =>
    match k.group? a.slot with
    | none => true
    | some g =>
      if g.spilled then (k.refillPlace a.slot).isSome
      else
      match g.entry? id with
      | none => true
      | some e => (k.place (s.allocSizes g.vf e a.size)).isSome

/-- The oldest request is served: a refill takes place, and a `CALL` or an adoption issues again while no other request
can take its blocks. -/
def execFrameAllocation (core : Nat) (s : State) : Result :=
  let k := s.core core
  match k.allocs with
  | [] => .refused (.notEnabled "FRAME_ALLOCATION")
  | a :: _ =>
    match a.ent with
    | none =>
      match k.refillPlace a.slot with
      | none => .refused (.notEnabled "FRAME_ALLOCATION")
      | some ps => .next (s.refill core a.slot ps)
    | some id =>
      match (k.group? a.slot).bind fun g => g.entry? id with
      | none => .next (s.setCore core (k.doneAlloc a.slot id))
      | some e =>
        if ((k.group? a.slot).map fun g => g.spilled).getD false then
          match k.refillPlace a.slot with
          | none => .refused (.notEnabled "FRAME_ALLOCATION")
          | some ps => .next (s.refill core a.slot ps)
        else if e.wait = .alloc && s.allocFits core a then .next (s.setCore core (k.setEntry a.slot (e.woken s.clk.compute)))
        else .refused (.notEnabled "FRAME_ALLOCATION")

/-! ## Spills (R64, R66, R67, R429-R431) -/

/-- The clocks of SPILLWAIT; 0 acts as 1 (R67). -/
def Core.spillWait (k : Core) : Nat := max 1 (bits k.eseCtl.toNat 15 0)

/-- The clock at which the last entry of an all-waiting group began to wait. -/
def Group.age (g : Group) : Nat := g.entries.foldl (fun n e => max n e.waitFrom) 0

/-- The groups that step 1 of R64 may spill: resident, every entry pending and waiting, not the requester. -/
def State.spillable (s : State) (c slot : Nat) : List (Nat × Group) :=
  let k := s.core c
  k.groups.filter fun g =>
    decide (g.1 ≠ slot) && !g.2.spilled && (k.frames.any fun f => decide (f.2.slot = g.1))
      && g.2.entries.all fun e =>
        e.handler.isNone && (k.placeOf g.1 e.id).isNone && !s.waitOver c g.1 g.2 e

/-- The one of them that became all-waiting first; of several of one age, the one in the lowest slot (DESIGN CHOICE, log 40). -/
def oldestGroup (l : List (Nat × Group)) : Option (Nat × Group) :=
  l.foldl (fun best g => match best with
    | none => some g
    | some b => if g.2.age < b.2.age then some g else some b) none

/-- Frames of a group written to a spill record and their blocks freed; the bytes that the record needs where there is
no room for it. -/
def State.spillFrames (s : State) (c slot : Nat) (g : Group) (fs : List (Nat × Frame)) : State × Except Nat Unit :=
  let ids := fs.map Prod.fst
  let s := s.setCore c ((s.core c).landOnto ids)
  let fs := (s.core c).frames.filter fun f => ids.contains f.1
  match s.writeSpill c g.vf (s.launch g.launch).hdr 0 fs 0 (.group slot) with
  | (s, none) => (s, .error (spillBytes fs))
  | (s, some _) =>
    let k := s.core c
    (s.setCore c { k with frames := k.frames.filter fun f => !fs.any fun x => decide (x.1 = f.1) }, .ok ())

/-- A whole group spilled; a header cell in error ends it (R419). -/
def State.spillGroup (s : State) (c slot : Nat) (g : Group) : State × Except Nat Unit :=
  let all := (s.core c).frames.filter fun f => decide (f.2.slot = slot)
  if (s.core c).badCells (all.map Prod.fst) then (s.fatalGroup c slot none .dataUncorrectable 0 0, .ok ())
  else
  match s.spillFrames c slot g all with
  | (s, .error n) => (s, .error n)
  | (s, .ok _) => (s.setGroup c slot { g with spilled := true }, .ok ())

/-- Step 1 of R64, by fuel: groups are spilled, oldest wait first, until the request fits. -/
def State.spillOthers : Nat → State → Nat → AllocReq → State × Except Nat Unit
  | 0, s, _, _ => (s, .ok ())
  | n + 1, s, c, a =>
    if s.allocFits c a then (s, .ok ())
    else
      match oldestGroup (s.spillable c a.slot) with
      | none => (s, .ok ())
      | some (slot, g) =>
        match s.spillGroup c slot g with
        | (s, .error b) => (s, .error b)
        | (s, .ok _) => State.spillOthers n s c a

/-- Step 2 of R64: every frame of the requesting group but the current frames of its entries. -/
def State.spillOwn (s : State) (c : Nat) (a : AllocReq) : State × Except Nat Unit :=
  let k := s.core c
  match k.group? a.slot with
  | none => (s, .ok ())
  | some g =>
    let fs := k.frames.filter fun f => decide (f.2.slot = a.slot) && !g.entries.any fun e => decide (e.frame = f.1)
    if fs.isEmpty then (s, .ok ())
    else if k.badCells (fs.map Prod.fst) then (s.fatalGroup c a.slot none .dataUncorrectable 0 0, .ok ())
    else s.spillFrames c a.slot g fs

/-- The entry can enter a handler: no other entry of its group runs one, and it has or can get a slot; or its trap is fatal (R69,
R369, R373). -/
def State.mayTrap (s : State) (c slot : Nat) (e : Entry) : Bool :=
  let k := s.core c
  e.handler.isSome || (k.group? slot).any fun g =>
    decide ((s.launch g.launch).hdr.trapVec = 0)
      || ((g.entries.all fun f => decide (f.id = e.id) || f.handler.isNone) && (k.ensurePlace slot e.id s.clk.compute).isSome)

/-- A trap of R64 against the requesting entry; a claimed task's is in its own code, at its ENTRY (R429, R431).
It waits while another entry of the group runs a handler, or handlers hold every slot of the quarter (R69, R369). -/
def State.allocTrap (s : State) (c slot : Nat) (e : Entry) (cause : Cause) (i0 i1 : Nat) : State :=
  if !s.mayTrap c slot e then s
  else
  let s := s.setCore c ((s.core c).doneAlloc slot e.id)
  let v := (((s.core c).group? slot).map fun g => g.vf).getD 0
  let (s, at_) := match e.adopting with
    | none => (s, none)
    | some h =>
      match s.ownerRec c v h with
      | (s, none) => (s, none)
      | (s, some ws) => (s, some (BitVec.ofNat 64 (bits (getAt ws 0 0).toNat 54 0)))
  let s := s.takeTrap c slot e.id (trapPlain cause (BitVec.ofNat 32 i0) (BitVec.ofNat 32 i1) e.mask) 8
  match at_, ((s.core c).group? slot).bind fun g => (g.entry? e.id).bind fun e => e.handler with
  | some pc, some i =>
    let k := s.core c
    match KMap.get? k.traps i with
    | some t => s.setCore c { k with traps := KMap.put k.traps i { t with tpc := pc } }
    | none => s
  | _, _ => s

/-- What is being placed for a request is a refill: of its whole group, which has been spilled (R65, R430). -/
def Core.refills (k : Core) (a : AllocReq) : Bool := a.ent.isNone || (k.group? a.slot).any fun g => g.spilled

/-- What the ESE does for the oldest request once SPILLWAIT clocks have passed without a freed frame: it spills until
the request fits; a request that still does not fit, or a spill that finds no room, traps (R64, R429). A refill for which a spill
finds no room takes a fatal FRAME_DEMAND, and one that does not fit yet waits on (R430). -/
def State.spillFor (s : State) (c : Nat) (a : AllocReq) : State :=
  let g? := (s.core c).group? a.slot
  let spills := (g?.map fun g => (s.launch g.launch).hdr.spills).getD 0
  let refill := (s.core c).refills a
  match s.spillOthers 512 c a with
  | (s, .error b) =>
    match g?.bind fun g => a.ent.bind fun id => g.entry? id with
    | some e => if refill then s.fatalGroup c a.slot (some e) .frameDemand 0 0 else s.allocTrap c a.slot e .spillArea b spills
    | none => s.fatalGroup c a.slot none .frameDemand 0 0
  | (s, .ok _) =>
    if refill || s.allocFits c a then s
    else
      match a.ent, ((s.core c).group? a.slot).bind fun g => a.ent.bind fun id => g.entry? id with
      | some _, some e =>
        match s.spillOwn c a with
        | (s, .error b) => s.allocTrap c a.slot e .spillArea b spills
        | (s, .ok _) => if s.allocFits c a then s else s.allocTrap c a.slot e .frameDemand a.size e.depth
      | _, _ => s

/-- The oldest request of a core has waited long enough for the ESE, and spilling can do something for it. -/
def State.spillDue (s : State) (c : Nat) : Option AllocReq :=
  let k := s.core c
  match k.allocs with
  | [] => none
  | a :: _ =>
    if s.clk.compute < max a.since k.lastFree + k.spillWait || s.allocFits c a then none
    else if k.refills a && (s.spillable c a.slot).isEmpty then none
    else some a

/-- The spill is made in this step, and so is a refill: BUSY of ESE_CTL never reads 1 (R67) (DESIGN CHOICE, log 15). -/
def execEseSpill (core : Nat) (s : State) : Result :=
  match s.spillDue core with
  | some a => .next (s.spillFor core a)
  | none => .refused (.notEnabled "ESE_SPILL")

/-! ## A debugger's stops and steps (R382-R384) -/

/-- The SLOT field of CORE_DBG as the command wrote it. -/
def State.dbgSlot (s : State) (c slot : Nat) : State :=
  let k := s.core c
  s.setCore c { k with dbg := (k.dbg &&& 0xFFFFFE00) ||| BitVec.ofNat 32 (slot % 512) }

/-- A write with an operation while STATUS is 3 is ignored (R382). -/
def State.dbgIgnores (s : State) (c : Nat) : Bool := decide ((s.core c).dbgStatus = 3)

/-- OP 1: the group stops at the end of the clock, after a trap that one of its entries takes in it (R383). -/
def execDebugStop (core slot : Nat) (s : State) : Result :=
  if s.dbgIgnores core then .next s
  else
    let s := s.dbgSlot core slot
    match (s.core core).group? slot with
    | none => .next s
    | some g => if g.dbg = .running then .next (s.setGroup core slot { g with dbg := .stopPending }) else .next s

/-- The pending stops of a core take effect: every entry is held, and pending fixed-latency writes complete (R383). -/
def State.stopsDue (s : State) (c : Nat) : State :=
  ((s.core c).groups.filter fun g => decide (g.2.dbg = DbgState.stopPending)).foldl (fun s g => s.stopGroup c g.1 none) s

/-- A stopped group past the `BKPT` at which it stopped, if the entries that go on are among `pick` (R383, R384). -/
def Group.pastBkpt (g : Group) (pick : EntId → Bool) : Group :=
  match g.bkpt with
  | none => g
  | some (id, pc) =>
    if !pick id then g
    else
      match g.entry? id with
      | none => { g with bkpt := none }
      | some e => { g.setEntry { e with pc := pc + 8 } with bkpt := none }

/-- The entries of a group in fragment-entry order (R384). -/
def Group.entryOrder (g : Group) : List EntId :=
  (if (g.entry? .own).isSome then [.own] else [])
    ++ (List.range 256).filterMap fun n => if (g.entry? (.frag n)).isSome then some (.frag n) else none

/-- One issue attempt for each of the entries of a stopped group, and then the group is stopped again. -/
def State.stepEntries (s : State) (c slot : Nat) (pick : EntId → Bool) : State :=
  let s := s.dbgSlot c slot
  match (s.core c).group? slot with
  | none => s
  | some g =>
    if g.dbg ≠ .stopped then s
    else
      let g := { g.pastBkpt pick with dbg := .stepping }
      let ids := g.entryOrder.filter pick
      { s.setGroup c slot g with agenda := (ids.map fun id => .entry c slot id) ++ .stepEnd c slot :: s.agenda }

def execDebugStepGroup (core slot : Nat) (s : State) : Result :=
  if s.dbgIgnores core then .next s else .next (s.stepEntries core slot fun _ => true)

def execDebugStepEntry (core slot : Nat) (gent : Bool) (frag : Nat) (s : State) : Result :=
  if s.dbgIgnores core then .next s
  else
  let id : EntId := if gent then .own else .frag (frag % 256)
  let k := s.core core
  let f : W32 := BitVec.ofNat 32 ((frag % 256) * 2 ^ 17 + (if gent then 2 ^ 16 else 0))
  let s := s.setCore core { k with dbg := (k.dbg &&& 0xFE00FFFF) ||| f }
  .next (s.stepEntries core slot fun x => decide (x = id))

/-- OP 4: the group issues again, after the `BKPT` at which it stopped, if it did. -/
def execDebugResume (core slot : Nat) (s : State) : Result :=
  if s.dbgIgnores core then .next s
  else
    let s := s.dbgSlot core slot
    match (s.core core).group? slot with
    | none => .next s
    | some g =>
      if g.dbg = .stopped then .next (s.setGroup core slot { g.pastBkpt (fun _ => true) with dbg := .running }) else .next s

end Sys2Proof.Machine
end

