-- ==== Sys2Proof/Machine/Copies.lean ====
section
/-! DEFINITION. Copies: `COPYT`, `COPY16`, `CWAIT`, `CWMK`, and how a copy goes on and ends (R102, R103, R154,
R227-R230, R409). -/

namespace Sys2Proof.Machine

/-! ## The copy engine's events -/

/-- A class 1 event of a core's copy engine. -/
def copyEvent (c v code : Nat) : Event :=
  { Event.blank with code := code, cls := 1, block := 6, die := c / 48, unit := c % 48, vf := v }

/-- The arrival of a copy: one that R230 rejects is dropped with an ENGINE_DROP event; a workgroup that has ended
has no barrier. -/
def State.copyArrive (s : State) (c v wg b : Nat) : State :=
  if ((s.core c).wg? wg).isNone then s
  else
    match s.arriveBar c wg b 1 with
    | some s => s
    | none => s.raise (srcCore c) { copyEvent c v codeEngineDrop with info := BitVec.ofNat 64 b }

/-! ## A copy's elements (R103, R228) -/

/-- The number of elements of the box. -/
def CopyOp.total (op : CopyOp) : Nat := op.box.foldl (· * ·) 1

/-- The box index of element `i`, dimension 0 fastest. -/
def CopyOp.index (op : CopyOp) (i : Nat) : List Nat :=
  let x := fun (j : Nat) => getAt op.box j 1
  [i % x 0, i / x 0 % x 1, i / (x 0 * x 1) % x 2, i / (x 0 * x 1 * x 2)]

/-- The source VA of element `i`; none for an element outside the extents. -/
def CopyOp.source (op : CopyOp) (i : Nat) : Option Nat :=
  let r := lrecOf op.lrec
  let at_ := fun (j : Nat) => (getAt op.org j 0).toInt + ((getAt (op.index i) j 0 : Nat) : Int)
  if (List.range r.rank).all fun j => decide (0 ≤ at_ j) && decide (at_ j < ((getAt r.ext j 0 : Nat) : Int)) then
    some ((List.range r.rank).foldl (fun a j => a + (at_ j).toNat * getAt r.stride j 0) r.base)
  else none

/-- Bytes of an element, and those of an element outside the extents. -/
def CopyOp.bytes (op : CopyOp) : Nat := 2 ^ (lrecOf op.lrec).esize
def CopyOp.fillBytes (op : CopyOp) : List Byte :=
  List.replicate op.bytes (if (lrecOf op.lrec).fill = 1 then 0xFF#8 else 0#8)

/-- The B-store byte of element `i`: column slice (n mod 64), offset o0 + ((n / 64) × K + k) × b (R103). -/
def CopyOp.bPlace (op : CopyOp) (i : Nat) : Nat :=
  let ix := op.index i
  let n := getAt ix 0 0
  (n % 64) * 65536 + op.dst + (n / 64 * getAt op.box 1 1 + getAt ix 1 0) * op.bytes

/-- Bytes of the B-store written. -/
def Core.putBstore (k : Core) (a : Nat) (bs : List Byte) : Core :=
  { k with
    bstore := (List.range bs.length).foldl (fun m i => KMap.putD m (a + i) (getAt bs i 0) 0) k.bstore
    bstorePoison := k.bstorePoison.filter fun p => !(decide (a ≤ p) && decide (p < a + bs.length)) }

/-- One element written at its place, poisoned data with its mark (R415, R419). -/
def Core.putElement (k : Core) (op : CopyOp) (i : Nat) (bs : List Byte) (poison : Bool) : Core :=
  if op.bst then
    let k := k.putBstore (op.bPlace i) bs
    if poison then { k with bstorePoison := (List.range bs.length).map (fun j => op.bPlace i + j) ++ k.bstorePoison } else k
  else
    let a := op.base + op.dst + i * op.bytes
    let k := k.putScratch a bs
    if poison then { k with scratchPoison := (List.range bs.length).map (fun j => a + j) ++ k.scratchPoison } else k

/-- The data of element `i` where it can be read without firmware, with its poison; none where its page faults. -/
def State.copyData (s : State) (c : Nat) (op : CopyOp) (i : Nat) : Option (List Byte × Bool) :=
  match op.source i with
  | none => some (op.fillBytes, false)
  | some va =>
    match s.xlate (s.die (c / 48)).tlb op.vf va .rd with
    | .mem pa _ => some (s.bytes pa op.bytes, s.poisoned pa)
    | .mmio _ _ => none
    | .bad _ _ _ => none

/-- The watermark of a copy that has written `pos` elements; a B-store copy leaves it (R228). -/
def CopyChan.mark (ch : CopyChan) (op : CopyOp) : CopyChan :=
  if op.bst then { ch with op := some op } else { ch with op := some op, wmk := op.dst + op.pos * op.bytes }

def Core.setChan (k : Core) (ch : Nat) (x : CopyChan) : Core := { k with chans := KMap.put k.chans ch x }

/-- The copy engine's read of element `i`: one request to the home slice for each line that it comes to (R149, R274). -/
def State.copyRead (s : State) (c : Nat) (op : CopyOp) (i : Nat) : State :=
  let at_ := fun (i : Nat) => (op.source i).bind fun va =>
    match s.xlate (s.die (c / 48)).tlb op.vf va .rd with
    | .mem pa pres => some (lineOf pa, pres)
    | .mmio _ _ => none
    | .bad _ _ _ => none
  match at_ i with
  | none => s
  | some l => if i ≠ 0 && decide (at_ (i - 1) = some l) then s else s.sendReq c op.vf .load l.1 l.2 none

/-- The next element of the copy of a channel; none where it cannot be read, or none is left. -/
def State.copyNext (s : State) (c ch : Nat) : Option State :=
  let k := s.core c
  match (k.chan ch).op with
  | none => none
  | some op =>
    if op.total ≤ op.pos then none
    else
      match s.copyData c op op.pos with
      | none => none
      | some (bs, pz) =>
        some ((s.setCore c
          ((k.putElement op op.pos bs pz).setChan ch ((k.chan ch).mark { op with pos := op.pos + 1 }))).copyRead c op op.pos)

/-- At most `n` further elements of a channel's copy. -/
def State.copySome : Nat → State → Nat → Nat → State
  | 0, s, _, _ => s
  | n + 1, s, c, ch =>
    match s.copyNext c ch with
    | none => s
    | some s => State.copySome n s c ch

/-- The copy of a channel is over: its range is cleared, its record released, and its arrival made. -/
def State.copyOver (s : State) (c ch : Nat) : State :=
  let k := s.core c
  match (k.chan ch).op with
  | none => s
  | some op =>
    let s := s.setCore c ((k.setChan ch { k.chan ch with lo := 0, hi := 0, op := none }).unlatchRec (op.handle, op.table))
    match op.bar with
    | some b => s.copyArrive c op.vf op.wg b
    | none => s

/-- A copy finishes its writes and arrives on its barrier (R228). -/
def execCopyComplete (c ch : Nat) (s : State) : Result :=
  match ((s.core c).chan ch).op with
  | none => .refused (.notEnabled "COPY_COMPLETE")
  | some op =>
    let s := State.copySome (op.total - op.pos) s c ch
    match ((s.core c).chan ch).op with
    | some op => if op.pos = op.total then .next (s.copyOver c ch) else .refused (.notEnabled "COPY_COMPLETE")
    | none => .refused (.notEnabled "COPY_COMPLETE")

/-- A copy at an element that faults: firmware resolves the page and the copy goes on, or the copy ends with an
event, its range cleared and its arrival made (R409). -/
def State.copyFault (s : State) (c ch : Nat) : Option State :=
  match ((s.core c).chan ch).op with
  | none => none
  | some op =>
    match op.source op.pos, s.copyData c op op.pos with
    | some va, none =>
      match s.agentAddr (c / 48) op.vf va .rd with
      | (s, .ok _) => some s
      | (s, .error code) =>
        let ev := { copyEvent c op.vf code with addrVa := true, addr := BitVec.ofNat 64 va }
        some ((s.raise (srcCore c) ev).copyOver c ch)
    | _, _ => none

/-! ## `COPYT` (R228) -/

def copyScope (o : SF) : Nat := bits o.ctrl.toNat 15 13
def copyImm (o : SF) : Nat := bits o.ctrl.toNat 10 0

/-- ORD 0, and a SCOPE that is neither 0 nor 7 (R227). -/
def copyCtlOk (o : SF) : Bool :=
  decide (bits o.ctrl.toNat 12 11 = 0) && decide (copyScope o ≠ 0) && decide (copyScope o ≠ 7)

/-- The checks on the destination of a copy of `n` bytes (R82, R228). -/
def copyDstTrap (w : Workgroup) (bst : Bool) (dst n rank b : Nat) (box : List Nat) : Option Trap :=
  if bst then
    if 2 < rank || 65536 < dst + getAt box 1 0 * ((getAt box 0 0 + 63) / 64) * b then some (scrTrap .permission dst) else none
  else if dst % 16 ≠ 0 then some (scrTrap .misaligned dst)
  else if w.scratchLen < dst + n then some (scrTrap .permission dst)
  else none

def execCopyt (o : SF) (s : State) : Result :=
  let imm := copyImm o
  let ch := bits imm 3 0
  let bar := if bit imm 8 then some (bits imm 7 4) else none
  let bst := bit imm 9
  let sp : Spec :=
    { instr := .copyt o, g := o.g, inHandler := false, scope := copyScope o
      srcs := [(o.a.toNat, 1), (o.b.toNat, 4), (o.c.toNat, 3)]
      fields := copyCtlOk o && decide (o.d = 0#8) && !bit imm 10 }
  issue sp
    (fun x s =>
      let (cached, s) := s.choice 2
      match s.latchLrec x (decide (cached = 1)) (x.low32 o.a.toNat) sp.word with
      | .error t => .trap (wideTrap x t)
      | .ok ws =>
        let r := lrecOf ws
        let b := 2 ^ r.esize
        let org := (List.range 4).map fun j => x.low32 (o.b.toNat + j)
        let half := fun (i : Nat) => (x.low32 (o.c.toNat + 1 + i / 2)).toNat / 2 ^ (16 * (i % 2)) % 65536
        let box := (List.range 4).map half
        let dst := (x.low32 o.c.toNat).toNat
        let n := box.foldl (· * ·) 1 * b
        let w := x.k.wg x.g.wg
        let extra := fun (j : Nat) => decide (r.rank ≤ j) && (decide (1 < getAt box j 0) || decide (getAt org j 0 ≠ 0#32))
        if (List.range 4).any extra then .trap (wideTrap x (reservedTrap sp.word))
        else if box.contains 0 then
          .done (match bar with
            | some i => s.copyArrive x.c x.v x.g.wg i
            | none => s)
        else
          match copyDstTrap w bst dst n r.rank b box with
          | some t => .trap (wideTrap x t)
          | none =>
            if (x.k.chan ch).op.isSome then .wait s (.copyIdle ch)
            else
              let op : CopyOp :=
                { wg := x.g.wg, vf := x.v, lrec := ws, handle := x.low32 o.a.toNat, table := s.recTable x, org := org, box := box, dst := dst
                  bst := bst, bar := bar, scope := copyScope o, base := w.scratchBase, pos := 0 }
              let k := s.core x.c
              let chan := if bst then { k.chan ch with used := true, op := some op }
                else { used := true, wmk := dst, lo := dst, hi := dst + n, op := some op }
              .done (s.setCore x.c ((k.setChan ch chan).latchRec op.handle op.table ws none))) s

/-! ## `COPY16` (R229) -/

def execCopy16 (o : SF) (s : State) : Result :=
  let imm := copyImm o
  issue
    { instr := .copy16 o, g := o.g, inHandler := false, scope := copyScope o
      srcs := [(o.a.toNat, 2), (o.b.toNat, 1)]
      fields := copyCtlOk o && decide (o.d = 0#8) && decide (o.c = 0#8) && decide (o.a.toNat % 2 = 0)
        && decide (bits imm 10 4 = 0) }
    (fun x s =>
      let ls := lanesOf x.act
      let src := fun (l : Nat) => (x.pair o.a.toNat l).toNat
      let dst := fun (l : Nat) => (x.lane o.b.toNat l).toNat
      let w := x.k.wg x.g.wg
      match overLanes ls (fun l =>
          if src l % 16 ≠ 0 then (.error (trapVa .misaligned (src l) 0) : Except Trap Unit)
          else if dst l % 16 ≠ 0 then .error (scrTrap .misaligned (dst l)) else .ok ()) with
      | .error t => .trap t
      | .ok _ =>
        match overLanes ls (fun l =>
            if dst l + 16 ≤ w.scratchLen then (.ok () : Except Trap Unit) else .error (scrTrap .permission (dst l))) with
        | .error t => .trap t
        | .ok _ =>
          match overLanes ls fun l => s.reachMem x (src l) .rd with
          | .error t => .trap t
          | .ok ps =>
            let s := s.noteAll x (ls.map src) .rd
            let k := s.core x.c
            let op : Copy16 :=
              { id := k.nextId, wg := x.g.wg, vf := x.v, bar := bits imm 3 0
                moves := ps.map fun p => (p.2.1, w.scratchBase + dst p.1, p.2.2) }
            .done (s.setCore x.c { k with copy16s := k.copy16s ++ [op], nextId := k.nextId + 1 })) s

/-- One lane's 16 bytes copied. -/
def State.move16 (s : State) (c pa a : Nat) : State :=
  let k := (s.core c).putScratch a (s.bytes pa 16)
  s.setCore c (if s.poisoned pa then { k with scratchPoison := (List.range 16).map (fun j => a + j) ++ k.scratchPoison } else k)

/-- Every lane's copy is complete, and the barrier has its one arrival (R229). -/
def execCopy16Complete (c id : Nat) (s : State) : Result :=
  match (s.core c).copy16s.find? fun o => decide (o.id = id) with
  | none => .refused (.notEnabled "COPY16_COMPLETE")
  | some op =>
    let s := s.sendReqs c op.vf .load none ((op.moves.map fun m => (lineOf m.1, m.2.2)).eraseDups)
    let s := op.moves.foldl (fun s m => s.move16 c m.1 m.2.1) s
    let k := s.core c
    .next ((s.setCore c { k with copy16s := k.copy16s.filter fun o => decide (o.id ≠ id) }).copyArrive c op.vf op.wg op.bar)

/-! ## `CWAIT`, `CWMK` (R229) -/

def execCwait (o : SF) (s : State) : Result :=
  issue
    { instr := .cwait o, g := o.g, inHandler := false, srcs := [(o.a.toNat, 1)]
      fields := sfZero o false true false true false && decide (o.c.toNat < 16) }
    (fun x s =>
      let a := (x.low32 o.a.toNat).toNat
      if x.k.copyPast o.c.toNat x.g.wg a then .done s else .wait s (.copyMark o.c.toNat a)) s

def execCwmk (o : SF) (s : State) : Result :=
  issue
    { instr := .cwmk o, g := o.g, inHandler := false, dsts := [(o.d.toNat, 1)]
      fields := sfZero o true false false true false && decide (o.c.toNat < 16) }
    (fun x _ => .later [(o.d.toNat, splat (BitVec.ofNat 32 (x.k.chan o.c.toNat).wmk))]) s

end Sys2Proof.Machine
end

