-- ==== Sys2Proof/Machine/Matrix.lean ====
section
/-! DEFINITION. Matrix arithmetic, operand reservations, and the operations of a core's matrix array and drain path
(R130-R133, R237-R242, R247, R248, R252). -/

namespace Sys2Proof.Machine

/-! ## Arithmetic (R132, R133) -/

/-- An operand element or a product. -/
inductive MElem where
  | nan
  | inf (neg : Bool)
  | fin (neg : Bool) (v : Dy)
  deriving DecidableEq, Repr

/-- The K step of a format code (R132). -/
def kStep (fmt : Nat) : Nat := if fmt = 12 then 64 else if fmt = 13 then 128 else 16

/-- The value of an operand element's bits under scale byte `sc` (R130). -/
def elemOf (fmt raw sc : Nat) : MElem :=
  if fmt = 12 || fmt = 13 then
    let d := narrowDy (fmt = 12) ((sc : Int) - 127) raw
    .fin (decide (d.m < 0)) d
  else
    let f := if fmt = 10 then f16 else bf16
    if fIsNan f raw then .nan
    else if fIsInf f raw then .inf (fneg f raw)
    else .fin (fneg f raw) (fVal f raw)

/-- The exact product of two elements: its sign is the XOR of theirs, also where a narrow zero, which has no sign of its own, meets a
negative element (DESIGN CHOICE, log 40). -/
def mulElem (a b : MElem) : MElem :=
  match a, b with
  | .nan, _ => .nan
  | _, .nan => .nan
  | .inf x, .inf y => .inf (x != y)
  | .inf x, .fin y v => if v.m = 0 then .nan else .inf (x != y)
  | .fin x v, .inf y => if v.m = 0 then .nan else .inf (x != y)
  | .fin x v, .fin y w => .fin (x != y) (v.mul w)

/-- `KStepSum` over the products of one step. -/
def stepSum (ps : List MElem) : MElem :=
  if ps.any fun p => decide (p = .nan) then .nan
  else
    let pos := ps.any fun p => decide (p = .inf false)
    let neg := ps.any fun p => decide (p = .inf true)
    if pos && neg then .nan
    else if pos then .inf false
    else if neg then .inf true
    else
      let s := ps.foldl (fun a p => match p with
        | .fin _ v => a.add v
        | .inf _ => a
        | .nan => a) (Dy.ofInt 0)
      if s.m = 0 then
        .fin (ps.all fun p => match p with
          | .fin n v => n && decide (v.m = 0)
          | .inf _ => false
          | .nan => false) (Dy.ofInt 0)
      else .fin (decide (s.m < 0)) s

/-- `AccAdd`: an FP32 value plus an exact step sum, rounded once. -/
def accAdd (a : Nat) (x : MElem) : Nat :=
  match x with
  | .nan => 0x7FC00000
  | .inf n =>
    if fIsNan f32 a then fQuiet f32 a
    else if fIsInf f32 a && (fneg f32 a != n) then 0x7FC00000
    else fSigned f32 n f32.inf
  | .fin n v =>
    if fIsNan f32 a then fQuiet f32 a
    else if fIsInf f32 a then a
    else (roundDy f32 .rn (fneg f32 a && n) ((fVal f32 a).add v)).bits

/-- The K steps of one accumulator element in increasing k. -/
def accSteps (a b : Nat → MElem) (ks : Nat) : Nat → Nat → Nat → Nat
  | 0, _, acc => acc
  | n + 1, k, acc =>
    accSteps a b ks n (k + ks) (accAdd acc (stepSum ((List.range ks).map fun i => mulElem (a (k + i)) (b (k + i)))))

/-- An FP32 value plus an FP32 value, one rounding (R134). -/
def accPlus (a b : Nat) : Nat := (fAdd f32 .rn a b).bits

/-! ## Reservation records (R238-R240) -/

def Resv.space (r : Resv) : Nat := bits r.r0.toNat 31 30
def Resv.fmt (r : Resv) : Nat := bits r.r0.toNat 29 26
/-- R of an A reservation, C of a B reservation. -/
def Resv.ext (r : Resv) : Nat := 16 * 2 ^ bits r.r0.toNat 25 24
def Resv.base (r : Resv) : Nat := bits r.r0.toNat 23 0
def Resv.klen (r : Resv) : Nat := bits r.r1.toNat 31 16
def Resv.pitch (r : Resv) : Nat := bits r.r1.toNat 15 0
def Resv.slr (r : Resv) : Nat := bits r.r2.toNat 31 28
def Resv.sbase (r : Resv) : Nat := bits r.r2.toNat 20 0
def Resv.srstr (r : Resv) : Nat := bits r.r3.toNat 31 16
def Resv.scstr (r : Resv) : Nat := bits r.r3.toNat 15 0
/-- TW8 or MO4: an operand with scale bytes. -/
def Resv.scaled (r : Resv) : Bool := decide (r.fmt = 12) || decide (r.fmt = 13)
/-- Half-bytes of an element. -/
def Resv.half (r : Resv) : Nat := if r.fmt = 12 then 2 else if r.fmt = 13 then 1 else 4
/-- KLEN × b. -/
def Resv.kBytes (r : Resv) : Nat := r.klen * r.half / 2
/-- Rows and columns of a scale block. -/
def Resv.blkR (r : Resv) : Nat := 2 ^ r.slr
def Resv.blkC (r : Resv) : Nat := kStep r.fmt / 2 ^ r.slr

/-- The operand range: first byte and length. -/
def Resv.range (r : Resv) : Nat × Nat := (r.base, if r.space = 0 then r.ext * r.pitch else r.kBytes)

/-- The largest offset of a scale byte (R241). -/
def Resv.scaleTop (r : Resv) : Nat :=
  let rows := if r.space = 0 then r.ext else r.klen
  let cols := if r.space = 0 then r.klen else r.ext
  r.sbase + (rows - 1) / r.blkR * r.srstr + (cols - 1) / r.blkC * r.scstr

/-- A reserved value or bit of a record (R241). -/
def Resv.reserved (r : Resv) : Bool :=
  let lg := if r.fmt = 12 then 6 else if r.fmt = 13 then 7 else 4
  decide (2 ≤ r.space) || !([10, 11, 12, 13].contains r.fmt) || decide (bits r.r0.toNat 25 24 = 3)
    || decide (bits r.r2.toNat 27 21 ≠ 0) || (!r.scaled && (decide (r.r2 ≠ 0#32) || decide (r.r3 ≠ 0#32)))
    || decide (lg < r.slr) || (decide (r.space = 0) && decide (r.base % 16 ≠ 0))
    || (decide (r.space = 1) && decide (r.pitch ≠ 0)) || decide (r.klen = 0) || decide (r.klen % kStep r.fmt ≠ 0)

/-- The blocks do not tile the operand (R240). -/
def Resv.tilingBroken (r : Resv) : Bool :=
  r.scaled && (if r.space = 0 then decide (r.ext % r.blkR ≠ 0) || decide (r.klen % r.blkC ≠ 0)
    else decide (r.klen % r.blkR ≠ 0) || decide (r.ext % r.blkC ≠ 0))

/-- Two ranges, first byte and length, meet. -/
def meets (a b : Nat × Nat) : Bool := decide (a.1 < b.1 + b.2) && decide (b.1 < a.1 + a.2)

/-- Bits of an element at half-byte place `p` of `h` half-bytes. -/
def halfBytes (get : Nat → Nat) (p h : Nat) : Nat :=
  match h with
  | 1 => get (p / 2) / 16 ^ (p % 2) % 16
  | 2 => get (p / 2)
  | _ => get (p / 2) + 256 * get (p / 2 + 1)

/-- A byte of the pool, and of the B-store. -/
def Core.poolByte (k : Core) (a : Nat) : Nat := (KMap.getD k.scratch a 0).toNat
def Core.bByte (k : Core) (a : Nat) : Nat := (KMap.getD k.bstore a 0).toNat

/-- A element (m, k), with the scratchpad at pool offset `base`. -/
def Core.aElem (c : Core) (base : Nat) (r : Resv) (m k : Nat) : MElem :=
  elemOf r.fmt (halfBytes c.poolByte (2 * (base + r.base + m * r.pitch) + k * r.half) r.half)
    (if r.scaled then c.poolByte (base + r.sbase + m / r.blkR * r.srstr + k / r.blkC * r.scstr) else 0)

/-- B element (k, n): column slice n, offset BASE + k × b. -/
def Core.bElem (c : Core) (base : Nat) (r : Resv) (k n : Nat) : MElem :=
  elemOf r.fmt (halfBytes c.bByte (2 * (n * 65536 + r.base) + k * r.half) r.half)
    (if r.scaled then c.poolByte (base + r.sbase + k / r.blkR * r.srstr + n / r.blkC * r.scstr) else 0)

/-! ## Accumulator slots (R242) -/

def Core.accElem (c : Core) (slot m n : Nat) : W32 := KMap.getD (KMap.getD c.acc slot []) (64 * m + n) 0

/-- A poisoned byte lies in what an operation reads (R419). -/
def Core.poisonedOperands (c : Core) (base : Nat) (ra rb : Resv) (k0 k m n : Nat) : Bool :=
  let scr := c.scratchPoison
  let aHit := fun (p : Nat) => (List.range m).any fun i =>
    let lo := base + ra.base + i * ra.pitch + k0 * ra.half / 2
    decide (lo ≤ p) && decide (p < lo + k * ra.half / 2)
  let sHit := fun (p : Nat) => (ra.scaled && decide (base + ra.sbase ≤ p) && decide (p ≤ base + ra.scaleTop))
    || (rb.scaled && decide (base + rb.sbase ≤ p) && decide (p ≤ base + rb.scaleTop))
  let bHit := fun (p : Nat) =>
    decide (p / 65536 < n) && decide (rb.base + k0 * rb.half / 2 ≤ p % 65536)
      && decide (p % 65536 < rb.base + (k0 + k) * rb.half / 2)
  scr.any (fun p => aHit p || sHit p) || c.bstorePoison.any bHit

/-- `MMA` and `MMAZ` performed. -/
def Core.runMma (c : Core) (ra rb : Resv) (base slot k0 k m n : Nat) (zero : Bool) : Core :=
  let ks := kStep ra.fmt
  let old := KMap.getD c.acc slot []
  let cell := fun (t : KMap W32) (i : Nat) =>
    let mm := i / n
    let nn := i % n
    let start := if zero then 0 else (c.accElem slot mm nn).toNat
    let v := accSteps (fun j => c.aElem base ra mm j) (fun j => c.bElem base rb j nn) ks (k / ks) k0 start
    KMap.putD t (64 * mm + nn) (BitVec.ofNat 32 v) 0
  let bad := c.poisonedOperands base ra rb k0 k m n
  let pz := if zero then c.accPoison.filter fun x => decide (x ≠ slot) else c.accPoison
  { c with
    acc := KMap.put c.acc slot ((List.range (m * n)).foldl cell old)
    accPoison := if bad && !pz.contains slot then slot :: pz else pz }

/-! ## Drains (R248) -/

/-- Bytes of a drained element, and its bits (R248). -/
def cvtBytes (cvt : Nat) : Nat := if cvt = 0 then 4 else 2
def cvtBits (cvt : Nat) (x : W32) : Nat :=
  match cvt with
  | 0 => x.toNat
  | 1 => (fConv f32 bf16 .rn x.toNat).bits
  | _ => (fConv f32 f16 .rn x.toNat).bits

/-- The elements of a drain in row order: byte address and value. -/
def Core.drainElems (c : Core) (slot m n : Nat) (addr pitch : W64) (e : Nat) : List (Nat × W32) :=
  (List.range (m * n)).map fun i =>
    ((addr.toNat + i / n * pitch.toNat + i % n * e) % 2 ^ 64, c.accElem slot (i / n) (i % n))

/-- An element that a drain writes: its PA, whether a PRES page holds it, and its value. -/
abbrev DrainElem := Nat × Bool × W32

/-- The place of each element up to the first that faults, and that one's VA with its code. -/
def State.drainPas (d v : Nat) : State → List (Nat × W32) → State × List DrainElem × Option (Nat × Nat)
  | s, [] => (s, [], none)
  | s, (va, x) :: t =>
    match s.agentPlace d v va .wr with
    | (s, .error code) => (s, [], some (va, code))
    | (s, .ok (pa, pres)) =>
      let (s, r, f) := State.drainPas d v s t
      (s, (pa, pres, x) :: r, f)

/-- Elements gathered into one contribution for each line, in order. -/
def gatherContribs (v c op : Nat) (seq : Option (Nat × Nat)) : List DrainElem → List Contribution → List Contribution
  | [], acc => acc
  | (pa, pres, x) :: t, acc =>
    let l := lineOf pa
    let e := (pa % 128, x)
    gatherContribs v c op seq t
      (if acc.any fun a => decide (a.line = l) then
        acc.map fun a => if a.line = l then { a with elems := a.elems ++ [e] } else a
      else acc ++ [{ line := l, vf := v, pres := pres, seq := seq, elems := [e], core := c, op := op, num := none }])

/-- A contribution goes to the home slice of its line (R85, R151). -/
def State.sendContrib (s : State) (x : Contribution) : State :=
  let pa := x.line * 128
  let j := sliceOf pa
  s.inject (x.core / 48) (corePort x.core) (homeDie pa) (sliceRouter j) 3 0 (.contrib x j)

/-- An event of a core's matrix engine for a drain that ended (R409). -/
def drainEvent (c v code va : Nat) : Event :=
  { Event.blank with
    code := code, cls := 1, block := 7, die := c / 48, unit := c % 48, vf := v, addrVa := true, addr := BitVec.ofNat 64 va }

/-- The writes of a drain that has no contributions to wait for: scratchpad bytes, or plain stores; for the other
kinds the contributions to send. -/
def State.runDrain (s : State) (c v id : Nat) (kind : Nat) (scr : Bool) (cvt : Nat) (addr pitch q : W64)
    (base slot m n : Nat) : State × List Contribution :=
  let k := s.core c
  let e := cvtBytes cvt
  let es := k.drainElems slot m n addr pitch e
  if scr then
    (s.setCore c (es.foldl (fun k x => k.putScratch (base + x.1) (leBytes e (cvtBits cvt x.2))) k), [])
  else
    let (s, ps, bad) := State.drainPas (c / 48) v s es
    let s := match bad with
      | some (va, code) => s.raise (srcCore c) (drainEvent c v code va)
      | none => s
    if kind = 0 then
      let s := s.storeAll (ps.map fun p => (p.1, leBytes e (cvtBits cvt p.2.2)))
      (s.sendReqs c v .store none ((ps.map fun p => (lineOf p.1, p.2.1)).eraseDups), [])
    else
      let seq := if kind = 2 then some (bits q.toNat 31 16, bits q.toNat 15 0) else none
      (s, gatherContribs v c id seq ps [])

/-! ## The launch queue (R237, R252) -/

def MatOp.slot : MatOp → Nat
  | .mma _ _ _ _ _ _ _ _ slot _ _ _ _ _ => slot
  | .drain _ _ _ _ _ _ _ _ _ _ _ slot _ _ _ _ _ => slot

def MatOp.ctx : MatOp → Nat × Nat
  | .mma c w _ _ _ _ _ _ _ _ _ _ _ _ => (c, w)
  | .drain c w _ _ _ _ _ _ _ _ _ _ _ _ _ _ _ => (c, w)

def MatOp.isDrain : MatOp → Bool
  | .mma _ _ _ _ _ _ _ _ _ _ _ _ _ _ => false
  | .drain _ _ _ _ _ _ _ _ _ _ _ _ _ _ _ _ _ => true

/-- The operations of a context that have not completed, in launch order: what drains has left the queue before the rest. -/
def Core.liveOps (k : Core) (i wg : Nat) : List MatOp := (k.draining ++ k.launchQ).filter fun o => decide (o.ctx = (i, wg))

/-- Drains at the head of the launch queue leave it for the drain path (R237), by fuel. -/
def Core.shiftDrains : Nat → Core → Core
  | 0, k => k
  | n + 1, k =>
    match k.launchQ with
    | o :: t => if o.isDrain then Core.shiftDrains n { k with launchQ := t, draining := k.draining ++ [o] } else k
    | [] => k

/-- The clocks that a launch occupies the array (R237). -/
def arrayClocks (fmt k : Nat) : Nat := if fmt = 12 then k / 4 else if fmt = 13 then k / 8 else k

/-! ## Operand reservations: `ORES`, `OREL` (R235, R241) -/

/-- The facts of a matrix interface word with a reservation number. -/
def resSpec (o : SF) (i : Instr) (a : Bool) : Spec :=
  { instr := i, g := o.g, inHandler := false, srcs := if a then [(o.a.toNat, 4)] else []
    fields := sfZero o false a false true false && decide (o.c.toNat < 16) }

/-- ORES_CONFLICT with the reservation and the one it overlaps (R371). -/
def resTrap (x : Iss) (r : Nat) (other : Option Nat) : Trap :=
  trapPlain .oresConflict (BitVec.ofNat 32 r) (BitVec.ofNat 32 (other.getD 0xFFFFFFFF)) x.act

/-- The checks of R241 in their order. -/
def oresCheck (x : Iss) (w : Workgroup) (r : Nat) (q : Resv) (word : W64) : Option Trap :=
  if q.reserved then some (wideTrap x (reservedTrap word))
  else if (KMap.get? w.res r).isSome then some (resTrap x r none)
  else
    match w.res.find? fun p => decide (p.2.space = q.space) && meets p.2.range q.range with
    | some p => some (resTrap x r (some p.1))
    | none =>
      let rg := q.range
      if q.space = 0 && (w.scratchLen < rg.1 + rg.2 || q.pitch < q.kBytes) then some (wideTrap x (scrTrap .permission q.base))
      else if q.space = 1 && 65536 < rg.1 + rg.2 then some (wideTrap x (scrTrap .permission q.base))
      else if q.scaled && w.scratchLen ≤ q.scaleTop then some (wideTrap x (scrTrap .permission q.sbase))
      else none

def execOres (o : SF) (s : State) : Result :=
  let sp := resSpec o (.ores o) true
  issue sp
    (fun x s =>
      let at_ := fun (i : Nat) => x.low32 (o.a.toNat + i)
      let q : Resv := { r0 := at_ 0, r1 := at_ 1, r2 := at_ 2, r3 := at_ 3 }
      let w := x.k.wg x.g.wg
      let r := o.c.toNat
      match oresCheck x w r q sp.word with
      | some t => .trap t
      | none => .done (s.setCore x.c (x.k.setWg x.g.wg { w with res := KMap.put w.res r q }))) s

def execOrel (o : SF) (s : State) : Result :=
  issue (resSpec o (.orel o) false)
    (fun x s =>
      let w := x.k.wg x.g.wg
      let r := o.c.toNat
      if (KMap.get? w.res r).isNone then .trap (resTrap x r none)
      else if x.k.readsRes x.g.wg r then .wait s (.reservation r)
      else .done (s.setCore x.c (x.k.setWg x.g.wg { w with res := KMap.del w.res r }))) s

/-! ## `MSEQ` (R235, R243) -/

/-- A fresh context of a workgroup at a stream address, with its tokens. -/
def seqStart (w : Workgroup) (n : Nat) (pc : W64) (tokens : List (BitVec 16)) : SeqCtx :=
  { wg := n, vf := w.vf, pc := pc, stack := [], m := 64, n := 64, wait := .none, tokens := tokens }

/-- The phases of a workgroup's barriers when an `MSEQ` of the entry issued: now, or when the wait for a context began. -/
def Iss.seqTokens (x : Iss) : List (BitVec 16) :=
  match x.e.wait with
  | .sequencer t => t
  | _ => (List.range 16).map fun b => ((x.k.wg x.g.wg).barrier b).phase

def execMseq (o : SF) (s : State) : Result :=
  issue
    { instr := .mseq o, g := o.g, inHandler := false, srcs := [(o.a.toNat, 2)]
      fields := sfZero o false true false false false && decide (o.a.toNat % 2 = 0) }
    (fun x s =>
      let pc := x.low64 o.a.toNat
      let w := x.k.wg x.g.wg
      if pc.toNat % 2 ≠ 0 then .trap (trapVa .misaligned pc.toNat x.act)
      else
        match w.ctx, x.k.freeCtx with
        | none, some i =>
          let k := x.k.setWg x.g.wg { w with ctx := some i }
          .done (s.setCore x.c { k with ctxs := KMap.put k.ctxs i (seqStart w x.g.wg pc x.seqTokens) })
        | _, _ => .wait s (.sequencer x.seqTokens)) s

end Sys2Proof.Machine
end

