-- ==== Sys2Proof/Machine/SelBase.lean ====
section
/-! DEFINITION. Selham: the records of a launch block, access to line cores and heads, reports, pops, and the issue
of a cluster word (R282-R289, R290, R291, R295-R297, R301, R309-R313, R402, R403). -/

namespace Sys2Proof.Machine

/-! ## The launch block (R290, R291, R301) -/

def SelLoad.word (x : SelLoad) (i : Nat) : Nat := (getAt x.block i 0).toNat
def SelLoad.dmePc (x : SelLoad) : Nat := bits (x.word 0) 56 0
/-- The line core whose bound queue the DME may take from in clock t. -/
def SelLoad.dmeSlot (x : SelLoad) (t : Nat) : Nat := bits (x.word 1) (4 * (t % 16) + 3) (4 * (t % 16))
def SelLoad.frames (x : SelLoad) : Nat := bits (x.word 3) 15 0
/-- Word i of the record of head h, and of line core c. -/
def SelLoad.head (x : SelLoad) (h i : Nat) : Nat := x.word (8 + 8 * h + i)
def SelLoad.lrec (x : SelLoad) (c i : Nat) : Nat := x.word (40 + 8 * c + i)
def SelLoad.fetchPc (x : SelLoad) (c : Nat) : Nat := bits (x.lrec c 0) 56 0
def SelLoad.compPc (x : SelLoad) (c : Nat) : Nat := bits (x.lrec c 1) 56 0
def SelLoad.storePc (x : SelLoad) (c : Nat) : Nat := bits (x.lrec c 2) 56 0
def SelLoad.tok (x : SelLoad) (c k : Nat) : Nat := bits (x.lrec c 3) (5 * k + 4) (5 * k)
def SelLoad.enable (x : SelLoad) (c : Nat) : Bool := bit (x.lrec c 4) 8
def SelLoad.bind (x : SelLoad) (c : Nat) : Bool := bit (x.lrec c 4) 7
def SelLoad.headOf (x : SelLoad) (c : Nat) : Nat := bits (x.lrec c 4) 1 0
def SelLoad.codeLen (x : SelLoad) (c : Nat) : Nat := bits (x.lrec c 5) 31 0
/-- The bound producer and consumer of queue q (R296). -/
def SelLoad.producer (x : SelLoad) (c q : Nat) : Nat := bits (x.lrec c 6) (8 * q + 3) (8 * q)
def SelLoad.consumer (x : SelLoad) (c q : Nat) : Nat := bits (x.lrec c 6) (8 * q + 7) (8 * q + 4)
/-- The entry of a cluster, in words from COMPPC. -/
def SelLoad.entry (x : SelLoad) (c clu : Nat) : Nat :=
  if clu = 0 then 0 else bits (x.lrec c 7) (16 * clu - 1) (16 * clu - 16)

/-- No launch. -/
def SelLoad.blank : SelLoad :=
  { vf := 0, queue := 0, index := 0, cdone := 0, block := [], code := [], dme := [] }

def State.load (s : State) : SelLoad := s.sel.cur.getD SelLoad.blank

/-! ## Heads (R301) -/

def Show.w (x : Show) (i : Nat) : Nat := (getAt x.hrec i 0).toNat
def Show.reelBase (x : Show) : Nat := bits (x.w 0) 56 0
def Show.vtotal (x : Show) : Nat := bits (x.w 1) 47 32
def Show.height (x : Show) : Nat := bits (x.w 1) 31 16
def Show.width (x : Show) : Nat := bits (x.w 1) 15 0
def Show.pslot (x : Show) : Nat := bits (x.w 2) 47 40
def Show.latch (x : Show) : Nat := bits (x.w 2) 39 32
def Show.lineClk (x : Show) : Nat := bits (x.w 2) 23 0
def Show.lead (x : Show) : Nat := bits (x.w 3) 15 0
def Show.fy (x : Show) : Nat := bits (x.w 4) 63 32
def Show.fx (x : Show) : Nat := bits (x.w 4) 31 0
def Show.border (x : Show) : W32 := BitVec.ofNat 32 (x.w 5)
/-- The deadline of line g, counted over all frames. -/
def Show.deadline (x : Show) (g : Nat) : Nat := x.t0 + g * x.lineClk

def State.setSel (s : State) (x : Sel) : State := { s with sel := x }
def State.selHead (s : State) (h : Nat) : Head := getAt s.sel.heads h Head.reset
def State.setSelHead (s : State) (h : Nat) (x : Head) : State := { s with sel := { s.sel with heads := setAt s.sel.heads h x } }

/-- A record that no latch has written: zeros (R318). -/
def poseZero : PoseRec := List.replicate 16 0

/-! ## Line cores -/

def State.lcr (s : State) (l : Nat) : Lcr := KMap.getD s.sel.lcrs l Lcr.reset
def State.setLcr (s : State) (l : Nat) (x : Lcr) : State := { s with sel := { s.sel with lcrs := KMap.put s.sel.lcrs l x } }
def Lcr.cluster (x : Lcr) (c : Nat) : Cluster := getAt x.clusters c Cluster.reset
def Lcr.setCluster (x : Lcr) (c : Nat) (k : Cluster) : Lcr := { x with clusters := setAt x.clusters c k }
def Lcr.queue (x : Lcr) (q : Nat) : List (X512 × Bool) := getAt x.queues q []
def Lcr.setQueue (x : Lcr) (q : Nat) (es : List (X512 × Bool)) : Lcr := { x with queues := setAt x.queues q es }
def KFifo.blank : KFifo := { toks := [], pushes := 0, pops := 0, late := [] }
def Lcr.fifo (x : Lcr) (k : Nat) : KFifo := getAt x.fifos k KFifo.blank
/-- The 64-byte unit of a line store. -/
def Lcr.unit (x : Lcr) (u : Nat) : X512 := KMap.getD x.store u 0

/-- A stop cause raised in the present clock (R403). -/
def Lcr.stop (x : Lcr) (c : Cause) (at_ : SelAt) : Lcr := { x with stops := x.stops ++ [{ cause := c, by_ := at_ }] }

/-- The line that a line core builds is late for the reasons `m` (R302, R442). -/
def State.markLate (s : State) (l m : Nat) : State :=
  let x := s.lcr l
  let h := s.load.headOf l
  let hd := s.selHead h
  let w := hd.show_
  if x.building then
    s.setSelHead h { hd with show_ := { w with late := KMap.put w.late x.gline (KMap.getD w.late x.gline 0 ||| m) } }
  else s

/-- An event of Selham: block 13 LCR, 14 DME, 15 SCAN (R400, R403, R404, R442, R457). -/
def selEvent (block unit code cls vf : Nat) : Event :=
  { Event.blank with code := code, cls := cls, block := block, die := 4, unit := unit, vf := vf }

/-- The arbiter input of a Selham unit. -/
def selSource (block unit : Nat) : Nat := if block = 13 then srcSel unit else if block = 14 then srcSel 16 else srcSel (17 + unit)

/-- The presented frame of line `g` of a show, counted from a start of its head. -/
def Show.frameOf (x : Show) (g : Nat) : Nat × Nat := (x.serial, g / x.vtotal)

/-- A report of R457 of an access of virtual function `v`, at most one for each unit in a presented frame of its head. -/
def State.selAccess (s : State) (block unit v : Nat) (frame : Nat × Nat) (code ia : Nat) : State :=
  let key := (frame.1, frame.2, 64 * block + unit)
  if s.sel.reports.contains key then s
  else
    let s := s.setSel { s.sel with reports := key :: s.sel.reports }
    s.raise (selSource block unit) { selEvent block unit code 1 v with addrVa := true, addr := BitVec.ofNat 64 ia }

/-- An uncorrectable unit of a line store or of DME memory (R419). -/
def State.selBad (s : State) (block unit : Nat) : State :=
  s.raise (selSource block unit) (selEvent block unit codeUncorrected 1 s.load.vf)

/-- The DME takes part and runs its stream. -/
def Dme.up (d : Dme) : Bool := !d.halted && !d.stopped

/-! ## Pops (R295-R297, R325, R402) -/

/-- A pop of queue q: zeros with the line late where a cause has stopped the DME that should fill it (R404); else the entry; from
an empty queue zeros, with the line late where the DME that should fill it stands halted, else with QUEUE_UNDERFLOW. What the DME
pushed before its `HALT` is popped as it is (R325, R332) (DEDUCED, log 32). -/
def State.queuePop (s : State) (l q : Nat) (at_ : SelAt) : State × X512 :=
  let x := s.lcr l
  let fromDme := decide (s.load.producer l q = 4)
  if fromDme && s.sel.dme.stopped then ((s.setLcr l (x.setQueue q ((x.queue q).drop 1))).markLate l 4, 0)
  else
    match x.queue q with
    | (e, bad) :: t =>
      let s := s.setLcr l (x.setQueue q t)
      (if bad then s.markLate l 8 else s, e)
    | [] => if fromDme && !s.sel.dme.up then (s.markLate l 4, 0) else (s.setLcr l (x.stop .queueUnderflow at_), 0)

/-- A pop of FIFO k: the token, or none for the null token, which marks the line late. -/
def State.tokenPop (s : State) (l k : Nat) : State × Option W32 :=
  let x := s.lcr l
  let f := x.fifo k
  match KMap.get? f.toks f.pops with
  | some v => (s.setLcr l { x with fifos := setAt x.fifos k { f with toks := KMap.del f.toks f.pops, pops := f.pops + 1 } }, some v)
  | none =>
    let late := if f.pushes ≤ f.pops then f.pops :: f.late else f.late
    ((s.setLcr l { x with fifos := setAt x.fifos k { f with late := late, pops := f.pops + 1 } }).markLate l 2, none)

/-- A push of a token: the next number; one whose pop came first is discarded, and so is one into a full FIFO
(R295). Answers whether it was refused by a full FIFO. -/
def KFifo.push (f : KFifo) (v : W32) : KFifo × Bool :=
  let i := f.pushes
  let f := { f with pushes := i + 1 }
  if f.late.contains i then ({ f with late := f.late.filter fun n => decide (n ≠ i) }, false)
  else if 16 ≤ f.toks.length then (f, true)
  else ({ f with toks := KMap.put f.toks i v }, false)

/-! ## Cluster words (R283-R289, R310-R312) -/

/-- The function unit that a word names (R283, R314). -/
inductive XUnit where
  | none
  | alu
  | fma
  | isu
  | lsp
  deriving DecidableEq, Repr

/-- A free unit of a kind taken from clock `t` on; none where every one is occupied. -/
def takeOf (free : List Nat) (t occ : Nat) : Option (List Nat) :=
  (firstBelow free.length fun i => decide (getAt free i 0 ≤ t)).map fun i => setAt free i (t + occ)

def Cluster.take (k : Cluster) (u : XUnit) (t : Nat) : Option Cluster :=
  match u with
  | .none => some k
  | .alu => (takeOf k.alu t 2).map fun f => { k with alu := f }
  | .fma => (takeOf k.fma t 2).map fun f => { k with fma := f }
  | .isu => if k.isu ≤ t then some { k with isu := t + 1 } else none
  | .lsp => if k.lsp ≤ t then some { k with lsp := t + 1 } else none

/-- The physical number of a register and of a predicate under the rotation base (R289). -/
def Cluster.physX (k : Cluster) (n : Nat) : Nat := if n < 32 then n else 32 + (n - 32 + k.rbase) % 32
def Cluster.physG (k : Cluster) (n : Nat) : Nat := if n < 8 then n else 8 + (n - 8 + k.rbase) % 8

def Cluster.readX (k : Cluster) (n : Nat) : X512 := KMap.getD k.x (k.physX n) 0
/-- `g0` reads 1 (R312). -/
def Cluster.readG (k : Cluster) (n : Nat) : Bool := n = 0 || k.g.getLsbD (k.physG n)

/-- A predicate written by its physical number; `g0` ignores writes. -/
def Cluster.putG (k : Cluster) (phys : Nat) (b : Bool) : Cluster :=
  if phys = 0 then k
  else { k with g := BitVec.ofNat 16 (ofBits 16 fun i => if i = phys then b else k.g.getLsbD i) }

/-- A result put among others by the clock that writes it, behind those of the same clock, which issued before it. -/
def insPend (p : XPend) : List XPend → List XPend
  | [] => [p]
  | q :: t => if p.vis < q.vis then p :: q :: t else q :: insPend p t

/-- A result written. -/
def Cluster.write (k : Cluster) (p : XPend) : Cluster :=
  match p.tgt with
  | .x n => { k with x := KMap.putD k.x n p.val 0 }
  | .g n => k.putG n (decide (p.val ≠ 0))

/-- Results whose clock has come are in place, in the order of their clocks and, in one clock, of issue (R284). -/
def Cluster.settle (k : Cluster) (t : Nat) : Cluster :=
  let due := (k.pend.filter fun p => decide (p.vis ≤ t)).foldl (fun l p => insPend p l) []
  due.foldl Cluster.write { k with pend := k.pend.filter fun p => !decide (p.vis ≤ t) }

/-- `Turn(b)` (R289). -/
def Cluster.turn (k : Cluster) (b : Bool) : Cluster :=
  let k := { k with rbase := (k.rbase + 31) % 32 }
  k.putG (k.physG 8) b

/-- Which operand fields of a word are sources of R310, and whether D is a destination. -/
structure XUses where
  a : Bool
  b : Bool
  c : Bool
  d : Bool
  deriving DecidableEq, Repr

/-- The word at issue, after its pops. -/
structure XIss where
  l : Nat
  c : Nat
  t : Nat
  k : Cluster
  a : X512
  b : X512
  cv : X512
  at_ : SelAt
  deriving DecidableEq, Repr

/-- The word itself, for INFO (R403). -/
def cluWord (i : Instr) : W64 :=
  match encode i with
  | some (_, bs) => BitVec.ofNat 64 (leNat (bs.take 8))
  | none => 0

def isQueue (c : Nat) : Bool := decide (0x48 ≤ c) && decide (c < 0x50)
def isStream (c : Nat) : Bool := decide (0x40 ≤ c) && decide (c < 0x48)

/-- The value of a source code, queues apart (R310). -/
def State.xSource (s : State) (l c : Nat) (k : Cluster) (imm : BitVec 16) (code : Nat) : X512 :=
  let x := s.lcr l
  if code < 0x40 then k.readX code
  else if isStream code then getAt (getAt x.streams (code - 0x40) []) c 0
  else
    match code with
    | 0x61 => splatX 0x3F800000
    | 0x62 => splatX 0x3F000000
    | 0x63 => splatX 0x40000000
    | 0x64 => splatX 0xBF800000
    | 0x65 => mkX fun i => BitVec.ofNat 32 i
    | 0x66 => splatX (imm.signExtend 32)
    | 0x67 => splatX (imm ++ 0#16)
    | 0x68 => splatX (BitVec.ofNat 32 x.line)
    | 0x69 => splatX (BitVec.ofNat 32 c)
    | 0x6A => splatX (BitVec.ofNat 32 l)
    | _ => 0

/-- A source read at issue: a queue pops its head (R311). -/
def State.xRead (s : State) (l c : Nat) (k : Cluster) (imm : BitVec 16) (at_ : SelAt) (use : Bool) (code : Nat) :
    State × X512 :=
  if !use then (s, 0)
  else if isQueue code then s.queuePop l (code - 0x48) at_
  else (s, s.xSource l c k imm code)

/-- The three sources in field order; a queue that two fields name is popped once (R311). -/
def State.xReads (s : State) (l c : Nat) (k : Cluster) (o : CW) (u : XUses) (at_ : SelAt) : State × X512 × X512 × X512 :=
  let ca := o.a.toNat
  let cb := o.b.toNat
  let cc := o.c.toNat
  let (s, a) := s.xRead l c k o.imm at_ u.a ca
  let bIsA := u.a && u.b && isQueue cb && decide (cb = ca)
  let (s, b) := if bIsA then (s, a) else s.xRead l c k o.imm at_ u.b cb
  let cIsA := u.a && u.c && isQueue cc && decide (cc = ca)
  let cIsB := u.b && u.c && isQueue cc && decide (cc = cb)
  let (s, cv) := if cIsA then (s, a) else if cIsB then (s, b) else s.xRead l c k o.imm at_ u.c cc
  (s, a, b, cv)

/-- A queue that the word names is bound to another unit (R296). -/
def unbound (x : SelLoad) (l c : Nat) (o : CW) (u : XUses) : Bool :=
  let pop := fun (use : Bool) (code : Nat) => use && isQueue code && decide (x.consumer l (code - 0x48) ≠ c)
  pop u.a o.a.toNat || pop u.b o.b.toNat || pop u.c o.c.toNat
    || (u.d && isQueue o.d.toNat && decide (x.producer l (o.d.toNat - 0x48) ≠ c))

/-- The word names a stream. -/
def namesStream (o : CW) (u : XUses) (drive : Bool) : Bool :=
  drive || (u.a && isStream o.a.toNat) || (u.b && isStream o.b.toNat) || (u.c && isStream o.c.toNat)

/-- A queue or a FIFO of the line core is not empty (R287). -/
def Lcr.holdsData (x : Lcr) : Bool := x.queues.any (fun q => !q.isEmpty) || x.fifos.any fun f => !f.toks.isEmpty

/-- The guard value of a word (R312). -/
def Cluster.guard (k : Cluster) (o : CW) : Bool := k.readG o.gp.toNat != o.gn

/-- The issue of a cluster word by the cluster whose turn it is: the P mark (R287), the unit (R283), the bank (R285),
streams apart (R288), queue bindings (R296), for an `LCPY` an earlier copy that has not started (R320, R402), the guard (R312),
then the pops and the effect. The PC moves past the word before the effect. -/
def cluIssue (i : Instr) (o : CW) (u : XUnit) (uses : XUses) (drive : Bool) (bank : Option Nat)
    (effect : XIss → State → State) (s : State) (copies : Bool := false) : Result :=
  match s.turn with
  | some (.cluster l c) =>
    let t := s.clk.selham
    let x := s.lcr l
    let k := (x.cluster c).settle t
    let word := cluWord i
    let at_ : SelAt := { unit := c, addr := BitVec.ofNat 64 (s.load.compPc l + 8 * k.pc), info := word }
    let fail := fun (cause : Cause) (k : Cluster) => .next ((s.setLcr l ((x.setCluster c k).stop cause at_)).endTurn)
    let past := { k with pc := k.pc + 1 }
    if o.s && o.p && x.holdsData then fail .tokenMisuse past
    else
      match past.take u t with
      | none => fail .scheduleViolation past
      | some k =>
        if bank.any fun b => decide (b = t % 16) || x.banks.contains b then fail .scheduleViolation k
        else if !o.s && namesStream o uses drive then fail .streamApart k
        else if unbound s.load l c o uses then fail .scheduleViolation k
        else
          let s := s.setLcr l (x.setCluster c k)
          if copies && x.lcpy.isSome then fail .scheduleViolation k
          else if !k.guard o then .next s.endTurn
          else
            let (s, a, b, cv) := s.xReads l c k o uses at_
            .next (effect { l := l, c := c, t := t, k := k, a := a, b := b, cv := cv, at_ := at_ } s).endTurn
  | _ => .refused .noIssuer

/-- The cluster of an issue changed. -/
def State.setClu (s : State) (x : XIss) (k : Cluster) : State := s.setLcr x.l ((s.lcr x.l).setCluster x.c k)

/-- A result of latency `lat` on its way to field D: a register under the rotation base of the issue, or a queue
(R284, R311). -/
def State.xPut (s : State) (x : XIss) (d lat : Nat) (v : X512) : State :=
  let q := s.lcr x.l
  if isQueue d then
    s.setLcr x.l { q with pushes := q.pushes ++ [{ endClk := x.t + lat - 1, q := d - 0x48, val := v, bad := false, by_ := x.at_ }] }
  else if d < 0x40 then
    s.setClu x { x.k with pend := x.k.pend ++ [{ vis := x.t + lat - 1, tgt := .x (x.k.physX d), val := v }] }
  else s

/-- A data word: `f` of the source values into D. -/
def cluData (i : Instr) (o : CW) (u : XUnit) (lat : Nat) (a b c : Bool) (f : XIss → X512) (s : State) : Result :=
  cluIssue i o u { a := a, b := b, c := c, d := true } false none (fun x s => s.xPut x o.d.toNat lat (f x)) s

end Sys2Proof.Machine
end

