-- ==== Sys2Proof/Machine/Engine.lean ====
section
/-! DEFINITION. The engine words of sequencer contexts and of the DME, the completion of matrix operations, and the
stop of a context or of the DME (R237, R243-R253, R325, R326, R398-R400, R404, R409). -/

namespace Sys2Proof.Machine

/-! ## Stops (R251, R399, R400, R404) -/

/-- One launched operation run to its end: an MMA, or a drain's writes; an add-drain that waits for slices is left, and
a poisoned slot writes nothing (R419). -/
def State.runMatOp (s : State) (c : Nat) (o : MatOp) : State :=
  match o with
  | .mma _ _ vf _ _ ra rb base slot k0 k m n zero =>
    (s.setCore c ((s.core c).runMma ra rb base slot k0 k m n zero)).perfAdd vf 6 (arrayClocks ra.fmt k)
  | .drain _ _ vf id kind scr cvt addr pitch q base slot m n left _ _ =>
    if left.isSome || (s.core c).accPoison.contains slot then s
    else
      let (s, cs) := s.runDrain c vf id kind scr cvt addr pitch q base slot m n
      cs.foldl (fun s x => s.sendContrib x) s

/-- The workgroup of a stopped context ends once every operation that the context launched has completed (R399). -/
def State.settleStop (s : State) (c n : Nat) : State :=
  let k := s.core c
  let w := k.wg n
  if !w.stopping || (k.launchQ ++ k.draining).any (fun o => decide (o.ctx.2 = n)) then s
  else if w.slots.isEmpty then s.endWorkgroup c n
  else w.slots.foldl (fun s g => s.forceEnd c g) s

/-- A context stops: its event is sent and every group of its workgroup is held; its launched operations complete in their
order, and then the workgroup ends (R251, R399, R400). A context stops once. -/
def State.stopContext (s : State) (c i : Nat) (code : Nat) (addr info : W64) : State :=
  match KMap.get? (s.core c).ctxs i with
  | none => s
  | some x =>
    let k := s.core c
    let w := k.wg x.wg
    if w.stopping then s
    else
      let ev : Event :=
        { Event.blank with
          code := code, cls := 3, block := 8, die := c / 48, unit := c % 48, slot := i, vf := x.vf, addrVa := true
          addr := addr, info := info, launch := if w.isTask then none else some w.launch }
      ((s.setCore c (k.setWg x.wg { w with stopping := true })).raise (srcCore c) ev).settleStop c x.wg

/-- The word in [15:0] and the stack depth before it in [19:16]. -/
def engineInfo (word : BitVec 16) (depth : Nat) : W64 := BitVec.ofNat 64 (word.toNat + depth % 16 * 65536)

/-- A context stops at the word at its PC. -/
def State.stopAt (s : State) (c i : Nat) (x : SeqCtx) (code : Nat) (word : BitVec 16) : State :=
  s.stopContext c i code x.pc (engineInfo word x.stack.length)

/-- The DME stops at word number `at_` of its store with a stack of `depth` items (R404). -/
def State.stopDme (s : State) (cause : Cause) (at_ depth : Nat) (word : BitVec 16) : State :=
  let d := s.sel.dme
  let s := s.setSel { s.sel with
    lastCause := cause.code, dme := { d with stopped := true, reported := false, busy := .idle } }
  s.raise (selSource 14 0)
    { selEvent 14 0 cause.code 3 s.load.vf with
      addrVa := true, addr := BitVec.ofNat 64 (s.load.dmePc + 2 * at_), info := engineInfo word depth }

/-! ## Words that only move the stack (R246) -/

/-- The word itself. -/
def engineWord (i : Instr) : BitVec 16 :=
  match encode i with
  | some (_, bs) => BitVec.ofNat 16 (leNat (bs.take 2))
  | none => 0

/-- A word of a stack machine: its field rule, the items it needs, and its effect on the stack, top first, and on the
PC, in words past this one. -/
def stackWord (i : Instr) (fieldOk : Bool) (pops : Nat) (f : List W64 → List W64) (jump : List W64 → Nat) (s : State) :
    Result :=
  let word := engineWord i
  match s.turn with
  | some (.context c n) =>
    match KMap.get? (s.core c).ctxs n with
    | none => .refused .noIssuer
    | some x =>
      if !fieldOk then .next (s.stopAt c n x Cause.engineWord.code word).endTurn
      else if x.stack.length < pops || 8 < (f x.stack).length then
        .next (s.stopAt c n x Cause.engineStack.code word).endTurn
      else
        let k := s.core c
        let j := jump x.stack
        let pc := if j = 0 then x.pc + 2 else x.pc - BitVec.ofNat 64 (2 * j)
        .next (s.setCore c { k with ctxs := KMap.put k.ctxs n { x with stack := f x.stack, pc := pc } }).endTurn
  | some .dme =>
    let d := s.sel.dme
    if !fieldOk then .refused (.noEncoding "a DME word that the loader refuses (R401)")
    else if d.stack.length < pops || 8 < (f d.stack).length then
      .next (s.stopDme .engineStack d.pc d.stack.length word).endTurn
    else
      let j := jump d.stack
      let pc := if j = 0 then d.pc + 1 else d.pc - j
      .next (s.setSel { s.sel with dme := { d with stack := f d.stack, pc := pc } }).endTurn
  | _ => .refused .noIssuer

def noJump (_ : List W64) : Nat := 0

def execLit (v : BitVec 15) (s : State) : Result :=
  stackWord (.lit v) true 0 (fun st => v.setWidth 64 :: st) noJump s

def execEngineNop (f : BitVec 10) (s : State) : Result := stackWord (.engineNop f) (decide (f = 0)) 0 (fun st => st) noJump s

/-- An operation on the top item. -/
def onTop (g : W64 → W64) : List W64 → List W64
  | x :: t => g x :: t
  | [] => []

def execExt (f : BitVec 10) (s : State) : Result :=
  stackWord (.ext f) true 1 (onTop fun x => x * 1024 + f.setWidth 64) noJump s

def execDup (f : BitVec 10) (s : State) : Result :=
  stackWord (.dup f) (decide (f = 0)) 1 (fun st => match st with
    | x :: t => x :: x :: t
    | [] => []) noJump s

def execDrop (f : BitVec 10) (s : State) : Result := stackWord (.drop f) (decide (f = 0)) 1 (fun st => st.drop 1) noJump s

def execSwap (f : BitVec 10) (s : State) : Result :=
  stackWord (.swap f) (decide (f = 0)) 2 (fun st => match st with
    | y :: x :: t => x :: y :: t
    | _ => st) noJump s

def execOver (f : BitVec 10) (s : State) : Result :=
  stackWord (.overWord f) (decide (f = 0)) 2 (fun st => match st with
    | y :: x :: t => x :: y :: x :: t
    | _ => st) noJump s

def execAdd (f : BitVec 10) (s : State) : Result :=
  stackWord (.add f) (decide (f = 0)) 2 (fun st => match st with
    | y :: x :: t => (x + y) :: t
    | _ => st) noJump s

def execAddi (f : BitVec 10) (s : State) : Result :=
  stackWord (.addi f) true 1 (onTop fun x => x + f.signExtend 64) noJump s

/-- `LOOP` (R250): x − 1 in place and a jump while x > 1; else x is popped. -/
def execLoop (f : BitVec 10) (s : State) : Result :=
  stackWord (.loop f) (decide (f ≠ 0)) 1
    (fun st => match st with
      | x :: t => if 1 < x.toNat then (x - 1) :: t else t
      | [] => [])
    (fun st => match st with
      | x :: _ => if 1 < x.toNat then f.toNat else 0
      | [] => 0) s

/-! ## The words of a context (R247-R250) -/

/-- A word that only a context executes: field rule, pops, and its effect on the context. -/
def contextWord (i : Instr) (fieldOk : Bool) (pops : Nat)
    (body : Nat → Nat → SeqCtx → BitVec 16 → State → State) (s : State) : Result :=
  match s.turn with
  | some (.context c n) =>
    match KMap.get? (s.core c).ctxs n with
    | none => .refused .noIssuer
    | some x =>
      let word := engineWord i
      if !fieldOk then .next (s.stopAt c n x Cause.engineWord.code word).endTurn
      else if x.stack.length < pops then .next (s.stopAt c n x Cause.engineStack.code word).endTurn
      else .next (body c n x word s).endTurn
  | _ => .refused .noIssuer

def State.setCtx (s : State) (c n : Nat) (x : SeqCtx) : State :=
  let k := s.core c
  s.setCore c { k with ctxs := KMap.put k.ctxs n x }

/-- The word waits and executes later (R243). -/
def State.ctxWait (s : State) (c n : Nat) (x : SeqCtx) (w : SeqWait) : State := s.setCtx c n { x with wait := w }

/-- The word is done: `pops` items are gone and the PC moves past it. -/
def SeqCtx.past (x : SeqCtx) (pops : Nat) : SeqCtx :=
  { x with stack := x.stack.drop pops, pc := x.pc + 2, wait := .none }

/-- Extent code of `SHAPE`. -/
def extentOf (c : Nat) : Nat := 16 * 2 ^ c

/-- The DME has no shape of its own: its tile is fixed (R326). -/
def execShape (f : BitVec 10) (s : State) : Result :=
  let m := bits f.toNat 1 0
  let n := bits f.toNat 3 2
  let ok := decide (bits f.toNat 9 4 = 0) && decide (m ≠ 3) && decide (n ≠ 3)
  match s.turn with
  | some (.context _ _) =>
    contextWord (.shape f) ok 0 (fun c i x _ s => s.setCtx c i ({ x with m := extentOf m, n := extentOf n }.past 0)) s
  | _ => stackWord (.shape f) ok 0 (fun st => st) noJump s

/-- An item of the stack, from the top. -/
def SeqCtx.item (x : SeqCtx) (i : Nat) : W64 := getAt x.stack i 0

/-- The launch queue with room for one entry (R237); none where it is full. -/
def Core.enqueue (k : Core) (o : MatOp) : Option Core :=
  let k := Core.shiftDrains 16 k
  if 16 ≤ k.launchQ.length then none else some { k with launchQ := k.launchQ ++ [o] }

/-- A checked launch enters the launch queue, or the word waits. -/
def State.launchOp (s : State) (c n : Nat) (x : SeqCtx) (pops : Nat) (o : MatOp) : State :=
  match (s.core c).enqueue o with
  | none => s.ctxWait c n x .queue
  | some k => s.setCore c { k with nextId := k.nextId + 1, ctxs := KMap.put k.ctxs n (x.past pops) }

/-- The checks of R247 hold. -/
def mmaOk (w : Workgroup) (x : SeqCtx) (ra rb : Resv) (slot kk k0 : Nat) : Bool :=
  let ks := kStep ra.fmt
  decide (ra.space = 0) && decide (rb.space = 1) && decide (ra.fmt = rb.fmt)
    && decide (x.m ≤ ra.ext) && decide (x.n ≤ rb.ext) && decide (slot < w.acc.length)
    && decide (kk ≠ 0) && decide (kk % ks = 0) && decide (k0 % ks = 0)
    && decide (k0 + kk ≤ ra.klen) && decide (k0 + kk ≤ rb.klen)
    && !(ra.scaled && (ra.tilingBroken || rb.tilingBroken))

def mmaWord (i : Instr) (f : BitVec 10) (zero : Bool) (s : State) : Result :=
  contextWord i (decide (bits f.toNat 9 8 = 0)) 3
    (fun c n x word s =>
      let w := (s.core c).wg x.wg
      let a := bits f.toNat 3 0
      let b := bits f.toNat 7 4
      let slot := (x.item 0).toNat
      let kk := (x.item 1).toNat
      let k0 := (x.item 2).toNat
      match KMap.get? w.res a, KMap.get? w.res b with
      | some ra, some rb =>
        if mmaOk w x ra rb slot kk k0 then
          s.launchOp c n x 3 (.mma n x.wg x.vf a b ra rb w.scratchBase (getAt w.acc slot 0) k0 kk x.m x.n zero)
        else s.stopAt c n x Cause.matrixShape.code word
      | _, _ => s.stopAt c n x Cause.matrixShape.code word) s

def execMma (f : BitVec 10) (s : State) : Result := mmaWord (.mma f) f false s
def execMmaz (f : BitVec 10) (s : State) : Result := mmaWord (.mmaz f) f true s

/-- Translation and W permission of the pages of a drain, with firmware resolving what it can (R248). -/
def State.drainPages (d v : Nat) : State → List Nat → State × Option Nat
  | s, [] => (s, none)
  | s, a :: t =>
    match s.agentAddr d v a .wr with
    | (s, .error code) => (s, some code)
    | (s, .ok _) => State.drainPages d v s t

/-- One address in each page that a drain writes, in the order of its elements. -/
def drainTouches (addr pitch : W64) (m n e : Nat) : List Nat :=
  let rows := (List.range m).flatMap fun r =>
    let a := (addr + BitVec.ofNat 64 (r * pitch.toNat)).toNat
    let b := (addr + BitVec.ofNat 64 (r * pitch.toNat + (n - 1) * e)).toNat
    if a / 65536 = b / 65536 then [a] else [a, b]
  rows.foldl (fun acc a => if acc.any fun b => decide (b / 65536 = a / 65536) then acc else acc ++ [a]) []

/-- A sequence item is in range (R253). -/
def seqItemOk (q : W64) : Bool :=
  let n := bits q.toNat 31 16
  decide (bits q.toNat 63 32 = 0) && decide (1 ≤ n) && decide (n ≤ 1024) && decide (bits q.toNat 15 0 < n)

/-- A drain word: kind 0 `DRAIN`, 1 `DRAINADD`, 2 `DRAINADDO` (R248, R253, R398). -/
def drainWord (i : Instr) (f : BitVec 10) (kind : Nat) (s : State) : Result :=
  let scope := bits f.toNat 9 7
  let scr := f.getLsbD 2
  let cvt := bits f.toNat 1 0
  let pops := if kind = 2 then 4 else 3
  contextWord i (decide (bits f.toNat 6 3 = 0) && (decide (kind = 0) || decide (cvt = 0))) pops
    (fun c id x word s =>
      let w := (s.core c).wg x.wg
      let slot := (x.item 0).toNat
      let q := if kind = 2 then x.item 1 else 0
      let pitch := x.item (pops - 2)
      let addr := x.item (pops - 1)
      let e := cvtBytes cvt
      let stop := fun (s : State) (code : Nat) => s.stopAt c id x code word
      if w.acc.length ≤ slot || decide (pitch.toNat < x.n * e) || decide (cvt = 3) || (kind ≠ 0 && scr)
          || decide (scope = 0) || decide (scope = 7) || (kind = 2 && !seqItemOk q) then stop s Cause.matrixShape.code
      else if s.scopeDenied x.vf scope then stop s Cause.scopeDenied.code
      else if addr.toNat % e ≠ 0 || pitch.toNat % e ≠ 0 then stop s Cause.misaligned.code
      else if scr && decide (w.scratchLen < addr.toNat + (x.m - 1) * pitch.toNat + x.n * e) then
        stop s Cause.permission.code
      else
        match (if scr then (s, none) else State.drainPages (c / 48) x.vf s (drainTouches addr pitch x.m x.n e)) with
        | (s, some code) => stop s code
        | (s, none) =>
          s.launchOp c id x pops
            (.drain id x.wg x.vf (s.core c).nextId kind scr cvt addr pitch q w.scratchBase (getAt w.acc slot 0) x.m x.n
              none x.pc (engineInfo word x.stack.length))) s

def execDrain (f : BitVec 10) (s : State) : Result := drainWord (.drain f) f 0 s
def execDrainadd (f : BitVec 10) (s : State) : Result := drainWord (.drainadd f) f 1 s
def execDrainaddo (f : BitVec 10) (s : State) : Result := drainWord (.drainaddo f) f 2 s

def execArrive (f : BitVec 10) (s : State) : Result :=
  contextWord (.arrive f) (decide (bits f.toNat 9 4 = 0)) 0
    (fun c n x word s =>
      if !((s.core c).liveOps n x.wg).isEmpty then s.ctxWait c n x .ops
      else
        match s.arriveBar c x.wg (bits f.toNat 3 0) 1 with
        | none => s.stopAt c n x Cause.barrierMisuse.code word
        | some s => s.setCtx c n (x.past 0)) s

def execWaitb (f : BitVec 10) (s : State) : Result :=
  contextWord (.waitb f) (decide (bits f.toNat 9 4 = 0)) 0
    (fun c n x _ s =>
      let b := bits f.toNat 3 0
      let tok := getAt x.tokens b 0
      if (((s.core c).wg x.wg).barrier b).phase = tok then s.ctxWait c n x (.bar b)
      else s.setCtx c n ({ x with tokens := setAt x.tokens b (tok + 1) }.past 0)) s

/-- The DME's `HALT` (R325). -/
def State.haltDme (s : State) : State :=
  { s with sel := { s.sel with dme := { s.sel.dme with halted := true, busy := .idle } } }

/-- `HALT`: a context is freed once its operations are complete (R250); the DME stands until the next launch
(R325). -/
def execHalt (f : BitVec 10) (s : State) : Result :=
  match s.turn with
  | some .dme =>
    if f ≠ 0 then .refused (.noEncoding "a DME word that the loader refuses (R401)") else .next s.haltDme.endTurn
  | _ =>
    contextWord (.halt f) (decide (f = 0)) 0
      (fun c n x _ s =>
        let k := s.core c
        if !(k.liveOps n x.wg).isEmpty then s.ctxWait c n x .ops
        else
          let k := if (k.wg? x.wg).isSome then k.setWg x.wg { k.wg x.wg with ctx := none } else k
          s.setCore c { k with ctxs := KMap.del k.ctxs n }) s

/-- A word whose OP is 0x12 to 0x1F in a compute stream (R398). -/
def execUnassignedEngineWord (w : BitVec 16) (s : State) : Result :=
  match s.turn with
  | some (.context c n) =>
    match KMap.get? (s.core c).ctxs n with
    | none => .refused .noIssuer
    | some x => .next (s.stopAt c n x Cause.engineWord.code w).endTurn
  | _ => .refused .noIssuer

/-! ## Completion (R237, R252, R409) -/

/-- A drain that has read its slot: its contributions are sent (R252). -/
def MatOp.hasRead : MatOp → Bool
  | .mma _ _ _ _ _ _ _ _ _ _ _ _ _ _ => false
  | .drain _ _ _ _ _ _ _ _ _ _ _ _ _ _ left _ _ => left.isSome

/-- The draining operations that may complete: none behind an earlier one that still reads its slot, and none that waits
for a slice. -/
def readyDrains : List Nat → List MatOp → List MatOp
  | _, [] => []
  | seen, o :: t =>
    let rest := readyDrains (if o.hasRead then seen else o.slot :: seen) t
    match o with
    | .drain _ _ _ _ _ _ _ _ _ _ _ _ _ _ (some (_ + 1)) _ _ => rest
    | _ => if seen.contains o.slot then rest else o :: rest

/-- The operations of a core that may complete next. -/
def Core.readyOps (k : Core) : List MatOp :=
  let head := match k.launchQ with
    | o :: _ => if k.draining.any fun d => !d.hasRead && decide (d.slot = o.slot) then [] else [o]
    | [] => []
  head ++ readyDrains [] k.draining

/-- The operation leaves the core. -/
def Core.dropOp (k : Core) (o : MatOp) : Core :=
  { k with launchQ := k.launchQ.erase o, draining := k.draining.erase o }

/-- A matrix operation completes; an add-drain first sends its contributions. -/
def State.performOp (s : State) (c : Nat) (o : MatOp) : State :=
  let gone := s.setCore c ((s.core c).dropOp o)
  match o with
  | .mma _ _ _ _ _ _ _ _ _ _ _ _ _ _ => gone.runMatOp c o
  | .drain ctx wg vf id kind scr cvt addr pitch q base slot m n left at_ info =>
    match left with
    | some _ => gone
    | none =>
      if (s.core c).accPoison.contains slot then gone.stopContext c ctx Cause.dataUncorrectable.code at_ info
      else if kind = 0 || scr then gone.runMatOp c o
      else
        let (s, cs) := s.runDrain c vf id kind scr cvt addr pitch q base slot m n
        let k := s.core c
        let o' : MatOp := .drain ctx wg vf id kind scr cvt addr pitch q base slot m n (some cs.length) at_ info
        let s := s.setCore c { k with draining := k.draining.map fun d => if d = o then o' else d }
        cs.foldl (fun s x => s.sendContrib x) s

/-- A matrix operation completes, and with the last of a stopped context its workgroup ends (R399). -/
def State.completeOp (s : State) (c : Nat) (o : MatOp) : State := (s.performOp c o).settleStop c o.ctx.2

/-- A matrix operation runs to its end (R237); which one is open between contexts and slots. -/
def execMatrixOpComplete (core : Nat) (s : State) : Result :=
  let s := s.setCore core (Core.shiftDrains 16 (s.core core))
  let ops := (s.core core).readyOps
  if ops.isEmpty then .refused (.notEnabled "MATRIX_OP_COMPLETE")
  else
    let (i, s) := s.choice ops.length
    match ops[i]? with
    | none => .refused (.notEnabled "MATRIX_OP_COMPLETE")
    | some o => .next (s.completeOp core o)

/-- A copy that meets a fault which firmware declines ends (R409). -/
def execEngineOpEnded (core id : Nat) (s : State) : Result :=
  match s.copyFault core id with
  | some s => .next s
  | none => .refused (.notEnabled "ENGINE_OP_ENDED")

/-! ## The words of the DME (R325, R326) -/

/-- A word that only the DME executes. -/
def dmeWord (i : Instr) (fieldOk : Bool) (pops : Nat) (body : Dme → Nat → BitVec 16 → State → State) (s : State) : Result :=
  match s.turn with
  | some .dme =>
    let d := s.sel.dme
    let word := engineWord i
    if !fieldOk then .refused (.noEncoding "a DME word that the loader refuses (R401)")
    else if d.stack.length < pops then .next (s.stopDme .engineStack d.pc d.stack.length word).endTurn
    else .next (body d s.clk.selham word s).endTurn
  | _ => .refused .noIssuer

/-- The word is done: `pops` items are gone and the DME is busy as said. -/
def State.dmePast (s : State) (d : Dme) (pops : Nat) (b : DmeBusy) : State :=
  { s with sel := { s.sel with dme := { d with stack := d.stack.drop pops, pc := d.pc + 1, busy := b } } }

/-- What a report of an access that the DME makes for line core c names (R403). -/
def dmeAt (s : State) (d : Dme) (c q : Nat) : SelAt :=
  { unit := 6, addr := BitVec.ofNat 64 (s.load.dmePc + 2 * d.pc)
    info := BitVec.ofNat 64 (q + (s.lcr c).line % 65536 * 65536) }

def dmmaWord (i : Instr) (f : BitVec 10) (zero : Bool) (s : State) : Result :=
  dmeWord i (decide (bits f.toNat 9 5 = 0)) 3
    (fun d t word s =>
      let fmt := bits f.toNat 0 0
      let c := bits f.toNat 4 1
      let w := (getAt d.stack 0 0).toNat
      let k := (getAt d.stack 1 0).toNat
      let a := (getAt d.stack 2 0).toNat
      let e := if fmt = 0 then 32 else 64
      let b := if fmt = 0 then 2 else 1
      if k = 0 || decide (k % e ≠ 0) || decide (8192 < a + 64) || decide (2 ^ 20 < w * 64 + 32 * k * b) then
        s.stopDme .matrixShape d.pc d.stack.length word
      else
        let acc := if zero then List.replicate 64 0 else []
        s.dmePast d 3 (.mma zero fmt c a k w t none [] acc false (dmeAt s d c 7))) s

def execDmma (f : BitVec 10) (s : State) : Result := dmmaWord (.dmma f) f false s
def execDmmaz (f : BitVec 10) (s : State) : Result := dmmaWord (.dmmaz f) f true s

def execDout (f : BitVec 10) (s : State) : Result :=
  dmeWord (.dout f) (decide (bits f.toNat 9 8 = 0)) 1
    (fun d t _ s =>
      let c := bits f.toNat 4 1
      let q := bits f.toNat 7 5
      s.dmePast d 1 (.out (bits f.toNat 0 0) c q (getAt d.stack 0 0).toNat t [] false (dmeAt s d c q))) s

/-- `DWT`: the next word issues after the popped number of clocks. -/
def execDwt (f : BitVec 10) (s : State) : Result :=
  dmeWord (.dwt f) (decide (f = 0)) 1
    (fun d t _ s => s.dmePast d 1 (.waitClk (t + 1 + (getAt d.stack 0 0).toNat))) s

/-- `DLINE`: a launch that ends or is replaced stops the DME here (R293, R350). -/
def execDline (f : BitVec 10) (s : State) : Result :=
  dmeWord (.dline f) (decide (bits f.toNat 9 4 = 0)) 0
    (fun d _ _ s => if s.sel.stopping then s.haltDme else s.dmePast d 0 (.waitLine (bits f.toNat 3 0))) s

end Sys2Proof.Machine
end

