-- ==== Sys2Proof/Machine/Binding.lean ====
section
/-! DEFINITION. The distributor: the shape of a launch, candidates and their choice, the binding of workgroups and tasks to
cores, and the ends that a pre-emption or a kill makes (R36-R43, R71, R72, R79-R83, R342-R349, R436, R438, R454). -/

namespace Sys2Proof.Machine

/-! ## The shape of a launch (R36-R40) -/

/-- The extent of a field as the distributor counts it: 1 for a VIEW field. -/
def LaunchHdr.span (h : LaunchHdr) (i : Nat) : Nat := if h.bind i = 3 then 1 else h.ext i
/-- The number of combinations of the fields below `i`. -/
def LaunchHdr.below (h : LaunchHdr) (i : Nat) : Nat := (List.range i).foldl (fun a j => a * h.span j) 1
/-- The field that closes the workgroup: the lowest with binding CORE (R39). -/
def LaunchHdr.closing (h : LaunchHdr) : Option Nat := firstBelow 6 fun i => decide (h.bind i = 1)
/-- Groups of a workgroup, and workgroups of the launch. -/
def LaunchHdr.groups (h : LaunchHdr) : Nat :=
  match h.closing with
  | some i => h.below (i + 1)
  | none => 1
def LaunchHdr.total (h : LaunchHdr) : Nat := if h.below 6 = 0 then 0 else h.below 6 / h.groups
/-- The value of field `i` in group `n` of the launch, counted in WID order. -/
def LaunchHdr.fieldOf (h : LaunchHdr) (n i : Nat) : Nat := n / h.below i % h.span i
/-- WID bits [63:3] of group `n` (R36, R37). -/
def LaunchHdr.widOf (h : LaunchHdr) (n : Nat) : BitVec 61 :=
  BitVec.ofNat 61
    ((List.range 6).foldl (fun a i => (a.1 + h.fieldOf n i * 2 ^ a.2, a.2 + h.width i)) (0, 0)).1

/-- The classes of lanes that must stay together and that workgroup `w` belongs to: the field, the WID above it, and
whether one core or one die must hold them (R38). -/
def LaunchHdr.classes (h : LaunchHdr) (w : Nat) : List (Nat × Nat × Bool) :=
  (List.range 6).filterMap fun i =>
    if (h.bind i = 1 || h.bind i = 2) && h.closing ≠ some i then
      some (i, w * h.groups / h.below (i + 1), decide (h.bind i = 1))
    else none

/-- Core `c` keeps every class of workgroup `w` on its core or die. -/
def Launch.homeOk (x : Launch) (w c : Nat) : Bool :=
  (x.hdr.classes w).all fun k => x.homes.all fun m =>
    !(decide (m.1 = k.1) && decide (m.2.1 = k.2.1)) || (if k.2.2 then decide (m.2.2 = c) else decide (m.2.2 / 48 = c / 48))

/-- The classes of a workgroup that is bound to core `c`. -/
def Launch.noteHomes (x : Launch) (w c : Nat) : Launch :=
  let new := (x.hdr.classes w).filter fun k => !x.homes.any fun m => decide (m.1 = k.1) && decide (m.2.1 = k.2.1)
  { x with homes := x.homes ++ new.map fun k => (k.1, k.2.1, c) }

/-! ## What a core has room for (R43, R58, R79-R81) -/

/-- The isolation domain of a core (R26). -/
def domainOf (c : Nat) : Nat := 3 * (c / 48) + c % 48 / 16
/-- The virtual function that owns a core's domain. -/
def State.coreVf (s : State) (c : Nat) : Option Nat :=
  (s.vfs.find? fun e => e.2.valid && e.2.ownsDomain (domainOf c)).map Prod.fst

/-- The lowest free group slot of quarter `q`. -/
def freeSlot (used : List Nat) (q : Nat) : Option Nat :=
  (firstBelow 128 fun i => !used.contains (128 * q + i)).map fun i => 128 * q + i
def freeSlots (used : List Nat) (q : Nat) : Nat :=
  ((List.range 128).filter fun i => !used.contains (128 * q + i)).length

/-- The slot of group `g`: quarter g mod 4 if it has one free, else the quarter with the most free slots (R43). -/
def groupSlot (used : List Nat) (g : Nat) : Option Nat :=
  match freeSlot used (g % 4) with
  | some n => some n
  | none =>
    let q := [1, 2, 3].foldl (fun b q => if freeSlots used b < freeSlots used q then q else b) 0
    freeSlot used q

/-- The slots of `n` groups, in WID order. -/
def groupSlots (used : List Nat) : List Nat → Option (List Nat)
  | [] => some []
  | g :: t =>
    match groupSlot used g with
    | none => none
    | some n => (groupSlots (n :: used) t).map fun r => n :: r

/-- The scratchpad's first pool offset and length in 256-byte units, for a register part and accumulator slots (R80). -/
def scratchPart (regs accs : Nat) : Nat × Nat := (regs * 65536, (1984 * 1024 - regs * 65536 - accs * 16384) / 256)

/-- The first pool offset of accumulator storage, directly below the trap area (R80). -/
def accBase (accs : Nat) : Nat := 1984 * 1024 - accs * 16384

/-- The bytes of accumulator storage that are not 0, by pool offset (R80, R242). -/
def Core.accBytes (k : Core) : KMap Byte :=
  k.acc.flatMap fun a => a.2.flatMap fun e => (List.range 4).filterMap fun i =>
    let b : Byte := e.2.extractLsb' (8 * i) 8
    if b = 0#8 then none else some (accBase k.accsPart + 16384 * a.1 + 4 * e.1 + i, b)

/-- The elements that a run of bytes of one slot makes. -/
def accWords (lo : Nat) : KMap Byte → KMap W32
  | [] => []
  | (a, b) :: t =>
    let i := (a - lo) / 4
    let w : W32 := b.setWidth 32 <<< (8 * ((a - lo) % 4))
    match accWords lo t with
    | (j, x) :: r => if i = j then (j, w ||| x) :: r else (i, w) :: (j, x) :: r
    | [] => [(i, w)]

/-- Bytes of the pool that was register part before, from a source of free bytes: what they hold is not stated. -/
def leftBytes (noise : Nat → Byte) (lo hi : Nat) : KMap Byte :=
  (List.range (hi - lo)).filterMap fun i => if noise i = 0#8 then none else some (lo + i, noise i)

/-- The pool of a core that holds no group under a new REGS and ACCS: what scratchpad and accumulator storage held stays in its
bytes, under whichever of the two names them now (R80, R82); what the register part leaves is free (DESIGN CHOICE, log 40). -/
def Core.repart (k : Core) (noise : Nat → Byte) (regs accs : Nat) : Core :=
  if k.regsPart = regs && k.accsPart = accs then k
  else
    let pool := leftBytes noise (regs * 65536) (k.regsPart * 65536) ++ k.scratch ++ k.accBytes
    let mid := accBase accs
    let marks := k.scratchPoison ++ k.accPoison.flatMap fun a => (List.range 16384).map fun i => accBase k.accsPart + 16384 * a + i
    let slots := (List.range accs).map fun a => (a, mid + 16384 * a)
    { k with
      regsPart := regs, accsPart := accs
      scratch := pool.filter fun b => decide (regs * 65536 ≤ b.1) && decide (b.1 < mid)
      scratchPoison := marks.filter fun b => decide (regs * 65536 ≤ b) && decide (b < mid)
      acc := slots.filterMap fun a =>
        match pool.filter fun b => decide (a.2 ≤ b.1) && decide (b.1 < a.2 + 16384) with
        | [] => none
        | bs => some (a.1, accWords a.2 bs)
      accPoison := (slots.filter fun a => marks.any fun b => decide (a.2 ≤ b) && decide (b < a.2 + 16384)).map Prod.fst }

/-- Core `c` takes a REGS and an ACCS (R81). -/
def State.repart (s : State) (c regs accs : Nat) : State :=
  let k := s.core c
  if k.regsPart = regs && k.accsPart = accs then s
  else
    let n := (k.regsPart - regs) * 8192
    let noise := fun (i : Nat) => (Config.freeWord (s.frees + i / 8)).extractLsb' (8 * (i % 8)) 8
    { s.setCore c (k.repart noise regs accs) with frees := s.frees + n }

/-- Where a workgroup goes on a core. -/
structure Plan where
  slots : List Nat
  frames : List (Nat × Option (Nat × Nat))
  acc : List Nat
  scratch : Nat
  deriving DecidableEq, Repr

/-- A core with REGS and ACCS of a partition word where it holds no resident group; none where it holds one and they
differ (R81). -/
def Core.parted (k : Core) (regs accs : Nat) : Option Core :=
  if k.groups.isEmpty then some { k with regsPart := regs, accsPart := accs }
  else if k.regsPart = regs && k.accsPart = accs then some k
  else none

/-- Room for `n` groups with frames of the given sizes, ACCW slots and SCRW units of scratchpad; none where a
condition of R81 fails. -/
def Core.plan (k : Core) (groups : List Nat) (sizes : List (Nat × Bool)) (accw scrw : Nat) : Option Plan :=
  match groupSlots (k.groups.map Prod.fst) groups, k.place sizes with
  | some slots, some frames =>
    let usedAcc := k.wgs.flatMap fun w => w.2.acc
    let acc := ((List.range k.accsPart).filter fun a => !usedAcc.contains a).take accw
    let part := scratchPart k.regsPart k.accsPart
    let used := k.wgs.filterMap fun w =>
      if w.2.scratchLen = 0 then none else some ((w.2.scratchBase - part.1) / 256, w.2.scratchLen / 256)
    match (if scrw = 0 then some 0 else firstFit used part.2 scrw) with
    | some o => if acc.length = accw then some { slots := slots, frames := frames, acc := acc, scratch := part.1 + 256 * o } else none
    | none => none
  | _, _ => none

/-- The core may take new work of virtual function `v`: usable, in a domain of `v`, no resident group of another, and
no `CALL` or refill waiting (R63, R81, R441). -/
def State.coreOpen (s : State) (c v : Nat) : Bool :=
  let k := s.core c
  decide (c < 192) && k.usable && !(s.die (c / 48)).lost && decide (s.coreVf c = some v) && k.allocs.isEmpty
    && k.groups.all fun g => decide (g.2.vf = v)

/-- A core is given to virtual function `v`: its scratchpad, accumulator storage, trap area, B-store slice, L1 and L1 TLB are
clear, no ring is initialised and no copy channel used, whatever number it served before (R83, R229, R232). -/
def State.assign (s : State) (c v : Nat) : State :=
  let k := s.core c
  let s := match k.lastVf with
    | some o => s.perfAdd o 1 k.bankWrites
    | none => s
  let s := s.setCore c { k with
    lastVf := some v, bankWrites := 0, scratch := [], bstore := [], acc := [], accPoison := [], scratchPoison := []
    bstorePoison := [], traps := [], trapRegs := [], trapPoison := [], rings := [], chans := [], tlb := [], latched := [], l1 := [] }
  { s with l1own := s.l1own.filter fun o => decide (o.2.1 ≠ c) }

/-- Before work of another virtual function than the one last served, the core is cleared (R83). -/
def State.scrub (s : State) (c v : Nat) : State := if (s.core c).lastVf = some v then s else s.assign c v

/-- A core takes work of virtual function `v` under a REGS and an ACCS: cleared first where it served another (R81-R83). -/
def State.ready (s : State) (c v regs accs : Nat) : State := (s.scrub c v).repart c regs accs

/-! ## Candidates (R342) -/

/-- The next unbound workgroup of a launch, in WID order. -/
def Launch.nextWg (x : Launch) : Option Nat :=
  let own := if x.next < x.total then [x.next] else []
  (x.returned ++ own).foldl (fun b n => match b with
    | none => some n
    | some m => some (min m n)) none

/-- A launch whose workgroups are candidates. -/
def Launch.live (x : Launch) : Bool := !x.ended && !x.stopped

/-- The saved workgroup in a spill record of a core. -/
def Core.savedWg (k : Core) (key : Nat) : Option (SpillRec × SavedWg) :=
  match KMap.get? k.spills key with
  | none => none
  | some r =>
    match r.kind with
    | .saved x => some (r, x)
    | .group _ => none
    | .park _ _ _ _ _ _ => none

/-- The place of a fresh workgroup on core `c`, or none where it does not fit there. -/
def State.freshPlan (s : State) (c l w : Nat) : Option Plan :=
  let x := s.launch l
  let h := x.hdr
  if !s.coreOpen c h.vf || !x.homeOk w c then none
  else
    match (s.core c).parted (partRegs h.part) (partAccs h.part) with
    | none => none
    | some k => k.plan (List.range h.groups) (List.replicate h.groups (h.entryF, false)) (partAccw h.part) (partScrw h.part)

/-- The groups of a saved workgroup that have not ended, in WID order: the number in the workgroup (R43) and the slot that each
had. -/
def SavedWg.order (x : SavedWg) (h : LaunchHdr) : List (Nat × Nat) :=
  (List.range h.groups).filterMap fun g =>
    (x.groups.find? fun e => decide (e.2.wid = h.widOf (x.wg.index * h.groups + g))).map fun e => (g, e.1)

/-- The slot that takes the place of an old one. -/
def newSlot (order : List (Nat × Nat)) (slots : List Nat) (old : Nat) : Nat :=
  getAt slots (order.takeWhile fun x => decide (x.2 ≠ old)).length 0

/-- The handlers of resumed groups take places of the active set, and their trap frames with them, marks included; none where
handlers leave no place (R69, R347, R415). -/
def resumeTraps (now : Nat) (slot : Nat → Nat) (x : SavedWg) : KMap TrapState → Core → Option Core
  | [], k => some k
  | (i, t) :: ts, k =>
    match k.ensurePlace (slot t.slot) t.ent now with
    | none => none
    | some (k, p) =>
      let j := 8 * quarterOf (slot t.slot) + p
      let k := k.freeTrap j
      let k := { k with
        traps := KMap.put k.traps j { t with slot := slot t.slot }
        trapRegs := KMap.put k.trapRegs j (KMap.getD x.trapRegs i [])
        trapPoison := KMap.put k.trapPoison j (KMap.getD x.trapPoison i []) }
      let k := match (k.group? (slot t.slot)).bind fun g => g.entry? t.ent with
        | some e => k.setEntry (slot t.slot) { e with handler := some j }
        | none => k
      resumeTraps now slot x ts k

/-- The bytes of `new`, by offset, in place of what a table holds in a range. -/
def putRange (m : KMap Byte) (inRange : Nat → Bool) (base : Nat) (new : KMap Byte) : KMap Byte :=
  new.foldl (fun m b => KMap.putD m (base + b.1) b.2 0) (m.filter fun b => !inRange b.1)
def putMarks (m : List Nat) (inRange : Nat → Bool) (base : Nat) (new : List Nat) : List Nat :=
  (m.filter fun b => !inRange b) ++ new.map (base + ·)

/-- The rows of the B-store that the live B reservations of a workgroup hold: [BASE, BASE + k bytes) of every column slice. -/
def Workgroup.bRows (w : Workgroup) (b : Nat) : Bool :=
  (w.res.filter fun (r : Nat × Resv) => decide (r.2.space ≠ 0)).any fun (r : Nat × Resv) =>
    decide (r.2.range.1 ≤ b % 65536) && decide (b % 65536 < r.2.range.1 + r.2.range.2)

/-- A saved workgroup on the core that saved it, at its new places: every byte, slot and mark of its record (R347, R415). None
where it had a sequencer context and the core has none free, or handlers leave no place in the active set. -/
def Core.resumed (k : Core) (now key : Nat) (h : LaunchHdr) (r : SpillRec) (x : SavedWg) (p : Plan) : Option Core :=
  let n := k.nextWg
  let slot := newSlot (x.order h) p.slots
  let k := Core.putFrames { k with nextWg := n + 1, spills := KMap.del k.spills key }
    (r.frames.map fun f => (f.1, { f.2 with slot := slot f.2.slot })) p.frames
  let k := x.groups.foldl (fun k g => k.setGroup (slot g.1) { g.2 with wg := n }) k
  let mine := fun (b : Nat) => decide (p.scratch ≤ b) && decide (b < p.scratch + x.wg.scratchLen)
  let k := { k with
    scratch := putRange k.scratch mine p.scratch x.scratch
    scratchPoison := putMarks k.scratchPoison mine p.scratch x.scratchPoison
    bstore := putRange k.bstore x.wg.bRows 0 x.bstore
    bstorePoison := putMarks k.bstorePoison x.wg.bRows 0 x.bstorePoison
    acc := x.accs.foldl (fun m (a : Nat × KMap W32) => KMap.put m (getAt p.acc a.1 0) a.2) k.acc
    accPoison := (k.accPoison.filter fun a => !p.acc.contains a) ++ x.accPoison.map fun a => getAt p.acc a 0
    rings := x.rings.foldl (fun m (r : Nat × Ring) => KMap.put m r.1 { r.2 with base := p.scratch + r.2.base }) k.rings }
  let ctx := match x.ctx, k.freeCtx with
    | none, _ => some (k, none)
    | some _, none => none
    | some y, some i => some ({ k with ctxs := KMap.put k.ctxs i { y with wg := n } }, some i)
  ctx.bind fun kc => resumeTraps now slot x x.traps
    (kc.1.setWg n { x.wg with
      slots := p.slots, scratchBase := p.scratch, acc := p.acc, ctx := kc.2, saving := false, draining := false, stopping := false })

/-- The place of a workgroup that core `c` has saved. -/
def State.savedPlan (s : State) (c l key : Nat) : Option Plan :=
  let h := (s.launch l).hdr
  if !s.coreOpen c h.vf then none
  else
    match (s.core c).parted (partRegs h.part) (partAccs h.part), (s.core c).savedWg key with
    | some k, some (r, x) =>
      (k.plan ((x.order h).map Prod.fst) (frameSizes r.frames) x.wg.acc.length (x.wg.scratchLen / 256)).bind fun p =>
        if (k.resumed s.clk.compute key h r x p).isSome then some p else none
    | _, _ => none

/-- The HEAD entry of a task queue's highest non-empty ring: ring, handle, and the ring's counts; a queue that could be read is
usable again, an empty one too (R344). -/
def State.taskHeadFrom (s : State) (src d v q : Nat) (t : TaskQueue) : List Nat → State × Option (Nat × W64 × Nat × Nat)
  | [] => (s.queueGood v q, none)
  | p :: ps =>
    match s.ringCounts d v t p with
    | (s, .error c) => (s.queueBad src v q c, none)
    | (s, .ok (head, tail)) =>
      if head = tail then s.taskHeadFrom src d v q t ps
      else
        match s.agentRead d v (t.slot p head) with
        | (s, .error c) => (s.queueBad src v q c, none)
        | (s, .ok h) => (s.queueGood v q, some (p, h, head, tail))

def State.taskHead (s : State) (d v q : Nat) : State × Option (TaskQueue × Nat × W64 × Nat × Nat) :=
  let src := srcFw s.activeFw
  match s.taskQueue d v q with
  | (s, .error c) => (s.queueBad src v q c, none)
  | (s, .ok t) =>
    match s.taskHeadFrom src d v q t [7, 6, 5, 4, 3, 2, 1, 0] with
    | (s, none) => (s, none)
    | (s, some x) => (s, some (t, x))

/-- The record of a task at its start, with how the head entry is judged: startable, dropped in silence, or dropped
with a notice or an access event of the given code (R71, R453). -/
inductive StartCheck where
  | ok (ws : List W64)
  | stale
  | notice (code : Nat)
  | unread (code : Nat)
  deriving DecidableEq, Repr

def State.startCheck (s : State) (d v : Nat) (h : W64) : State × StartCheck :=
  if (s.vf v).taskCnt ≤ handleIndex h then (s, .notice Cause.handleBounds.code)
  else
    match State.agentReads 8 s d v (s.taskVa v h) with
    | (s, .error c) => (s, .unread c)
    | (s, .ok ws) =>
      let ctl := (getAt ws 1 0).toNat
      if ctlVf ctl ≠ v then (s, .notice Cause.permission.code)
      else if handleGen h = 0 || ctlGen ctl ≠ handleGen h || bits h.toNat 47 32 ≠ 0 then (s, .stale)
      else if ctlState ctl = 0 || (ctlState ctl = 2 && ctlReady ctl) then (s, .ok ws)
      else (s, .stale)

/-- The launch whose settings the tasks of a virtual function take: the one accepted most recently (R454). -/
def State.taskLaunch (s : State) (v : Nat) : Option Nat := KMap.get? s.dist.lastStarted v

/-- The place of a task's group on core `c`: a frame of its own, or those of its parked context (R454). -/
def State.taskPlan (s : State) (c v : Nat) (ws : List W64) (park : Option SpillRec) : Option Plan :=
  match s.taskLaunch v with
  | none => none
  | some l =>
    if !s.coreOpen c v then none
    else
      let h := (s.launch l).hdr
      let k := s.core c
      let k := if k.groups.isEmpty then { k with regsPart := partRegs h.part, accsPart := partAccs h.part } else k
      let sizes := match park with
        | some r => r.frames.map fun f => (f.2.size, f.2.hdr.isSome)
        | none => [(ctlFrame (getAt ws 1 0).toNat, false)]
      k.plan [0] sizes 0 0

/-- The parked context of a task whose record is in STATE 2. -/
def State.parkOf (s : State) (v : Nat) (h : W64) (ws : List W64) : Option SpillRec :=
  if ctlState (getAt ws 1 0).toNat = 2 then (s.findPark h v).map fun p => p.2.2 else none

/-- The order of two candidates: priority, workgroups before tasks, then the launch's acceptance or the entry's writing
(R342). -/
structure CandKey where
  prio : Nat
  isTask : Bool
  since : Nat
  index : Nat
  cand : Cand
  deriving DecidableEq, Repr

def CandKey.before (a b : CandKey) : Bool :=
  if a.prio ≠ b.prio then b.prio < a.prio
  else if a.isTask != b.isTask then !a.isTask
  else if a.since ≠ b.since then a.since < b.since
  else a.index < b.index

def bestCand (l : List CandKey) : Option Cand :=
  (l.foldl (fun best x => match best with
    | none => some x
    | some b => if x.before b then some x else some b) none).map fun x => x.cand

/-- The workgroups of launch `l` that core `c` could bind. -/
def State.wgCands (s : State) (c l : Nat) : List CandKey :=
  let x := s.launch l
  if !x.live then []
  else
    let fresh := match x.nextWg with
      | none => []
      | some w => if (s.freshPlan c l w).isSome then
          [{ prio := x.prio, isTask := false, since := l, index := w, cand := .fresh l w }] else []
    let saved := x.saved.filterMap fun p =>
      if p.1 = c && (s.savedPlan c l p.2).isSome then
        ((s.core c).savedWg p.2).map fun r =>
          { prio := x.prio, isTask := false, since := l, index := r.2.wg.index, cand := .saved l p.2 }
      else none
    fresh ++ saved

/-- The heads of task queues `qs` of virtual function `v` that core `c` could bind. -/
def State.taskCands (s : State) (c v : Nat) : List Nat → State × List CandKey
  | [] => (s, [])
  | q :: qs =>
    match s.taskHead (c / 48) v q with
    | (s, none) => s.taskCands c v qs
    | (s, some (_, p, h, _, _)) =>
      match s.startCheck (c / 48) v h with
      | (s, .ok ws) =>
        let fits := (s.taskPlan c v ws (s.parkOf v h ws)).isSome
          && !s.dist.chosen.any fun e => decide (e.2 = .task q h) && decide (s.coreVf e.1 = some v)
        let since := ((s.dist.order.zipIdx.find? fun o => decide (o.1 = (v, 8 * q + p, h))).map Prod.snd).getD 0
        let (s, l) := s.taskCands c v qs
        (s, if fits then { prio := p, isTask := true, since := since, index := q, cand := .task q h } :: l else l)
      | (s, _) => s.taskCands c v qs

/-- The candidate that the distributor selects for a core (R342). -/
def State.select (s : State) (c : Nat) : State × Option Cand :=
  match s.coreVf c with
  | none => (s, none)
  | some v =>
    let wgs := s.dist.launches.flatMap fun e => if e.2.hdr.vf = v then s.wgCands c e.1 else []
    let (s, tasks) := s.taskCands c v (List.range (min 16 (s.vf v).tqCnt))
    (s, bestCand (wgs ++ tasks))

/-! ## Binding (R37, R43, R58, R59, R72, R81) -/

/-- A fresh entry: every lane active at an address, in a frame. -/
def Entry.fresh (pc : W64) (frame now : Nat) : Entry :=
  { id := .own, mask := 0xFF, pc := pc, depth := 0, tok := none, frame := frame, adepth := 0, retried := false
    handler := none, wait := .none, waitFrom := now, nextIssue := now, lastIssue := now, readyAt := some now
    adopting := none }

/-- A group of one entry. -/
def Group.fresh (launch wg vf : Nat) (wid : BitVec 61) (task : Option W64) (e : Entry) : Group :=
  { launch := launch, wg := wg, vf := vf, wid := wid, task := task, entries := [e], items := [], nextItem := 0
    preds := 0, pend := [], dbg := .running, bkpt := none, spilled := false, forced := false, parking := false }

/-- The groups of a fresh workgroup put into their slots and frames, in WID order. -/
def bindGroups (l w : Nat) (h : LaunchHdr) (now : Nat) (k : Core) (n : Nat) :
    List Nat → List (Nat × Option (Nat × Nat)) → Core
  | slot :: ss, p :: ps =>
    let (k, f) := k.addFrame slot h.entryF p none none
    let g := Group.fresh l n h.vf (h.widOf w) none (Entry.fresh (BitVec.ofNat 64 h.code) f now)
    bindGroups l (w + 1) h now (k.setGroup slot g) n ss ps
  | _, _ => k

/-- A workgroup of launch `l` that a core has taken: it is not picked any more. -/
def Launch.taken (x : Launch) (c n w : Nat) : Launch :=
  { x.noteHomes w c with bound := x.bound ++ [(c, n)], picked := x.picked.filter fun m => decide (m ≠ w) }

/-- A fresh workgroup bound to a core. -/
def State.bindFresh (s : State) (c l w : Nat) (p : Plan) : State :=
  let x := s.launch l
  let h := x.hdr
  let s := s.ready c h.vf (partRegs h.part) (partAccs h.part)
  let k := s.core c
  let n := k.nextWg
  let wg : Workgroup :=
    { launch := l, index := w, vf := h.vf, isTask := false, idem := h.idem, barriers := [], scratchBase := p.scratch
      scratchLen := 256 * partScrw h.part, acc := p.acc, res := [], ctx := none, slots := p.slots, saving := false
      draining := false, stopping := false }
  let k := bindGroups l (w * h.groups) h s.clk.compute ({ k with nextWg := n + 1 }.setWg n wg) n p.slots p.frames
  (s.setCore c k).setLaunch l (x.taken c n w)

/-- The record of a saved workgroup is freed, and every task that its groups ran by adoption fails (R434, R436). -/
def State.dropSaved (s : State) (c key : Nat) : State :=
  match (s.core c).savedWg key with
  | none => s
  | some (r, x) =>
    let k := { s.core c with frames := r.frames }
    let s := (x.groups.flatMap fun g => k.adoptedTasks g.2).foldl (fun s h => s.failTask c x.wg.vf h) s
    s.setCore c { s.core c with spills := KMap.del (s.core c).spills key }

/-- A saved workgroup bound again on the core that saved it, from its saved state (R347); a record in error ends its groups
(R419). -/
def State.bindSaved (s : State) (c l key : Nat) (p : Plan) : State :=
  match (s.core c).savedWg key with
  | none => s
  | some (r, y) =>
    match s.recordsBad c y.wg.vf [(key, r)] with
    | (s, true) =>
      let s := s.dropSaved c key
      let x := s.launch l
      let ev : Event :=
        { Event.blank with
          code := Cause.dataUncorrectable.code, cls := 2, die := c / 48, unit := c % 48, vf := y.wg.vf, launch := some l }
      let s := (y.groups.foldl (fun s _ => s.raise (srcCore c) ev) s).setLaunch l
        { x with saved := x.saved.filter fun y => decide (y ≠ (c, key)) }
      s.settleLaunch l
    | (s, false) =>
      let h := (s.launch l).hdr
      let s := s.ready c y.wg.vf (partRegs h.part) (partAccs h.part)
      let n := (s.core c).nextWg
      match (s.core c).resumed s.clk.compute key h r y p with
      | none => s
      | some k =>
        let x := s.launch l
        (s.setCore c k).setLaunch l { x with
          bound := x.bound ++ [(c, n)], saved := x.saved.filter fun y => decide (y ≠ (c, key)) }

/-! ## The choice of a candidate, and its binding (R342, R343) -/

/-- Core `c` holds no choice any more. -/
def State.unchoose (s : State) (c : Nat) : State := { s with dist := { s.dist with chosen := KMap.del s.dist.chosen c } }

/-- The distributor selects a candidate for core `c`: a workgroup that it has picked is no candidate elsewhere. -/
def State.choose (s : State) (c : Nat) (a : Cand) : State :=
  let s := { s with dist := { s.dist with chosen := KMap.put s.dist.chosen c a } }
  match a with
  | .fresh l w =>
    let x := s.launch l
    s.setLaunch l { x with
      picked := x.picked ++ [w], returned := x.returned.filter fun m => decide (m ≠ w)
      next := if w = x.next then x.next + 1 else x.next }
  | .saved _ _ => s
  | .task _ _ => s

/-- What was selected for core `c` and cannot be bound there is a candidate again. -/
def State.giveUp (s : State) (c : Nat) : State :=
  match KMap.get? s.dist.chosen c with
  | some (.fresh l w) =>
    let x := s.launch l
    let s := s.setLaunch l { x with
      picked := x.picked.filter fun m => decide (m ≠ w)
      returned := if x.picked.contains w then x.returned ++ [w] else x.returned }
    s.unchoose c
  | _ => s.unchoose c

/-- Every choice of a workgroup of launch `l` is given up: it is to be bound no further (R346, R436). -/
def State.giveUpLaunch (s : State) (l : Nat) : State :=
  (s.dist.chosen.filter fun e => match e.2 with
    | .fresh m _ => decide (m = l)
    | .saved m _ => decide (m = l)
    | .task _ _ => false).foldl (fun s e => s.giveUp e.1) s

/-- The distributor selects a candidate for a core that can bind work, or binds the workgroup that it has selected for it, at the
priority that the launch had then (R342, R343). -/
def execWorkgroupBind (core : Nat) (s : State) : Result :=
  match KMap.get? s.dist.chosen core with
  | some (.fresh l w) =>
    match (if (s.launch l).live then s.freshPlan core l w else none) with
    | some p => .next ((s.unchoose core).bindFresh core l w p)
    | none => .next (s.giveUp core)
  | some (.saved l key) =>
    match (if (s.launch l).live then s.savedPlan core l key else none) with
    | some p => .next ((s.unchoose core).bindSaved core l key p)
    | none => .next (s.giveUp core)
  | some (.task _ _) => .refused (.notEnabled "WORKGROUP_BIND")
  | none =>
    match s.select core with
    | (s, some a) => .next (s.choose core a)
    | (_, none) => .refused (.notEnabled "WORKGROUP_BIND")

/-! ## The start of a task (R71, R72, R454) -/

/-- The head entry of a ring taken off. -/
def State.dequeue (s : State) (d v q : Nat) (t : TaskQueue) (p : Nat) (h : W64) (head tail : Nat) : State :=
  let s := { s with dist := { s.dist with order := s.dist.order.erase (v, 8 * q + p, h) } }
  match s.putCounts d v t p (head + 1) tail with
  | (s, .error c) => s.queueBad (srcFw s.activeFw) v q c
  | (s, .ok _) => s

/-- A notice of an entry that the distributor drops (R71). -/
def dropNotice (v code : Nat) (h : W64) : Event :=
  { Event.blank with code := code, cls := 4, block := 11, die := 4, vf := v, task := h }

/-- A task's group on a core: a fresh frame with the arguments at ENTRY, or its parked context. -/
def State.bindTask (s : State) (c v l : Nat) (h : W64) (ws : List W64) (park : Option SpillRec) (p : Plan) : State :=
  let hd := (s.launch l).hdr
  let k := s.core c
  let s := if k.groups.isEmpty then s.ready c v (partRegs hd.part) (partAccs hd.part) else s.scrub c v
  let k := s.core c
  let n := k.nextWg
  let now := s.clk.compute
  let slot := getAt p.slots 0 0
  let k := { k with nextWg := n + 1 }.setWg n { Workgroup.blank with launch := l, vf := v, slots := [slot] }
  match park, p.frames with
  | some r, _ =>
    let e := Entry.fresh 0 0 now
    let g := Group.fresh l n v 0 (some h) e
    match (s.setCore c (k.setGroup slot g)).refillPark c slot g e r none none with
    | none => s
    | some (k, e, g) => (s.setCore c ((k.setGroup slot g).setEntry slot e)).freePark (c / 48) v h
  | none, f :: _ =>
    let (k, id) := k.addFrame slot (ctlFrame (getAt ws 1 0).toNat) f none none
    let k := k.putArgs id (ws.drop 4)
    let e := Entry.fresh (BitVec.ofNat 64 (bits (getAt ws 0 0).toNat 54 0)) id now
    s.setCore c (k.setGroup slot (Group.fresh l n v 0 (some h) e))
  | none, [] => s

/-- The event of a start of parked task `h` that finds no live record at PARKVA: the task fails (R72). -/
def State.deadStart (s : State) (c v : Nat) (h : W64) (va code : Nat) : State :=
  (s.failTask c v h).raise (srcFw s.activeFw) (distEvent v code va h)

/-- The distributor starts a task whose plan stands: it wins the compare-and-swap on the control word, or starts nothing; a
parked task whose record is not live fails (R71, R72). -/
def State.startTask (s : State) (c v l : Nat) (h : W64) (ws : List W64) (p : Plan) : State :=
  let ctl := (getAt ws 1 0).toNat
  let va := bits (getAt ws 3 0).toNat 54 0
  match s.swapCtl c v h (ctlRun ctl c (getAt p.slots 0 0) false) with
  | (s, false) => s
  | (s, true) =>
    if ctlState ctl = 2 then
      match s.parkDead (c / 48) v h va with
      | (s, some code) => s.deadStart c v h va code
      | (s, none) => s.bindTask c v l h ws (s.parkOf v h ws) p
    else s.bindTask c v l h ws none p

/-- The distributor takes the head entry of a task queue: an entry that cannot be started is dropped, and the task that
it has selected for the core is started. A choice that is the head no more, or does not fit any more, is given up
(DEDUCED, log 33). -/
def execTaskStart (core vf queue : Nat) (s : State) : Result :=
  let d := core / 48
  let chosen := match KMap.get? s.dist.chosen core with
    | some (.task q h) => if q = queue && s.coreVf core = some vf then some h else none
    | _ => none
  if min 16 (s.vf vf).tqCnt ≤ queue || !(s.vf vf).valid then .refused (.notEnabled "TASK_START")
  else
    match s.taskHead d vf queue with
    | (s', none) =>
      if chosen.isSome then .next (s'.giveUp core)
      else if s'.dist.unusable = s.dist.unusable then .refused (.notEnabled "TASK_START")
      else .next s'
    | (s, some (t, p, h, head, tail)) =>
      let drop := fun (s : State) => s.dequeue d vf queue t p h head tail
      let src := srcFw s.activeFw
      match s.startCheck d vf h with
      | (s, .stale) => .next (drop s)
      | (s, .notice code) => .next ((drop s).raise src (dropNotice vf code h))
      | (s, .unread code) => .next ((drop s).raise src (distEvent vf code (s.taskVa vf h) h))
      | (s, .ok ws) =>
        if chosen = some h then
          match s.taskPlan core vf ws (s.parkOf vf h ws), s.taskLaunch vf with
          | some pl, some l => .next ((drop (s.unchoose core)).startTask core vf l h ws pl)
          | _, _ => .next (s.giveUp core)
        else if chosen.isSome then .next (s.giveUp core)
        else .refused (.notEnabled "TASK_START")

/-- A READY task that found its ring full goes to the head of its ring once a slot is free; one that has started since
needs no entry (R72, R344). -/
def execTaskRequeue (vf task : Nat) (s : State) : Result :=
  let h := BitVec.ofNat 64 task
  if !s.dist.requeue.contains (vf, h) then .refused (.notEnabled "TASK_REQUEUE")
  else
    let gone := fun (s : State) => { s with dist := { s.dist with requeue := s.dist.requeue.erase (vf, h) } }
    match s.ownerRec 0 vf h with
    | (s, none) => .next (gone s)
    | (s, some ws) =>
      let ctl := (getAt ws 1 0).toNat
      if ctlState ctl ≠ 2 || !ctlReady ctl then .next (gone s)
      else
        match s.enqueue (srcFw s.activeFw) 4 vf (ctlQueue ctl) (ctlPrio ctl) h true with
        | (s, true) => .next (gone s)
        | (_, false) => .refused (.notEnabled "TASK_REQUEUE")

/-! ## Discard, save and kill (R346-R348, R434, R436, R438) -/

/-- The groups of a workgroup leave the core with what they hold, without the end of any task. -/
def State.dropWg (s : State) (c n : Nat) : State :=
  ((s.core c).wg n).slots.foldl (fun s slot => s.dropGroup c slot) s

/-- A bound workgroup is discarded: it returns to the launch's unbound workgroups (R346). -/
def State.discardWg (s : State) (c n : Nat) : State :=
  let w := (s.core c).wg n
  let x := s.launch w.launch
  let s := { s with dist := { s.dist with
    preempts := s.dist.preempts.map fun (p : Preempt) =>
      if p.launch = w.launch && p.left.contains (c, n) then { p with discards := p.discards + 1 } else p } }
  let s := s.setLaunch w.launch { x with returned := x.returned ++ [w.index], discards := x.discards + 1 }
  s.dropWg c n

/-- The copies and matrix operations of a workgroup end where they stand, with no arrival; the records that copies latched are
let go (R409, R413, R436). -/
def Core.endEngines (k : Core) (n : Nat) : Core :=
  let k := k.unlatchAll (k.chans.filterMap fun ch => ch.2.op.bind fun o => if o.wg = n then some (o.handle, o.table) else none)
  { k with
    chans := k.chans.map fun ch =>
      if ch.2.op.any fun o => decide (o.wg = n) then (ch.1, { ch.2 with op := none }) else ch
    copy16s := k.copy16s.filter fun o => decide (o.wg ≠ n)
    launchQ := k.launchQ.filter fun o => decide (o.ctx.2 ≠ n)
    draining := k.draining.filter fun o => decide (o.ctx.2 ≠ n) }

/-- A bound workgroup is killed: its tasks fail and its groups end (R434, R436). -/
def State.killWg (s : State) (c n : Nat) : State :=
  let s := s.setCore c ((s.core c).endEngines n)
  ((s.core c).wg n).slots.foldl (fun s slot => s.forceEnd c slot) s

/-- A save begins: the groups issue nothing more, and a waiting `WAITA` wakes (R347). -/
def State.startSave (s : State) (c n : Nat) : State :=
  let k := s.core c
  let w := k.wg n
  let k := k.setWg n { w with saving := true }
  let k := { k with quarters := k.quarters.map fun q =>
    { q with monitors := q.monitors.filter fun m => !w.slots.contains m.2.1 } }
  s.setCore c (w.slots.foldl (fun k slot => k.settleAll slot) k)

/-- What a save waits for is over: loads, atomics, copies and matrix operations of the workgroup (R347). -/
def Core.quiet (k : Core) (n : Nat) : Bool :=
  let w := k.wg n
  (k.outs.all fun o => !w.slots.contains o.slot) && (k.chans.all fun ch => !ch.2.op.any fun o => decide (o.wg = n))
    && (k.copy16s.all fun o => decide (o.wg ≠ n)) && (k.launchQ ++ k.draining).all fun o => decide (o.ctx.2 ≠ n)

/-- The groups of a workgroup as its record holds them. -/
def Core.savedGroups (k : Core) (slots : List Nat) : KMap Group :=
  (k.groups.filter fun g => slots.contains g.1).map fun g =>
    (g.1, { g.2 with spilled := false, entries := g.2.entries.map fun e => { e with wait := savedWait e.wait, readyAt := none } })

/-- Bytes of a table, and marks, in [lo, lo + n), by offset from `lo`. -/
def slice (m : KMap Byte) (lo n : Nat) : KMap Byte :=
  (m.filter fun b => decide (lo ≤ b.1) && decide (b.1 < lo + n)).map fun b => (b.1 - lo, b.2)
def sliceMarks (m : List Nat) (lo n : Nat) : List Nat :=
  (m.filter fun b => decide (lo ≤ b) && decide (b < lo + n)).map fun b => b - lo

/-- What a record of workgroup `w` holds beside its frames and header cells (R347, R415). -/
def Core.saveOf (k : Core) (w : Workgroup) : SavedWg :=
  let traps := k.traps.filter fun t => w.slots.contains t.2.slot
  let kept := fun (i : Nat) => traps.any fun x => decide (x.1 = i)
  { wg := w, groups := k.savedGroups w.slots, traps := traps
    trapRegs := k.trapRegs.filter fun t => kept t.1, trapPoison := k.trapPoison.filter fun t => kept t.1
    scratch := slice k.scratch w.scratchBase w.scratchLen, scratchPoison := sliceMarks k.scratchPoison w.scratchBase w.scratchLen
    rings := (k.rings.filter fun r => decide (w.scratchBase ≤ r.2.base) && decide (r.2.base < w.scratchBase + w.scratchLen)).map
      fun r => (r.1, { r.2 with base := r.2.base - w.scratchBase })
    bstore := k.bstore.filter fun b => w.bRows b.1, bstorePoison := k.bstorePoison.filter w.bRows
    accs := (List.range w.acc.length).map fun i => (i, KMap.getD k.acc (getAt w.acc i 0) [])
    accPoison := (List.range w.acc.length).filter fun i => k.accPoison.contains (getAt w.acc i 0)
    ctx := w.ctx.bind fun i => KMap.get? k.ctxs i }

/-- Bytes that a save needs beyond its frames and header cells (R347) (DESIGN CHOICE, log 15). -/
def saveExtra (x : SavedWg) : Nat :=
  x.wg.scratchLen + 16 * 8 + 16 * x.wg.res.length + x.bstore.length + 16384 * x.wg.acc.length + 2048 * x.traps.length
    + 64 * x.wg.slots.length + (if x.ctx.isSome then 64 else 0)

/-- The workgroup's record is written, its groups and storage are freed, and it is one of the launch's saved workgroups;
a save that finds no room is abandoned and the workgroup is drained (R347, R438). A group of which the ESE reads a header cell
in error ends as by a fatal trap (R419). -/
def execWorkgroupSave (core wg : Nat) (s : State) : Result :=
  let k := s.core core
  match k.wg? wg with
  | none => .refused (.notEnabled "WORKGROUP_SAVE")
  | some w =>
    let framesOf := fun (slots : List Nat) =>
      (k.frames.filter fun f => slots.contains f.2.slot) ++ slots.flatMap fun n => k.spilledFrames n
    let bad := w.slots.filter fun n => (framesOf [n]).any fun f => f.2.hdr.any fun h => h.bad
    if !w.saving || !k.quiet wg then .refused (.notEnabled "WORKGROUP_SAVE")
    else if !bad.isEmpty then .next (bad.foldl (fun s n => s.fatalGroup core n none .dataUncorrectable 0 0) s)
    else
      let x := k.saveOf w
      match s.writeSpill core w.vf (s.launch w.launch).hdr 0 (framesOf w.slots) (saveExtra x) (.saved x) with
      | (s, none) =>
        let k := s.core core
        .next (s.setCore core (k.setWg wg { k.wg wg with saving := false, draining := true }))
      | (s, some _) =>
        let k := s.core core
        let key := k.nextSpill - 1
        let k := { k with
          spills := k.spills.filter fun r => match r.2.kind with
            | .group n => !w.slots.contains n
            | .park _ _ _ _ _ _ => true
            | .saved _ => true
          rings := k.rings.filter fun r => !x.rings.any fun y => decide (y.1 = r.1) }
        let s := s.setCore core k
        let l := s.launch w.launch
        let s := s.setLaunch w.launch { l with saved := l.saved ++ [(core, key)], saves := l.saves + 1 }
        let s := { s with dist := { s.dist with
          preempts := s.dist.preempts.map fun (p : Preempt) =>
            if p.launch = w.launch && p.left.contains (core, wg) then { p with saves := p.saves + 1 } else p } }
        .next (s.dropWg core wg)

/-- The group's task, or one that it runs by adoption, goes on running until a park can be made. -/
def State.setParking (s : State) (c slot : Nat) (on : Bool) : State :=
  match (s.core c).group? slot with
  | none => s
  | some g => s.setCore c ((s.core c).setGroup slot { g with parking := on })

/-- No room to park: the task stays running and its workgroup is drained (R438). -/
def State.drainTask (s : State) (c slot : Nat) : State :=
  let s := s.setParking c slot false
  match (s.core c).group? slot with
  | none => s
  | some g =>
    let k := s.core c
    s.setCore c (k.setWg g.wg { k.wg g.wg with draining := true })

/-- One step of the park of a running task that is pre-empted: the innermost task that it runs by adoption parks first, each
with READY = 1, and its handle goes to the head of its ring; without room it stays running and is drained. A handler, a claimed
adoption and results to come are awaited, while the group issues nothing else (R72, R348, R438) (DEDUCED, log 16). -/
def State.parkTask (s : State) (c slot : Nat) : State :=
  let k := (s.core c).settleAll slot
  match k.group? slot with
  | none => s
  | some g0 =>
    let top : Option (Entry × Nat × Option W64) := match g0.entries.find? (fun x => (k.adoption x.frame).isSome), g0.entries with
      | some x, _ => (k.adoption x.frame).map fun a => (x, a.1, some a.2.pad)
      | none, e :: _ => some (e, ((k.chain e.frame).getLast?).getD 0, none)
      | none, [] => none
    match g0.task, top with
    | some own, some (e, root, adopted) =>
      let k := k.landOnto (k.above root (k.contextOf g0 e root))
      let g := (k.group? slot).getD g0
      let es := k.contextOf g e root
      let h := adopted.getD own
      if k.badCells (k.above root es) then s.fatalGroup c slot (some e) .dataUncorrectable 0 0
      else if !k.parkable es root || !(k.outsOnto (k.above root es)).isEmpty || !(k.atomsOf slot e.id).isEmpty then
        s.setParking c slot true
      else
        match (s.setCore c k).parkFrames c g es h root (savedWait e.wait) with
        | (s, none) => s.drainTask c slot
        | (s, some va) =>
          let s := s.markParked c g.vf h va
          let s := match adopted with
            | some _ =>
              ((s.setCore c ((s.core c).dropEntries slot (es.drop 1) s.clk.compute)).leaveAdoption c slot e).setParking c slot true
            | none => s.dropGroup c slot
          s.wakeTask c g.vf h
    | _, _ => s

/-- The parks that could not be made yet are tried again. -/
def State.parkAgain (s : State) : State :=
  (s.cores.flatMap fun c => (c.2.groups.filter fun g => g.2.parking).map fun g => (c.1, g.1)).foldl
    (fun s p => s.parkTask p.1 p.2) s

end Sys2Proof.Machine
end

