-- ==== Sys2Proof/Machine/SelLoader.lean ====
section
/-! DEFINITION. The loader of a Selham launch: what it reads, and every check of R292, R313 and R401. -/

namespace Sys2Proof.Machine

/-! ## Memory (R94, R457) -/

/-- An intermediate address of virtual function `v` as Selham reaches it: through stage 2 alone. A page without the right to the
access, one shared by COW among them, is a PERMISSION (R457). -/
def State.selPa (s : State) (v ia : Nat) (acc : Acc) : Except Cause Nat :=
  match s.xlate2 (s.die 4).tlb v ia acc with
  | .mem pa _ => .ok pa
  | .mmio _ _ => .error .permission
  | .bad .translation _ _ => .error .translation
  | .bad _ _ _ => .error .permission

/-- The `n` bytes at an intermediate address. -/
def State.selBytes (s : State) (v ia n : Nat) : Except Cause (List Byte) :=
  if n = 0 then .ok []
  else if ia / 65536 = (ia + n - 1) / 65536 then
    match s.selPa v ia .rd with
    | .error c => .error c
    | .ok pa => if (List.range (n / 128 + 2)).any fun i => decide (128 * (lineOf pa + i) < pa + n) && s.poison.contains (lineOf pa + i)
        then .error .dataUncorrectable else .ok (s.bytes pa n)
  else
    (List.range n).mapM fun i =>
      match s.selPa v (ia + i) .rd with
      | .error c => .error c
      | .ok pa => if s.poisoned pa then .error .dataUncorrectable else .ok (s.byte pa)

/-- `n` words of 64 bits. -/
def State.selWords (s : State) (v ia n : Nat) : Except Cause (List W64) :=
  match s.selBytes v ia (8 * n) with
  | .error c => .error c
  | .ok bs => .ok ((List.range n).map fun i => BitVec.ofNat 64 (leNat ((bs.drop (8 * i)).take 8)))

/-! ## Refusals (R401) -/

/-- A refused launch: CAUSE, the word at 0x10, and FIELD. -/
structure SelRefusal where
  cause : Nat
  info : W64
  field : Nat
  deriving DecidableEq, Repr

/-- A refusal with CAUSE 0x06: reason, stream, byte offset, and the offset of the record that names the stream. -/
def selRefuse (reason stream off field : Nat) : SelRefusal :=
  { cause := 6, info := BitVec.ofNat 64 (off % 2 ^ 32 + stream * 2 ^ 32 + reason * 2 ^ 40), field := field }

/-! ## The block (R290, R291, R301) -/

/-- The bits of a word outside the fields listed are 0. -/
def onlyBits (w : W64) (fields : List (Nat × Nat)) : Bool :=
  (List.range 64).all fun i => !w.getLsbD i || fields.any fun f => decide (f.2 ≤ i) && decide (i ≤ f.1)

/-- The first word of a record with a bit outside its fields. -/
def blockRecBad (ws : List W64) (fields : List (List (Nat × Nat))) : Option Nat :=
  firstBelow 8 fun i => !onlyBits (getAt ws i 0) (getAt fields i [])

def headerFields : List (List (Nat × Nat)) := [[(56, 0)], [(63, 0)], [(6, 0)], [(15, 0)], [], [], [], []]
def headFields : List (List (Nat × Nat)) :=
  [[(56, 0)], [(47, 0)], [(47, 32), (23, 0)], [(15, 0)], [(63, 0)], [(31, 0)], [(0, 0)], []]
def coreFields : List (List (Nat × Nat)) :=
  [[(56, 0)], [(56, 0)], [(56, 0)], [(39, 0)], [(8, 7), (1, 0)], [(31, 0)], [(63, 0)], [(47, 0)]]

/-- The first word of a head record with a reserved value. -/
def headBad (x : Show) (on : Bool) : Option Nat :=
  if !on then none
  else if x.vtotal = 0 || x.vtotal < x.height then some 1
  else if 7 < x.pslot || x.latch = 0 || 64 < x.latch || x.lineClk = 0 then some 2
  else none

/-- The first word of a line-core record with a reserved value (R291, R296). -/
def coreRecBad (x : SelLoad) (c : Nat) : Option Nat :=
  let code := fun (n : Nat) => decide (n ≤ 5) || decide (n = 15)
  if (List.range 8).any fun k => decide (16 < x.tok c k) then some 3
  else if !(List.range 8).all (fun q => code (x.producer c q) && code (x.consumer c q))
      || (List.range 7).any (fun q => decide (x.consumer c q = 4)) || (x.bind c && decide (x.consumer c 7 ≠ 4)) then some 6
  else none

/-! ## Cluster words (R309-R314) -/

/-- What the operand fields of a cluster word hold. -/
inductive XRole where
  | unused
  | dst
  | src
  | pred
  | stream
  | core
  | even
  deriving DecidableEq, Repr

/-- The form of an opcode: D, A, B, C, whether IMM16 and FN are used, and the FN and IMM16 values it has. -/
structure XForm where
  d : XRole
  a : XRole
  b : XRole
  c : XRole
  imm : Bool
  fnUsed : Bool
  fnOk : Nat → Bool
  immOk : Nat → Bool

def xform (d a b c : XRole) : XForm :=
  { d := d, a := a, b := b, c := c, imm := false, fnUsed := false, fnOk := fun _ => true, immOk := fun _ => true }

/-- The form of each opcode of R314, with the FN of R315 to R322; none for an unassigned opcode. -/
def formOf (opc fn : Nat) : Option XForm :=
  let ab := xform .dst .src .src .unused
  let abc := xform .dst .src .src .src
  let none4 := xform .unused .unused .unused .unused
  match opc with
  | 0x00 => some none4
  | 0x01 => some ab
  | 0x02 => some ab
  | 0x03 => some ab
  | 0x04 => some ab
  | 0x05 => some ab
  | 0x06 => some ab
  | 0x07 => some ab
  | 0x08 => some ab
  | 0x09 => some { ab with fnUsed := true, fnOk := fun f => decide (f < 2) }
  | 0x0A => some { ab with fnUsed := true, fnOk := fun f => decide (f < 2) }
  | 0x0B => some { ab with fnUsed := true, fnOk := fun f => decide (f < 16) && decide (f % 8 < 6) }
  | 0x0C => some abc
  | 0x0D => some (xform .dst .src .unused .unused)
  | 0x10 => some { none4 with imm := true }
  | 0x11 => some { none4 with imm := true }
  | 0x12 => some { none4 with imm := true, fnUsed := true }
  | 0x13 => some none4
  | 0x14 => some (xform .pred .src .unused .unused)
  | 0x15 => some { xform .pred .pred .pred .pred with imm := true, immOk := fun i => decide (i < 256) }
  | 0x16 => some { xform .dst .unused .unused .unused with imm := true, immOk := fun i => decide (i < 8) }
  | 0x17 => some { none4 with imm := true }
  | 0x18 => some { xform .dst .unused .unused .unused with imm := true, immOk := fun i => decide (i < 8) }
  | 0x20 => some ab
  | 0x21 => some ab
  | 0x22 => some abc
  | 0x23 => some ab
  | 0x24 => some ab
  | 0x25 => some { ab with fnUsed := true, fnOk := fun f => decide (f < 8) }
  | 0x26 => some { (if fn = 2 then ab else xform .dst .src .unused .unused) with
      fnUsed := true, fnOk := fun f => decide (f < 4) }
  | 0x30 => some ab
  | 0x31 => some abc
  | 0x32 => some (xform .dst .src .even .unused)
  | 0x33 => some { xform .dst .unused .unused .unused with
      imm := true, immOk := fun i => decide (i < 7) || decide (i = 8) || decide (i = 9) || decide (i = 10) }
  | 0x34 => some (xform .stream .src .unused .unused)
  | 0x35 => some abc
  | 0x36 => some { xform .unused .src .unused (if fn % 4 = 3 then .core else .unused) with
      imm := true, fnUsed := true, fnOk := fun f => decide (f < 4) }
  | 0x40 => some { xform .dst .unused .unused .unused with imm := true }
  | 0x41 => some { xform .unused .src .unused .unused with imm := true }
  | _ => none

/-- The fields of a cluster word as numbers. -/
structure XW where
  s : Bool
  p : Bool
  opc : Nat
  d : Nat
  a : Nat
  b : Nat
  c : Nat
  gn : Bool
  g : Nat
  fn : Nat
  imm : Nat
  deriving DecidableEq, Repr

def xw (w : W64) : XW :=
  let n := w.toNat
  { s := bit n 63, p := bit n 62, opc := bits n 61 55, d := bits n 54 48, a := bits n 47 41, b := bits n 40 34
    c := bits n 33 27, gn := bit n 26, g := bits n 25 22, fn := bits n 21 16, imm := bits n 15 0 }

def roleUnused (r : XRole) (v : Nat) : Bool :=
  match r with
  | .unused => decide (v = 0)
  | .core => decide (v < 16)
  | _ => true

/-- The code is not reserved in its role (R310). -/
def roleCode (r : XRole) (v : Nat) : Bool :=
  match r with
  | .pred => decide (v < 16)
  | .unused => true
  | .core => true
  | _ => decide (v < 0x50) || (decide (0x60 ≤ v) && decide (v < 0x6B))

/-- A destination is a register or a queue, or a stream in `SDRV` (R311). -/
def roleDst (r : XRole) (v : Nat) : Bool :=
  match r with
  | .dst => decide (v < 0x40) || isQueue v
  | .stream => isStream v
  | _ => true

/-- The clusters whose sequences hold word `i`: those with the greatest entry at or below it (R291). -/
def ownersOf (x : SelLoad) (c i : Nat) : List Nat :=
  let es := (List.range 4).map fun k => x.entry c k
  let start := (es.filter fun e => decide (e ≤ i)).foldl max 0
  (List.range 4).filter fun k => decide (getAt es k 0 = start)

/-- A branch offset. -/
def branchTo (w : XW) (i : Nat) : Int := (i : Int) + signExt w.imm 16

/-- Why the loader refuses cluster word `w` at position `i` of `n` words; 0 where it does not. -/
def xwReason (x : SelLoad) (c n i : Nat) (w : XW) : Nat :=
  match formOf w.opc w.fn with
  | none => 0x01
  | some f =>
    let srcs := [(f.a, w.a), (f.b, w.b), (f.c, w.c)]
    let all := (f.d, w.d) :: srcs
    let owners := ownersOf x c i
    let usesImm := f.imm || srcs.any fun p => decide (p.1 = .src) && (decide (p.2 = 0x66) || decide (p.2 = 0x67))
    if !all.all fun p => roleCode p.1 p.2 then 0x02
    else if !(all.all fun p => roleUnused p.1 p.2) || (!f.fnUsed && decide (w.fn ≠ 0)) || (!usesImm && decide (w.imm ≠ 0)) then 0x03
    else if !roleDst f.d w.d then 0x04
    else if (srcs.any fun p => decide (p.1 = .src) && isQueue p.2 && !owners.contains (x.consumer c (p.2 - 0x48)))
        || (decide (f.d = .dst) && isQueue w.d && !owners.contains (x.producer c (w.d - 0x48))) then 0x05
    else if !f.fnOk w.fn || !f.immOk w.imm then 0x06
    else if (w.opc = 0x10 || w.opc = 0x11) && (decide (branchTo w i < 0) || decide ((n : Int) ≤ branchTo w i)) then 0x07
    else if decide (f.b = .even) && (decide (0x40 ≤ w.b) || decide (w.b % 2 ≠ 0)) then 0x08
    else if !w.s && all.any fun p => (decide (p.1 = .src) || decide (p.1 = .stream)) && isStream p.2 then 0x09
    else if (w.opc = 0x40 || w.opc = 0x41 || w.opc = 0x36) && 24576 ≤ w.imm then 0x0F
    else if w.opc = 0x36 && w.imm % 16 ≠ c then 0x0F
    else 0

/-! ## Engine words (R323) -/

/-- Why the loader refuses an engine word; 0 where it does not. -/
def ewReason (x : SelLoad) (c width : Nat) (store : Bool) (w0 w1 : W64) : Nat :=
  let n := w0.toNat
  let op := bits n 63 60
  let k := bits n 59 57
  let tk := bit n 56
  let units := bits n 40 32 + 1
  if op = 0 then (if w0 = 0 && w1 = 0 then 0 else 0x03)
  else if 2 < op || (op = 2 && !store) then 0x01
  else if (!tk && decide (k ≠ 0)) || (store && tk && decide (bits n 55 41 ≠ 0)) || (op = 2 && w1 ≠ 0) then 0x03
  else if store && tk && decide (x.consumer c k ≠ 5) then 0x05
  else if op = 1 && bits w1.toNat 56 0 % 64 ≠ 0 then 0x06
  else if op = 2 && width < bits n 15 0 + 16 * units then 0x0D
  else if 24576 < bits n 55 41 + units then 0x0F
  else 0

/-- The first refused word of a fetch or store stream up to its first `END`: position and reason. -/
def ewStream (x : SelLoad) (c width : Nat) (store : Bool) : List W64 → Nat → Option Nat → Option (Nat × Nat)
  | w0 :: w1 :: t, i, last =>
    let r := ewReason x c width store w0 w1
    let at_ := bits w0.toNat 31 16
    if r ≠ 0 then some (i, r)
    else if bits w0.toNat 63 60 = 0 then none
    else if last.any fun a => decide (at_ ≤ a) then some (i, 0x0D)
    else ewStream x c width store t (i + 1) (some at_)
  | [_], i, _ => some (i, 0x0D)
  | [], i, _ => some (i, 0x0D)

/-! ## Paths (R292, R313) -/

/-- The last word of the sequence that holds word `i`. -/
def lastOfSequence (x : SelLoad) (c n i : Nat) : Nat :=
  (((List.range 4).map fun k => x.entry c k).filter fun e => decide (i < e)).foldl (fun a e => min a (e - 1)) (n - 1)

/-- The words that can issue after word `i`: none of them where only `ENDL` follows; a guard other than `g0` may
have either value (R312). `none` says that a path runs past the sequence. -/
def nextWords (x : SelLoad) (c : Nat) (ws : List XW) (i : Nat) : Option (List Nat) :=
  match ws[i]? with
  | none => none
  | some w =>
    let always := decide (w.g = 0) && !w.gn
    let never := decide (w.g = 0) && w.gn
    let jump := if (w.opc = 0x10 || w.opc = 0x11) && !never then [(branchTo w i).toNat] else []
    if (w.opc = 0x10 || w.opc = 0x13) && always then some jump
    else if lastOfSequence x c ws.length i = i then none
    else some ((i + 1) :: jump)

/-- The words that some path reaches from `todo`, with the first from which a path runs on past its sequence. -/
def reachWords (x : SelLoad) (c : Nat) (ws : List XW) : Nat → List Nat → List Nat → Option Nat
  | 0, _, _ => none
  | _ + 1, _, [] => none
  | fuel + 1, seen, i :: todo =>
    if seen.contains i then reachWords x c ws fuel seen todo
    else
      match nextWords x c ws i with
      | none => some i
      | some ns => reachWords x c ws fuel (i :: seen) (ns ++ todo)

/-- Where the four clusters of a line core stand in a line: position and loop counts, none at `ENDL`; and the clocks
since the last P-marked bundle. -/
structure Path where
  at_ : List (Option (Nat × Nat × Nat))
  since : Option Nat
  deriving DecidableEq, Repr

/-- What one word can make of a cluster's position: `none` at `ENDL` (R289, R322). -/
def pathStep (w : XW) (i lc ec : Nat) : List (Option (Nat × Nat × Nat)) :=
  let fall := some (i + 1, lc, ec)
  let jump := (branchTo w i).toNat
  let done := match w.opc with
    | 0x10 => some (jump, lc, ec)
    | 0x11 => if 0 < lc then some (jump, lc - 1, ec) else if 0 < ec then some (jump, lc, ec - 1) else fall
    | 0x12 => some (i + 1, w.imm, w.fn)
    | 0x13 => none
    | _ => fall
  if decide (w.g = 0) && !w.gn then [done]
  else if decide (w.g = 0) && w.gn then [fall]
  else if done = fall then [fall] else [done, fall]

/-- All choices of one element from each list. -/
def choices {α : Type} : List (List α) → List (List α)
  | [] => [[]]
  | l :: t => l.flatMap fun a => (choices t).map fun r => a :: r

/-- The words that issue in a clock of a path: position, and cluster (R286). -/
def Path.issues (p : Path) (ws : List XW) : List XW :=
  let word := fun (q : Option (Nat × Nat × Nat)) => q.bind fun t => ws[t.1]?
  let sync := p.at_.all fun q => ((word q).map fun w => w.s).getD false
  (p.at_.filterMap word).filter fun w => sync || !w.s

/-- The clock of a set of paths: a bundle where all four stand at S = 1, else the words with S = 0 (R286); or the
reason and position that refuse it (R292). -/
def pathClock (ws : List XW) (p : Path) : Except (Nat × Nat) (List Path) :=
  let word := fun (q : Option (Nat × Nat × Nat)) => q.bind fun t => ws[t.1]?
  let sync := p.at_.all fun q => ((word q).map fun w => w.s).getD false
  let lead := ((p.at_.head?).bind fun q => q.map fun t => t.1).getD 0
  let ps := p.at_.map fun q => ((word q).map fun w => w.p).getD false
  if sync && ps.any (fun b => b) && !ps.all (fun b => b) then .error (0x0A, lead)
  else
    let marked := sync && ps.all fun b => b
    if marked && p.since.any fun n => decide (2048 < n) then .error (0x0B, lead)
    else
      let moves := p.at_.map fun q =>
        match q, word q with
        | some (i, lc, ec), some w => if sync || !w.s then pathStep w i lc ec else [q]
        | _, _ => [q]
      let since := if marked then some 1 else p.since.map fun n => n + 1
      .ok ((choices moves).map fun m => { at_ := m, since := since })

/-- Paths that stand alike are one, with the longest time since a mark. -/
def joinPaths (acc : List Path) (p : Path) : List Path :=
  if acc.any fun q => decide (q.at_ = p.at_) then
    acc.map fun q => if q.at_ = p.at_ then { q with since := match q.since, p.since with
      | some a, some b => some (max a b)
      | none, b => b
      | a, none => a } else q
  else p :: acc

/-- The clocks of a line from its start: refused where a path is still running after `LEAD` clocks (R292). -/
def pathsEnd (ws : List XW) : Nat → List Path → Option (Nat × Nat)
  | 0, ps =>
    match ps.findSome? fun p => p.at_.findSome? fun q => q with
    | some (i, _, _) => some (0x0C, i)
    | none => none
  | n + 1, ps =>
    let live := ps.filter fun p => p.at_.any fun q => q.isSome
    if live.isEmpty then none
    else
      match live.foldl (fun acc p => match acc, pathClock ws p with
        | .error e, _ => .error e
        | .ok _, .error e => .error e
        | .ok a, .ok qs => .ok (qs.foldl joinPaths a)) (Except.ok []) with
      | .error (r, i) => some (r, i)
      | .ok qs => pathsEnd ws n qs

/-- The line copies that a path of a line can issue: clock from the start of the line, and the line core that a `.LS` copy writes. -/
def pathCopies (ws : List XW) : Nat → Nat → List Path → List (Nat × Option Nat)
  | 0, _, _ => []
  | n + 1, t, ps =>
    let live := ps.filter fun p => p.at_.any fun q => q.isSome
    if live.isEmpty then []
    else
      let here := (live.flatMap fun p => (p.issues ws).filter fun w => decide (w.opc = 0x36)).eraseDups.map fun w =>
        (t, if w.fn % 4 = 3 then some w.c else none)
      here ++ pathCopies ws n (t + 1) (live.foldl (fun acc p => match pathClock ws p with
        | .error _ => acc
        | .ok qs => qs.foldl joinPaths acc) [])

/-! ## The end of a store stream (R324) -/

/-- A line-store unit that a store stream reads: the first clock from the start of the line, the unit, the clocks from the read to
the end of its work, and the word. -/
structure StoreRead where
  clk : Nat
  unit : Nat
  after : Nat
  word : Nat
  deriving DecidableEq, Repr

/-- The pixels of an `EMIT` enter the line FIFO 4 clocks after they are read. -/
def emitDelay (n : Nat) : Nat := if bits n 63 60 = 2 then 4 else 0

def storeReads : List W64 → Nat → List StoreRead
  | w0 :: _ :: t, i =>
    let n := w0.toNat
    if bits n 63 60 = 0 then []
    else
      (if bit n 56 then []
        else (List.range (bits n 40 32 + 1)).map fun u =>
          { clk := bits n 31 16 + u, unit := bits n 55 41 + u, after := emitDelay n, word := i }) ++ storeReads t (i + 1)
  | _, _ => []

/-- The first engine clock of bank `b`, at or after `clk`, that is not used, on a line that starts at clock `start`. -/
def bankSlot (start b clk : Nat) (used : List Nat) : Nat :=
  let t0 := clk + (b + 32 - (start + clk) % 16) % 16
  (((List.range (used.length + 1)).map fun n => t0 + 16 * n).find? fun x => !used.contains x).getD t0

/-- The clocks of bank `b` that line copies can take: `grabs` are their earliest clocks with the bank, or any. -/
def grabbed (start b : Nat) (grabs : List (Nat × Option Nat)) : List Nat :=
  (grabs.filter fun g => g.2.isNone || decide (g.2 = some b)).foldl (fun used g => bankSlot start b g.1 used :: used) []

/-- The clocks at which the reads happen on a line that starts at clock `start`: in order, one in each engine clock of a bank that
no line copy takes. Answers the last clock at which their work ends, and its word. -/
def readEnds (start : Nat) (grabs : List (Nat × Option Nat)) : List StoreRead → List Nat → Nat × Nat → Nat × Nat
  | [], _, worst => worst
  | r :: t, used, worst =>
    let e := bankSlot start (r.unit % 16) r.clk (used ++ grabbed start (r.unit % 16) grabs)
    readEnds start grabs t (e :: used) (if worst.1 < e + r.after then (e + r.after, r.word) else worst)

/-- The latest clock, from the start of a line, at which a store stream has done its work, over the phases of 16 clocks at which
its lines start; queue pops happen in their own clock (R324). -/
def storeEnd (phases : List Nat) (grabs : Nat → List (Nat × Option Nat)) (ws : List W64) : Nat × Nat :=
  let reads := storeReads ws 0
  let queued := (List.range (ws.length / 2)).foldl (fun (a : Nat × Nat) i =>
    let n := (getAt ws (2 * i) 0).toNat
    let e := bits n 31 16 + bits n 40 32 + emitDelay n
    if bits n 63 60 ≠ 0 && a.1 < e then (e, i) else a) (0, 0)
  phases.foldl (fun (a : Nat × Nat) start =>
    let e := readEnds start (grabs start) reads [] (0, 0)
    if a.1 < e.1 then e else a) (if phases.isEmpty then (0, 0) else queued)

/-- The first word of an engine stream that issues later than `lead` clocks after the start of the line. -/
def lateWord (lead : Nat) : List W64 → Nat → Option Nat
  | w0 :: _ :: t, i =>
    if bits w0.toNat 63 60 = 0 then none else if lead < bits w0.toNat 31 16 then some i else lateWord lead t (i + 1)
  | _, _ => none

/-! ## DME words (R325, R401) -/

/-- Why the loader refuses a DME word at position `i`; 0 where it does not. -/
def dmeReason (x : SelLoad) (i : Nat) (w : BitVec 16) : Nat :=
  let n := w.toNat
  let f := bits n 9 0
  let op := bits n 14 10
  if !bit n 15 then 0
  else if op = 1 || op = 7 then 0
  else if op < 8 || op = 0x11 || op = 0x1B then (if f = 0 then 0 else 0x03)
  else if op = 8 then
    (if bits f 9 4 ≠ 0 then 0x03 else if bits f 1 0 = 3 || bits f 3 2 = 3 then 0x06 else 0)
  else if op = 0x10 then (if f = 0 then 0x06 else if i < f then 0x07 else 0)
  else if op = 0x18 || op = 0x19 then
    (if bits f 9 5 ≠ 0 then 0x03
      else if x.enable (bits f 4 1) && x.bind (bits f 4 1) then 0 else 0x05)
  else if op = 0x1A then
    (if bits f 9 8 ≠ 0 then 0x03
      else if x.enable (bits f 4 1) && decide (x.producer (bits f 4 1) (bits f 7 5) = 4) then 0 else 0x05)
  else if op = 0x1C then (if bits f 9 4 ≠ 0 then 0x03 else 0)
  else 0x01

/-- The DME words from an address up to the first `HALT`, with at most `fuel` words; the count where a word cannot
be read, and none where no `HALT` comes. -/
def State.dmeWords (s : State) (v : Nat) : Nat → Nat → List (BitVec 16) → Except (Option Nat) (List (BitVec 16))
  | 0, _, _ => .error none
  | fuel + 1, ia, acc =>
    match s.selBytes v ia 2 with
    | .error _ => .error (some acc.length)
    | .ok bs =>
      let w : BitVec 16 := BitVec.ofNat 16 (leNat bs)
      if bit w.toNat 15 && decide (bits w.toNat 14 10 = 0x11) then .ok (acc ++ [w])
      else State.dmeWords s v fuel (ia + 2) (acc ++ [w])

/-! ## Loading (R401) -/

/-- An engine stream from an address: words up to and with the first `END`, within `left` bytes; or the position and reason of the
word that cannot be read, or that a missing `END` asks for beyond them. -/
def State.engineWords (s : State) (v : Nat) : Nat → Nat → Nat → List W64 → Except (Nat × Nat) (List W64)
  | 0, _, _, acc => .error (acc.length / 2, 0x0D)
  | fuel + 1, ia, left, acc =>
    if left < 16 then .error (acc.length / 2, 0x0D)
    else
      match s.selWords v ia 2 with
      | .error _ => .error (acc.length / 2, 0x11)
      | .ok ws =>
        if bits (getAt ws 0 0).toNat 63 60 = 0 then .ok (acc ++ ws)
        else State.engineWords s v fuel (ia + 16) (left - 16) (acc ++ ws)

/-- The `n` cluster words from an address; the position that cannot be read. -/
def State.clusterWords (s : State) (v : Nat) : Nat → Nat → List W64 → Except Nat (List W64)
  | 0, _, acc => .ok acc
  | n + 1, ia, acc =>
    match s.selWords v ia 1 with
    | .error _ => .error acc.length
    | .ok ws => State.clusterWords s v n (ia + 8) (acc ++ ws)

/-- The offset in the block of the record of line core c. -/
def coreRecAt (c : Nat) : Nat := 0x140 + 0x40 * c

/-- The streams of line core c: compute, fetch and store. CODELEN counts all three; the fetch and store streams
reach up to their `END`, and the rest is the compute stream. -/
def State.loadStreams (s : State) (x : SelLoad) (c : Nat) : Except SelRefusal (List W64 × List W64 × List W64) :=
  let len := x.codeLen c
  let no := fun (reason stream off : Nat) => selRefuse reason stream off (coreRecAt c)
  if 65536 < len || len % 8 ≠ 0 then .error (no 0x0E 7 (coreRecAt c + 0x28))
  else
    match s.engineWords x.vf 4097 (x.fetchPc c) len [] with
    | .error (i, r) => .error (no r 1 (16 * i))
    | .ok fs =>
      match s.engineWords x.vf 4097 (x.storePc c) (len - 8 * fs.length) [] with
      | .error (i, r) => .error (no r 2 (16 * i))
      | .ok ss =>
        match s.clusterWords x.vf ((len - 8 * fs.length - 8 * ss.length) / 8) (x.compPc c) [] with
        | .error i => .error (no 0x11 0 (8 * i))
        | .ok cs => .ok (cs, fs, ss)

/-- The first refused cluster word: position and reason. -/
def xwStream (x : SelLoad) (c n : Nat) : List XW → Nat → Option (Nat × Nat)
  | [], _ => none
  | w :: t, i => if xwReason x c n i w ≠ 0 then some (i, xwReason x c n i w) else xwStream x c n t (i + 1)

/-- The checks of the streams of line core c of a head. -/
def checkStreams (x : SelLoad) (c : Nat) (h : Show) (cs fs ss : List W64) : Option SelRefusal :=
  let no := fun (reason stream off : Nat) => some (selRefuse reason stream off (coreRecAt c))
  let ws := cs.map xw
  let entries := (List.range 4).map fun k => x.entry c k
  if entries.any fun e => decide (e ≠ 0) && decide (ws.length ≤ e) then no 0x10 7 (coreRecAt c + 0x38)
  else
    match xwStream x c ws.length ws 0 with
    | some (i, r) => no r 0 (8 * i)
    | none =>
      match reachWords x c ws (3 * ws.length + 8) [] entries with
      | some i => no 0x07 0 (8 * i)
      | none =>
        match ewStream x c h.width false fs 0 none with
        | some (i, r) => no r 1 (16 * i)
        | none =>
          match ewStream x c h.width true ss 0 none with
          | some (i, r) => no r 2 (16 * i)
          | none =>
            match pathsEnd ws h.lead [{ at_ := entries.map fun e => some (e, 0, 0), since := none }] with
            | some (r, i) => no r 0 (8 * i)
            | none =>
              match lateWord h.lead fs 0 with
              | some i => no 0x0C 1 (16 * i)
              | none => none

/-- The head record under which line core c works. -/
def SelLoad.showOf (x : SelLoad) (c : Nat) : Show := { Show.blank with hrec := (x.block.drop (8 + 8 * x.headOf c)).take 8 }

/-- The line copies that line core c can issue in a line. -/
def SelLoad.copiesOf (x : SelLoad) (c : Nat) : List (Nat × Option Nat) :=
  let ws := (KMap.getD x.code c ([], [], [])).1.map xw
  if ws.any fun w => decide (w.opc = 0x36) then
    pathCopies ws (x.showOf c).lead 0 [{ at_ := (List.range 4).map fun k => some (x.entry c k, 0, 0), since := none }]
  else []

/-- The lines of a head whose copies by line core o can meet a line of line core c, counted from that line. -/
def SelLoad.nearLines (x : SelLoad) (c o : Nat) : List Int :=
  let w := x.showOf c
  let cs := (x.code.map Prod.fst).filter fun k => decide (x.headOf k = x.headOf c)
  let m := cs.length
  let at_ := fun (k : Nat) => (cs.takeWhile fun y => decide (y ≠ k)).length
  let j := w.lead / w.lineClk + 1
  ((List.range (2 * j + 1)).map fun (i : Nat) => (i : Int) - j).filter fun i =>
    if o = c then decide (i = 0)
    else decide (i ≠ 0) && (decide (w.vtotal % m ≠ 0) || decide (((at_ c : Int) + i - at_ o) % m = 0))

/-- When line copies can take a bank of line core c, from the start of a line at clock `start`: the source reads of its own copies,
and the writes of `.LS` copies into its line store, whose bank is data; those of another head's cores fall anywhere (DEDUCED,
log 32). -/
def SelLoad.grabs (x : SelLoad) (all : List (Nat × List (Nat × Option Nat))) (c start : Nat) : List (Nat × Option Nat) :=
  all.flatMap fun o =>
    let starts := fun (k : Nat) => k + 1 + (o.1 + 32 - (start + k + 1) % 16) % 16
    let far := (x.showOf c).lead / (x.showOf o.1).lineClk + 2
    o.2.flatMap fun cp =>
      (if o.1 = c then [(starts cp.1, some c)] else [])
        ++ (if cp.2 ≠ some c then []
          else if x.headOf o.1 ≠ x.headOf c then List.replicate far (0, none)
          else (x.nearLines c o.1).filterMap fun i =>
            let k := (cp.1 : Int) + i * (x.showOf c).lineClk
            if k < 0 then none else some (starts k.toNat + 8, none))

/-- The phases of 16 clocks at which the lines that R301 gives line core c start: lines pos, pos + m, … below VTOTAL of every
presented frame, LEAD clocks before their deadlines, the first of which is a multiple of 16 (R301, R328). -/
def SelLoad.phases (x : SelLoad) (c : Nat) : List Nat :=
  let w := x.showOf c
  let cs := (x.code.map Prod.fst).filter fun k => decide (x.headOf k = x.headOf c)
  let pos := (cs.takeWhile fun y => decide (y ≠ c)).length
  let frames := if x.frames = 0 then 16 else min 16 x.frames
  ((List.range frames).flatMap fun f => ((List.range 16).map fun i => pos + cs.length * i).filterMap fun n =>
    if n < w.vtotal then some ((16 * w.lead + (f * w.vtotal + n) * w.lineClk - w.lead) % 16) else none).eraseDups

/-- The first line core whose store stream can end later than LEAD (R292, R324). -/
def SelLoad.lateStore (x : SelLoad) : Option SelRefusal :=
  let all := x.code.map fun e => (e.1, x.copiesOf e.1)
  x.code.findSome? fun c =>
    let h := x.showOf c.1
    let e := storeEnd (x.phases c.1) (x.grabs all c.1) c.2.2.2
    if h.lead < e.1 then some (selRefuse 0x0C 2 (16 * e.2) (coreRecAt c.1)) else none

/-- The line cores of the launch loaded one after another. -/
def State.loadCores (s : State) (x : SelLoad) : List Nat → Except SelRefusal SelLoad
  | [] => .ok x
  | c :: t =>
    if !x.enable c then State.loadCores s x t
    else
      match s.loadStreams x c with
      | .error r => .error r
      | .ok (cs, fs, ss) =>
        match checkStreams x c (x.showOf c) cs fs ss with
        | some r => .error r
        | none => State.loadCores s { x with code := KMap.put x.code c (cs, fs, ss) } t

/-- The first DME word that is refused. -/
def dmeStream (x : SelLoad) : List (BitVec 16) → Nat → Option (Nat × Nat)
  | [], _ => none
  | w :: t, i => if dmeReason x i w ≠ 0 then some (i, dmeReason x i w) else dmeStream x t (i + 1)

/-- The loader: the block at an intermediate address of virtual function `v`, and its streams (R292, R401, R457). -/
def State.loadSelham (s : State) (v queue index : Nat) (ia : Nat) (done : W64) : Except SelRefusal SelLoad :=
  match s.selWords v ia 168 with
  | .error _ => .error { cause := 8, info := 0, field := 0 }
  | .ok block =>
    let x : SelLoad := { vf := v, queue := queue, index := index, cdone := done, block := block, code := [], dme := [] }
    let rec_ := fun (i : Nat) => (block.drop (8 * i)).take 8
    let heads := (List.range 4).map fun h => { Show.blank with hrec := rec_ (1 + h) }
    let header := (blockRecBad (rec_ 0) headerFields).orElse fun _ => if bits (x.word 2) 6 0 ≠ v then some 2 else none
    match header with
    | some i => .error (selRefuse 0x10 7 (8 * i) 0)
    | none =>
      match (List.range 4).findSome? fun h => ((blockRecBad (rec_ (1 + h)) headFields).orElse fun _ =>
          headBad (getAt heads h Show.blank) (bit (x.head h 6) 0)).map fun i => (h, i) with
      | some (h, i) => .error (selRefuse 0x10 7 (0x40 + 0x40 * h + 8 * i) (0x40 + 0x40 * h))
      | none =>
        match (List.range 16).findSome? fun c => ((blockRecBad (rec_ (5 + c)) coreFields).orElse fun _ =>
            coreRecBad x c).map fun i => (c, i) with
        | some (c, i) => .error (selRefuse 0x10 7 (coreRecAt c + 8 * i) (coreRecAt c))
        | none =>
          match (match s.loadCores x (List.range 16) with
            | .error r => .error r
            | .ok x => match x.lateStore with
              | some r => .error r
              | none => .ok x : Except SelRefusal SelLoad) with
          | .error r => .error r
          | .ok x =>
            if x.dmePc = 0 then .ok x
            else
              match s.dmeWords v 4096 x.dmePc [] with
              | .error none => .error (selRefuse 0x0E 3 0 0)
              | .error (some i) => .error (selRefuse 0x11 3 (2 * i) 0)
              | .ok ws =>
                match dmeStream x ws 0 with
                | some (i, r) => .error (selRefuse r 3 (2 * i) 0)
                | none => .ok { x with dme := ws }

end Sys2Proof.Machine
end

