-- ==== Sys2Proof/Machine/Graphics.lean ====
section
/-! DEFINITION. The graphics instructions: texture sampling and gather, edge functions, view transforms and
colour packing (R213-R217). -/

namespace Sys2Proof.Machine

/-! ## Textures (R213, R214) -/

/-- The encodings that a texture may have (R213). -/
def texEnc (r : Brec) : Bool := decide (3 ≤ r.enc) && decide (r.enc ≤ 8) || (decide (r.enc = 0) && decide (r.esize = 2))

/-- Bytes of a texel, and the texture's width and height (R213). -/
def Brec.step (r : Brec) : Nat := (r.inter + 1) * 2 ^ r.esize
def Brec.texW (r : Brec) : Nat := r.pitch / r.step
def Brec.texH (r : Brec) : Nat := r.len / r.pitch

/-- The trap of a record that no texture can have (R213). -/
def texTrap (r : Brec) (word : W64) : Option Trap :=
  if !texEnc r then some (reservedTrap word)
  else if r.pitch = 0 || r.pitch % r.step ≠ 0 || r.texW = 0 || r.texH = 0
      || r.len < r.offset (r.texW - 1) (r.texH - 1) + r.step then some (handleTrap .handleBounds r.handle)
  else none

/-- `Fold` of R214. -/
def texFold (addr : Nat) (k : Int) (n : Nat) : Nat :=
  match addr with
  | 0 => (max 0 (min k (n - 1 : Nat))).toNat
  | 1 => (k % n).toNat
  | _ =>
    let m := (k % (2 * n : Nat)).toNat
    if m < n then m else 2 * n - 1 - m

/-- A coordinate: 0 for a NaN, clamped to ± 2^24 (R214). -/
def texCoord (u : Nat) : Dy :=
  let lim := Dy.ofInt 16777216
  if fIsNan f32 u then Dy.ofInt 0
  else if fIsInf f32 u then (if fneg f32 u then lim.neg else lim)
  else Dy.clamp lim.neg lim (fVal f32 u)

/-- A coordinate scaled by the size, less one half: floor, and the fraction in 1/256, rounded (R214). -/
def texSplit (u : Nat) (n : Nat) : Int × Nat :=
  let x := ((texCoord u).mul (Dy.ofInt n)).sub { m := 1, e := -1 }
  let f := x.sub (Dy.ofInt x.floor)
  (x.floor, (roundInt .rn { f with e := f.e + 8 }).toNat)

/-- The texels that a lane reads: one, or t00, t10, t01, t11. -/
def texCells (lin : Bool) (addr : Nat) (r : Brec) (u v : Nat) : List (Nat × Nat) :=
  let w := r.texW
  let h := r.texH
  if !lin then
    [(texFold addr ((texCoord u).mul (Dy.ofInt w)).floor w, texFold addr ((texCoord v).mul (Dy.ofInt h)).floor h)]
  else
    let i := (texSplit u w).1
    let j := (texSplit v h).1
    [(texFold addr i w, texFold addr j h), (texFold addr (i + 1) w, texFold addr j h),
     (texFold addr i w, texFold addr (j + 1) h), (texFold addr (i + 1) w, texFold addr (j + 1) h)]

/-- Σ weight · value over the terms of weight not 0, weights in units of 2^(−16); one rounding (R214). -/
def texBlend (terms : List (Nat × Nat)) : Nat :=
  let ts := terms.filter fun t => decide (t.1 ≠ 0)
  let infs := ts.filterMap fun t => if fIsInf f32 t.2 then some (fneg f32 t.2) else none
  if ts.any fun t => fIsNan f32 t.2 then f32.defNan
  else if infs.contains true && infs.contains false then f32.defNan
  else if infs.contains true then fSigned f32 true f32.inf
  else if infs.contains false then f32.inf
  else
    let sum := ts.foldl (fun a t => a.add { fVal f32 t.2 with m := (fVal f32 t.2).m * t.1 }) (Dy.ofInt 0)
    (roundDy f32 .rn (ts.all fun t => fneg f32 t.2) { sum with e := sum.e - 16 }).bits

/-- A texture instruction: filter, address mode, and the gathered channel if it is `TEXG`. -/
structure TexOp where
  lin : Bool
  addr : Nat
  gather : Option Nat
  deriving DecidableEq, Repr

/-- The four result values of a lane from its texels' channels (R214). -/
def texResult (t : TexOp) (r : Brec) (u v : Nat) (cells : List (List Nat)) : List Nat :=
  let ch := fun (k c : Nat) => getAt (getAt cells k []) c 0
  match t.gather with
  | some c => [ch 0 c, ch 1 c, ch 2 c, ch 3 c]
  | none =>
    if !t.lin then getAt cells 0 []
    else
      let a := (texSplit u r.texW).2
      let b := (texSplit v r.texH).2
      (List.range 4).map fun c =>
        texBlend [((256 - a) * (256 - b), ch 0 c), (a * (256 - b), ch 1 c), ((256 - a) * b, ch 2 c), (a * b, ch 3 c)]

/-- The channels of a texel from the places of its elements; a missing channel reads 0, 0 or 1 (R214). -/
def State.texel (s : State) (r : Brec) (pas : List Nat) : List Nat :=
  (List.range 4).map fun c =>
    match pas[c]? with
    | some pa => convLoad r.enc r.esize r.scale (s.readNat pa (2 ^ r.esize))
    | none => if c = 3 then 0x3F800000 else 0

/-- The VAs of a texel's elements, or HANDLE_BOUNDS (R99). -/
def texelVas (r : Brec) (i j : Nat) : Except Trap (List Nat) :=
  match r.elemVa i j with
  | .error t => .error t
  | .ok va => .ok ((List.range (min (r.inter + 1) 4)).map fun c => va + c * 2 ^ r.esize)

/-- Every result of a list, or its first error. -/
def allOk {α β : Type} (f : α → Except Trap β) : List α → Except Trap (List β)
  | [] => .ok []
  | a :: t =>
    match f a with
    | .error e => .error e
    | .ok b =>
      match allOk f t with
      | .error e => .error e
      | .ok bs => .ok (b :: bs)

/-- The first trap of one lane's accesses, a stage-2 cause before any other (R387). -/
def firstTrap (errs : List Trap) : Option Trap := (errs.find? fun t => t.stage2).orElse fun _ => errs.head?

/-- Every result of a list, each tried, or the trap of R387 among its errors. -/
def everyOk {α β : Type} (f : α → Except Trap β) (l : List α) : Except Trap (List β) :=
  let rs := l.map f
  match firstTrap (rs.filterMap fun r => match r with
    | .error t => some t
    | .ok _ => none) with
  | some t => .error t
  | none => .ok (rs.filterMap fun r => match r with
    | .error _ => none
    | .ok b => some b)

/-- The entry of a lane in a list. -/
def forLane {α : Type} (ls : List (Nat × α)) (l : Nat) : Option α := (ls.find? fun e => decide (e.1 = l)).map Prod.snd

/-- What the lanes of a texture instruction read: their records, the VAs of their texels' elements, and the places. -/
structure TexReads where
  recs : List (Nat × Brec)
  vas : List (Nat × List (List Nat))
  places : List (Nat × List (List (Nat × Bool)))

/-- The coordinates of a lane: the pair vA. -/
def texU (o : V3) (x : Iss) (l : Nat) : Nat := (x.lane o.a.toNat l).toNat
def texV (o : V3) (x : Iss) (l : Nat) : Nat := (x.lane (o.a.toNat + 1) l).toNat

/-- The checks of a texture instruction over its lanes, one after the other: each record latched, each a texture, each texel
inside it, each element aligned, each in memory (R99, R213, R387). -/
def State.texReads (s : State) (x : Iss) (o : V3) (t : TexOp) (word : W64) (cached : Bool) : Except Trap TexReads :=
  match overLanes (lanesOf x.act) fun l => s.latchBrec x cached (x.lane o.b.toNat l) .read word with
  | .error e => .error e
  | .ok rs =>
    match overLanes (rs.map Prod.fst) (fun l =>
        match (forLane rs l).bind fun r => texTrap r word with
        | some e => (.error e : Except Trap Unit)
        | none => .ok ()) with
    | .error e => .error e
    | .ok _ =>
      match overLanes (rs.map Prod.fst) (fun l =>
          match forLane rs l with
          | none => .ok []
          | some r => allOk (fun c => texelVas r c.1 c.2) (texCells (t.lin || t.gather.isSome) t.addr r (texU o x l) (texV o x l))) with
      | .error e => .error e
      | .ok vas =>
        match overLanes (rs.map Prod.fst) (fun l =>
            match forLane rs l, forLane vas l with
            | some r, some cs => (allOk r.elemAligned (cs.filterMap fun c => c.head?)).map fun _ => ()
            | _, _ => .ok ()) with
        | .error e => .error e
        | .ok _ =>
          match overLanes (rs.map Prod.fst) (fun l =>
              everyOk (everyOk fun va => s.reachMem x va .rd) ((forLane vas l).getD [])) with
          | .error e => .error e
          | .ok ps => .ok { recs := rs, vas := vas, places := ps }

/-- The four result registers from the texels read. -/
def State.texRegs (s : State) (x : Iss) (o : V3) (t : TexOp) (q : TexReads) : List Reg :=
  let res := q.recs.map fun r => (r.1, texResult t r.2 (texU o x r.1) (texV o x r.1)
    (((forLane q.places r.1).getD []).map fun c => s.texel r.2 (c.map Prod.fst)))
  (List.range 4).map fun i => mkReg fun l => BitVec.ofNat 32 (getAt ((forLane res l).getD []) i 0)

/-- The reads of the texels are those of `LDB`, so the registers are busy with a load (DEDUCED from R49 and R214, log 22). -/
def texBody (o : V3) (t : TexOp) (word : W64) (x : Iss) (s : State) : Res :=
  let (n, s) := s.choice 2
  match s.texReads x o t word (decide (n = 1)) with
  | .error e => .trap e
  | .ok q =>
    let regs := s.texRegs x o t q
    let flat := q.places.map fun p => (p.1, p.2.flatMap fun c => c)
    let pz := maskOf fun l => ((forLane flat l).getD []).any fun c => s.poisoned c.1
    let lines := ((flat.flatMap fun p => p.2).map fun c => (lineOf c.1, c.2)).eraseDups
    let first := q.vas.map fun a => (a.1, (a.2.head?.bind fun c => c.head?).getD 0)
    let s := s.noteAll x (q.vas.flatMap fun a => a.2.flatMap fun c => c) .rd
    let recs := accessRecords (q.recs.map fun r => (r.1, r.2, 0))
    let s := s.latchAll x recs
    let id := (s.core x.c).nextId
    let (s, reqs) := s.loadReqs x none lines id
    .done (s.addResult x o.d.toNat regs pz (laneVas first) reqs true (s.latchKeys x recs))

/-- The fields common to `TEX` and `TEXG` (R213); LIT = 1 is a reserved value in them (DESIGN CHOICE, log 40). -/
def texOk (o : V3) : Bool :=
  fltOk o { d := .num, a := .num, b := .one, c := .num } [8] [0, 1, 2, 3, 4, 5] modsNone && !o.lit
    && decide (o.a.toNat % 2 = 0)

def execTex (o : V3) (s : State) : Result :=
  let sp : Spec :=
    { instr := .tex o, g := o.g, fields := texOk o && decide (o.c = 0#8), dsts := [(o.d.toNat, 4)]
      srcs := [(o.a.toNat, 2), (o.b.toNat, 1)] }
  issue sp (texBody o { lin := o.func.getLsbD 0, addr := o.func.toNat / 2, gather := none } sp.word) s

def execTexg (o : V3) (s : State) : Result :=
  let sp : Spec :=
    { instr := .texg o, g := o.g, fields := texOk o && !o.func.getLsbD 0 && decide (o.c.toNat < 4), dsts := [(o.d.toNat, 4)]
      srcs := [(o.a.toNat, 2), (o.b.toNat, 1)] }
  issue sp (texBody o { lin := true, addr := o.func.toNat / 2, gather := some o.c.toNat } sp.word) s

/-! ## `EDGE` (R215) -/

def execEdge (o : V3) (s : State) : Result :=
  issue
    { instr := .edge o, g := o.g, dsts := [(o.d.toNat, 2)], srcs := [(o.a.toNat, 2), (o.b.toNat, 2), (o.c.toNat, 2)]
      fields := fltOk o { d := .two, a := .two, b := .two, c := .two } [0] [0] modsNone && !o.lit && !o.bi }
    (fun x _ => .fixed 8
      (x.put2 o.d.toNat fun l =>
        let c := fun (f : Nat) => signExt (x.lane f l).toNat 32
        let px := c o.a.toNat
        let py := c (o.a.toNat + 1)
        let ax := c o.b.toNat
        let ay := c (o.b.toNat + 1)
        let bx := c o.c.toNat
        let by_ := c (o.c.toNat + 1)
        satS 64 ((px - ax) * (by_ - ay) - (py - ay) * (bx - ax))) []) s

/-! ## `VIEWX` (R216) -/

/-- The extent of the launch's VIEW field for the issuing entry, 1 without one or in a task's code. -/
def State.viewCount (s : State) : Nat :=
  match s.turn with
  | some (.entry c slot id) =>
    let k := s.core c
    match k.group? slot with
    | none => 1
    | some g =>
      match g.entry? id with
      | none => 1
      | some e =>
        let h := (s.launch g.launch).hdr
        if (runningTask k g e).isSome then 1
        else ((firstBelow 6 fun i => decide (h.width i ≠ 0) && decide (h.bind i = 3)).map fun i => h.ext i).getD 1
  | _ => 1

/-- One component of a transformed position: an exact sum, one rounding; every invalid case gives the default NaN.
An exact zero sum is -0 only where every product is negative (DESIGN CHOICE, log 40). -/
def viewSum (ps : List (Nat × Nat)) : Nat :=
  if ps.any fun p => fIsNan f32 p.1 || fIsNan f32 p.2 then f32.defNan else (dotSum f32 .rn ps f32.signBit).bits

/-- `VIEWX`; LIT = 1 is a reserved value in it (DESIGN CHOICE, log 40). -/
def execViewx (o : V3) (s : State) : Result :=
  let n := s.viewCount
  let d := o.d.toNat
  issue
    { instr := .viewx o, g := o.g, dsts := [(d, 4 * n)], srcs := [(o.a.toNat, 4), (o.b.toNat, 2 * n)]
      fields := fltOk o { d := .num, a := .num, b := .one, c := .no } [8] [0] modsNone && !o.lit }
    (fun x _ => .later
      ((List.range n).flatMap fun v => (List.range 4).map fun r =>
        let m := fun (c : Nat) => (x.lane (o.b.toNat + 2 * v + r / 2) (4 * (r % 2) + c)).toNat
        (d + 4 * v + r, mkReg fun l =>
          BitVec.ofNat 32 (viewSum ((List.range 4).map fun c => (m c, (x.lane (o.a.toNat + c) l).toNat)))))) s

/-! ## `PACKC` (R217) -/

/-- One channel as an n-bit UNORM value. -/
def packChan (n v : Nat) : Nat :=
  if fIsNan f32 v then 0
  else if fIsInf f32 v then (if fneg f32 v then 0 else 2 ^ n - 1)
  else
    let x := Dy.clamp (Dy.ofInt 0) (Dy.ofInt 1) (fVal f32 v)
    (roundInt .rn { x with m := x.m * (2 ^ n - 1 : Nat) }).toNat

/-- The widths of R, G, B and A by FUNC. -/
def packWidths (func : Nat) : List Nat := if func = 0 then [8, 8, 8, 8] else [10, 10, 10, 2]

def execPackc (o : V3) (s : State) : Result :=
  issue
    { instr := .packc o, g := o.g, dsts := [(o.d.toNat, 1)], srcs := [(o.a.toNat, 4)]
      fields := fltOk o { d := .one, a := .num, b := .no, c := .no } [8] [0, 1] modsNone }
    (fun x _ => .fixed 5
      (x.put1 o.d.toNat fun l =>
        ((List.range 4).foldl (fun (a : Nat × Nat) c =>
          let w := getAt (packWidths o.func.toNat) c 0
          (a.1 + packChan w (x.lane (o.a.toNat + c) l).toNat * 2 ^ a.2, a.2 + w)) (0, 0)).1) []) s

end Sys2Proof.Machine
end

