-- ==== Sys2Proof/Machine/SelWords.lean ====
section
/-! DEFINITION. The meanings of the cluster words (R288, R289, R314-R322). -/

namespace Sys2Proof.Machine

/-! ## Integer words (R315) -/

/-- A word over the lanes of A and B on the ALU. -/
def cluInt (i : Instr) (o : CW) (f : W32 → W32 → W32) (s : State) : Result :=
  cluData i o .alu 2 true true false (fun x => mkX fun l => f (xlane x.a l) (xlane x.b l)) s

def execCluNop (o : CW) (s : State) : Result :=
  cluIssue (.cluNop o) o .none { a := false, b := false, c := false, d := false } false none (fun _ s => s) s

def execCluIadd (o : CW) (s : State) : Result := cluInt (.cluIadd o) o (fun a b => a + b) s
def execCluIsub (o : CW) (s : State) : Result := cluInt (.cluIsub o) o (fun a b => a - b) s
def execCluAnd (o : CW) (s : State) : Result := cluInt (.cluAnd o) o (fun a b => a &&& b) s
def execCluOr (o : CW) (s : State) : Result := cluInt (.cluOr o) o (fun a b => a ||| b) s
def execCluXor (o : CW) (s : State) : Result := cluInt (.cluXor o) o (fun a b => a ^^^ b) s
def execCluShl (o : CW) (s : State) : Result := cluInt (.cluShl o) o (fun a b => a <<< (b.toNat % 32)) s
def execCluShr (o : CW) (s : State) : Result := cluInt (.cluShr o) o (fun a b => a >>> (b.toNat % 32)) s
def execCluSar (o : CW) (s : State) : Result := cluInt (.cluSar o) o (fun a b => a.sshiftRight (b.toNat % 32)) s

/-- `a < b` as natural numbers or as S32. -/
def cluLess (natural : Bool) (a b : W32) : Bool := if natural then a.ult b else a.slt b

def execCluImin (o : CW) (s : State) : Result :=
  cluInt (.cluImin o) o (fun a b => if cluLess (o.fn.getLsbD 0) b a then b else a) s
def execCluImax (o : CW) (s : State) : Result :=
  cluInt (.cluImax o) o (fun a b => if cluLess (o.fn.getLsbD 0) a b then b else a) s

/-- Comparison code cc of R185: `.EQ`, `.NE`, `.LT`, `.LE`, `.GT`, `.GE`. -/
def cluCompare (natural : Bool) (cc : Nat) (a b : W32) : Bool :=
  match cc with
  | 0 => a == b
  | 1 => a != b
  | 2 => cluLess natural a b
  | 3 => !cluLess natural b a
  | 4 => cluLess natural b a
  | _ => !cluLess natural a b

def execCluIcmp (o : CW) (s : State) : Result :=
  cluInt (.cluIcmp o) o
    (fun a b => if cluCompare (o.fn.getLsbD 3) (o.fn.toNat % 8) a b then 0xFFFFFFFF else 0) s

def execCluXsel (o : CW) (s : State) : Result :=
  cluData (.cluXsel o) o .alu 2 true true true
    (fun x => mkX fun l => if xlane x.cv l = 0 then xlane x.b l else xlane x.a l) s

def execCluMov (o : CW) (s : State) : Result := cluData (.cluMov o) o .alu 2 true false false (fun x => x.a) s

/-! ## Control words (R289, R322) -/

/-- The word of a control row: it names no operand of R310. -/
def cluCtl (i : Instr) (o : CW) (effect : XIss → State → State) (s : State) : Result :=
  cluIssue i o .alu { a := false, b := false, c := false, d := false } false none effect s

/-- The position a branch offset names, counted from the word's address. -/
def cluTarget (k : Cluster) (o : CW) : Nat := ((k.pc : Int) - 1 + o.imm.toInt).toNat

def execCluBr (o : CW) (s : State) : Result :=
  cluCtl (.cluBr o) o (fun x s => s.setClu x { x.k with pc := cluTarget x.k o }) s

/-- `LoopR` (R289); the PC already lies past the word. -/
def Cluster.loopR (k : Cluster) (target : Nat) : Cluster :=
  if 0 < k.lc then { ({ k with lc := k.lc - 1 }).turn true with pc := target }
  else if 0 < k.ec then { ({ k with ec := k.ec - 1 }).turn false with pc := target }
  else k

def execCluLoopr (o : CW) (s : State) : Result :=
  cluCtl (.cluLoopr o) o (fun x s => s.setClu x (x.k.loopR (cluTarget x.k o))) s

/-- `SetLc` (R289). -/
def Cluster.setLc (k : Cluster) (n e : Nat) : Cluster :=
  let k := { k with lc := n, ec := e }
  let k := (List.range 8).foldl (fun (k : Cluster) i => k.putG (k.physG (8 + i)) false) k
  k.putG (k.physG 8) true

def execCluSetlc (o : CW) (s : State) : Result :=
  cluCtl (.cluSetlc o) o (fun x s => s.setClu x (x.k.setLc o.imm.toNat o.fn.toNat)) s

def execCluEndl (o : CW) (s : State) : Result :=
  cluCtl (.cluEndl o) o (fun x s => s.setClu x { x.k with ended := true }) s

/-- A predicate result of latency 2 on its way to `gD`. -/
def State.xPutG (s : State) (x : XIss) (d : Nat) (b : Bool) : State :=
  let p : XPend := { vis := x.t + 1, tgt := .g (x.k.physG d), val := if b then 1 else 0 }
  s.setClu x { x.k with pend := x.k.pend ++ [p] }

def execCluGset (o : CW) (s : State) : Result :=
  cluIssue (.cluGset o) o .alu { a := true, b := false, c := false, d := false } false none
    (fun x s => s.xPutG x (o.d.toNat % 16) (decide (x.a ≠ 0))) s

def execCluGlut (o : CW) (s : State) : Result :=
  cluCtl (.cluGlut o) o
    (fun x s =>
      let g := fun (f : BitVec 7) (n : Nat) => if x.k.readG (f.toNat % 16) then n else 0
      s.xPutG x (o.d.toNat % 16) (o.imm.getLsbD (g o.a 4 + g o.b 2 + g o.c 1))) s

/-! ## Tokens and queues (R321) -/

def execCluKpop (o : CW) (s : State) : Result :=
  cluIssue (.cluKpop o) o .alu { a := false, b := false, c := false, d := true } false none
    (fun x s =>
      match s.tokenPop x.l (o.imm.toNat % 8) with
      | (s, some v) => s.xPut x o.d.toNat 2 (splatX v)
      | (s, none) => s.xPut x o.d.toNat 2 (splatX 0xFFFFFFFF)) s

def execCluKpush (o : CW) (s : State) : Result :=
  cluCtl (.cluKpush o) o
    (fun x s =>
      let q := s.lcr x.l
      let p : KPush := { k := o.imm.toNat % 8, val := BitVec.ofNat 32 (o.imm.toNat / 8), by_ := x.at_ }
      s.setLcr x.l { q with kpushes := q.kpushes ++ [p] }) s

def execCluQlen (o : CW) (s : State) : Result :=
  cluIssue (.cluQlen o) o .alu { a := false, b := false, c := false, d := true } false none
    (fun x s => s.xPut x o.d.toNat 2 (splatX (BitVec.ofNat 32 (getAt (s.lcr x.l).qlen0 (o.imm.toNat % 8) 0)))) s

/-! ## Float words (R316) -/

/-- A word on the FMA unit, per lane. -/
def cluFloat (i : Instr) (o : CW) (b c : Bool) (f : Nat → Nat → Nat → Nat) (s : State) : Result :=
  cluData i o .fma 4 true b c
    (fun x => mkX fun l => BitVec.ofNat 32 (f (xlane x.a l).toNat (xlane x.b l).toNat (xlane x.cv l).toNat)) s

def execCluFadd (o : CW) (s : State) : Result := cluFloat (.cluFadd o) o true false (fun a b _ => (fAdd f32 .rn a b).bits) s
def execCluFmul (o : CW) (s : State) : Result := cluFloat (.cluFmul o) o true false (fun a b _ => (fMul f32 .rn a b).bits) s
def execCluFfma (o : CW) (s : State) : Result := cluFloat (.cluFfma o) o true true (fun a b c => (fFma f32 .rn a b c).bits) s
def execCluFmin (o : CW) (s : State) : Result := cluFloat (.cluFmin o) o true false (fun a b _ => (fMinMax f32 false a b).bits) s
def execCluFmax (o : CW) (s : State) : Result := cluFloat (.cluFmax o) o true false (fun a b _ => (fMinMax f32 true a b).bits) s

def execCluFcmp (o : CW) (s : State) : Result :=
  cluFloat (.cluFcmp o) o true false
    (fun a b _ => if (fCompare f32 o.fn.toNat a b).1 then 0xFFFFFFFF else 0) s

/-- `FCVT` by FN. -/
def cluConvert (fn a b : Nat) : Nat :=
  match fn with
  | 0 => (fToInt f32 .rn true 32 a).bits
  | 1 => (intToF f32 .rn (signExt a 32)).bits
  | 2 => (fConv f32 bf16 .rn a).bits % 65536 + (fConv f32 bf16 .rn b).bits % 65536 * 65536
  | _ => (fConv bf16 f32 .rn (a % 65536)).bits

def execCluFcvt (o : CW) (s : State) : Result :=
  cluFloat (.cluFcvt o) o (decide (o.fn = 2#6)) false (fun a b _ => cluConvert o.fn.toNat a b) s

/-! ## Interpolation, shuffle, pose, streams (R317, R318) -/

def execCluShuf (o : CW) (s : State) : Result :=
  cluData (.cluShuf o) o .isu 4 true true false
    (fun x => mkX fun l => xlane x.a ((xlane x.b l).toNat % 16)) s

/-- `LERP` of one lane. -/
def cluLerp (a b c : Nat) : Nat :=
  match nanResult f32 [a, b, c] with
  | some r => r.bits
  | none =>
    if fIsInf f32 a || fIsInf f32 b || fIsInf f32 c then (fFma f32 .rn (fSub f32 .rn b a).bits c a).bits
    else
      let t := (fVal f32 b).sub (fVal f32 a)
      let tneg := if t.m = 0 then zeroSumSign .rn (fneg f32 b) (!fneg f32 a) else decide (t.m < 0)
      (roundDy f32 .rn (zeroSumSign .rn (tneg != fneg f32 c) (fneg f32 a)) ((t.mul (fVal f32 c)).add (fVal f32 a))).bits

def execCluLerp (o : CW) (s : State) : Result :=
  cluData (.cluLerp o) o .isu 4 true true true
    (fun x => mkX fun l => BitVec.ofNat 32 (cluLerp (xlane x.a l).toNat (xlane x.b l).toNat (xlane x.cv l).toNat)) s

/-- The window position of a `WARP` lane in units of 1/256. -/
def warpPos (a : Nat) : Nat :=
  if fIsNan f32 a then 0
  else if fIsInf f32 a then (if fneg f32 a then 0 else 31 * 256)
  else
    let x := Dy.clamp (Dy.ofInt 0) (Dy.ofInt 31) (fVal f32 a)
    (roundInt .rn { x with m := x.m * 256 }).toNat

/-- (1 − f) × u + f × v with f = n / 256, rounded once; a term of weight 0 is omitted. -/
def warpMix (u v n : Nat) : Nat :=
  if fIsNan f32 u then f32.defNan
  else if n = 0 then u
  else if fIsNan f32 v then f32.defNan
  else if fIsInf f32 u then (if fIsInf f32 v && (fneg f32 u != fneg f32 v) then f32.defNan else u)
  else if fIsInf f32 v then v
  else
    let term := fun (w k : Nat) => (fVal f32 w).mul { m := (k : Int), e := -8 }
    (roundDy f32 .rn (zeroSumSign .rn (fneg f32 u) (fneg f32 v)) ((term u (256 - n)).add (term v n))).bits

/-- A value of the 32-value window of two registers. -/
def warpWindow (lo hi : X512) (i : Nat) : Nat := (if i < 16 then xlane lo i else xlane hi (i - 16)).toNat

def execCluWarp (o : CW) (s : State) : Result :=
  cluData (.cluWarp o) o .isu 4 true true false
    (fun x =>
      let hi := x.k.readX (o.b.toNat + 1)
      mkX fun l =>
        let p := warpPos (xlane x.a l).toNat
        BitVec.ofNat 32 (warpMix (warpWindow x.b hi (p / 256)) (warpWindow x.b hi (min (p / 256 + 1) 31)) (p % 256))) s

def execCluPack (o : CW) (s : State) : Result :=
  cluData (.cluPack o) o .isu 4 true true true
    (fun x => mkX fun l =>
      BitVec.ofNat 32 (packChan 8 (xlane x.a l).toNat + packChan 8 (xlane x.b l).toNat * 2 ^ 8
        + packChan 8 (xlane x.cv l).toNat * 2 ^ 16 + 255 * 2 ^ 24)) s

/-- Field f of a pose record (R303, R318). -/
def poseField (r : PoseRec) (f : Nat) : W32 := getAt r (if f = 10 then 14 else f) 0

def execCluPose (o : CW) (s : State) : Result :=
  cluIssue (.cluPose o) o .isu { a := false, b := false, c := false, d := true } false none
    (fun x s =>
      let h := s.selHead (s.load.headOf x.l)
      s.xPut x o.d.toNat 4 (splatX (poseField (KMap.getD h.show_.gov (s.lcr x.l).gline poseZero) (o.imm.toNat % 16)))) s

def execCluSdrv (o : CW) (s : State) : Result :=
  cluIssue (.cluSdrv o) o .isu { a := true, b := false, c := false, d := false } true none
    (fun x s =>
      let q := s.lcr x.l
      s.setLcr x.l { q with drives := q.drives ++ [(o.d.toNat % 8, x.c, x.a)] }) s

/-! ## Line store and line copies (R319, R320) -/

def execCluLcpy (o : CW) (s : State) : Result :=
  cluIssue (.cluLcpy o) o .isu { a := true, b := false, c := false, d := false } false none
    (fun x s =>
      let q := s.lcr x.l
      let mode := o.fn.toNat % 4
      let size := if mode = 2 then 16384 else if mode = 3 then 24576 else 8192
      let cp : LineCopy :=
        { unit := o.imm.toNat, dst := (xlane x.a 0).toNat % size, mode := mode, lcrDst := o.c.toNat % 16
          issued := x.t, by_ := x.at_ }
      s.setLcr x.l { q with lcpy := some cp }) s true

/-- A unit of a line store as an access reads it: zeros, a late line and an event where it is uncorrectable (R419). -/
def State.lineUnit (s : State) (l u : Nat) : State × X512 :=
  if (s.lcr l).storeBad.contains u then ((s.selBad 13 l).markLate l 8, 0) else (s, (s.lcr l).unit u)

def execCluLdl (o : CW) (s : State) : Result :=
  cluIssue (.cluLdl o) o .lsp { a := false, b := false, c := false, d := true } false (some (o.imm.toNat % 16))
    (fun x s =>
      match s.lineUnit x.l o.imm.toNat with
      | (s, v) => s.xPut x o.d.toNat 6 v) s

def execCluStl (o : CW) (s : State) : Result :=
  cluIssue (.cluStl o) o .lsp { a := true, b := false, c := false, d := false } false (some (o.imm.toNat % 16))
    (fun x s =>
      let q := s.lcr x.l
      s.setLcr x.l { q with storePend := q.storePend ++ [(o.imm.toNat, x.a)] }) s

end Sys2Proof.Machine
end

