-- ==== Sys2Proof/Machine/SelClock.lean ====
section
/-! DEFINITION. The fetch and store engine words, what a Selham clock does at its end, and who issues in a clock
(R283-R289, R294-R300, R302, R323-R326, R402, R403, R419, R457). -/

namespace Sys2Proof.Machine

/-! ## Fetch and store engine words (R323, R324) -/

/-- The word itself and its two halves as stored. -/
def engineAt (s : State) (l unit pc pos k : Nat) : SelAt :=
  { unit := unit, addr := BitVec.ofNat 64 (pc + 16 * pos), info := BitVec.ofNat 64 (k + (s.lcr l).line % 65536 * 65536) }

/-- The address of a run: the source line clamped to the active lines. -/
def runAddr (height line : Nat) (o : EW) : Nat :=
  let y := (line : Int) + o.roff.toInt
  let top : Int := (height : Int) - 1
  let y := if y < 0 then 0 else if top < y then (if top < 0 then 0 else top) else y
  o.ia.toNat + y.toNat * o.lstride.toNat * 64

/-- A request of H for the line at an intermediate address: it crosses to the line's home die with H's vector, a write with the next
number, and a read is answered (R149). -/
def State.hRequest (s : State) (v ia : Nat) (kind : ReqKind) : State :=
  match s.xlate2 (s.die 4).tlb v ia (if kind = .load then .rd else .wr) with
  | .mem pa pres =>
    let x := s.die 4
    let out := if kind = .load then some 0 else none
    let msg : Msg := .req { kind := kind, line := lineOf pa, core := 192, vf := v, pres := pres, out := out, num := none } (sliceOf pa)
    let vec := setAt x.vec 4 ((getAt x.vec 4 0 + (if msg.isWrite then 1 else 0)) % 2 ^ 20)
    let f : Flit :=
      { id := 0, pkt := 0, part := 0, parts := 1, waits := false, stamp := vec, router := 0, turns := packTurns []
        dstDie := homeDie pa, dstRouter := sliceRouter (sliceOf pa), dstPort := 3, chan := 0, second := false, srcDie := 4, src := 0
        alt := false, via := 0, crc := 0, resends := 0, msg := msg }
    (packetFlits f).foldl (fun s f => s.crossOut 4 f) (s.setDie 4 { x with vec := vec })
  | .mmio _ _ => s
  | .bad _ _ _ => s

/-- Such a request for each line of `n` bytes. -/
def State.hRequests (s : State) (v ia n : Nat) (kind : ReqKind) : State :=
  if n = 0 then s
  else (List.range ((ia + n - 1) / 128 - ia / 128 + 1)).foldl (fun s i => s.hRequest v (128 * (ia / 128 + i)) kind) s

def execFetch (o : EW) (s : State) : Result :=
  match s.turn with
  | some (.fetchEngine l) =>
    let x := s.lcr l
    let at_ := engineAt s l 4 (s.load.fetchPc l) x.fetchPos o.k.toNat
    let x := { x with fetchPos := x.fetchPos + 1 }
    if 64 ≤ x.runs.length then .next (s.setLcr l x).endTurn
    else
      let h := (s.selHead (s.load.headOf l)).show_
      let r : FetchRun :=
        { line := x.gline, addr := runAddr h.height x.line o, lso := o.lso.toNat, left := List.range (o.lenm.toNat + 1)
          tok := if o.tk then some o.k.toNat else none, by_ := at_ }
      .next ((s.setLcr l { x with runs := x.runs ++ [r] }).hRequests s.load.vf r.addr (64 * r.left.length) .load).endTurn
  | _ => .refused .noIssuer

/-- The units of a store engine word at the clock of its issue. -/
def storeUnits (x : Lcr) (t height : Nat) (o : EW) (emit : Bool) (at_ : SelAt) : List StoreUnit :=
  let base := if emit then 0 else runAddr height x.line o
  (List.range (o.lenm.toNat + 1)).map fun i =>
    { line := x.gline, clk := t + i, emit := emit, queue := if o.tk then some o.k.toNat else none
      unit := o.lso.toNat + i, addr := base + 64 * i, pix := o.lstride.toNat + 16 * i, by_ := at_ }

def storeWord (o : EW) (emit : Bool) (s : State) : Result :=
  match s.turn with
  | some (.storeEngine l) =>
    let x := s.lcr l
    let at_ := engineAt s l 5 (s.load.storePc l) x.storePos o.k.toNat
    let h := (s.selHead (s.load.headOf l)).show_
    let s := s.setLcr l { x with
      storePos := x.storePos + 1, stores := x.stores ++ storeUnits x s.clk.selham h.height o emit at_ }
    .next (if emit then s
      else s.hRequests s.load.vf (runAddr h.height x.line o) (64 * (o.lenm.toNat + 1)) .store).endTurn
  | _ => .refused .noIssuer

def execStore (o : EW) (s : State) : Result := storeWord o false s
def execEmit (o : EW) (s : State) : Result := storeWord o true s

/-! ## The bytes of a unit -/

def unitBytes (v : X512) : List Byte := leBytes 64 v.toNat
def unitOf (bs : List Byte) : X512 := BitVec.ofNat 512 (leNat bs)

/-- The presented frame of a line that a line core builds. -/
def State.lineFrame (s : State) (l line : Nat) : Nat × Nat := (s.selHead (s.load.headOf l)).show_.frameOf line

/-- A unit read from memory for a fetch; zeros and a report where the page cannot be read (R457). -/
def State.fetchUnit (s : State) (l line ia : Nat) : State × X512 :=
  match s.selBytes s.load.vf ia 64 with
  | .ok bs => (s, unitOf bs)
  | .error c => (s.selAccess 13 l s.load.vf (s.lineFrame l line) c.code ia, 0)

/-- A unit written to memory; dropped with a report where the page cannot be written (R457). -/
def State.storeUnit (s : State) (l line ia : Nat) (bs : List Byte) : State :=
  match s.selPa s.load.vf ia .wr with
  | .ok pa => s.storeAll [(pa, bs)]
  | .error c => s.selAccess 13 l s.load.vf (s.lineFrame l line) c.code ia

/-- A unit of a line store written; it is good from then on. -/
def Lcr.putUnit (x : Lcr) (u : Nat) (v : X512) : Lcr :=
  { x with store := KMap.putD x.store u v 0, storeBad := x.storeBad.filter fun b => decide (b ≠ u) }

/-! ## The DME's clock (R297, R300, R325, R326) -/

/-- The accumulator banks whose ports the DME uses in clock `t`. -/
def Dme.ports (d : Dme) (t : Nat) : List Nat :=
  let span := fun (a t0 : Nat) => if t0 ≤ t && t < t0 + 64 then [(a + (t - t0)) % 8] else []
  match d.busy with
  | .mma zero _ _ a _ _ t0 last _ _ _ _ =>
    (if zero then [] else span a (t0 + 1)) ++ (match last with
      | some te => span a (te + 4)
      | none => [])
  | .out _ _ _ a t0 _ _ _ => span a (t0 + 1)
  | _ => []

/-- A unit of the accumulator memory, and whether what rests on it is bad (R419). A unit beyond the memory is a
free value (DESIGN CHOICE, log 10). -/
def State.accRead (s : State) (u : Nat) : State × X512 × Bool :=
  let d := s.sel.dme
  if 8192 ≤ u then
    let v := mkX fun i => lo32 (Config.freeWord (s.frees + i))
    ({ s with frees := s.frees + 16 }, v, false)
  else if d.accumBad.contains u then
    (s.raise (selSource 14 0) (selEvent 14 0 codeUncorrected 1 s.load.vf), 0, true)
  else (s, KMap.getD d.accum u 0, d.accumTaint.contains u)

/-- Lane `i` of width `w` bits of a unit. -/
def unitField (v : X512) (w i : Nat) : Nat := (v.toNat >>> (w * i)) % 2 ^ w

/-- A byte of the weight memory. -/
def Dme.weightByte (d : Dme) (a : Nat) : Nat :=
  if d.weightBad.contains (a / 64) then 0 else unitField (KMap.getD d.weights (a / 64) 0) 8 (a % 64)

/-- B element (k, n) of an operation with weights at unit `w`. -/
def Dme.bElem (d : Dme) (fmt w k n : Nat) : MElem :=
  if fmt = 0 then
    let a := 64 * w + 2 * (32 * k + n)
    elemOf 11 (d.weightByte a + 256 * d.weightByte (a + 1)) 127
  else elemOf 12 (d.weightByte (64 * w + 32 * k + n)) 127

/-- A element (m, k) from the entries taken. -/
def entryElem (taken : List X512) (fmt m k : Nat) : MElem :=
  if fmt = 0 then elemOf 11 (unitField (getAt taken (m + 32 * (k / 32)) 0) 16 (k % 32)) 127
  else elemOf 12 (unitField (getAt taken (m + 32 * (k / 64)) 0) 8 (k % 64)) 127

/-- Unit u of the result tile: elements 16 × (u mod 2) and up of row u / 2 (R326). -/
def Dme.resultUnit (d : Dme) (fmt k w : Nat) (taken : List X512) (acc : X512) (u : Nat) : X512 :=
  let ks := if fmt = 0 then 16 else 64
  mkX fun i =>
    BitVec.ofNat 32 (accSteps (fun j => entryElem taken fmt (u / 2) j) (fun j => d.bElem fmt w j (16 * (u % 2) + i)) ks
      (k / ks) 0 (xlane acc i).toNat)

/-- A weight unit that the operation reads is uncorrectable. -/
def Dme.weightsBad (d : Dme) (fmt k w : Nat) : Bool :=
  d.weightBad.any fun u => decide (w ≤ u) && decide (64 * u < 64 * w + 32 * k * (if fmt = 0 then 2 else 1))

/-- The DME takes an entry of line core c's bound queue: zeros from a core that a cause has stopped, and zeros with QUEUE_UNDERFLOW
where it is empty (R297, R403). -/
def State.dmeTake (s : State) (c : Nat) (at_ : SelAt) : State × X512 × Bool :=
  let x := s.lcr c
  if x.stopped then (s, 0, false)
  else
    match x.queue 7 with
    | (e, bad) :: t => (s.setLcr c (x.setQueue 7 t), e, bad)
    | [] =>
      let info := BitVec.ofNat 64 (7 + x.line % 65536 * 65536)
      (s.setLcr c (x.stop .queueUnderflow { at_ with info := info }), 0, false)

def State.setBusy (s : State) (b : DmeBusy) : State := { s with sel := { s.sel with dme := { s.sel.dme with busy := b } } }

/-- The entry that `DOUT` pushes after it has read unit u of its tile: the unit, or a row of 32 BF16 values. -/
def doutEntry (cvt : Nat) (held : List X512) (v : X512) : X512 :=
  if cvt = 0 then v
  else
    let prev := (held.getLast?).getD 0
    let half := fun (r : X512) (i : Nat) => (fConv f32 bf16 .rn (xlane r i).toNat).bits % 65536
    mkX fun i =>
      let r := if i < 8 then prev else v
      let j := 2 * (i % 8)
      BitVec.ofNat 32 (half r j + 65536 * half r (j + 1))

/-- What the DME does in clock `t` (R326). -/
def State.dmeClock (s : State) (t : Nat) : State :=
  match s.sel.dme.busy with
  | .mma zero fmt lcr a k w t0 last taken acc bad at_ =>
    let need := 32 * k / (if fmt = 0 then 32 else 64)
    let (s, acc, bad) :=
      if !zero && t0 < t && acc.length < 64 then
        let (s, v, b) := s.accRead (a + acc.length)
        (s, acc ++ [v], bad || b)
      else (s, acc, bad)
    let (s, taken, bad, last) :=
      if t0 < t && taken.length < need && s.load.dmeSlot t = lcr then
        let (s, e, b) := s.dmeTake lcr at_
        (s, taken ++ [e], bad || b, if taken.length + 1 = need then some t else last)
      else (s, taken, bad, last)
    match last with
    | some te =>
      if te + 4 ≤ t then
        let u := t - (te + 4)
        let d := s.sel.dme
        let wbad := d.weightsBad fmt k w
        let s := if u = 0 && wbad then s.raise (selSource 14 0) (selEvent 14 0 codeUncorrected 1 s.load.vf) else s
        let v := d.resultUnit fmt k w taken (getAt acc u 0) u
        let taint := (d.accumTaint.filter fun x => decide (x ≠ a + u)) ++ (if bad || wbad then [a + u] else [])
        let d := { d with
          accum := KMap.putD d.accum (a + u) v 0, accumBad := d.accumBad.filter fun x => decide (x ≠ a + u)
          accumTaint := taint
          busy := if u = 63 then .waitClk (t + 1) else .mma zero fmt lcr a k w t0 last taken acc bad at_ }
        s.setSel { s.sel with dme := d }
      else s.setBusy (.mma zero fmt lcr a k w t0 last taken acc bad at_)
    | none => s.setBusy (.mma zero fmt lcr a k w t0 last taken acc bad at_)
  | .out cvt lcr q a t0 held bad at_ =>
    if t0 < t then
      let u := t - (t0 + 1)
      let (s, v, b) := s.accRead (a + u)
      let bad := b || (bad && decide (u % 2 = 1))
      let s :=
        if cvt = 0 || u % 2 = 1 then
          let x := s.lcr lcr
          let at_ := { at_ with info := BitVec.ofNat 64 (q + x.line % 65536 * 65536) }
          s.setLcr lcr { x with
            pushes := x.pushes ++ [{ endClk := t + 1, q := q, val := doutEntry cvt held v, bad := bad, by_ := at_ }] }
        else s
      s.setBusy (if u = 63 then .waitClk (t + 1) else .out cvt lcr q a t0 [v] bad at_)
    else s
  | _ => s

/-! ## Line copies (R298, R300, R320) -/

/-- A started line copy in clock `t`: it writes, waits for its bank, or is not performed. -/
def State.copyClock (s : State) (t : Nat) (w : CopyWrite) : State :=
  let keep := fun (s : State) => s.setSel { s.sel with copies := s.sel.copies ++ [w] }
  if t < w.clk then keep s
  else if w.mode = 3 then
    let x := s.lcr w.lcrDst
    if w.dst % 16 = t % 16 && !x.bankTaken then s.setLcr w.lcrDst { x.putUnit w.dst w.val with bankTaken := true }
    else keep s
  else
    let d := s.sel.dme
    if w.mode = 2 then
      s.setSel { s.sel with dme := { d with
        weights := KMap.putD d.weights w.dst w.val 0, weightBad := d.weightBad.filter fun u => decide (u ≠ w.dst) } }
    else if (d.ports t).contains (w.dst % 8) then s.setLcr w.lcr ((s.lcr w.lcr).stop .scheduleViolation w.by_)
    else
      let old := if d.accumBad.contains w.dst then 0 else KMap.getD d.accum w.dst 0
      let v := if w.mode = 1 then
          mkX fun i => BitVec.ofNat 32 (fAdd f32 .rn (xlane old i).toNat (xlane w.val i).toNat).bits
        else w.val
      let taint := if w.mode = 1 && (d.accumBad.contains w.dst || d.accumTaint.contains w.dst) then
          (if d.accumTaint.contains w.dst then d.accumTaint else w.dst :: d.accumTaint)
        else d.accumTaint.filter fun u => decide (u ≠ w.dst)
      s.setSel { s.sel with dme := { d with
        accum := KMap.putD d.accum w.dst v 0, accumBad := d.accumBad.filter fun u => decide (u ≠ w.dst)
        accumTaint := taint } }

/-! ## The store engine and the fetch engine (R302, R324) -/

/-- Pixels that enter a head's line FIFO; after the line's deadline they are discarded and DROP is set (R302,
R306). -/
def State.enterPixels (s : State) (l line pix : Nat) (v : X512) : State :=
  let h := s.load.headOf l
  let hd := s.selHead h
  let w := hd.show_
  if line < w.nextScan then s.setSelHead h { hd with stat := hd.stat ||| 2 }
  else
    let row := (List.range 16).foldl (fun (r : KMap W32) i => KMap.put r (pix + i) (xlane v i)) (KMap.getD w.fifo line [])
    s.setSelHead h { hd with show_ := { w with fifo := KMap.put w.fifo line row } }

/-- A unit of `STORE` or `EMIT` with its value. -/
def State.storeOut (s : State) (l t : Nat) (u : StoreUnit) (v : X512) : State :=
  if u.emit then
    let x := s.lcr l
    s.setLcr l { x with pixels := x.pixels ++ [(t + 4, u.line, u.pix, v)] }
  else s.storeUnit l u.line u.addr (unitBytes v)

/-- The store engine in clock `t`: queue units that are due are popped, and one line-store unit of the engine bank is
read if the line copy engine left the bank. -/
def State.storeClock (s : State) (l t : Nat) : State :=
  let x := s.lcr l
  let popped := x.stores.filter fun u => u.queue.isSome && decide (u.clk ≤ t)
  let s := s.setLcr l { x with stores := x.stores.filter fun u => !(u.queue.isSome && decide (u.clk ≤ t)) }
  let s := popped.foldl (fun s u =>
    match s.queuePop l (u.queue.getD 0) u.by_ with
    | (s, v) => s.storeOut l t u v) s
  let x := s.lcr l
  if x.bankTaken then s
  else
    match x.stores.find? fun u => u.queue.isNone && decide (u.clk ≤ t) && decide (u.unit % 16 = t % 16) with
    | none => s
    | some u =>
      let s := s.setLcr l { x with stores := x.stores.erase u, bankTaken := true }
      match s.lineUnit l u.unit with
      | (s, v) => s.storeOut l t u v

/-- The fetch engine in clock `t`: it may write one unit of a run in flight into the engine bank; which, and whether
in this clock, is memory's latency (R294). -/
def State.fetchClock (s : State) (l t : Nat) : State :=
  let x := s.lcr l
  let ready := x.runs.flatMap fun r => (r.left.filter fun j => decide ((r.lso + j) % 16 = t % 16)).map fun j => (r, j)
  if x.bankTaken || ready.isEmpty then s
  else
    let (n, s) := s.choice (ready.length + 1)
    match ready[n]? with
    | none => s
    | some (r, j) =>
      let (s, v) := s.fetchUnit l r.line (r.addr + 64 * j)
      let x := s.lcr l
      s.setLcr l { x.putUnit (r.lso + j) v with
        runs := x.runs.map fun q => if q = r then { q with left := q.left.filter fun i => decide (i ≠ j) } else q }

/-! ## Pushes, streams and stops (R288, R295, R296, R402, R403) -/

/-- A push that is due: the value is lost on a full queue, and one into a `q7` bound to a DME that stands is
discarded (R296, R325, R404). -/
def State.pushClock (s : State) (l : Nat) (p : QPush) : State :=
  let x := s.lcr l
  if p.q = 7 && s.load.bind l && !s.sel.dme.up then s
  else if 32 ≤ (x.queue p.q).length then s.setLcr l (x.stop .queueOverflow p.by_)
  else s.setLcr l (x.setQueue p.q (x.queue p.q ++ [(p.val, p.bad)]))

/-- A token push that is due; a full FIFO discards it, which stops the line core of a cluster's push and is an event
for an engine's (R295). -/
def State.kpushClock (s : State) (l : Nat) (p : KPush) : State :=
  let x := s.lcr l
  let (f, full) := (x.fifo p.k).push p.val
  let s := s.setLcr l { x with fifos := setAt x.fifos p.k f }
  if !full then s
  else if p.by_.unit < 4 then s.setLcr l ((s.lcr l).stop .tokenMisuse p.by_)
  else s.raise (selSource 13 l) (selEvent 13 l codeEngineDrop 1 s.load.vf)

/-- The streams move one stage (R288). -/
def Lcr.shiftStreams (x : Lcr) : Lcr :=
  { x with
    drives := []
    streams := (List.range 8).map fun n =>
      let old := getAt x.streams n []
      (List.range 4).map fun c =>
        match x.drives.find? fun d => decide (d.1 = n) && decide (d.2.1 = c) with
        | some d => d.2.2
        | none => if c = 0 then 0 else getAt old (c - 1) 0 }

/-- The causes that arose in the clock stop the line core, with one event for the lowest-numbered unit (R403). -/
def State.stopClock (s : State) (l : Nat) : State :=
  let x := s.lcr l
  match x.stops with
  | [] => s
  | c :: t =>
    if x.stopped then s.setLcr l { x with stops := [] }
    else
      let best := t.foldl (fun (a b : SelStop) => if b.by_.unit < a.by_.unit then b else a) c
      let s := s.markLate l 4
      let x := s.lcr l
      let s := s.setLcr l { x with stops := [], stopped := true, reported := false, lcpy := none }
      let s := s.setSel { s.sel with lastCause := best.cause.code }
      s.raise (selSource 13 l)
        { selEvent 13 l best.cause.code 3 s.load.vf with
          slot := best.by_.unit, addrVa := true, addr := best.by_.addr, info := best.by_.info }

/-- The end of clock `t` for one line core, after the copies and the DME. -/
def State.lcrClock (s : State) (t l : Nat) : State :=
  let x := s.lcr l
  let x := x.storePend.foldl (fun (x : Lcr) p => x.putUnit p.1 p.2) { x with storePend := [] }
  let due := x.pushes.filter fun p => decide (p.endClk ≤ t)
  let keys := x.kpushes
  let pix := x.pixels.filter fun p => decide (p.1 ≤ t)
  let x := { x with
    pushes := x.pushes.filter fun p => !decide (p.endClk ≤ t), kpushes := []
    pixels := x.pixels.filter fun p => !decide (p.1 ≤ t), bankTaken := false, banks := [] }
  let s := s.setLcr l x.shiftStreams
  let s := due.foldl (fun s p => s.pushClock l p) s
  let s := keys.foldl (fun s p => s.kpushClock l p) s
  let s := pix.foldl (fun s p => s.enterPixels l p.2.1 p.2.2.1 p.2.2.2) s
  s.stopClock l

/-- The end of clock `t` of Selham. -/
def State.endSelClock (s : State) (t : Nat) : State :=
  let cs := s.sel.copies
  let s := cs.foldl (fun s w => s.copyClock t w) (s.setSel { s.sel with copies := [] })
  let ls := s.sel.lcrs.map Prod.fst
  let s := ls.foldl (fun s l => (s.storeClock l t).fetchClock l t) s
  let s := s.dmeClock t
  ls.foldl (fun s l => s.lcrClock t l) s

/-! ## Who issues (R283, R286, R287, R293, R324, R350) -/

/-- The next word of a cluster that has not reached `ENDL`. -/
def Lcr.nextWord (x : Lcr) (c : Nat) : Option XW :=
  let k := x.cluster c
  if k.ended then none else (x.imem[k.pc]?).map xw

/-- Every cluster stands at `ENDL`. -/
def Lcr.atEnd (x : Lcr) : Bool := x.clusters.all fun k => k.ended

/-- The clusters that issue: the bundle where all four stand at S = 1, else every one whose word has S = 0 (R286). -/
def Lcr.issuers (x : Lcr) : List Nat :=
  let ws := (List.range 4).map fun c => x.nextWord c
  if ws.all fun w => (w.map fun w => w.s).getD false then [0, 1, 2, 3]
  else (List.range 4).filter fun c => ((getAt ws c none).map fun w => !w.s).getD false

/-- The line core stands at a P-marked bundle (R287). -/
def Lcr.atMark (x : Lcr) : Bool :=
  (List.range 4).all fun c => ((x.nextWord c).map fun w => w.s && w.p).getD false

/-- The bank of a line-store word of a cluster whose guard value may let it access (R285). -/
def Lcr.bankOf (x : Lcr) (c : Nat) : Option Nat :=
  (x.nextWord c).bind fun w => if w.opc = 0x40 || w.opc = 0x41 then some (w.imm % 16) else none

/-- The banks that two of the issuing clusters access. -/
def Lcr.sharedBanks (x : Lcr) (cs : List Nat) : List Nat :=
  let bs := cs.filterMap fun c => x.bankOf c
  bs.eraseDups.filter fun b => decide (2 ≤ (bs.filter fun y => decide (y = b)).length)

/-- The engine stream's next word is due: AT clocks after the start of the line, and no `END`. -/
def wordDue (ws : List W64) (pos t start : Nat) : Bool :=
  match ws[2 * pos]? with
  | some w => decide (bits w.toNat 63 60 ≠ 0) && decide (start + bits w.toNat 31 16 = t)
  | none => false

/-- The head of line core `l` shows no line after those that have started (R293). -/
def State.noMore (s : State) (l : Nat) : Bool :=
  let w := (s.selHead (s.load.headOf l)).show_
  w.upto.any fun n => decide (n ≤ w.nextLine)

/-- A line core stops at its next P-marked bundle where the launch stops, unless that bundle traps; where its head builds no more
lines, it stops at once at `ENDL` (R287, R293, R350). -/
def State.stopsHere (s : State) (l : Nat) : Bool :=
  let x := s.lcr l
  s.sel.stopping && ((x.atMark && !x.holdsData) || (x.atEnd && s.noMore l))

/-- The units of line core `l` that issue in clock `t`. -/
def State.lcrIssue (s : State) (t l : Nat) : State × List Agent :=
  let x := s.lcr l
  if !x.building || x.stopped || x.done then (s, [])
  else if s.stopsHere l then (s.setLcr l { x with done := true }, [])
  else
    let cs := x.issuers
    let s := s.setLcr l { x with
      qlen0 := x.queues.map fun q => q.length, banks := x.sharedBanks cs }
    (s, cs.map (fun c => Agent.cluster l c)
      ++ (if wordDue x.fetchMem x.fetchPos t x.startClk then [Agent.fetchEngine l] else [])
      ++ (if wordDue x.storeMem x.storePos t x.startClk then [Agent.storeEngine l] else []))

/-- The DME issues its next word in clock `t` (R325). -/
def Dme.ready (d : Dme) (t : Nat) : Bool :=
  d.up && (match d.busy with
    | .idle => true
    | .waitClk n => decide (n ≤ t)
    | _ => false)

/-- Every unit that issues in the present Selham clock. -/
def State.selIssue (s : State) : State × List Agent :=
  let t := s.clk.selham
  let r := (s.sel.lcrs.map Prod.fst).foldl (fun (a : State × List Agent) l =>
    let b := a.1.lcrIssue t l
    (b.1, a.2 ++ b.2)) (s, [])
  (r.1, if r.1.sel.dme.ready t then r.2 ++ [Agent.dme] else r.2)

end Sys2Proof.Machine
end

