-- ==== Sys2Proof/Machine/SelEvents.lean ====
section
/-! DEFINITION. Selham's launches, line schedules, scan-out, safety reel, frame hand-over and restarts, and its clock
(R290-R293, R299, R301-R307, R328, R350, R404, R442-R444, R457). -/

namespace Sys2Proof.Machine

/-! ## The start of a launch (R291, R299, R328, R350) -/

/-- A line core loaded with its streams: its line store zero, its FIFOs at their counts, its queues empty. -/
def loadLcr (x : SelLoad) (c : Nat) (old : Lcr) : Lcr :=
  let code := KMap.getD x.code c ([], [], [])
  { Lcr.reset with
    clusters := old.clusters.map fun k => { Cluster.reset with x := k.x, g := k.g }
    fifos := (List.range 8).map fun k =>
      let n := x.tok c k
      { toks := (List.range n).map fun i => (i, BitVec.ofNat 32 i), pushes := n, pops := 0, late := [] }
    imem := code.1, fetchMem := code.2.1, storeMem := code.2.2 }

def roundUp16 (n : Nat) : Nat := (n + 15) / 16 * 16

/-- The head record of a launch. -/
def SelLoad.headRec (x : SelLoad) (h : Nat) : List W64 := (x.block.drop (8 + 8 * h)).take 8

/-- Two shows have one reel buffer, with lines of one form. -/
def Show.sameReel (a b : Show) : Bool := decide (a.vf = b.vf) && decide (a.w 0 = b.w 0) && decide (a.w 1 = b.w 1)

/-- A head at the start of a launch: its first line 0 falls on the next line 0 of the beam where it is driven, at a
clock that is a multiple of 16 (R328, R350). A reel buffer that stays where it is holds the lines that it held (R305). -/
def startHead (x : SelLoad) (now serial h : Nat) (hd : Head) : Head :=
  let w : Show := { Show.blank with serial := serial, vf := x.vf, hrec := x.headRec h }
  if !bit (x.head h 6) 0 then { hd with driven := false, old := none, show_ := Show.blank }
  else
    let w := { w with upto := if x.frames = 0 then none else some (x.frames * w.vtotal) }
    let least := now + max w.lead (2 * w.lineClk) + 16
    let base := match hd.old with
      | some o => o.1
      | none => hd.show_
    let returns := hd.returns.map fun r => (r.1, none, r.2.2)
    if hd.driven && base.lineClk ≠ 0 && base.vtotal ≠ 0 then
      let lines := (least - base.t0 + base.lineClk - 1) / base.lineClk
      let g := (lines + base.vtotal - 1) / base.vtotal * base.vtotal
      { hd with
        old := some (base, g), returns := returns
        show_ := { w with t0 := roundUp16 (base.deadline g), reeled := if base.sameReel w then base.reeled else [] } }
    else
      { hd with driven := true, old := none, returns := returns, show_ := { w with t0 := roundUp16 least } }

/-- A launch starts. -/
def State.startSelham (s : State) (x : SelLoad) : State :=
  let now := s.clk.selham
  s.setSel { s.sel with
    running := true, cur := some x, next := none, stopping := false, failing := none, killed := false
    lcrs := x.code.map fun e => (e.1, loadLcr x e.1 (s.lcr e.1))
    dme := { Dme.reset with words := x.dme, halted := decide (x.dmePc = 0) }
    heads := (List.range 4).map fun h => startHead x now s.sel.serial h (s.selHead h)
    copies := [], restarts := [], serial := s.sel.serial + 1 }

/-- An accepted `SELHAM` command: it starts, or replaces the launch that runs (R350). -/
def State.acceptSelham (s : State) (x : SelLoad) : State :=
  if s.sel.running then s.setSel { s.sel with next := some x, stopping := true } else s.startSelham x

/-! ## Lines (R301) -/

/-- The line cores that build the lines of a head, in ascending order. -/
def State.coresOf (s : State) (h : Nat) : List Nat :=
  (s.load.code.map Prod.fst).filter fun c => decide (s.load.headOf c = h)

/-- The line core that builds line g of a head. -/
def State.builder (s : State) (h g : Nat) : Option Nat :=
  let cs := s.coresOf h
  if cs.isEmpty then none else cs[g % (s.selHead h).show_.vtotal % cs.length]?

/-- The schedule of the next line of a head is due in this clock. -/
def State.lineDue (s : State) (h : Nat) : Bool :=
  let hd := s.selHead h
  let w := hd.show_
  s.sel.running && hd.driven && !(w.upto.any fun n => decide (n ≤ w.nextLine))
    && decide (w.deadline w.nextLine ≤ s.clk.selham + w.lead)

/-- Line core l starts the next line of its head in this clock. -/
def State.startsNow (s : State) (l : Nat) : Bool :=
  let h := s.load.headOf l
  (KMap.get? s.sel.lcrs l).isSome && s.lineDue h && decide (s.builder h (s.selHead h).show_.nextLine = some l)

/-- The head samples SEL_FRDY at the schedule of line 0, and returns the number before it where it changes (R307). -/
def Head.sample (hd : Head) : Head :=
  let w := hd.show_
  let g := w.nextLine
  let ret := match hd.prev with
    | some n => if n = hd.frdy then [] else [(w.deadline g, (if g = 0 then none else some (g - 1)), n)]
    | none => []
  { hd with
    sampled := hd.frdy, prev := some hd.frdy, returns := hd.returns ++ ret
    show_ := { w with nums := KMap.put w.nums (g / w.vtotal) hd.frdy } }

/-- The four clusters at the start of a line (R322). -/
def Lcr.startLine (x : Lcr) (ld : SelLoad) (l line g t : Nat) : Lcr :=
  { x with
    clusters := (List.range 4).map fun c =>
      { x.cluster c with pc := ld.entry l c, rbase := 0, lc := 0, ec := 0, ended := false }
    line := line, gline := g, startClk := t, building := true, fetchPos := 0, storePos := 0 }

def execLineScheduleStart (lcr : Nat) (s : State) : Result :=
  if !s.startsNow lcr then .refused (.notEnabled "LINE_SCHEDULE_START")
  else
    let h := s.load.headOf lcr
    let hd := s.selHead h
    let g := hd.show_.nextLine
    let hd := if g % hd.show_.vtotal = 0 then hd.sample else hd
    let w := hd.show_
    let x := s.lcr lcr
    let late := if x.stopped then KMap.put w.late g (KMap.getD w.late g 0 ||| 4) else w.late
    let s := s.setSelHead h { hd with show_ := { w with nextLine := g + 1, late := late } }
    let d := s.sel.dme
    let s := if d.busy = .waitLine lcr then s.setBusy (.waitClk (s.clk.selham + 1)) else s
    .next (if x.stopped || x.done then s
      else s.setLcr lcr (x.startLine s.load lcr (g % w.vtotal) g s.clk.selham))

/-! ## Scan-out and the safety reel (R302, R304-R306, R442, R443) -/

/-- The bytes of a record. -/
def poseBytes (r : PoseRec) : List Byte := r.flatMap fun w => leBytes 4 w.toNat

/-- The address of line L of the reel buffer. -/
def Show.reelAddr (w : Show) (line : Nat) : Nat := w.reelBase + line * (4 * w.width + 64)

/-- Bytes written from an intermediate address, page by page; none where a page cannot be written. -/
def State.selWriteFuel : Nat → State → Nat → Nat → List Byte → Except (Cause × Nat) State
  | 0, s, _, _, _ => .ok s
  | n + 1, s, v, ia, bs =>
    if bs.isEmpty then .ok s
    else
      match s.selPa v ia .wr with
      | .error c => .error (c, ia)
      | .ok pa =>
        let k := 65536 - ia % 65536
        State.selWriteFuel n (s.storeAll [(pa, bs.take k)]) v (ia + k) (bs.drop k)

/-- A line of pixels with its record into the reel buffer, and whether it is there; a write that cannot be made is dropped
(R305, R457). -/
def State.reelWrite (s : State) (h : Nat) (w : Show) (g : Nat) (px : List W32) (r : PoseRec) : State × Bool :=
  let line := g % w.vtotal
  let bs := (px.flatMap fun p => leBytes 4 p.toNat) ++ poseBytes r
  match State.selWriteFuel (bs.length / 65536 + 2) s w.vf (w.reelAddr line) bs with
  | .ok s => (s.hRequests w.vf (w.reelAddr line) bs.length .store, true)
  | .error (c, ia) => (s.selAccess 15 h w.vf (w.frameOf g) c.code ia, false)

/-- The reel's read of a line: its pixels and record. -/
def State.reelFetch (s : State) (h : Nat) (w : Show) (g : Nat) : State × Option (List W32 × PoseRec) :=
  let line := g % w.vtotal
  let n := 4 * w.width + 64
  match s.selBytes w.vf (w.reelAddr line) n with
  | .error c => (s.selAccess 15 h w.vf (w.frameOf g) c.code (w.reelAddr line), none)
  | .ok bs =>
    let word := fun (i : Nat) => BitVec.ofNat 32 (leNat ((bs.drop (4 * i)).take 4))
    (s.hRequests w.vf (w.reelAddr line) n .load, some ((List.range w.width).map word, (List.range 16).map fun i => word (w.width + i)))

/-- Field of a record as an F32 value. -/
def pf (r : PoseRec) (i : Nat) : Nat := (getAt r i 0).toNat

def fm (a b : Nat) : Nat := (fMul f32 .rn a b).bits
def fa (a b : Nat) : Nat := (fAdd f32 .rn a b).bits
def fs (a b : Nat) : Nat := (fSub f32 .rn a b).bits

/-- Clamp(RoundInt(x), −n, n); NaN gives 0. -/
def clampRound (x n : Nat) : Int :=
  if fIsNan f32 x then 0
  else if fIsInf f32 x then (if fneg f32 x then -(n : Int) else n)
  else
    let r := roundInt .rn (fVal f32 x)
    if r < -(n : Int) then -(n : Int) else if (n : Int) < r then n else r

/-- `ReelLine`: what the safety reel sends for a line, from what it holds of it. -/
def Show.reelLine (w : Show) (held : Bool) (old : List W32) (ref now : PoseRec) : List W32 :=
  let QW := 0
  let QX := 1
  let QY := 2
  let QZ := 3
  let qw := fa (fa (fa (fm (pf now QW) (pf ref QW)) (fm (pf now QX) (pf ref QX))) (fm (pf now QY) (pf ref QY)))
    (fm (pf now QZ) (pf ref QZ))
  let qx := fa (fs (fa (fm (fFlip f32 (pf now QW)) (pf ref QX)) (fm (pf now QX) (pf ref QW)))
    (fm (pf now QY) (pf ref QZ))) (fm (pf now QZ) (pf ref QY))
  let qy := fs (fa (fa (fm (fFlip f32 (pf now QW)) (pf ref QY)) (fm (pf now QX) (pf ref QZ)))
    (fm (pf now QY) (pf ref QW))) (fm (pf now QZ) (pf ref QX))
  let flip := !fIsNan f32 qw && fLt f32 qw 0
  let qx := if flip then fFlip f32 qx else qx
  let qy := if flip then fFlip f32 qy else qy
  let two := 0x40000000
  let dx := clampRound (fm (fm two w.fx) qy) w.width
  let dy := clampRound (fm (fm two w.fy) qx) w.vtotal
  (List.range w.width).map fun (i : Nat) =>
    let j := (i : Int) - dx
    if dy ≠ 0 || !held || j < 0 || (w.width : Int) ≤ j then w.border else getAt old j.toNat 0

/-- SCAN_STAT after a line from the safety reel. -/
def lateStat (st : W32) (null : Bool) : W32 :=
  let n := bits st.toNat 31 16
  BitVec.ofNat 32 ((min (n + 1) 0xFFFF) * 65536) ||| (st &&& 0x7) ||| 1#32 ||| (if null then 4#32 else 0#32)

/-- The line that scan-out sends next on a head, and whether it belongs to the launch before. -/
def Head.scanning (hd : Head) : Show × Bool :=
  match hd.old with
  | some (o, n) => if o.nextScan < n then (o, true) else (hd.show_, false)
  | none => (hd.show_, false)

def Head.putScanning (hd : Head) (w : Show) (old : Bool) : Head :=
  if old then
    match hd.old with
    | some (_, n) => { hd with old := if w.nextScan < n then some (w, n) else none }
    | none => hd
  else { hd with show_ := w }

/-- The scan-out of a head's next line is due. -/
def Head.scanDue (hd : Head) (t : Nat) : Bool :=
  let w := hd.scanning.1
  hd.driven && decide (w.lineClk ≠ 0) && decide (w.deadline w.nextScan ≤ t)

/-- The lines of a show below `g` are over. -/
def Show.past (w : Show) (g : Nat) : Show :=
  { w with
    nextScan := g, fifo := w.fifo.filter fun e => decide (g ≤ e.1), late := w.late.filter fun e => decide (g ≤ e.1)
    gov := w.gov.filter fun e => decide (g ≤ e.1), reel := w.reel.filter fun e => decide (g ≤ e.1)
    nums := w.nums.filter fun e => decide (g / w.vtotal ≤ e.1) }

/-- The reel buffer holds a line. -/
def Show.hold (w : Show) (line : Nat) : Show := { w with reeled := if w.reeled.contains line then w.reeled else line :: w.reeled }

/-- The pixels of a line that are all in place. -/
def Show.builtLine (w : Show) (g : Nat) : Option (List W32) :=
  let row := KMap.getD w.fifo g []
  if (List.range w.width).all fun i => (KMap.get? row i).isSome then
    some ((List.range w.width).map fun i => KMap.getD row i 0)
  else none

/-- The event of the first line of a late run (R442). -/
def lateEvent (h vf line : Nat) (frame : W32) (reason : Nat) : Event :=
  { selEvent 15 h codeLateLine 5 vf with
    info := BitVec.ofNat 64 (line % 65536 + frame.toNat % 65536 * 65536 + reason % 8 * 2 ^ 32) }

/-- The line goes on the glass and into the reel buffer, which holds it from then on if the write was made, for the launch that
starts next on the same buffer too; the show goes on as `past` says. -/
def State.sendLine (s : State) (h : Nat) (w past : Show) (old : Bool) (g : Nat) (px : List W32) (r : PoseRec) : State :=
  let line := g % w.vtotal
  let (s, there) := s.reelWrite h w g px r
  let hd := s.selHead h
  let next := if there && old && w.sameReel hd.show_ then hd.show_.hold line else hd.show_
  s.setSelHead h ({ hd with glass := (line, px), show_ := next }.putScanning (if there then past.hold line else past) old)

/-- Line `g` comes after the frames of a launch that has ended with them: until another starts, the reel's line is sent as it is
stored (R293). -/
def State.asStored (s : State) (w : Show) (old : Bool) (g : Nat) : Bool :=
  (w.upto.any fun n => decide (n ≤ g)) && (old || !s.sel.running)

/-- Scan-out of a line at its deadline; the record that governs the line LATCH further on is latched (R302, R304). -/
def execScanOutLine (head : Nat) (s : State) : Result :=
  let hd := s.selHead head
  if !hd.scanDue s.clk.selham then .refused (.notEnabled "SCAN_OUT_LINE")
  else
    let (w, old) := hd.scanning
    let g := w.nextScan
    let line := g % w.vtotal
    let now := KMap.getD w.gov g poseZero
    let latched := KMap.put w.gov (g + w.latch) (KMap.getD s.sel.pmbCommit w.pslot poseZero)
    let w' := { w with gov := latched }.past (g + 1)
    if s.asStored w old g then
      let px := match KMap.getD w.reel g none with
        | some (px, _) => px
        | none => List.replicate w.width w.border
      .next (s.setSelHead head { hd.putScanning w' old with glass := (line, px) })
    else
      let reasons := KMap.getD w.late g 0
      match w.builtLine g, reasons with
      | some px, 0 =>
        let s := s.sendLine head w w' old g px now
        .next (s.setSelHead head { s.selHead head with lateRun := false })
      | built, _ =>
        let (ok, opx, ref) := match KMap.getD w.reel g none with
          | some (px, r) => (true, px, r)
          | none => (false, [], poseZero)
        let held := ok && w.reeled.contains line
        let s := s.sendLine head w w' old g (w.reelLine held opx ref now) now
        let why := (if built.isNone then 1 else 0) ||| (reasons &&& 6)
        let s := if hd.lateRun then s else s.raise (selSource 15 head) (lateEvent head w.vf line (KMap.getD w.nums (g / w.vtotal) hd.sampled) why)
        let hd := s.selHead head
        .next (s.setSelHead head { hd with lateRun := true, stat := lateStat hd.stat (bit reasons 1) })

/-- The next line of a show whose reel read is due: not read yet, below `limit`, with its deadline at most two lines ahead (R305). -/
def Show.reelNext (w : Show) (t : Nat) (limit : Option Nat) : Option Nat :=
  if w.lineClk = 0 then none
  else
    [w.nextScan, w.nextScan + 1, w.nextScan + 2].find? fun g =>
      (KMap.get? w.reel g).isNone && decide (w.deadline g ≤ t + 2 * w.lineClk) && !(limit.any fun n => decide (n ≤ g))

/-- The line of a head whose reel read is due, and whether it belongs to the launch before. -/
def Head.reelDue (hd : Head) (t : Nat) : Option (Nat × Bool) :=
  if !hd.driven then none
  else
    match hd.old with
    | none => (hd.show_.reelNext t none).map fun g => (g, false)
    | some (o, n) =>
      match o.reelNext t (some n) with
      | some g => some (g, true)
      | none => (hd.show_.reelNext t none).map fun g => (g, false)

def execReelRead (head : Nat) (s : State) : Result :=
  match (s.selHead head).reelDue s.clk.selham with
  | none => .refused (.notEnabled "REEL_READ")
  | some (g, old) =>
    let of := fun (hd : Head) => if old then (hd.old.map Prod.fst).getD hd.show_ else hd.show_
    let (s, r) := s.reelFetch head (of (s.selHead head)) g
    let hd := s.selHead head
    .next (s.setSelHead head (hd.putScanning { of hd with reel := KMap.put (of hd).reel g r } old))

/-! ## Frames handed back (R307) -/

/-- The oldest number to return may go: the predecessor's last line is on the glass, and its fetches are done. -/
def State.returnDue (s : State) (h : Nat) : Option W32 :=
  match (s.selHead h).returns with
  | [] => none
  | (clk, last, n) :: _ =>
    let busy := match last with
      | none => false
      | some g => (s.coresOf h).any fun c => (s.lcr c).runs.any fun r => decide (r.line ≤ g)
    if clk ≤ s.clk.selham && !busy then some n else none

def execFrameReturn (head : Nat) (s : State) : Result :=
  match s.returnDue head with
  | none => .refused (.notEnabled "FRAME_RETURN")
  | some n =>
    let hd := s.selHead head
    .next (s.setSelHead head { hd with frtn := n, returns := hd.returns.drop 1 })

/-! ## Fetch runs and line copies (R294, R298, R403) -/

/-- A run of a line core that is written whole. -/
def Lcr.doneRun (x : Lcr) : Option FetchRun := x.runs.find? fun r => r.left.isEmpty

/-- The token of a run that is written whole; a stopped line core discards it. -/
def execFetchRunComplete (lcr : Nat) (s : State) : Result :=
  let x := s.lcr lcr
  match x.doneRun with
  | none => .refused (.notEnabled "FETCH_RUN_COMPLETE")
  | some r =>
    let s := s.setLcr lcr { x with runs := x.runs.erase r }
    match r.tok with
    | some k => .next (if x.stopped then s else s.kpushClock lcr { k := k, val := BitVec.ofNat 32 r.lso, by_ := r.by_ })
    | none => .next s

/-- The line copy engine takes up the copy of a line core in the core's slot. -/
def State.copyDue (s : State) (l : Nat) : Bool :=
  let t := s.clk.selham
  decide (t % 16 = l) && ((s.lcr l).lcpy.any fun c => decide (c.issued < t))

def execLineCopyStart (lcr : Nat) (s : State) : Result :=
  match (s.lcr lcr).lcpy, s.copyDue lcr with
  | some c, true =>
    let (s, v) := s.lineUnit lcr c.unit
    let x := s.lcr lcr
    let s := s.setLcr lcr { x with lcpy := none, bankTaken := true }
    let w : CopyWrite :=
      { lcr := lcr, clk := s.clk.selham + 8, dst := c.dst, mode := c.mode, lcrDst := c.lcrDst, val := v, by_ := c.by_ }
    .next (s.setSel { s.sel with copies := s.sel.copies ++ [w] })
  | _, _ => .refused (.notEnabled "LINE_COPY_START")

/-! ## Restarts (R444) -/

/-- The restarts of the last second have reached RLIMIT. -/
def State.restartLimit (s : State) : Bool :=
  let lim := bits s.sel.rctl.toNat 15 8
  let n := (s.sel.restarts.filter fun t => decide (s.clk.selham < t + 2000000000)).length
  decide (lim ≠ 0) && decide (lim ≤ n)

/-- The launch stops as a replaced launch stops, and fails. -/
def State.failSelham (s : State) : State :=
  s.setSel { s.sel with stopping := true, failing := some s.sel.lastCause }

def State.countRestart (s : State) : State := s.setSel { s.sel with restarts := s.clk.selham :: s.sel.restarts }

/-- The launch fails with the restart that reaches RLIMIT. -/
def State.judgeRestarts (s : State) : State := if s.restartLimit then s.failSelham else s

/-- A stopped line core whose first line of a presented frame starts in this clock, with its event taken. -/
def State.reloadDue (s : State) (l : Nat) : Bool :=
  let x := s.lcr l
  let h := s.load.headOf l
  let w := (s.selHead h).show_
  x.stopped && x.reported && !s.sel.stopping && s.startsNow l
    && decide ((s.coresOf h)[w.nextLine % w.vtotal]? = some l)

def execLineCoreReload (lcr : Nat) (s : State) : Result :=
  if !s.reloadDue lcr then .refused (.notEnabled "LINE_CORE_RELOAD")
  else if s.restartLimit then .next s.failSelham
  else
    let x := s.lcr lcr
    let fresh := loadLcr s.load lcr Lcr.reset
    .next ((s.setLcr lcr { fresh with runs := x.runs.map fun r => { r with tok := none } }).countRestart.judgeRestarts)

/-- A stopped DME with its event taken, in a clock in which line 0 of a head of the launch starts. -/
def State.dmeRestartDue (s : State) : Bool :=
  let d := s.sel.dme
  d.stopped && d.reported && !s.sel.stopping
    && (List.range 4).any fun h =>
      s.lineDue h && decide ((s.selHead h).show_.nextLine % (s.selHead h).show_.vtotal = 0) && !(s.coresOf h).isEmpty

def execDmeRestart (s : State) : Result :=
  if !s.dmeRestartDue then .refused (.notEnabled "DME_RESTART")
  else if s.restartLimit then .next s.failSelham
  else
    let d := s.sel.dme
    let d := { d with
      pc := 0, stack := [], busy := .idle, stopped := false, reported := false, accum := [], accumBad := [], accumTaint := [] }
    .next (s.setSel { s.sel with dme := d }).countRestart.judgeRestarts

/-! ## The end of a launch (R293, R307, R350, R436, R444) -/

/-- Every enabled head has presented its frames. -/
def State.framesShown (s : State) : Bool :=
  decide (s.load.frames ≠ 0) && (List.range 4).all fun h =>
    let hd := s.selHead h
    !bit (s.load.head h 6) 0 || (hd.show_.upto.any fun n => decide (n ≤ hd.show_.nextScan))

/-- Line core `l` has lines of its head still to build. -/
def State.builds (s : State) (l : Nat) : Bool :=
  let h := s.load.headOf l
  let hd := s.selHead h
  hd.driven && !s.noMore l && (s.coresOf h).contains l && decide (((s.coresOf h).takeWhile fun c => decide (c ≠ l)).length < hd.show_.vtotal)

/-- Every unit of the launch has stopped and holds nothing in flight. -/
def State.selStopped (s : State) : Bool :=
  s.sel.copies.isEmpty && !s.sel.dme.up
    && s.sel.lcrs.all fun e =>
      let x := e.2
      (x.stopped || x.done || (!s.builds e.1 && (!x.building || x.atEnd))) && x.runs.isEmpty && x.stores.isEmpty && x.pixels.isEmpty
        && x.lcpy.isNone && x.pushes.isEmpty && x.storePend.isEmpty

/-- Every later line of the heads comes from the safety reel and is late (R350, R436, R444). -/
def State.reelOnly (s : State) : State :=
  s.setSel { s.sel with heads := s.sel.heads.map fun hd => { hd with show_ := { hd.show_ with upto := none } } }

/-- Each head's last frame number goes back where a launch of FRAMES frames ends. -/
def State.returnLast (s : State) : State :=
  s.setSel { s.sel with heads := s.sel.heads.map fun hd => match hd.prev with
    | some _ => { hd with frtn := hd.sampled, prev := none, returns := [] }
    | none => hd }

def execSelhamLaunchEnd (s : State) : Result :=
  if !(s.sel.running && s.sel.stopping && s.selStopped) then .refused (.notEnabled "SELHAM_LAUNCH_END")
  else
    let x := s.load
    let ended := fun (s : State) (status cause : Nat) => s.endCommand x.queue x.index status cause 0 0 x.cdone
    let stop := s.setSel { s.sel with running := false, stopping := false, failing := none, killed := false }
    let s := match s.sel.failing with
      | some c => ended stop.reelOnly 3 c
      | none => ended (if s.framesShown && !s.sel.killed then stop.returnLast else stop.reelOnly) 1 0
    match s.sel.next with
    | some y => .next (s.startSelham y)
    | none => .next s

/-! ## The pose mailbox (R303) -/

def execPoseCommit (slot : Nat) (seq : W32) (s : State) : Result :=
  if slot < 8 then .next (s.writePose (64 * slot + 0x38) seq) else .refused (.notEnabled "POSE_COMMIT")

/-! ## The clock -/

/-- What happens at the start of the present clock, in order. -/
def State.selDue (s : State) : List Instr :=
  let t := s.clk.selham
  let ls := s.sel.lcrs.map Prod.fst
  let hs := List.range 4
  (ls.flatMap fun l => ((s.lcr l).runs.filter fun r => r.left.isEmpty).map fun _ => Instr.fetchRunComplete l)
    ++ (ls.filter fun l => s.copyDue l).map Instr.lineCopyStart
    ++ (hs.filter fun h => (s.selHead h).scanDue t).map Instr.scanOutLine
    ++ (hs.filter fun h => ((s.selHead h).reelDue t).isSome).map Instr.reelRead
    ++ (hs.filter fun h => (s.returnDue h).isSome).map Instr.frameReturn
    ++ (if s.dmeRestartDue then [Instr.dmeRestart] else [])
    ++ (ls.filter fun l => s.reloadDue l).map Instr.lineCoreReload
    ++ (ls.filter fun l => s.startsNow l).map Instr.lineScheduleStart
    ++ (if s.sel.running && s.sel.stopping && s.selStopped then [Instr.selhamLaunchEnd] else [])

/-- One Selham clock passes. -/
def State.tickSelham (s : State) : State :=
  let s := s.endSelClock s.clk.selham
  let s := { s with clk := { s.clk with selham := s.clk.selham + 1 } }
  let s := if s.sel.running && s.framesShown then s.setSel { s.sel with stopping := true } else s
  let atLine := match s.sel.dme.busy with
    | .waitLine _ => s.sel.running && s.sel.stopping
    | _ => false
  let s := if atLine then s.haltDme else s
  { s with
    inbox := s.inbox ++ s.selDue, agenda := if s.sel.running then s.agenda ++ [.selIssue] else s.agenda }

end Sys2Proof.Machine
end

