-- ==== Sys2Proof/Machine/Commands.lean ====
section
/-! DEFINITION. Commands of the queues: their judgement, the journal, launches, pre-emptions and invalidations, completion
records, kills, and the doorbell (R34, R334-R343, R346, R350, R351, R435-R439, R448, R449, R453). -/

namespace Sys2Proof.Machine

/-! ## The journal (R448, R449) -/

/-- `n` words of a list, 0 from its end on. -/
def padWords (n : Nat) (ws : List W64) : List W64 := (ws ++ List.replicate n 0).take n

/-- The words at 0x00 to 0xF7 of a journal entry. -/
def JEntry.words (e : JEntry) : List W64 :=
  [BitVec.ofNat 64 e.seq, BitVec.ofNat 64 (e.queue % 1024 * 2 ^ 48 + e.op % 256 * 256 + e.kind % 256), BitVec.ofNat 64 e.index, 0]
    ++ padWords 4 (if e.kind = 3 then e.record else []) ++ padWords 16 (if e.kind = 1 && e.op = 1 then e.header else [])
    ++ List.replicate 7 0

/-- The CRC of R96 over words. -/
def crcWords (ws : List W64) : Nat := crc16 (ws.flatMap fun w => leBytes 8 w.toNat)

/-- The 256 bytes of a journal entry, its CRC at 0xF8. -/
def JEntry.bytes (e : JEntry) : List Byte :=
  (e.words ++ [BitVec.ofNat 64 (crcWords e.words * 2 ^ 48)]).flatMap fun w => leBytes 8 w.toNat

/-- Where a copy of the journal holds the entry of a SEQ: a ring of 4,096 entries. -/
def journalPlace (base seq : Nat) : Nat := base + 256 * (seq % 4096)

/-- An entry written to one copy: two whole lines of a firmware frame, so poison there goes (R416). A lost die takes nothing. -/
def State.journalPut (s : State) (base : Nat) (e : JEntry) : State :=
  let a := journalPlace base e.seq
  if s.lostHome a then s
  else { s.poke a e.bytes with poison := s.poison.filter fun l => decide (l ≠ lineOf a) && decide (l ≠ lineOf a + 1) }

/-- One more entry of the journal, in both copies. -/
def State.journalAdd (s : State) (q op kind index : Nat) (record header : List W64) : State :=
  let e : JEntry :=
    { seq := s.fwc.journalSeq, queue := q, op := op, kind := kind, index := index, record := record, header := header }
  let s := s.fwc.journalAt.foldl (fun s b => s.journalPut b e) s
  { s with fwc := { s.fwc with journalSeq := s.fwc.journalSeq + 1 } }

/-- The entry of a SEQ in one copy, where that can be read and its CRC matches. -/
def State.journalCopy (s : State) (base seq : Nat) : Option JEntry :=
  let a := journalPlace base seq
  let ws := (List.range 32).map fun i => s.word (a + 8 * i)
  let w := fun (i : Nat) => (getAt ws i 0).toNat
  if s.lostHome a || s.poisoned a || s.poisoned (a + 128) || w 0 ≠ seq || crcWords (ws.take 31) ≠ bits (w 31) 63 48 then none
  else
    some
      { seq := seq, queue := bits (w 1) 57 48, op := bits (w 1) 15 8, kind := bits (w 1) 7 0, index := w 2
        record := (ws.drop 4).take 4, header := if bits (w 1) 15 0 = 0x101 then (ws.drop 8).take 16 else [] }

/-- The entry of a SEQ: the copy whose CRC matches. -/
def State.journalEntry (s : State) (seq : Nat) : Option JEntry := s.fwc.journalAt.findSome? fun b => s.journalCopy b seq

/-- The numbers of the entries that the ring still holds, the oldest first. -/
def State.journalSeqs (s : State) : List Nat :=
  let n := min s.fwc.journalSeq 4096
  (List.range n).map fun i => s.fwc.journalSeq - n + i

/-- The journal that a replay reads: from the oldest entry up to the first of which neither copy is good. -/
def State.journalRead (s : State) : List JEntry :=
  ((s.journalSeqs.map s.journalEntry).takeWhile Option.isSome).filterMap id

def State.setQueue (s : State) (q : Nat) (x : CmdQueue) : State :=
  { s with dist := { s.dist with queues := KMap.put s.dist.queues q x } }

/-- TAKEN: the read index passes the command (R334, R449). -/
def State.takeCommand (s : State) (q op index : Nat) (header : List W64) : State :=
  let s := s.journalAdd q op 1 index [] header
  match KMap.get? s.dist.queues q with
  | some x => s.setQueue q { x with r := index + 1 }
  | none => s

/-- HANDED: the distributor or SEL holds the command under its key (R449). -/
def State.handCommand (s : State) (q op index : Nat) : State :=
  let s := s.journalAdd q op 2 index [] []
  { s with dist := { s.dist with handed := s.dist.handed ++ [(q, index)] } }

/-! ## Accesses of the active scheduler (R94, R334, R453) -/

/-- An intermediate address of virtual function `v` reached by an agent on die `d`; firmware resolves what it can. -/
def State.agentIaFuel : Nat → State → Nat → Nat → Nat → Acc → State × Except Nat Nat
  | 0, s, _, _, _, _ => (s, .error Cause.translation.code)
  | n + 1, s, d, v, ia, acc =>
    match s.xlate2 (s.die d).tlb v ia acc with
    | .mem pa _ => (s, .ok pa)
    | .mmio _ _ => (s, .error Cause.permission.code)
    | .bad c _ ia' =>
      match (s.dropFault v 0 ia' true).faultIn v ia' c d with
      | none => (s.dropFault v 0 ia' true, .error c.code)
      | some s => State.agentIaFuel n s d v ia acc

/-- A queue's base lies in host memory: at or above 2^55, or for a hypervisor queue where no device memory stands (DESIGN
CHOICE, log 37). -/
def inHost (q base : Nat) : Bool := if q < 1016 then decide (2 ^ 55 ≤ base) else !populated base

/-- The words of a command entry: at an intermediate address, at a PA for a hypervisor queue, or in host memory (R334). -/
def State.queueEntry (s : State) (q : Nat) (x : CmdQueue) : State × Except Nat (List W64) :=
  let a := x.base + 32 * (x.r % 2 ^ x.logn)
  if inHost q x.base then
    let r := s.hostRead a 32
    (r.1, .ok ((List.range 4).map fun i => BitVec.ofNat 64 (leNat ((r.2.drop (8 * i)).take 8))))
  else
    let at_ := if q < 1016 then s.agentIaFuel 6 4 (q / 8) a .rd
      else (s, if populated a then .ok a else .error Cause.translation.code)
    match at_ with
    | (s, .error c) => (s, .error c)
    | (s, .ok pa) =>
      if s.poisoned pa then (s, .error codeUncorrected)
      else (s, .ok ((List.range 4).map fun i => s.word (pa + 8 * i)))

/-- Bytes stored from a VA upward as one store; a hypervisor queue's address is a PA. -/
def State.cmdStore (s : State) (q va : Nat) (bs : List Byte) : State × Except Nat Unit :=
  if 1016 ≤ q then
    if populated va && populated (va + bs.length - 1) then (s.storeAll [(va, bs)], .ok ())
    else (s, .error Cause.translation.code)
  else
    let v := q / 8
    let n := min bs.length (65536 - va % 65536)
    match s.agentAddr 4 v va .wr with
    | (s, .error c) => (s, .error c)
    | (s, .ok pa) =>
      if n = bs.length then (s.storeAll [(pa, bs)], .ok ())
      else
        match s.agentAddr 4 v (va + n) .wr with
        | (s, .error c) => (s, .error c)
        | (s, .ok pa2) => (s.storeAll [(pa, bs.take n), (pa2, bs.drop n)], .ok ())

/-- An entry that cannot be read: the queue accepts nothing until its next doorbell, with one event (R453). -/
def State.entryUnread (s : State) (q : Nat) (x : CmdQueue) (code : Nat) : State :=
  let src := srcFw s.activeFw
  (s.setQueue q { x with blocked := true }).raise src
    (accessEvent src (q / 8) code (x.base + 32 * (x.r % 2 ^ x.logn)) 0)

/-! ## Judgement (R335, R336, R340) -/

/-- Bits of ARG that a command uses. -/
def argBits (op : Nat) : List (Nat × Nat) :=
  if op = 3 then [(2, 0), (47, 32)]
  else if op = 4 || op = 5 then [(15, 0)]
  else if op = 7 then [(31, 0), (32, 32), (46, 40)]
  else []

/-- The command's own OP and fields pass step 1 of R340. -/
def cmdOk (q op : Nat) (c : Cmd) : Bool :=
  let rule := c.w0.toNat % 8
  decide (c.w0.toNat < 8) && (decide (rule = 0) || (decide (op = 4) && decide (rule = 1)))
    && decide (bits c.addr.toNat 63 55 = 0) && decide (bits c.done.toNat 63 55 = 0) && decide (c.done.toNat % 32 = 0)
    && onlyBits c.arg (argBits op) && (decide (q < 1016) || decide (op = 6) || decide (op = 7))
    && !(decide (q < 1016) && decide (op = 7) && (bit c.arg.toNat 32 || decide (bits c.arg.toNat 46 40 ≠ 0)))

/-- The launch that a 16-bit target index names: the most recent accepted `LAUNCH` of the queue before the command, with
those low bits and less than 65,536 commands back (R336). -/
def State.target (s : State) (q index low : Nat) : Option Nat :=
  (s.dist.launches.filter fun e =>
    decide (e.2.queue = q) && decide (e.2.index < index) && decide (index - e.2.index < 65536)
      && decide (e.2.index % 65536 = low)).getLast?.map Prod.fst

/-- The firmware complex refuses launches where the package is not the one of this manual (R34). -/
def State.wrongPart (s : State) : Bool := decide (s.fwc.pkgid ≠ 0x9602F830)

/-- A virtual function that owns no domain (R340, R441). -/
def State.noDomain (s : State) (v : Nat) : Bool := !(List.range 12).any fun k => (s.vf v).valid && (s.vf v).ownsDomain k

/-! ### The launch header -/

/-- The offset of the lowest word with a reserved bit or value (R341). -/
def LaunchHdr.reserved (h : LaunchHdr) : Option Nat :=
  let fields : List (List (Nat × Nat)) :=
    [[(54, 0)], [(52, 0)], [(32, 0)], [(32, 0)], [(32, 0)], [(32, 0)], [(32, 0)], [(32, 0)], [(44, 0)], [(54, 0)],
      [(54, 0)], [(54, 0)], [(38, 32), (27, 20), (15, 0)], [], [], [(63, 48)]]
  let bad := fun (i : Nat) => !onlyBits (getAt h.words i 0) (getAt fields i []) || (decide (i = 0) && decide (h.code % 8 ≠ 0))
    || (decide (i = 8) && (decide (h.recCnt = 0) || decide (4096 < h.recCnt))) || (decide (i = 9) && decide (h.recBase % 64 ≠ 0))
    || (decide (i = 10) && decide (h.trapVec % 8 ≠ 0)) || (decide (i = 11) && decide (h.spillBase % 65536 ≠ 0))
  (firstBelow 16 bad).map fun i => 8 * i

/-- The offset of the lowest word that breaks R36, R39 or R40; more groups than 128 name the word at 0x08. -/
def LaunchHdr.badWid (h : LaunchHdr) : Option Nat :=
  let views := (List.range 6).filter fun i => decide (h.bind i = 3)
  let wide := (List.range 6).any (fun i => decide (32 < h.width i))
    || decide (61 < ((List.range 6).map h.width).foldl (· + ·) 0) || decide (1 < views.length)
    || views.any fun i => decide (4 < h.width i)
  let ext := fun (i : Nat) => decide (2 ^ h.width i < h.ext i)
    || (decide (h.bind i = 3) && (decide (h.ext i = 0) || decide (16 < h.ext i)))
  if wide then some 0x08
  else
    match firstBelow 6 ext with
    | some i => some (0x10 + 8 * i)
    | none => if 128 < h.groups then some 0x08 else none

/-- The partition word breaks R79 or R80. -/
def LaunchHdr.badPart (h : LaunchHdr) : Bool :=
  let p := h.part
  let r := bits p 31 27
  let used := partRegs p * 65536 + partAccs p * 16384
  (decide (1 ≤ r) && decide (r ≤ 3)) || decide (29 ≤ r) || decide (64 < partAccs p) || decide (bits p 15 12 ≠ 0)
    || decide (1984 * 1024 < used) || decide (partAccs p < partAccw p) || decide (1984 * 1024 - used < partScrw p * 256)

/-- Steps 4 to 8 of R340: CAUSE and FIELD of the first reason. -/
def State.judgeHeader (s : State) (q : Nat) (h : LaunchHdr) : Option (Nat × Nat) :=
  if crc16 ((h.words.take 15).flatMap fun w => leBytes 8 w.toNat) ≠ bits (h.w 15) 63 48 then some (4, 0x78)
  else
    match h.reserved with
    | some o => some (1, o)
    | none =>
      if h.vf ≠ q / 8 || s.noDomain (q / 8) then some (5, 0x60)
      else
        match h.badWid with
        | some o => some (2, o)
        | none => if h.badPart then some (3, 0x40) else none

/-! ## Acceptance -/

/-- A command is refused: it has no other effect (R339). -/
def State.refuse (s : State) (q index cause field : Nat) (info done : W64) : State :=
  s.endCommand q index 2 cause field info (BitVec.ofNat 64 (bits done.toNat 54 0))

/-- A refusal under R34, whose reason the manual does not number. -/
def State.refusePart (s : State) (q index : Nat) (done : W64) : State :=
  { s with frees := s.frees + 1 }.refuse q index ((Config.freeWord s.frees).toNat % 256) 0 0 done

/-- An accepted launch goes to the distributor (R37, R341, R454). -/
def State.startLaunch (s : State) (q index : Nat) (h : LaunchHdr) (done : W64) : State :=
  let l := s.dist.nextLaunch
  let x : Launch :=
    { queue := q, index := index, hdr := h, done := done, prio := h.prio, next := 0, returned := [], picked := [], saved := [], bound := []
      homes := [], total := h.total, stopped := false, saves := 0, discards := 0, failure := none, failed := none
      killed := none, ended := false, written := false }
  let s := { s with dist := { s.dist with
    launches := KMap.put s.dist.launches l x, nextLaunch := l + 1, lastStarted := KMap.put s.dist.lastStarted h.vf l } }
  s.settleLaunch l

/-- Whether the distributor or SEL holds a command of this queue and index already (R449). -/
def State.isHanded (s : State) (q index : Nat) : Bool := s.dist.handed.contains (q, index)

/-- A launch whose header has been judged, started and handed over. -/
def State.handLaunch (s : State) (q index : Nat) (h : LaunchHdr) (done : W64) : State :=
  if s.isHanded q index then s
  else
    match s.judgeHeader q h with
    | some (c, f) => s.refuse q index c f 0 done
    | none => (s.startLaunch q index h done).handCommand q 1 index

/-- A `LAUNCH` that has been taken, with its header where it could be read. -/
def State.launchWith (s : State) (q index : Nat) (c : Cmd) (header : Option (List W64)) : State :=
  if !cmdOk q 1 c then s.refuse q index 1 0 0 c.done
  else if s.wrongPart then s.refusePart q index c.done
  else
    match header with
    | none => s.refuse q index 8 0 0 c.done
    | some ws => s.handLaunch q index ⟨ws⟩ c.done

def State.doLaunch (s : State) (q index : Nat) (c : Cmd) : State :=
  if !cmdOk q 1 c || s.wrongPart then (s.takeCommand q 1 index []).launchWith q index c none
  else
    match State.agentReads 16 s 4 (q / 8) c.addr.toNat with
    | (s, .error _) => (s.takeCommand q 1 index []).launchWith q index c none
    | (s, .ok ws) => (s.takeCommand q 1 index ws).launchWith q index c (some ws)

def State.doSelham (s : State) (q index : Nat) (c : Cmd) : State :=
  if !cmdOk q 2 c then s.refuse q index 1 0 0 c.done
  else if s.wrongPart then s.refusePart q index c.done
  else
    match s.loadSelham (q / 8) q index c.addr.toNat c.done with
    | .error r => s.refuse q index r.cause r.field r.info c.done
    | .ok x =>
      if s.noDomain (q / 8) then s.refuse q index 5 0 0 c.done
      else if s.isHanded q index then s
      else
        let s := match s.sel.running, s.sel.next with
          | true, some y => s.endCommand y.queue y.index 1 0 0 0 y.cdone
          | _, _ => s
        (s.acceptSelham x).handCommand q 2 index

/-- A command that names a launch: its fields and its target are judged, then the virtual function. -/
def State.onTarget (s : State) (q op index low : Nat) (c : Cmd) (f : State → Nat → State) : State :=
  if !cmdOk q op c then s.refuse q index 1 0 0 c.done
  else
    match s.target q index low with
    | none => s.refuse q index 7 0 0 c.done
    | some l =>
      if s.noDomain (q / 8) then s.refuse q index 5 0 0 c.done
      else if s.isHanded q index then s
      else (f s l).handCommand q op index

/-- The priority of the target changes for the selections that follow (R343). -/
def State.doPrio (s : State) (q index : Nat) (c : Cmd) : State :=
  s.onTarget q 3 index (bits c.arg.toNat 47 32) c fun s l =>
    (s.setLaunch l { s.launch l with prio := bits c.arg.toNat 2 0 }).endCommand q index 1 0 0 0 c.done

/-- What a pre-emption does to one bound workgroup (R346, R347). -/
def State.preemptWg (s : State) (save : Bool) (b : Nat × Nat) : State :=
  let k := s.core b.1
  let w := k.wg b.2
  if (k.wg? b.2).isNone then s
  else if w.idem && !w.saving then s.discardWg b.1 b.2
  else if save && !w.saving then s.startSave b.1 b.2
  else if w.saving then s
  else s.setCore b.1 (k.setWg b.2 { w with draining := true })

/-- The tasks that the distributor has started under launch `l`: core, slot and workgroup (R454). -/
def State.tasksUnder (s : State) (l : Nat) : List (Nat × Nat × Nat) :=
  s.cores.flatMap fun e =>
    (e.2.groups.filter fun g => g.2.task.isSome && decide (g.2.launch = l)).map fun g => (e.1, g.1, g.2.wg)

/-- The target is bound no further, and each bound workgroup is discarded, drained or saved; a running task parks under
RULE 0, or is drained where it finds no room, and the command waits for it too (R346-R348, R438, R439). -/
def State.startPreempt (s : State) (q index l : Nat) (save : Bool) (done : W64) : State :=
  let s := s.giveUpLaunch l
  let x := s.launch l
  let pto := bits s.dist.pto.toNat 23 0
  let tasks := if save then s.tasksUnder l else []
  let p : Preempt :=
    { queue := q, index := index, launch := l, save := save, done := done, saves := 0, discards := 0
      left := x.bound ++ tasks.map fun t => (t.1, t.2.2)
      due := if pto = 0 then none else some (s.clk.time + 1000 * pto) }
  let s := s.setLaunch l { x with stopped := true }
  let s := { s with dist := { s.dist with preempts := s.dist.preempts ++ [p] } }
  let s := x.bound.foldl (fun s b => s.preemptWg save b) s
  (tasks.foldl (fun s t => s.parkTask t.1 t.2.1) s).settlePreempts l

def State.doPreempt (s : State) (q index : Nat) (c : Cmd) : State :=
  s.onTarget q 4 index (bits c.arg.toNat 15 0) c fun s l => s.startPreempt q index l (decide (c.w0.toNat % 8 = 0)) c.done

/-- The target's unbound and saved workgroups are candidates again (R346). -/
def State.doResume (s : State) (q index : Nat) (c : Cmd) : State :=
  s.onTarget q 5 index (bits c.arg.toNat 15 0) c fun s l =>
    (s.setLaunch l { s.launch l with stopped := false }).endCommand q index 1 0 0 0 c.done

/-- A `WAIT` ends once the records of every earlier `LAUNCH` of its queue have been written (R342, R453). -/
def State.settleWait (s : State) (q : Nat) : State :=
  match KMap.get? s.dist.queues q with
  | none => s
  | some x =>
    match x.waiting with
    | none => s
    | some done =>
      if s.dist.launches.all fun e => decide (e.2.queue ≠ q) || e.2.written then
        (s.setQueue q { x with waiting := none }).endCommand q (x.r - 1) 1 0 0 0 done
      else s

def State.doWait (s : State) (q index : Nat) (c : Cmd) : State :=
  if !cmdOk q 6 c then s.refuse q index 1 0 0 c.done
  else if q < 1016 && s.noDomain (q / 8) then s.refuse q index 5 0 0 c.done
  else
    match KMap.get? s.dist.queues q with
    | some x => (s.setQueue q { x with waiting := some c.done }).settleWait q
    | none => s

/-- Every cached translation of the pages leaves every TLB (R351). -/
def State.doTlbinv (s : State) (q index : Nat) (c : Cmd) : State :=
  let arg := c.arg.toNat
  if !cmdOk q 7 c then s.refuse q index 1 0 0 c.done
  else if q < 1016 && s.noDomain (q / 8) then s.refuse q index 5 0 0 c.done
  else if s.isHanded q index then s
  else
    let v := if q < 1016 then q / 8 else bits arg 46 40
    let page := c.addr.toNat / 65536
    let s := s.dropTlb fun t =>
      decide (t.vf = v) && (t.stage2 == bit arg 32) && decide (page ≤ t.page) && decide (t.page < page + bits arg 31 0)
    (s.handCommand q 7 index).endCommand q index 1 0 0 0 c.done

/-- A command of the queue whose turn it is, TAKEN before it acts but for a `LAUNCH`, which is taken with its header. -/
def cmdIssue (s : State) (op : Nat) (f : State → Nat → Nat → State) : Result :=
  match s.turn with
  | some (.queue q) =>
    match KMap.get? s.dist.queues q with
    | some x => .next { (f (if op = 1 then s else s.takeCommand q op x.r []) q x.r) with turn := none }
    | none => .refused .noIssuer
  | _ => .refused .noIssuer

def execLaunch (c : Cmd) (s : State) : Result := cmdIssue s 1 fun s q i => s.doLaunch q i c
def execSelham (c : Cmd) (s : State) : Result := cmdIssue s 2 fun s q i => s.doSelham q i c
def execPrio (c : Cmd) (s : State) : Result := cmdIssue s 3 fun s q i => s.doPrio q i c
def execPreempt (c : Cmd) (s : State) : Result := cmdIssue s 4 fun s q i => s.doPreempt q i c
def execResume (c : Cmd) (s : State) : Result := cmdIssue s 5 fun s q i => s.doResume q i c
def execWaitCmd (c : Cmd) (s : State) : Result := cmdIssue s 6 fun s q i => s.doWait q i c
def execTlbinv (c : Cmd) (s : State) : Result := cmdIssue s 7 fun s q i => s.doTlbinv q i c

/-- An entry with an OP that R336 does not list: refused with CAUSE 0x01 (R340). -/
def State.unknownCommand (s : State) (q : Nat) (ws : List W64) : State :=
  match KMap.get? s.dist.queues q with
  | none => s
  | some x =>
    (s.takeCommand q ((getAt ws 0 0).toNat % 256) x.r []).refuse q x.r 1 0 0 (getAt ws 3 0)

/-! ## Completion records (R339, R435, R449, R453) -/

/-- The active scheduler can work: it is booted and runs, the clocks run, and no takeover is in progress. -/
def State.schedulerUp (s : State) : Bool :=
  s.booted && decide (getAt s.fwc.cores s.activeFw .halted = .running) && decide (bits s.fwc.sched.toNat 3 2 ≠ 1)
    && decide (s.clk.thermal = .running)

/-- The 32 bytes of a completion record. -/
def Completion.words (c : Completion) : List W64 :=
  [BitVec.ofNat 64 (c.status % 256 + 256 * (c.cause % 256) + 65536 * (c.field % 65536)), BitVec.ofNat 64 c.index, c.info,
    (c.evseq.getD 0)]

/-- BUSY of FWC_KILL goes once the records of the launches that a kill through the register has ended are written, and no
Selham launch stops for one (R436, R437). -/
def State.settleKill (s : State) : State :=
  if s.sel.killed || s.dist.launches.any (fun e => decide (e.2.killed = some 0) && !e.2.written)
      || s.dist.completions.any (fun c => decide (c.status = 4) && decide (c.cause = 0)) then s
  else { s with fwc := { s.fwc with kill := s.fwc.kill &&& 0xFFFFFFFFFFFFFFFD } }

/-- DONE in the journal, then the record, the message on the queue's vector, and what waits for the record. -/
def State.writeCompletion (s : State) (c : Completion) (op : Nat) : State :=
  let s := s.journalAdd c.queue op 3 c.index c.words []
  let s := { s with dist := { s.dist with completions := s.dist.completions.filter fun x =>
    !(decide (x.queue = c.queue) && decide (x.index = c.index)) } }
  let s := match s.cmdStore c.queue c.done.toNat (c.words.flatMap fun w => leBytes 8 w.toNat) with
    | (s, .ok _) => { s with fwc := { s.fwc with msix := s.fwc.msix ++ [c.queue] } }
    | (s, .error code) => s.raise (srcFw s.activeFw) (accessEvent (srcFw s.activeFw) (c.queue / 8) code c.done.toNat 0)
  let s := { s with dist := { s.dist with launches := s.dist.launches.map fun (e : Nat × Launch) =>
    if e.2.queue = c.queue && e.2.index = c.index then (e.1, { e.2 with written := true }) else e } }
  (s.settleWait c.queue).settleKill

/-- The OP under which a command was journalled. -/
def State.journalOp (s : State) (q index : Nat) : Nat :=
  let es := s.journalSeqs.filterMap s.journalEntry
  ((es.find? fun e => decide (e.queue = q) && decide (e.index = index)).map fun e => e.op).getD 0

/-- An atomic of a launch of the command still waits for its line (R193, R436). -/
def State.atomsPending (s : State) (queue index : Nat) : Bool :=
  s.dist.launches.any fun e => decide (e.2.queue = queue) && decide (e.2.index = index) && !e.2.written
    && s.cores.any fun c => c.2.atoms.any fun a => decide (a.launch = e.1)

/-- The completion that the distributor reported first is written, once its event has been stamped and every atomic that its launch
has issued is made. -/
def execLaunchCompletion (queue index : Nat) (s : State) : Result :=
  match s.dist.completions with
  | [] => .refused (.notEnabled "LAUNCH_COMPLETION")
  | c :: _ =>
    if c.queue ≠ queue || c.index ≠ index || c.evseq.isNone || !s.schedulerUp || s.atomsPending queue index then
      .refused (.notEnabled "LAUNCH_COMPLETION")
    else .next (s.writeCompletion c (s.journalOp queue index))

/-! ## Kills (R436, R437, R439) -/

/-- A kill of bound workgroups of a launch, with a reason. -/
def State.killBound (s : State) (l reason : Nat) (ws : List (Nat × Nat)) : State :=
  let x := s.launch l
  let s := s.setLaunch l { x with killed := some (x.killed.getD reason) }
  ws.foldl (fun s b => s.killWg b.1 b.2) s

/-- A context kill of one launch: unbound and saved workgroups are dropped with their spill records, the tasks that the saved ones
ran by adoption fail, and bound ones are killed. -/
def State.killLaunch (s : State) (l reason : Nat) : State :=
  let s := s.giveUpLaunch l
  let x := s.launch l
  if x.ended then s
  else
    let s := x.saved.foldl (fun s p => s.dropSaved p.1 p.2) s
    let s := s.setLaunch l { x with next := x.total, returned := [], saved := [] }
    ((s.killBound l reason x.bound).settlePreempts l).settleLaunch l

/-- The launch that a kill names: the most recent accepted one of the queue with those low bits, less than 65,536 commands
before the read index (R437). -/
def State.killTarget (s : State) (q low : Nat) : Option Nat :=
  match KMap.get? s.dist.queues q with
  | none => none
  | some x => s.target q x.r low

/-- FWC_KILL after a write of INDEX, QUEUE and ALL that starts a kill: BUSY reads 1, GO reads 0. -/
def killWord (q low : Nat) (all : Bool) : W64 :=
  BitVec.ofNat 64 (low % 65536 * 2 ^ 32 + q % 1024 * 2 ^ 22 + (if all then 2 ^ 21 else 0) + 2)

def State.setKill (s : State) (w : W64) : State := { s with fwc := { s.fwc with kill := w } }

/-- The class 4 event of a write to FWC_KILL that names no launch; the manual gives its CODE no value (DESIGN CHOICE, log 10). -/
def State.killNotice (s : State) : State :=
  let src := srcFw s.activeFw
  { s with frees := s.frees + 1 }.raise src
    { Event.blank with code := s.freeCode 4, cls := 4, block := (srcPlace src).1, die := 4, unit := s.activeFw }

/-- A kill that is under way makes the register deaf to GO. -/
def State.killBusy (s : State) : Bool := s.fwc.kill.getLsbD 1

def execContextKill (queue : Nat) (index : BitVec 16) (s : State) : Result :=
  if !s.booted then .refused (.notEnabled "CONTEXT_KILL")
  else if s.killBusy then .next s
  else
    match s.killTarget queue index.toNat with
    | none => .next s.killNotice
    | some l => .next ((s.setKill (killWord queue index.toNat false)).killLaunch l 0).settleKill

/-- A task record of STATE 0, 1 or 2 becomes STATE 4 and its future fails (R436). -/
def State.killTask (s : State) (v i : Nat) : State :=
  let src := srcFw s.activeFw
  let va := (s.vf v).taskBase + 64 * i
  match State.agentReads 8 s 4 v va with
  | (s, .error c) => s.raise src (accessEvent src v c va 0)
  | (s, .ok ws) =>
    let ctl := (getAt ws 1 0).toNat
    if 2 < ctlState ctl then s
    else
      let h := BitVec.ofNat 64 (i + ctlGen ctl * 2 ^ 48)
      (s.setCtl 0 v h (putBits ctl 7 5 4)).endFuture 0 v (getAt ws 2 0) 2 0

/-- The rings of a task queue are emptied: HEAD := TAIL (R436). -/
def State.emptyQueue (s : State) (v q : Nat) : State :=
  match s.taskQueue 4 v q with
  | (s, .error c) => s.queueBad (srcFw s.activeFw) v q c
  | (s, .ok t) =>
    (List.range 8).foldl (fun s p =>
      match s.ringCounts 4 v t p with
      | (s, .error c) => s.queueBad (srcFw s.activeFw) v q c
      | (s, .ok (_, tail)) => (s.putCounts 4 v t p tail tail).1) s

/-- The slots of groups of a virtual function. -/
def State.groupsOf (s : State) (v : Nat) : List (Nat × Nat) :=
  s.cores.flatMap fun e => (e.2.groups.filter fun g => decide (g.2.vf = v)).map fun g => (e.1, g.1)

/-- All work of a virtual function is killed (R436). -/
def State.killVf (s : State) (v reason : Nat) : State :=
  let s := (s.dist.launches.filter fun e => decide (e.2.hdr.vf = v)).foldl (fun s e => s.killLaunch e.1 reason) s
  let s := (s.groupsOf v).foldl (fun s g => s.forceEnd g.1 g.2) s
  let s := (List.range (s.vf v).taskCnt).foldl (fun s i => s.killTask v i) s
  let s := (List.range (min 16 (s.vf v).tqCnt)).foldl (fun s q => s.emptyQueue v q) s
  let s := { s with dist := { s.dist with
    order := s.dist.order.filter fun o => decide (o.1 ≠ v), requeue := s.dist.requeue.filter fun r => decide (r.1 ≠ v) } }
  let s := match s.sel.next with
    | some y => if y.vf = v then (s.setSel { s.sel with next := none }).endCommand y.queue y.index 1 0 0 0 y.cdone else s
    | none => s
  if s.sel.running && s.load.vf = v then s.setSel { s.sel with stopping := true, killed := true } else s

/-- A kill with ALL; `low` is the INDEX that was written, which it ignores. -/
def State.killAll (s : State) (queue low : Nat) : State := ((s.setKill (killWord queue low true)).killVf (queue / 8) 0).settleKill

/-- The register's INDEX stays as it is. -/
def execKillAll (queue : Nat) (s : State) : Result :=
  if !s.booted || 1024 ≤ queue then .refused (.notEnabled "KILL_ALL")
  else if s.killBusy then .next s
  else .next (s.killAll queue (bits s.fwc.kill.toNat 47 32))

/-- The timeout of a pre-emption of the queue: the workgroups it still waits for are killed with reason 1 and count as
discarded; the launch's record shows the kill where one of them is its own (R439). -/
def execPreemptTimeout (queue : Nat) (s : State) : Result :=
  match s.dist.preempts.find? fun p => decide (p.queue = queue) && p.due.any fun t => decide (t ≤ s.clk.time) with
  | none => .refused (.notEnabled "PREEMPT_TIMEOUT")
  | some p =>
    let ws := p.left.filter fun b => ((s.core b.1).wg? b.2).isSome
    let own := ws.any fun b => !((s.core b.1).wg b.2).isTask
    let s := { s with dist := { s.dist with
      preempts := s.dist.preempts.map fun (y : Preempt) =>
        if y = p then { y with discards := y.discards + ws.length, due := none } else y } }
    .next ((if own then s.killBound p.launch 1 ws else ws.foldl (fun s b => s.killWg b.1 b.2) s).settlePreempts p.launch)

/-! ## Doorbells (R337) -/

def execDoorbell (vf k : Nat) (widx : W32) (s : State) : Result :=
  if vf < 128 && k < 8 then .next (s.ringDoorbell vf k widx) else .refused (.notEnabled "DOORBELL")

end Sys2Proof.Machine
end

