-- ==== Sys2Proof/Machine/Crypto.lean ====
section
/-! DEFINITION. The algorithms that the firmware complex and the memory controllers use by name: the digest SHA-512, the
cipher AES-256-XTS, and ECDSA over the curve P-521 (R355, R361, R363, R364). The manual names them; what each
computes is taken from their public standards (PRESUMED, log 41). -/

namespace Sys2Proof.Machine

/-- Entry `i` of a table of `per` fields of `w` bits to a number. -/
def packedAt (t : List Nat) (w per i : Nat) : Nat := getAt t (i / per) 0 / 2 ^ (w * (i % per)) % 2 ^ w

/-! ## SHA-512 -/

/-- The 80 round constants of SHA-512, six to a number, the first lowest. -/
def sha512K : List Nat :=
  [0x59f111f1b605d0193956c25bf348b538e9b5dba58189dbbcb5c0fbcfec4d3b2f7137449123ef65cd428a2f98d728ae22,
   0x550c7dc3d5ffb4e2243185be4ee4b28c12835b0145706fbed807aa98a3030242ab1c5ed5da6d8118923f82a4af194f9b,
   0xefbe4786384f25e3e49b69c19ef14ad2c19bf174cf6926949bdc06a725c7123580deb1fe3b1696b172be5d74f27b896f,
   0x76f988da831153b55cb0a9dcbd41fbd44a7484aa6ea6e4832de92c6f592b0275240ca1cc77ac9c650fc19dc68b8cd5b5,
   0xd5a79147930aa725c6e00bf33da88fc2bf597fc7beef0ee4b00327c898fb213fa831c66d2db43210983e5152ee66dfab,
   0x53380d139d95b3df4d2c6dfc5ac42aed2e1b21385c26c92627b70a8546d22ffc142929670a0e6e7006ca6351e003826f,
   0xa81a664bbc423001a2bfe8a14cf1036492722c851482353b81c2c92e47edaee6766a0abb3c77b2a8650a73548baf63de,
   0x106aa07032bbd1b8f40e35855771202ad69906245565a910d192e819d6ef5218c76c51a30654be30c24b8b70d0f89791,
   0x4ed8aa4ae3418acb391c0cb3c5c95a6334b0bcb5e19b48a82748774cdf8eeb991e376c085141ab5319a4c116b8d2d0c8,
   0x8cc702081a6439ec84c87814a1f0ab7278a5636f43172f60748f82ee5defb2fc682e6ff3d6b2b8a35b9cca4f7763e373,
   0xd186b8c721c0c207ca273eceea26619cc67178f2e372532bbef9a3f7b2c67915a4506cebde82bde990befffa23631e28,
   0x1b710b35131c471b113f9804bef90dae0a637dc5a2c898a606f067aa72176fbaf57d4f7fee6ed178eada7dd6cde0eb1e,
   0x597f299cfc657e2a4cc5d4becb3e42b6431d67c49c100d4c3c9ebe0a15c9bebc32caab7b40c7249328db77f523047d84,
   0x6c44198c4a4758175fcb6fab3ad6faec]

/-- The initial hash value. -/
def sha512Start : List W64 :=
  [0x6A09E667F3BCC908, 0xBB67AE8584CAA73B, 0x3C6EF372FE94F82B, 0xA54FF53A5F1D36F1,
   0x510E527FADE682D1, 0x9B05688C2B3E6C1F, 0x1F83D9ABFB41BD6B, 0x5BE0CD19137E2179]

/-- A message with its padding: a one bit, zeros, and its length in 128 bits, most significant byte first. -/
def sha512Pad (m : List Byte) : List Byte :=
  m ++ 0x80#8 :: List.replicate ((239 - m.length % 128) % 128) 0#8 ++ (leBytes 16 (8 * m.length)).reverse

/-- The 64-bit words of a block, most significant byte first. -/
def beWords : Nat → List Byte → List W64
  | 0, _ => []
  | n + 1, bs => BitVec.ofNat 64 (leNat (bs.take 8).reverse) :: beWords n (bs.drop 8)

/-- The message schedule of a block, latest word first: `n` words more. -/
def sha512Sched : Nat → List W64 → List W64
  | 0, w => w
  | n + 1, w =>
    let x := getAt w 1 0
    let y := getAt w 14 0
    let s1 := x.rotateRight 19 ^^^ x.rotateRight 61 ^^^ (x >>> 6)
    let s0 := y.rotateRight 1 ^^^ y.rotateRight 8 ^^^ (y >>> 7)
    sha512Sched n ((s1 + getAt w 6 0 + s0 + getAt w 15 0) :: w)

/-- One round on the eight working words. -/
def sha512Round (v : List W64) (k w : W64) : List W64 :=
  match v with
  | [a, b, c, d, e, f, g, h] =>
    let t1 := h + (e.rotateRight 14 ^^^ e.rotateRight 18 ^^^ e.rotateRight 41) + ((e &&& f) ^^^ (~~~e &&& g)) + k + w
    let t2 := (a.rotateRight 28 ^^^ a.rotateRight 34 ^^^ a.rotateRight 39) + ((a &&& b) ^^^ (a &&& c) ^^^ (b &&& c))
    [t1 + t2, a, b, c, d + t1, e, f, g]
  | _ => v

/-- One block. -/
def sha512Block (h : List W64) (block : List Byte) : List W64 :=
  let ws := (sha512Sched 64 (beWords 16 block).reverse).reverse
  let r := (ws.zipIdx).foldl (fun v x => sha512Round v (BitVec.ofNat 64 (packedAt sha512K 64 6 x.2)) x.1) h
  h.zipWith (fun a b => a + b) r

def sha512Blocks : Nat → List W64 → List Byte → List W64
  | 0, h, _ => h
  | n + 1, h, bs => sha512Blocks n (sha512Block h (bs.take 128)) (bs.drop 128)

/-- The digest of a message, its first byte most significant. -/
def sha512 (m : List Byte) : BitVec 512 :=
  let p := sha512Pad m
  BitVec.ofNat 512 ((sha512Blocks (p.length / 128) sha512Start p).foldl (fun a w => a * 2 ^ 64 + w.toNat) 0)

/-! ## AES-256 in XTS mode -/

/-- The S-box of AES, 32 bytes to a number, the first lowest. -/
def aesBox : List Nat :=
  [0xc072a49cafa2d4adf04759fa7dc982ca76abd7fe2b670130c56f6bf27b777c63,
   0x75b227ebe28012079a059618c323c7041531d871f1e5a534ccf73f362693fdb7,
   0xcf584c4a39becb6a5bb1fc20ed00d153842fe329b3d63b52a05a6e1b1a2c8309,
   0xd2f3ff1021dab6bcf5389d928f40a351a89f3c507f02f94585334d43fbaaefd0,
   0xdb0b5ede14b8ee4688902a22dc4f816073195d643d7ea7c41744975fec130ccd,
   0x08ae7a65eaf4566ca94ed58d6d37c8e779e4959162acd3c25c2406490a3a32e0,
   0x9e1dc186b95735610ef6034866b53e708a8bbd4b1f74dde8c6b4a61c2e2578ba,
   0x16bb54b00f2d99416842e6bf0d89a18cdf2855cee9871e9b948ed9691198f8e1]

def subByte (b : Byte) : Byte := BitVec.ofNat 8 (packedAt aesBox 8 32 b.toNat)

/-- The inverse S-box, entry by entry. -/
def aesInvBox : List Nat := (List.range 256).map fun y => (firstBelow 256 fun x => decide ((subByte (BitVec.ofNat 8 x)).toNat = y)).getD 0
def invSubByte (t : List Nat) (b : Byte) : Byte := BitVec.ofNat 8 (getAt t b.toNat 0)

/-- Multiplication by x in the field of AES. -/
def xtime (b : Byte) : Byte := (b <<< 1) ^^^ (if b.getLsbD 7 then 0x1B else 0)

/-- The product with the constant `c` below 16. -/
def gmul (c : Nat) (b : Byte) : Byte :=
  let pick := fun (i : Nat) (x : Byte) => if c.testBit i then x else 0
  pick 0 b ^^^ pick 1 (xtime b) ^^^ pick 2 (xtime (xtime b)) ^^^ pick 3 (xtime (xtime (xtime b)))

def xorBytes (a b : List Byte) : List Byte := a.zipWith (fun x y => x ^^^ y) b

/-- The key schedule, latest word first: `n` words more; `rc` is the next round constant. -/
def aesExpand : Nat → Nat → Byte → List (List Byte) → List (List Byte)
  | 0, _, _, w => w
  | n + 1, i, rc, w =>
    let t := getAt w 0 []
    let u := if i % 8 = 0 then xorBytes ((t.drop 1 ++ t.take 1).map subByte) [rc, 0, 0, 0]
      else if i % 8 = 4 then t.map subByte else t
    aesExpand n (i + 1) (if i % 8 = 0 then xtime rc else rc) (xorBytes (getAt w 7 []) u :: w)

/-- Pieces of `k` elements. -/
def pieces {α : Type} (k : Nat) : Nat → List α → List (List α)
  | 0, _ => []
  | n + 1, l => l.take k :: pieces k n (l.drop k)

/-- The 15 round keys of a 32-byte key. -/
def aesKeys (key : List Byte) : List (List Byte) :=
  pieces 16 15 (aesExpand 52 8 1 (pieces 4 8 key).reverse).reverse.flatten

/-- The bytes of a block moved: byte `i` comes from `f i`. -/
def gather16 (b : List Byte) (f : Nat → Nat) : List Byte := (List.range 16).map fun i => getAt b (f i) 0

/-- The columns of a block multiplied by a circulant matrix. -/
def mixColumns (c0 c1 c2 c3 : Nat) (b : List Byte) : List Byte :=
  (List.range 16).map fun i =>
    let at_ := fun (k : Nat) => getAt b (i / 4 * 4 + (i + k) % 4) 0
    gmul c0 (at_ 0) ^^^ gmul c1 (at_ 1) ^^^ gmul c2 (at_ 2) ^^^ gmul c3 (at_ 3)

def aesEncRounds : List (List Byte) → List Byte → List Byte
  | [], b => b
  | [k], b => xorBytes (gather16 (b.map subByte) fun i => (5 * i) % 16) k
  | k :: ks, b => aesEncRounds ks (xorBytes (mixColumns 2 3 1 1 (gather16 (b.map subByte) fun i => (5 * i) % 16)) k)

/-- A block enciphered under the round keys. -/
def aesEnc (ks : List (List Byte)) (b : List Byte) : List Byte :=
  match ks with
  | k :: t => aesEncRounds t (xorBytes b k)
  | [] => b

def aesDecRounds (t : List Nat) : List (List Byte) → List Byte → List Byte
  | [], b => b
  | [k], b => xorBytes ((gather16 b fun i => (13 * i) % 16).map (invSubByte t)) k
  | k :: ks, b => aesDecRounds t ks (mixColumns 14 11 13 9 (xorBytes ((gather16 b fun i => (13 * i) % 16).map (invSubByte t)) k))

/-- A block deciphered under the round keys. -/
def aesDec (ks : List (List Byte)) (b : List Byte) : List Byte :=
  match ks.reverse with
  | k :: t => aesDecRounds aesInvBox t (xorBytes b k)
  | [] => b

/-- The tweak of the next block of a data unit: multiplied by x in the field of XTS. -/
def xtsNext (t : Nat) : Nat := (2 * t) % 2 ^ 128 ^^^ (if t.testBit 127 then 0x87 else 0)

def xtsBlocks (f : List Byte → List Byte) : Nat → Nat → List Byte → List Byte
  | 0, _, _ => []
  | n + 1, t, bs => xorBytes (f (xorBytes (bs.take 16) (leBytes 16 t))) (leBytes 16 t) ++ xtsBlocks f n (xtsNext t) (bs.drop 16)

/-- A 256-byte granule enciphered, or deciphered, under a key pair with the tweak PA[41:8] (R355). -/
def xtsGranule (decipher : Bool) (pair : BitVec 512) (granule : Nat) (bs : List Byte) : List Byte :=
  let kb := leBytes 64 pair.toNat
  let ks := aesKeys (kb.take 32)
  let tweak := leNat (aesEnc (aesKeys (kb.drop 32)) (leBytes 16 granule))
  xtsBlocks (if decipher then aesDec ks else aesEnc ks) 16 tweak bs

/-! ## ECDSA over P-521 -/

def p521 : Nat := 2 ^ 521 - 1
/-- The order of the base point. -/
def p521Order : Nat :=
  0x01FFFFFFFFFFFFFFFFFFFFFFFFFFFFFFFFFFFFFFFFFFFFFFFFFFFFFFFFFFFFFFFFFA51868783BF2F966B7FCC0148F709A5D03BB5C9B8899C47AEBB6FB71E91386409
def p521Coeff : Nat :=
  0x0051953EB9618E1C9A1F929A21A0B68540EEA2DA725B99B315F3B8B489918EF109E156193951EC7E937B1652C0BD3BB1BF073573DF883D2C34F1EF451FD46B503F00
/-- The base point. -/
def p521Base : Nat × Nat :=
  (0x00C6858E06B70404E9CD9E3ECB662395B4429C648139053FB521F828AF606B4D3DBAA14B5E77EFE75928FE1DC127A2FFA8DE3348B3C1856A429BF97E7E31C2E5BD66,
   0x011839296A789A3BC0045C8A5FB42C7D1BD998F54449579B446817AFBD17273E662C97EE72995EF42640C550B9013FAD0761353C7086A272C24088BE94769FD16650)

/-- A power modulo `m`; the first argument bounds the exponent's bits. -/
def powMod (m : Nat) : Nat → Nat → Nat → Nat
  | 0, _, _ => 1 % m
  | n + 1, b, e => (if e % 2 = 1 then b else 1) * powMod m n (b * b % m) (e / 2) % m

/-- The inverse modulo a prime of at most 521 bits. -/
def invMod (m a : Nat) : Nat := powMod m 521 (a % m) (m - 2)

/-- A point of the curve in Jacobian coordinates; `z = 0` is the point at infinity. -/
structure JPoint where
  x : Nat
  y : Nat
  z : Nat
  deriving DecidableEq, Repr

def subP (a b : Nat) : Nat := (a + p521 - b % p521) % p521

def JPoint.double (a : JPoint) : JPoint :=
  let d := a.z * a.z % p521
  let g := a.y * a.y % p521
  let b := a.x * g % p521
  let m := 3 * (subP a.x d) * ((a.x + d) % p521) % p521
  let x := subP (m * m) (8 * b)
  { x := x, y := subP (m * subP (4 * b) x) (8 * (g * g % p521)), z := 2 * a.y * a.z % p521 }

def JPoint.add (a b : JPoint) : JPoint :=
  if a.z = 0 then b
  else if b.z = 0 then a
  else
    let z1 := a.z * a.z % p521
    let z2 := b.z * b.z % p521
    let u1 := a.x * z2 % p521
    let u2 := b.x * z1 % p521
    let s1 := a.y * z2 % p521 * b.z % p521
    let s2 := b.y * z1 % p521 * a.z % p521
    if u1 = u2 then (if s1 = s2 then a.double else { x := 1, y := 1, z := 0 })
    else
      let h := subP u2 u1
      let r := subP s2 s1
      let h2 := h * h % p521
      let h3 := h2 * h % p521
      let v := u1 * h2 % p521
      let x := subP (subP (r * r) h3) (2 * v)
      { x := x, y := subP (r * subP v x) (s1 * h3), z := h * a.z % p521 * b.z % p521 }

/-- A multiple of a point; the first argument bounds the factor's bits. -/
def JPoint.times : Nat → Nat → JPoint → JPoint
  | 0, _, _ => { x := 1, y := 1, z := 0 }
  | n + 1, k, a =>
    let r := JPoint.times n (k / 2) a.double
    if k % 2 = 1 then a.add r else r

def JPoint.affineX (a : JPoint) : Nat :=
  let i := invMod p521 a.z
  a.x * (i * i % p521) % p521

def jOf (p : Nat × Nat) : JPoint := { x := p.1, y := p.2, z := 1 }

/-- A point lies on the curve. -/
def onP521 (q : Nat × Nat) : Bool :=
  decide (q.1 < p521) && decide (q.2 < p521)
    && decide (q.2 * q.2 % p521 = (q.1 * q.1 * q.1 + (p521 - 3) * q.1 + p521Coeff) % p521)

/-- The signature (r, s) of a digest holds under the public key `q`. -/
def ecdsaOk (q : Nat × Nat) (digest : BitVec 512) (sig : Nat × Nat) : Bool :=
  let inRange := fun (v : Nat) => decide (0 < v) && decide (v < p521Order)
  if !onP521 q || !inRange sig.1 || !inRange sig.2 then false
  else
    let w := invMod p521Order sig.2
    let pt := ((jOf p521Base).times 521 (digest.toNat * w % p521Order)).add ((jOf q).times 521 (sig.1 * w % p521Order))
    decide (pt.z ≠ 0) && decide (pt.affineX % p521Order = sig.1)

/-- The signature of a digest with the private key `d` and the nonce `k`. -/
def ecdsaSign (d k : Nat) (digest : BitVec 512) : Nat × Nat :=
  let r := ((jOf p521Base).times 521 (k % p521Order)).affineX % p521Order
  (r, invMod p521Order (k % p521Order) * (digest.toNat + r * d) % p521Order)

end Sys2Proof.Machine
end

