-- ==== Sys2Proof/Machine/SliceEvents.lean ====
section
/-! DEFINITION. The L2 slices: requests, misses, fills and write-backs, exclusive lines, drain additions and ordered merges,
and way masks (R86, R87, R116, R134, R150-R152, R253, R274-R278, R416, R421, R422). -/

namespace Sys2Proof.Machine

def Die.slice (x : Die) (j : Nat) : Slice := KMap.getD x.slices j Slice.reset
def Die.setSlice (x : Die) (j : Nat) (y : Slice) : Die := { x with slices := KMap.put x.slices j y }
def State.slice (s : State) (d j : Nat) : Slice := (s.die d).slice j
def State.setSlice (s : State) (d j : Nat) (y : Slice) : State := s.setDie d ((s.die d).setSlice j y)

/-! ## Way masks (R86, R87) -/

/-- A line that the masks exclude from its way. -/
def Die.excludes (x : Die) (l : LineEnt) : Bool := !(x.ways l.vf l.pres).getLsbD l.way

/-! ## Write-backs (R275, R416) -/

/-- A domain with in-band ECC whose memory holds the line: of the virtual function that its frame's owner byte names. -/
def State.lineEcc (s : State) (line : Nat) : Bool :=
  let v := (KMap.getD s.fwc.owners (line / 512) 0).toNat % 128
  let d := homeDie (line * 128)
  (List.range 3).any fun k => (s.vf v).valid && (s.vf v).ownsDomain (3 * d + k) && (s.vf v).ecc (3 * d + k)

/-- A line reaches its memory controller: poison stays in an ECC domain; elsewhere it is lost, with an event. -/
def State.writeBack (s : State) (line : Nat) : State :=
  if !s.poison.contains line || s.lineEcc line then s
  else
    let d := homeDie (line * 128)
    { s with poison := s.poison.filter fun l => decide (l ≠ line) }.raise (srcMemc d)
      { Event.blank with code := codeUncorrected, cls := 1, block := 5, die := d, addr := BitVec.ofNat 64 (line * 128) }

/-- A clean line leaves a slice: memory of a domain without ECC holds no poison (R416). -/
def State.leaveClean (s : State) (line : Nat) : State :=
  if s.lineEcc line then s else { s with poison := s.poison.filter fun l => decide (l ≠ line) }

/-- A slice sends a line with its data to its memory controller on the write-back channel. -/
def State.sendWriteBack (s : State) (d j line : Nat) : State :=
  s.inject d (sliceRouter j * 8 + 3) d 15 7 2
    (.write line ((List.range 32).map fun i => BitVec.ofNat 32 (s.readNat (128 * line + 4 * i) 4)))

/-- A flit of the write-back of a line. -/
def Flit.writesLine (f : Flit) (line : Nat) : Bool :=
  match f.msg with
  | .write l _ => decide (l = line)
  | .req _ _ => false
  | .resp _ _ => false
  | .contrib _ _ => false
  | .codecGrant _ _ => false
  | .beacon _ => false

/-- The oldest write-back of the slice whose data has reached the controller completes. -/
def execWriteBackComplete (die slice : Nat) (s : State) : Result :=
  let x := s.slice die slice
  match x.wbs.find? fun l => !(s.die die).flits.any fun f => f.writesLine l with
  | none => .refused (.notEnabled "WRITE_BACK_COMPLETE")
  | some l => .next ((s.setSlice die slice { x with wbs := x.wbs.erase l }).writeBack l)

/-! ## Requests (R150, R274) -/

/-- `n` and `k` of a contribution against the line's entry and the tables' room (R253). -/
inductive OrdAct where
  | reject
  | apply
  | hold
  | waits
  deriving DecidableEq, Repr

def Slice.seqOf (x : Slice) (line : Nat) : Option SeqEnt := x.seqs.find? fun e => decide (e.line = line)

/-- `OrderedArrive`: what a slice does with an ordered contribution now. -/
def Slice.ordAct (x : Slice) (line n k : Nat) : OrdAct :=
  let e := x.seqOf line
  let next := (e.map fun y => y.next).getD 0
  let entryRoom := e.isSome || decide (x.seqs.length < 256)
  if (e.any fun y => decide (y.n ≠ n)) || decide (k < next) then .reject
  else if k = next then (if entryRoom || next + 1 = n then .apply else .waits)
  else if entryRoom && decide (x.merges.length < 64) then .hold
  else .waits

/-- The tables have no room for a contribution (R253). -/
def Slice.waitsFor (x : Slice) (c : Contribution) : Bool :=
  match c.seq with
  | some (n, k) => decide (x.ordAct c.line n k = .waits)
  | none => false

/-- The first addition that the slice can perform: additions to one line keep their order of arrival (R116, R276). -/
def State.nextAdd (s : State) (d j : Nat) : Option Contribution :=
  let x := s.slice d j
  x.adds.find? fun c => !x.waitsFor c && !s.codecBusy.contains c.line

/-- A request that changes a line under the adders or the bypass unit, which recall it from an L1 that owns it (R276). -/
def ReqKind.recalls (k : ReqKind) : Bool :=
  match k with
  | .red => true
  | .count => true
  | .add _ => true
  | .load => false
  | .store => false
  | .atomic => false
  | .codec => false
  | .codecEnd => false

/-- A request that something holds back: a codec-busy line, additions to the line that are to be performed first, or, for all but
the adders, another core's L1 that owns it and must now yield (R116, R150, R276). -/
def State.lineHeld (s : State) (d j : Nat) (r : SReq) : Bool :=
  let x := s.slice d j
  s.codecBusy.contains r.line
    || (match r.kind with
        | .add _ => false
        | _ => x.adds.any fun c => decide (c.line = r.line) && !x.waitsFor c)
    || (!r.kind.recalls && (KMap.get? s.l1own r.line).any fun o => decide (o.1 ≠ r.core))

/-- Another core's request for an owned line: the owner performs at most 16 more atomics. -/
def State.pressOwner (s : State) (r : SReq) : State :=
  match KMap.get? s.l1own r.line with
  | some (c, left) => if c ≠ r.core && 16 < left then { s with l1own := KMap.put s.l1own r.line (c, 16) } else s
  | none => s

/-- A write of another die has been applied (R149). -/
def State.applied (s : State) (d : Nat) (num : Option (Nat × Nat)) : State :=
  match num with
  | none => s
  | some n => s.setDie d { s.die d with unapplied := (s.die d).unapplied.erase n }

/-- The lanes of a `RED` that the bypass unit performs (R278). -/
def State.bypassLanes (s : State) (r : SReq) : State :=
  let lanes := (s.core r.core).atoms.filter fun a => a.bypass && decide (lineOf a.pa = r.line) && decide (some a.out = r.out)
  lanes.foldl (fun s a => s.doLane r.core a) (s.recall r.line)

/-- Another core's request for a line waits in the slice, in the line's miss entry or in the side queue (R150). -/
def Slice.wanted (x : Slice) (line core : Nat) : Bool :=
  let asks := fun (q : SReq) => decide (q.line = line) && decide (q.core ≠ core)
  x.side.any asks || x.misses.any fun m => m.reqs.any asks

/-- A request is served: an answer to its core; ownership for the atomics of a core, which run; the codec-busy bit set for a
read-modify-write; an addition handed to the adders. A write of another die has then been applied (R149). -/
def State.serve (s : State) (d j : Nat) (r : SReq) : State :=
  let s := s.applied d r.num
  let s := match r.kind with
    | .load => s
    | .store => s
    | .atomic =>
      let left := if (s.slice d j).wanted r.line r.core then 16 else 17
      let s := { s with l1own := KMap.put s.l1own r.line (r.core, left) }.fillL1 r.core r.line none
      s.runLanes r.core r.line ((s.core r.core).atomsAt r.line)
    | .codec =>
      { s with codecBusy := r.line :: s.codecBusy }.inject d (sliceRouter j * 8 + 3) (r.core / 48)
        (coreRouter (r.core % 48)) (r.core % 48 % 3) 1 (.codecGrant r j)
    | .codecEnd => s
    | .red => s.bypassLanes r
    | .count => s.recall r.line
    | .add c => s.setSlice d j { s.slice d j with adds := (s.slice d j).adds ++ [c] }
  match r.out with
  | some o => s.sendResp d j r.core o
  | none => s

/-- The write that ends a codec read-modify-write: the line is busy no more (R116). -/
def State.endCodec (s : State) (d j : Nat) (r : SReq) : State :=
  let x := s.slice d j
  let s := s.setSlice d j { x with lines := x.lines.map fun (l : LineEnt) => if l.line = r.line then { l with dirty := true } else l }
  ({ s with codecBusy := s.codecBusy.erase r.line }).applied d r.num

/-- The slice's line after a request. -/
def Slice.touch (x : Slice) (r : SReq) : Slice :=
  if r.kind = .load then x
  else { x with lines := x.lines.map fun (l : LineEnt) => if l.line = r.line then { l with dirty := true } else l }

/-- The slice holds the line. -/
def Slice.has (x : Slice) (line : Nat) : Bool := x.lines.any fun l => decide (l.line = line)

/-- The miss entry of a line, if it has one. -/
def Slice.miss? (x : Slice) (line : Nat) : Option Miss := x.misses.find? fun m => decide (m.line = line)

/-- The requests of a line's miss entry replaced; without any the entry is free. -/
def Slice.putMiss (x : Slice) (line : Nat) (rs : List SReq) : Slice :=
  { x with misses := (x.misses.map fun m => if m.line = line then { m with reqs := rs } else m).filter fun m => !m.reqs.isEmpty }

/-- What a request finds: it is served, merged behind the earlier ones of its line's miss entry, or given one; none where it must
wait in the side queue. A request that bypasses L2 is served unless one to its line waits (R274, R278). -/
def State.tryServe (s : State) (d j : Nat) (r : SReq) : Option State :=
  let x := s.slice d j
  let miss := fun (s : State) => if x.has r.line then s else s.perfAdd r.vf 5 1
  match x.miss? r.line with
  | some m => if 16 ≤ m.reqs.length then none else some (miss (s.setSlice d j (x.putMiss r.line (m.reqs ++ [r]))))
  | none =>
    if s.lineHeld d j r then none
    else if x.has r.line || (s.die d).ways r.vf r.pres = 0 then some ((s.setSlice d j (x.touch r)).serve d j r)
    else if 256 ≤ x.misses.length then none
    else some (miss (s.setSlice d j { x with misses := x.misses ++ [{ line := r.line, reqs := [r] }] }))

/-- The slice starts the request at the head of its input queue. -/
def execSliceRequest (die slice : Nat) (s : State) : Result :=
  let x := s.slice die slice
  match x.inq with
  | [] => .refused (.notEnabled "SLICE_REQUEST")
  | r :: t =>
    if 32 ≤ x.side.length then .refused (.notEnabled "SLICE_REQUEST")
    else
      let s := (s.setSlice die slice { x with inq := t }).pressOwner r
      let y := s.slice die slice
      let aside := s.setSlice die slice { y with side := y.side ++ [r] }
      if y.side.any fun q => decide (q.line = r.line) then .next aside
      else .next ((s.tryServe die slice r).getD aside)

/-- The first side-queued request, in arrival order for its line, that can be served now. -/
def State.sideReady (s : State) (d j : Nat) : List Nat → List SReq → Option (SReq × State)
  | _, [] => none
  | seen, r :: t =>
    if seen.contains r.line then s.sideReady d j seen t
    else
      match s.tryServe d j r with
      | some s' => some (r, s')
      | none => s.sideReady d j (r.line :: seen) t

/-- The requests of a line's miss entry served in order, up to the first that something holds: it and those behind it stay in
the entry, and an L1 that owns the line must yield it (R150, R274). -/
def State.serveMiss (s : State) (d j line : Nat) : List SReq → State
  | [] => s.setSlice d j ((s.slice d j).putMiss line [])
  | r :: t =>
    if s.lineHeld d j r then (s.setSlice d j ((s.slice d j).putMiss line (r :: t))).pressOwner r
    else State.serveMiss ((s.setSlice d j (((s.slice d j).putMiss line t).touch r)).serve d j r) d j line t

/-- A miss entry whose line is there, or bypasses L2, and whose first request nothing holds any more. -/
def State.missReady (s : State) (d j : Nat) : Option Miss :=
  let x := s.slice d j
  x.misses.find? fun m => m.reqs.head?.any fun r =>
    (x.has m.line || decide ((s.die d).ways r.vf r.pres = 0)) && !s.lineHeld d j r

/-- A request that had to wait is tried again: the first ones of a miss entry, else a side-queued one. -/
def execSideQueueRetry (die slice : Nat) (s : State) : Result :=
  match s.missReady die slice with
  | some m => .next (s.serveMiss die slice m.line m.reqs)
  | none =>
    match s.sideReady die slice [] (s.slice die slice).side with
    | none => .refused (.notEnabled "SIDE_QUEUE_RETRY")
    | some (r, s) =>
      let x := s.slice die slice
      .next (s.setSlice die slice { x with side := x.side.erase r })

/-- A fill: the line takes a way that its mask allows, and what stood there leaves, through a write-back entry if it is
dirty; the requests of the miss entry are served in order. -/
def execLineFill (die slice line victimWay : Nat) (s : State) : Result :=
  let x := s.slice die slice
  match x.miss? line with
  | none => .refused (.notEnabled "LINE_FILL")
  | some m =>
    match m.reqs with
    | [] => .refused (.notEnabled "LINE_FILL")
    | r :: _ =>
      if x.has line || !((s.die die).ways r.vf r.pres).getLsbD victimWay then .refused (.notEnabled "LINE_FILL")
      else
        let victim := x.lines.find? fun l => decide (l.way = victimWay) && decide (cacheSet (l.line * 128) = cacheSet (line * 128))
        let dirty := victim.any fun l => l.dirty
        if dirty && decide (16 ≤ x.wbs.length) then .refused (.notEnabled "LINE_FILL")
        else
          let new : LineEnt := { line := line, way := victimWay, dirty := false, pres := r.pres, vf := r.vf }
          let vline := (victim.map fun l => l.line).getD 0
          let s := s.setSlice die slice { x with
            lines := (x.lines.filter fun l => decide (some l ≠ victim)) ++ [new]
            wbs := if dirty then x.wbs ++ [vline] else x.wbs }
          let s := if victim.isSome then s.recall vline else s
          let s := if dirty then s.sendWriteBack die slice vline else if victim.isSome then s.leaveClean vline else s
          .next (s.serveMiss die slice line m.reqs)

/-- An owner whose line another core has asked for yields it (R150). -/
def execLineYield (line : Nat) (s : State) : Result :=
  match KMap.get? s.l1own line with
  | none => .refused (.notEnabled "LINE_YIELD")
  | some (_, left) => if 16 < left then .refused (.notEnabled "LINE_YIELD") else .next (s.recall line)

/-! ## Additions (R134, R151, R276) -/

/-- An FP32 value as a summand of `AccAdd`. -/
def summand (x : W32) : MElem :=
  if fIsNan f32 x.toNat then .nan
  else if fIsInf f32 x.toNat then .inf (fneg f32 x.toNat)
  else .fin (fneg f32 x.toNat) (fVal f32 x.toNat)

/-- The elements of a contribution added to their line, one rounding each. -/
def State.addElems (s : State) (c : Contribution) : State :=
  c.elems.foldl (fun s e =>
    let pa := c.line * 128 + e.1
    s.storeAll [(pa, leBytes 4 (accAdd (s.readNat pa 4) (summand e.2)))]) s

/-- A slice has taken a contribution: its drain waits for one less. -/
def State.tookContrib (s : State) (c : Contribution) : State :=
  let k := s.core c.core
  s.setCore c.core { k with draining := k.draining.map fun o => match o with
    | .mma _ _ _ _ _ _ _ _ _ _ _ _ _ _ => o
    | .drain ctx wg vf id kind scr cvt addr pitch q base slot m n left at_ info =>
      if id = c.op then .drain ctx wg vf id kind scr cvt addr pitch q base slot m n (left.map fun l => l - 1) at_ info else o }

/-- The line of an addition: recalled from an L1 that owns it, dirty where the slice holds it, and added to; the drain waits for
one contribution less (R154, R276). -/
def State.addTo (s : State) (d j : Nat) (c : Contribution) : State :=
  let x := s.slice d j
  let s := s.setSlice d j { x with lines := x.lines.map fun (l : LineEnt) => if l.line = c.line then { l with dirty := true } else l }
  ((s.recall c.line).addElems c).tookContrib c

/-- The slice has taken a contribution from its adders' queue. -/
def State.dropAdd (s : State) (d j : Nat) (c : Contribution) : State :=
  let x := s.slice d j
  s.setSlice d j { x with adds := x.adds.erase c }

/-- The addition that comes next is an unordered one: it is performed (R116, R151). -/
def execDrainAddArrive (die slice : Nat) (s : State) : Result :=
  match s.nextAdd die slice with
  | none => .refused (.notEnabled "DRAIN_ADD_ARRIVE")
  | some c =>
    if c.seq.isSome then .refused (.notEnabled "DRAIN_ADD_ARRIVE") else .next ((s.dropAdd die slice c).addTo die slice c)

/-! ## Ordered contributions (R152, R253, R422) -/

/-- The entry of a line changed, or closed where `next` reaches `n`. -/
def Slice.putSeq (x : Slice) (line n next now : Nat) : Slice :=
  let rest := x.seqs.filter fun e => decide (e.line ≠ line)
  { x with seqs := if next = n then rest else rest ++ [{ line := line, n := n, next := next, last := now }] }

/-- The ordinal of a contribution. -/
def Contribution.ordinal (c : Contribution) : Nat := (c.seq.map Prod.snd).getD 0

/-- `Advance`: held contributions with the next ordinals, in order, by fuel. -/
def State.advanceSeq : Nat → State → Nat → Nat → Nat → Nat → Nat → State
  | 0, s, d, j, line, n, next => s.setSlice d j ((s.slice d j).putSeq line n next s.clk.fabric)
  | fuel + 1, s, d, j, line, n, next =>
    let x := s.slice d j
    match x.merges.find? fun c => decide (c.line = line) && decide (c.ordinal = next) with
    | some c => State.advanceSeq fuel ((s.setSlice d j { x with merges := x.merges.erase c }).addTo d j c) d j line n (next + 1)
    | none => s.setSlice d j (x.putSeq line n next s.clk.fabric)

/-- The class 1 event of a rejected or missing ordinal (R422). -/
def seqReject (d j v line k : Nat) : Event :=
  { Event.blank with
    code := codeSeqReject, cls := 1, block := 2, die := d, unit := j, vf := v, addr := BitVec.ofNat 64 (line * 128)
    info := BitVec.ofNat 64 k }

/-- An ordered contribution is rejected, added with those that follow it, or held; its drain waits for it until it is added
(R154, R253). -/
def State.orderedArrive (s : State) (d j : Nat) (c : Contribution) (n k : Nat) : Option State :=
  let x := s.slice d j
  match x.ordAct c.line n k with
  | .waits => none
  | .reject => some ((s.raise (srcSlice d j) (seqReject d j c.vf c.line k)).tookContrib c)
  | .apply => some (State.advanceSeq 64 (s.addTo d j c) d j c.line n (k + 1))
  | .hold =>
    let next := ((x.seqOf c.line).map fun e => e.next).getD 0
    some (s.setSlice d j ({ x with merges := x.merges ++ [c] }.putSeq c.line n next s.clk.fabric))

/-- The addition that comes next is an ordered one. -/
def execOrderedContribution (die slice : Nat) (s : State) : Result :=
  match s.nextAdd die slice with
  | none => .refused (.notEnabled "ORDERED_CONTRIBUTION")
  | some c =>
    match c.seq with
    | none => .refused (.notEnabled "ORDERED_CONTRIBUTION")
    | some (n, k) =>
      match (s.dropAdd die slice c).orderedArrive die slice c n k with
      | some s => .next s
      | none => .refused (.notEnabled "ORDERED_CONTRIBUTION")

/-- The held contribution of a line with the smallest ordinal. -/
def Slice.lowestHeld (x : Slice) (line : Nat) : Option Contribution :=
  (x.merges.filter fun c => decide (c.line = line)).foldl (fun b c => match b with
    | none => some c
    | some y => if c.ordinal < y.ordinal then some c else some y) none

/-- The held contributions of a line applied in ascending ordinal, by fuel. -/
def State.flushSeq : Nat → State → Nat → Nat → Nat → State
  | 0, s, _, _, _ => s
  | fuel + 1, s, d, j, line =>
    let x := s.slice d j
    match x.lowestHeld line with
    | none => s
    | some c => State.flushSeq fuel ((s.setSlice d j { x with merges := x.merges.erase c }).addTo d j c) d j line

/-- An open sequence that has had no contribution for TIMEOUT × 256 fabric clocks closes, with an event that names the
first missing ordinal (R422). -/
def execSequenceTimeout (die slice line : Nat) (s : State) : Result :=
  let limit := bits (s.die die).seqto.toNat 23 0 * 256
  match (s.slice die slice).seqOf line with
  | none => .refused (.notEnabled "SEQUENCE_TIMEOUT")
  | some e =>
    if limit = 0 || s.clk.fabric < e.last + limit then .refused (.notEnabled "SEQUENCE_TIMEOUT")
    else
      let v := ((s.slice die slice).lowestHeld line).map fun c => c.vf
      let s := State.flushSeq 64 s die slice line
      let x := s.slice die slice
      let s := s.setSlice die slice { x with seqs := x.seqs.filter fun y => decide (y ≠ e) }
      .next (s.raise (srcSlice die slice) (seqReject die slice (v.getD 127) line e.next))

/-! ## Changes of way masks (R277, R279, R421) -/

/-- A mask write while a change is in progress: ignored, with ERR set. -/
def Die.maskErr (x : Die) : Die := { x with wmstat := x.wmstat ||| 0x8000 }

/-- BUSY with what the change is to, where it excludes ways. -/
def Die.startWalk (x : Die) (walks : Bool) (vf : Nat) (pres : Bool) : Die :=
  if walks then
    { x with wmstat := (x.wmstat &&& 0x8000) ||| BitVec.ofNat 32 (vf % 128 * 256 + (if pres then 2 else 0) + 1) }
  else x

def execL2sPwayWrite (die : Nat) (value : W32) (s : State) : Result :=
  let x := s.die die
  if 4 ≤ die then .refused (.notEnabled "L2S_PWAY_WRITE")
  else if x.wmstat.getLsbD 0 then .next (s.setDie die x.maskErr)
  else
    let new := value &&& 0xFFFF
    .next (s.setDie die ({ x with pway := new }.startWalk (decide (new ≠ x.pway &&& 0xFFFF)) 0 true))

def execL2sVfwayWrite (die vf : Nat) (value : W32) (s : State) : Result :=
  let x := s.die die
  if 4 ≤ die || 128 ≤ vf then .refused (.notEnabled "L2S_VFWAY_WRITE")
  else if x.wmstat.getLsbD 0 then .next (s.setDie die x.maskErr)
  else
    let old := KMap.getD x.vfway vf 0xFFFF
    let new := value &&& 0xFFFF
    .next (s.setDie die ({ x with vfway := KMap.put x.vfway vf new }.startWalk (decide (old &&& ~~~new ≠ 0)) vf false))

/-- The excluded lines of a slice leave it as far as they can: a dirty one takes a write-back entry and goes to the controller on
the write-back channel, so it waits for an entry; a clean one is invalid at once. Owners give them up (R275, R277). -/
def State.walkSlice (s : State) (d j : Nat) : State :=
  let x := s.slice d j
  let out := x.lines.filter fun l => (s.die d).excludes l
  let gone := (out.filter fun l => !l.dirty) ++ (out.filter fun l => l.dirty).take (16 - x.wbs.length)
  let wbs := (gone.filter fun l => l.dirty).map fun l => l.line
  let s := s.setSlice d j { x with lines := x.lines.filter fun l => !gone.contains l, wbs := x.wbs ++ wbs }
  let s := gone.foldl (fun s l => s.recall l.line) s
  let s := (gone.filter fun l => !l.dirty).foldl (fun s l => s.leaveClean l.line) s
  wbs.foldl (fun s l => s.sendWriteBack d j l) s

/-- The lines of a die that its masks exclude. -/
def Die.excluded (x : Die) : List LineEnt := x.slices.flatMap fun e => e.2.lines.filter fun l => x.excludes l

/-- The walk goes on over the slices of the die, and ends once no excluded line is left (R277). -/
def execWayWalkComplete (die : Nat) (s : State) : Result :=
  let x := s.die die
  if !x.wmstat.getLsbD 0 then .refused (.notEnabled "WAY_WALK_COMPLETE")
  else
    let s := (x.slices.map Prod.fst).foldl (fun s j => s.walkSlice die j) s
    let y := s.die die
    if y.excluded.isEmpty then .next (s.setDie die { y with wmstat := y.wmstat &&& 0x8000 })
    else if y.excluded.length = x.excluded.length then .refused (.notEnabled "WAY_WALK_COMPLETE")
    else .next s

end Sys2Proof.Machine
end

