-- ==== Sys2Proof/Machine/LinkEvents.lean ====
section
/-! DEFINITION. Routers and die links at work: flits, resends and replays, stamps and beacons, links out of service, and
the units that are lost with them (R149, R267-R273, R423, R424, R441). -/

namespace Sys2Proof.Machine

/-! ## Counts of failing links (R423) -/

def RLink.fresh : RLink := { down := false, winFrom := 0, winCount := 0 }

def Die.link (x : Die) (key : Nat) : RLink := KMap.getD x.links key RLink.fresh
def Die.setRLink (x : Die) (key : Nat) (l : RLink) : Die := { x with links := KMap.put x.links key l }

/-- `n` more resends of a link at a time in ns, within the window of one millisecond. -/
def RLink.resent (l : RLink) (n now : Nat) : RLink :=
  if l.winFrom + 1000000 < now then { l with winFrom := now, winCount := n } else { l with winCount := l.winCount + n }

/-- A router link that has sent one flit again 16 times without an acknowledgement: it passes nothing more (R423). -/
def Die.failed (x : Die) (key : Nat) : Bool := x.flits.any fun f => decide (f.via = key) && decide (16 ≤ f.resends)

/-- The key under which a die counts the resends of its die link to `e`: its gateway's port. -/
def dieLinkKey (d e : Nat) : Nat := if d = 4 then 8 * e + 7 else 8 * gatewayRouter d e + 7

/-- The die at the other end of the gateway that router `r` of die `d` leads to; die 4 has a port for each compute die. -/
def gatewayDie (d r : Nat) : Nat := if d = 4 then r else if r = 3 then 4 else if r = 7 then d ^^^ 1 else d ^^^ 2

/-- The source that reports for a router's port: its die link's end at a gateway, else the router. -/
def State.portSource (s : State) (d r port : Nat) : Nat :=
  if port = 7 && (decide (d = 4) || decide (r = 3) || decide (r = 7) || decide (r = 11)) then
    match s.linkPos d (gatewayDie d r) with
    | some p => srcLink (p / 2) (p % 2)
    | none => srcRouter d r
  else srcRouter d r

/-! ## Arrival at a die (R149) -/

/-- A message keeps the die and number of the write that it is, until it is applied. -/
def Msg.numbered (m : Msg) (n : Nat × Nat) : Msg :=
  match m with
  | .req r j => if m.isWrite then .req { r with num := some n } j else m
  | .contrib c j => .contrib { c with num := some n } j
  | .resp _ _ => m
  | .codecGrant _ _ => m
  | .write _ _ => m
  | .beacon _ => m

/-- The larger of each count of two vectors, a die's own apart. -/
def mergeVec (d : Nat) (vec stamp : List Nat) : List Nat :=
  (List.range 5).map fun e =>
    if e = d || countLe (getAt stamp e 0) (getAt vec e 0) then getAt vec e 0 else getAt stamp e 0

/-- The message of a flit enters the network of die `d` at the gateway it came to, and what its sender had seen counts as seen. -/
def State.enter (s : State) (d : Nat) (f : Flit) : State :=
  let x := s.die d
  (s.setDie d { x with vec := mergeVec d x.vec f.stamp }).inject d f.via d f.dstRouter f.dstPort f.chan
    (f.msg.numbered (f.srcDie, f.number))

/-- A message held at a die is delivered. -/
def State.release (s : State) (d : Nat) (h : Held) : State :=
  (s.setDie d { s.die d with heldMsgs := (s.die d).heldMsgs.erase h }).enter d h.flit

/-- A message held at a die waits for its stamp; a beacon and an answer do not. -/
def Msg.isHeld (m : Msg) : Bool :=
  match m with
  | .req _ _ => true
  | .contrib _ _ => true
  | .write _ _ => true
  | .resp _ _ => false
  | .codecGrant _ _ => false
  | .beacon _ => false

/-- A flit reaches die `d` over a link from die `from_`: on its way to another die it goes on, from one die link's gateway to the
next in the order of its arrival, past the routers of the die (DESIGN CHOICE, log 17). With the last flit of a packet its
message is there: the path's count is received, a write waits to be applied, an answer enters the network at once, and any other
message is held for its stamp behind the earlier ones of its source. -/
def State.arriveDie (s : State) (d from_ : Nat) (f : Flit) (stamp : List Nat) : State :=
  if f.dstDie ≠ d then s.linkSend d f.dstDie f stamp
  else if !f.last then s
  else
    let x := s.die d
    let f := { f with via := 8 * gatewayRouter d from_ + 7 }
    let x := { x with recv := setAt x.recv f.srcDie (countMax (getAt x.recv f.srcDie 0) (getAt stamp f.srcDie 0)) }
    let x := if f.msg.isWrite then { x with unapplied := x.unapplied ++ [(f.srcDie, f.number)] } else x
    if f.msg.isHeld then
      s.setDie d { x with heldMsgs := x.heldMsgs ++ [{ src := f.srcDie, stamp := stamp, flit := f }] }
    else
      match f.msg with
      | .beacon _ => s.setDie d x
      | _ => (s.setDie d x).enter d f

/-- A message held at die `d` can be delivered: it is the first of its source, and from every other die the counts that it was
sent with have been received and the writes up to them applied; of its own source's, a write waits only for the earlier ones
(R149). -/
def Die.mayRelease (x : Die) (d : Nat) (h : Held) : Bool :=
  let write := h.flit.msg.isWrite
  decide ((x.heldMsgs.find? fun y => decide (y.src = h.src)) = some h)
    && (List.range 5).all fun e =>
      let t := getAt h.flit.stamp e 0
      let t := if write && decide (e = h.src) then (t + 2 ^ 20 - 1) % 2 ^ 20 else t
      decide (e = d)
        || ((countLe t (getAt x.recv e 0) || (write && decide (e = h.src)))
          && x.unapplied.all fun u => decide (u.1 ≠ e) || !countLe u.2 t)

def execCrossDieReceive (die : Nat) (s : State) : Result :=
  let x := s.die die
  match x.heldMsgs.find? fun h => x.mayRelease die h with
  | none => .refused (.notEnabled "CROSS_DIE_RECEIVE")
  | some h => .next (s.release die h)

/-- A beacon flit between two dies. -/
def beaconFlit (src dst n : Nat) : Flit :=
  let f : Flit :=
    { id := 0, pkt := 0, part := 0, parts := 1, waits := false, stamp := [], router := 0, turns := packTurns [], dstDie := dst
      dstRouter := 0, dstPort := 0, chan := 0, second := false, srcDie := src, src := 0, alt := false, via := 0, resends := 0, crc := 0
      msg := .beacon n }
  { f with crc := flitCrc f }

/-- The count that a die can give on the path to another now. -/
def Die.ownCount (x : Die) (src dst : Nat) : Nat := x.pathCount dst (getAt x.vec src 0) none

/-- A beacon goes out on the path to another die. -/
def State.sendBeacon (s : State) (src dst : Nat) : State :=
  let x := s.die src
  let n := x.ownCount src dst
  (s.setDie src (x.noteSent dst n s.clk.fabric)).linkSend src dst (beaconFlit src dst n) (setAt x.vec src n)

/-- A die whose count has advanced since its last message on a path. -/
def Die.beaconDue (x : Die) (src dst : Nat) : Bool := decide (x.ownCount src dst ≠ getAt x.sent dst 0)

def execBeacon (src dst : Nat) (s : State) : Result :=
  if 5 ≤ src || 5 ≤ dst || src = dst || !(s.die src).beaconDue src dst then .refused (.notEnabled "BEACON")
  else .next (s.sendBeacon src dst)

/-- The beacons that may wait no longer: 64 fabric clocks after the last message of their path (R149). -/
def State.beacons (s : State) : State :=
  (List.range 25).foldl (fun s i =>
    let src := i / 5
    let dst := i % 5
    let x := s.die src
    if src ≠ dst && decide (getAt x.sentAt dst 0 + 64 ≤ s.clk.fabric) && decide (getAt x.vec src 0 ≠ getAt x.sent dst 0)
        && x.beaconDue src dst then s.sendBeacon src dst else s) s

/-! ## Routers (R267, R268) -/

/-- A packet is dropped, every flit of it, with an event of its router (R268). A write that is dropped is waited for no more. -/
def State.dropFlit (s : State) (d : Nat) (f : Flit) : State :=
  let x := s.die d
  let num := match f.msg with
    | .req r _ => r.num
    | .contrib c _ => c.num
    | _ => none
  ((s.setDie d { x with flits := x.flits.filter fun g => decide (g.pkt ≠ f.pkt) }).applied d num).raise (srcRouter d f.router)
    { Event.blank with code := codeRouteDrop, cls := 1, block := 3, die := d, unit := f.router }

/-- The flit takes a link. -/
def State.moveFlit (s : State) (d : Nat) (f : Flit) (port : Nat) : State :=
  let x := s.die d
  let g := { f with
    router := (linkEnd f.router port).1, via := 8 * f.router + port, resends := 0
    turns := packTurns [] ||| ((f.turns &&& 0x7FFF) >>> 3)
    second := f.second || (f.alt && decide (f.router / 4 ≠ f.src / 8 / 4)) }
  let g := { g with crc := flitCrc g }
  s.setDie d { x with flits := x.flits.map fun y => if y = f then g else y }

/-- A contribution that must wait moves to the channel of held ordered contributions, apart from other traffic, which it never
blocks: for the counts of R149 it has been applied (R253) (DEDUCED, log 45). -/
def State.setAside (s : State) (d : Nat) (f : Flit) (c : Contribution) (j : Nat) : State :=
  let x := s.die d
  let aside := fun (z : Flit) =>
    let z := { z with chan := 3, msg := .contrib { c with num := none } j }
    { z with crc := flitCrc z }
  (s.setDie d { x with flits := x.flits.map fun z => if z.pkt = f.pkt then aside z else z }).applied d c.num

/-- The flit leaves the network at its endpoint; none where the endpoint cannot take it yet. -/
def State.deliverFlit (s : State) (d : Nat) (f : Flit) : Option State :=
  let x := s.die d
  let gone := s.setDie d { x with flits := x.flits.erase f }
  let queue := fun (r : SReq) (j : Nat) =>
    let y := s.slice d j
    if 64 ≤ y.inq.length then none else some (gone.setSlice d j { y with inq := y.inq ++ [r] })
  if !f.last then some gone
  else
  match f.msg with
  | .req r j => if r.kind = .codecEnd then some (gone.endCodec d j r) else queue r j
  | .resp c out =>
    let k := s.core c
    -- what H has read is with its units by then (R294)
    if 192 ≤ c then some gone else some (gone.setCore c { k with outs := k.outs.map fun o => if o.id = out then { o with reqs := o.reqs - 1 } else o })
  | .codecGrant r _ => some (gone.sendReq r.core r.vf .codecEnd r.line r.pres none)
  | .contrib c j =>
    -- an ordered contribution for which the tables have no room waits in the fabric (R152)
    if (s.slice d j).waitsFor c then if f.chan = 3 then none else some (s.setAside d f c j)
    else queue { kind := .add c, line := c.line, core := c.core, vf := c.vf, pres := c.pres, out := none, num := c.num } j
  | .write _ _ => some gone
  | .beacon _ => some gone

/-- An earlier flit of the same port to the same endpoint on the same channel is still on its way (R270); held ordered
contributions wait apart, each for its own line (R253). -/
def Die.behind (x : Die) (f : Flit) : Bool :=
  decide (f.chan ≠ 3) && (x.flits.takeWhile fun g => decide (g ≠ f)).any fun g =>
    decide (g.src = f.src) && decide (g.dstDie = f.dstDie) && decide (g.dstRouter = f.dstRouter) && decide (g.dstPort = f.dstPort)
      && decide (g.chan = f.chan)

/-- A flit crosses its gateway once every write to the same die up to the count that it carries has (R149). -/
def State.crossGateway (s : State) (d : Nat) (f : Flit) : Option State :=
  let x := s.die d
  if !(x.writesTo f.dstDie f.number (some f.pkt)).isEmpty then none
  else some ((s.setDie d { x with flits := x.flits.erase f }).crossOut d f)

/-- A flit whose turn list ends short of its endpoint takes the shortest route on from there: a route round links out of
service can have more turns than a list holds (R268, R423) (DESIGN CHOICE, log 38). -/
def State.onward (s : State) (d : Nat) (f : Flit) : Flit :=
  let g := { f with turns := packTurns ((s.die d).routeTo f.router f.dstRouter false).1 }
  { g with crc := flitCrc g }

/-- A link of the die is out of service. -/
def Die.anyDown (x : Die) : Bool := x.links.any fun l => l.2.down

/-- A flit on a fresh route from where it stands (R423). -/
def State.fresh (s : State) (d : Nat) (f : Flit) : Flit :=
  let (route, alt) := (s.die d).routeTo f.router (s.routeEnd d f) f.alt
  let g := { f with turns := packTurns route, alt := alt }
  { g with crc := flitCrc g }

/-- A flit changed where it stands. -/
def State.putFlit (s : State) (d : Nat) (f g : Flit) : State :=
  s.setDie d { s.die d with flits := (s.die d).flits.map fun y => if y = f then g else y }

/-- A flit that turns to the external port of a router 3: over the die link of the gateway, or into the MEMC, which takes
write-backs (R266, R268). -/
def State.leavePort (s : State) (d : Nat) (f : Flit) : Option State :=
  let x := s.die d
  let gone := s.setDie d { x with flits := x.flits.erase f }
  if f.router = 15 then
    match f.msg with
    | .write _ _ => some gone
    | _ => some (s.dropFlit d f)
  else some (gone.linkSend d (gatewayDie d f.router) f f.stamp)

/-- A packet that waits at its injection port sets off (R270). -/
def State.startPacket (s : State) (d : Nat) (f : Flit) : Option State :=
  let (n, s) := if s.mayAlt d f then s.choice 2 else (0, s)
  (s.setOff d f (decide (n = 1))).map fun g =>
    s.setDie d { s.die d with flits := (s.die d).flits.map fun y =>
      if y.pkt = f.pkt then
        let y := { y with turns := g.turns, alt := g.alt, waits := false }
        { y with crc := flitCrc y }
      else y }

/-- The flit at its next turn; `none` where it must wait. -/
def State.turnFlit (s : State) (d : Nat) (f : Flit) : Option State :=
  let t := f.turns.toNat % 8
  if f.waits then s.startPacket d f
  else if !f.turns.getLsbD 15 || 4 < t then some (s.dropFlit d f)
  else if t = 0 then
    let x := s.die d
    if x.behind f then none
    else if f.dstDie = d then
      if f.dstRouter = f.router then s.deliverFlit d f
      else some (if x.anyDown then s.putFlit d f (s.onward d f) else s.dropFlit d f)
    else if f.router ≠ gatewayRouter d (s.nextHop d f.dstDie) then some (s.putFlit d f (s.fresh d f))
    else s.crossGateway d f
  else if t = 4 then
    if f.router % 4 = 3 then s.leavePort d f else some (s.moveFlit d f 7)
  else some (s.moveFlit d f (3 + t))

/-- A router takes a flit: a CRC failure makes the link resend it; else it follows its next turn. -/
def execRouterFlit (die flit : Nat) (crcErr : BitVec 16) (s : State) : Result :=
  let x := s.die die
  match x.flits.find? fun f => decide (f.id = flit) with
  | none => .refused (.notEnabled "ROUTER_FLIT")
  | some f =>
    let l := x.link f.via
    if l.down || x.failed f.via then .refused (.notEnabled "ROUTER_FLIT")
    else if (f.crc ^^^ crcErr) ≠ flitCrc f then
      .next (((s.setDie die (x.setRLink f.via (l.resent 1 s.clk.time))).putFlit die f { f with resends := f.resends + 1 }).noteCorrection
        (srcRouter die f.router))
    else
      match s.turnFlit die f with
      | some s => .next s
      | none => .refused (.notEnabled "ROUTER_FLIT")

/-! ## Die links (R272, R273) -/

/-- The position of one direction of a die link. -/
def linkDirPos (link : Nat) (dir : Bool) : Nat := 2 * link + (if dir then 1 else 0)

/-- The direction, where it is up. -/
def State.linkDir (s : State) (link : Nat) (dir : Bool) : Option LinkDir :=
  match s.dlinks[linkDirPos link dir]? with
  | some l => if l.down then none else some l
  | none => none

/-- The receiver's end takes the flit at the head of the wire: only one with good CRC and the next sequence number is
decoded, and a bad CRC sends a negative acknowledgement. A word that decodes wrong would show in the flit's CRC-16. -/
def execDieLinkFlitReceive (link : Nat) (dir : Bool) (crcErr : BitVec 32) (s : State) : Result :=
  match s.linkDir link dir with
  | none => .refused (.notEnabled "DIE_LINK_FLIT_RECEIVE")
  | some l =>
    match l.wire with
    | [] => .refused (.notEnabled "DIE_LINK_FLIT_RECEIVE")
    | c :: rest =>
      let p := linkDirPos link dir
      let taken := { l with wire := rest }
      if (c.crc ^^^ crcErr) ≠ linkCrc c.seq c.syms then .next (s.setLink p { taken with nak := true })
      else if c.seq ≠ l.recvSeq % 256 then .next (s.setLink p taken)
      else
        let (t, pend) := applyOldest l.recvTable l.recvPend
        let words := c.syms.map (decodeSym t)
        let crcOf := fun (ws : List W32) => BitVec.ofNat 16 (crc16 (ws.flatMap fun w => leBytes 4 w.toNat))
        let f := { c.flit with crc := c.flit.crc ^^^ crcOf c.words ^^^ crcOf words }
        let s := s.setLink p { taken with recvTable := t, recvPend := pend ++ [c.syms], recvSeq := l.recvSeq + 1 }
        .next (s.arriveDie l.dst l.src f c.stamp)

/-- Flits that the receiver has delivered and the sender still holds. -/
def LinkDir.ackable (l : LinkDir) : Nat := l.recvSeq - (l.sendSeq - l.replay.length)

/-- A cumulative acknowledgement reaches the sender. -/
def execDieLinkAck (link : Nat) (dir : Bool) (s : State) : Result :=
  match s.linkDir link dir with
  | none => .refused (.notEnabled "DIE_LINK_ACK")
  | some l =>
    if l.ackable = 0 then .refused (.notEnabled "DIE_LINK_ACK")
    else
      .next (s.setLink (linkDirPos link dir)
        ({ l with replay := l.replay.drop l.ackable, lastAck := s.clk.fabric, resends := 0 }.pump))

/-- Every unacknowledged flit is sent again as first sent, and counted. -/
def State.replay (s : State) (link : Nat) (dir : Bool) (l : LinkDir) : State :=
  let s := s.setLink (linkDirPos link dir)
    { l with wire := l.wire ++ l.replay, nak := false, lastAck := s.clk.fabric, resends := l.resends + 1 }
  let x := s.die l.src
  let key := dieLinkKey l.src l.dst
  (s.setDie l.src (x.setRLink key ((x.link key).resent l.replay.length s.clk.time))).noteCorrection
    (srcLink link (if dir then 1 else 0))

def execDieLinkNak (link : Nat) (dir : Bool) (s : State) : Result :=
  match s.linkDir link dir with
  | none => .refused (.notEnabled "DIE_LINK_NAK")
  | some l => if l.nak then .next (s.replay link dir l) else .refused (.notEnabled "DIE_LINK_NAK")

def execDieLinkReplayTimeout (link : Nat) (dir : Bool) (s : State) : Result :=
  match s.linkDir link dir with
  | none => .refused (.notEnabled "DIE_LINK_REPLAY_TIMEOUT")
  | some l =>
    if l.replay.isEmpty || s.clk.fabric < l.lastAck + 512 then .refused (.notEnabled "DIE_LINK_REPLAY_TIMEOUT")
    else .next (s.replay link dir l)

/-! ## Units taken out of service (R441) -/

/-- A core that its port no longer reaches: its launches are killed, its tasks fail, and it binds nothing more. -/
def State.loseCore (s : State) (c : Nat) : State :=
  let ls := (s.dist.launches.filter fun e => e.2.bound.any fun b => decide (b.1 = c)).map Prod.fst
  let s := ls.foldl (fun s l => s.killLaunch l 2) s
  let s := ((s.core c).groups.map Prod.fst).foldl (fun s slot => s.forceEnd c slot) s
  s.setCore c { s.core c with usable := false }

/-- A virtual function without the three domains of a die. -/
def Vf.withoutDie (x : Vf) (d : Nat) : Vf :=
  { x with cfg := { x.cfg with w00 := x.cfg.w00 &&& ~~~(BitVec.ofNat 64 (7 * 2 ^ (32 + 3 * d))) } }

/-- A die that is lost: its domains leave every configuration, the work of their owners is killed, and one class 1 record
says so. -/
def State.loseDie (s : State) (d : Nat) : State :=
  let held := (s.vfs.filter fun (e : Nat × Vf) => e.2.valid && (List.range 3).any fun k => e.2.ownsDomain (3 * d + k)).map Prod.fst
  let s := { s with vfs := s.vfs.map fun (e : Nat × Vf) => (e.1, e.2.withoutDie d) }
  let s := s.setDie d { s.die d with lost := true }
  let s := held.foldl (fun s v => s.killVf v 2) s
  s.raise (srcFw s.activeFw)
    { Event.blank with code := codeLinkDown, cls := 1, block := (srcPlace (srcFw s.activeFw)).1, die := 4, unit := s.activeFw }

/-- A compute die that every die link of which is down. -/
def State.cutOff (s : State) (d : Nat) : Bool :=
  s.dlinks.all fun l => !(decide (l.src = d) || decide (l.dst = d)) || l.down

/-! ## Router links (R423) -/

/-- The event of a link that goes out of service or keeps resending. -/
def routerEvent (d r code cls : Nat) : Event :=
  { Event.blank with code := code, cls := cls, block := 3, die := d, unit := r }

/-- The flits of a die on fresh routes from where they stand (R423). -/
def State.reroute (s : State) (d : Nat) : State :=
  let x := s.die d
  s.setDie d { x with flits := x.flits.map fun f => if f.waits then f else s.fresh d f }

/-- A link that has resent one flit 16 times goes out of service: a router-to-router link sends its traffic another way; the
port link of a core or a slice takes that block out of service. -/
def execLinkDown (die router port : Nat) (s : State) : Result :=
  let x := s.die die
  let l := x.link (8 * router + port)
  if 4 ≤ die || 16 ≤ router || 8 ≤ port || l.down || !x.failed (8 * router + port) || (port = 7 && router % 4 = 3) then
    .refused (.notEnabled "LINK_DOWN")
  else
    let s := s.setDie die (x.setRLink (8 * router + port) { l with down := true })
    let s := s.raise (srcRouter die router) (routerEvent die router codeLinkDown 1)
    if port < 3 then
      let x := s.die die
      let s := s.setDie die { x with flits := x.flits.filter fun f => decide (f.via ≠ 8 * router + port) }
      .next (s.loseCore (48 * die + 12 * (router / 4) + 3 * (router % 4) + port))
    else if port = 3 then .next (s.loseDie die)
    else
      let x := s.die die
      let s := s.setDie die { x with flits := x.flits.map fun f =>
        if f.via = 8 * router + port then { f with router := router, via := f.src, resends := 0 } else f }
      .next (s.reroute die)

/-- More than 1,000 resends within one millisecond: a notice of the router, or of the die link's end (R376, R423). -/
def execLinkRetry (die router port : Nat) (s : State) : Result :=
  let x := s.die die
  let l := x.link (8 * router + port)
  if l.down || l.winCount ≤ 1000 then .refused (.notEnabled "LINK_RETRY")
  else
    let s := s.setDie die (x.setRLink (8 * router + port) { l with winFrom := s.clk.time, winCount := 0 })
    let src := s.portSource die router port
    let ev := if src < 300 then { routerEvent die ((src - 260) / 2) codeLinkRetry 4 with block := 4 } else routerEvent die router codeLinkRetry 4
    .next (s.raise src ev)

/-! ## Die links that go down (R424) -/

/-- The flits of a direction that the receiver has not delivered, oldest first. -/
def LinkDir.undelivered (l : LinkDir) : List (Flit × List Nat) :=
  (l.replay.drop l.ackable).map (fun c => (c.flit, c.stamp)) ++ l.queue

/-- A direction of a link out of service, its tables reset. -/
def LinkDir.cut (l : LinkDir) : LinkDir := { LinkDir.reset l.src l.dst with down := true }

/-- Traffic of one direction put on the new path, in order, and a beacon behind it. -/
def State.switchPath (s : State) (l : LinkDir) : State :=
  let s := l.undelivered.foldl (fun s f => s.linkSend l.src f.1.dstDie f.1 f.2) s
  if s.nextHop l.src l.dst = l.dst then s else s.sendBeacon l.src l.dst

def execDieLinkDown (link : Nat) (s : State) : Result :=
  match s.dlinks[2 * link]?, s.dlinks[2 * link + 1]? with
  | some a, some b =>
    if a.down || (a.resends < 16 && b.resends < 16) then .refused (.notEnabled "DIE_LINK_DOWN")
    else
      let s := (s.setLink (2 * link) a.cut).setLink (2 * link + 1) b.cut
      let s := s.raise (srcLink link 0)
        { Event.blank with code := codeLinkDown, cls := 1, block := 4, die := a.src, unit := link }
      let s := (s.switchPath a).switchPath b
      let lost := [a.src, a.dst].filter fun d => decide (d < 4) && s.cutOff d && !(s.die d).lost
      .next (lost.foldl (fun s d => s.loseDie d) s)
  | _, _ => .refused (.notEnabled "DIE_LINK_DOWN")

/-- Firmware retrains a link that is out of service once the die's packets have drained; a port link of a lost core or
slice stays down until a reset (R423, R441). -/
def execLinkRetrain (dieLink : Bool) (a router port : Nat) (s : State) : Result :=
  if dieLink then
    match s.dlinks[2 * a]?, s.dlinks[2 * a + 1]? with
    | some x, some y =>
      if !x.down || (s.die x.src).lost || (s.die x.dst).lost || !(s.die x.src).flits.isEmpty || !(s.die x.dst).flits.isEmpty then
        .refused (.notEnabled "LINK_RETRAIN")
      else .next ((s.setLink (2 * a) (LinkDir.reset x.src x.dst)).setLink (2 * a + 1) (LinkDir.reset y.src y.dst))
    | _, _ => .refused (.notEnabled "LINK_RETRAIN")
  else
    let x := s.die a
    let key := 8 * router + port
    if port < 4 || !(x.link key).down || !x.flits.isEmpty then .refused (.notEnabled "LINK_RETRAIN")
    else .next (s.setDie a { x with links := KMap.del x.links key })

end Sys2Proof.Machine
end

