-- ==== Sys2Proof/Machine/Firmware.lean ====
section
/-! DEFINITION. The firmware complex at work: the event arbiter, error records and notices, the heartbeat and the takeover,
stage-2 faults, registers, plug-ins, attestation, boot, power and temperature (R23-R34, R158, R358, R361-R364, R375-R382,
R408, R437, R444-R451, R455, R456). -/

namespace Sys2Proof.Machine

/-! ## The firmware cores (R30, R446) -/

/-- The number of the security core and of the management core; 0 and 1 are the schedulers. -/
def fwSecurity : Nat := 2
def fwManagement : Nat := 3

def State.fwRuns (s : State) (f : Nat) : Bool := decide (getAt s.fwc.cores f .halted = .running)

/-- A firmware core's state: one that runs has its kernel in S-mode, and any other stands in M-mode (R362, R450). -/
def State.setFw (s : State) (f : Nat) (x : FwCore) : State :=
  { s with fwc := { s.fwc with
    cores := setAt s.fwc.cores f x, modes := setAt s.fwc.modes f (if x = .running then .supervisor else .machine) } }

/-- STATE of FWC_SCHED (R447). -/
def State.schedState (s : State) : Nat := bits s.fwc.sched.toNat 3 2
def State.setSched (s : State) (takeovers state active : Nat) : State :=
  { s with fwc := { s.fwc with
    sched := (s.fwc.sched &&& 0x00FF0000) ||| BitVec.ofNat 32 (takeovers % 256 * 2 ^ 24 + state % 4 * 4 + active % 2) } }

/-- An event of a firmware core. -/
def fwEvent (f code cls : Nat) : Event := { Event.blank with code := code, cls := cls, block := 17, die := 4, unit := f }

/-! ## The event arbiter (R158, R376, R378, R379) -/

/-- The input that the arbiter takes next: the lowest non-empty one above the last, else the lowest. -/
def Eva.nextInput (a : Eva) : Option Nat :=
  let live := (a.inputs.filter fun i => !i.2.isEmpty).map Prod.fst
  (live.find? fun i => decide (a.ptr < i)).orElse fun _ => live.head?

/-- A failure of a launch, of which the one with the smallest number counts (R435). -/
def State.noteFailure (s : State) (seq : W64) (e : Event) : State :=
  match e.launch with
  | none => s
  | some l =>
    let x := s.launch l
    let s := match KMap.get? s.dist.launches l with
      | some _ => if x.failure.isSome then s else s.setLaunch l { x with failure := some (seq, e.code) }
      | none => s
    s.settleLaunch l

/-- The arbiter has taken the event of a stopped unit of Selham (R444). -/
def State.noteStop (s : State) (e : Event) : State :=
  if e.cls ≠ 3 then s
  else if e.block = 13 then s.setLcr e.unit { s.lcr e.unit with reported := true }
  else if e.block = 14 then s.setSel { s.sel with dme := { s.sel.dme with reported := true } }
  else s

/-- One event taken and stamped: a completion learns its number, and a record waits for firmware. -/
def execEventStamp (s : State) : Result :=
  match s.eva.nextInput with
  | none => .refused (.notEnabled "EVENT_STAMP")
  | some i =>
    match KMap.getD s.eva.inputs i [] with
    | [] => .refused (.notEnabled "EVENT_STAMP")
    | e :: t =>
      let seq := s.eva.seq
      let s := { s with eva := { s.eva with
        inputs := if t.isEmpty then KMap.del s.eva.inputs i else KMap.put s.eva.inputs i t, ptr := i, seq := seq + 1 } }
      match e.kind with
      | .completion q n =>
        let mark := fun (c : Completion) => if c.queue = q && c.index = n && c.evseq.isNone then { c with evseq := some seq } else c
        .next { s with dist := { s.dist with completions := s.dist.completions.map mark } }
      | .record =>
        let x : Stamped := { evseq := seq, ev := e }
        .next (({ s with eva := { s.eva with stamped := s.eva.stamped ++ [x] } }.noteFailure seq e).noteStop e)

/-- A unit's class 0 event, at most one each millisecond (R376). -/
def execCorrectedReport (unit : Nat) (s : State) : Result :=
  let n := KMap.getD s.eva.corrections unit 0
  let soon := (KMap.get? s.eva.reported unit).any fun t => decide (s.clk.time < t + 1000000)
  if n = 0 || soon then .refused (.notEnabled "CORRECTED_REPORT")
  else
    .next { s with eva := { (s.eva.push unit [correctedEvent unit n]) with
      corrections := KMap.del s.eva.corrections unit, reported := KMap.put s.eva.reported unit s.clk.time } }

/-! ## Error records and notices (R375, R377, R380, R381) -/

/-- The word at 0x08 of a record with `lost` dropped records. -/
def recordWord (e : Event) (lost : Nat) : Nat :=
  e.code % 256 * 2 ^ 56 + e.cls % 8 * 2 ^ 53 + e.block % 32 * 2 ^ 48 + e.die % 8 * 2 ^ 45 + e.unit % 256 * 2 ^ 37
    + e.slot % 512 * 2 ^ 28 + e.vf % 128 * 2 ^ 21 + (if e.addrVa then 2 ^ 20 else 0) + (if e.nested then 2 ^ 19 else 0)
    + (if e.adopted then 2 ^ 18 else 0) + min lost 0xFFFF

/-- The 64 bytes of a record. -/
def errRecBytes (x : Stamped) (lost : Nat) : List Byte :=
  let body := [x.evseq.toNat, recordWord x.ev lost, x.ev.addr.toNat, x.ev.info.toNat, x.ev.task.toNat, x.ev.count.toNat, 0].flatMap
    fun w => leBytes 8 w
  body ++ leBytes 8 (crc16 body * 2 ^ 48)

/-- Bytes that firmware writes at an address of the part's memory, or sends to host memory. -/
def State.fwStore (s : State) (a : Nat) (bs : List Byte) : State :=
  if populated a && populated (a + bs.length - 1) then s.storeAll [(a, bs)]
  else s.hostStore a bs

/-- The record written to the host's ring, or counted as lost. Answers whether it was written. -/
def State.writeRecord (s : State) (x : Stamped) : State × Bool :=
  let cfg := s.fwc.errcfg.toNat
  let size := 2 ^ (min (bits cfg 7 4) 10 + 6)
  let head := bits s.fwc.erridx.toNat 31 0
  let tail := bits s.fwc.erridx.toNat 63 32
  if !bit cfg 0 || (tail + 2 ^ 32 - head) % 2 ^ 32 = size then
    ({ s with fwc := { s.fwc with lostCount := min (s.fwc.lostCount + 1) 0xFFFF } }, false)
  else
    let s := s.fwStore (bits cfg 54 12 * 4096 + 64 * (tail % size)) (errRecBytes x s.fwc.lostCount)
    ({ s with fwc := { s.fwc with
      lostCount := 0, erridx := BitVec.ofNat 64 (head + (tail + 1) % 2 ^ 32 * 2 ^ 32) } }, true)

/-- The notice to the virtual function that a record names. Answers whether it was written. -/
def State.writeNotice (s : State) (x : Stamped) (lost : Nat) : State × Bool :=
  let v := x.ev.vf
  let y := s.vf v
  let ctl := y.nctl.toNat
  if v = 127 || x.ev.cls = 0 || 4 < x.ev.cls || !y.valid || !bit ctl 4 then (s, false)
  else
    let size := 2 ^ (min (bits ctl 3 0) 8 + 4)
    let tail := y.nstat.toNat % 65536
    let overrun := fun (s : State) => s.setVf v { s.vf v with nctl := (s.vf v).nctl ||| 0x8000 }
    if (tail + 65536 - bits ctl 31 16) % 65536 = size then (overrun s, false)
    else
      let word := recordWord { x.ev with vf := 0, addrVa := false } lost
      let last := if x.ev.code = codeMark then x.ev.info &&& 0xFFFF else x.ev.task
      match State.agentWrites s 4 v (bits y.nbase.toNat 54 5 * 32 + 32 * (tail % size))
          [x.evseq, BitVec.ofNat 64 word, if x.ev.addrVa then x.ev.addr else 0, last] with
      | (s, .error _) => (overrun s, false)
      | (s, .ok _) => (s.setVf v { s.vf v with nstat := BitVec.ofNat 32 ((tail + 1) % 65536) }, true)

/-- The message that goes with a record (R380). -/
def recordMessage (e : Event) : Bool :=
  e.cls = 1 || e.cls = 2 || e.cls = 3 || e.cls = 5 || e.code = codeThermal || e.code = codeTakeover || e.code = codeLinkDown

/-- The management core, or the active scheduler in its place, writes the oldest stamped event's record and notice. -/
def execErrorRecord (s : State) : Result :=
  match s.eva.stamped with
  | [] => .refused (.notEnabled "ERROR_RECORD")
  | x :: t =>
    if !s.booted || !(s.fwRuns fwManagement || s.fwRuns s.activeFw) then .refused (.notEnabled "ERROR_RECORD")
    else
      let lost := s.fwc.lostCount
      let s := { s with eva := { s.eva with stamped := t } }
      let (s, a) := s.writeRecord x
      let (s, b) := s.writeNotice x lost
      .next (if (a || b) && recordMessage x.ev then { s with fwc := { s.fwc with msix := s.fwc.msix ++ [8 * (x.ev.vf % 128)] } } else s)

/-! ## The heartbeat and the takeover (R446-R452) -/

/-- The heartbeat of the active scheduler. -/
def State.beat (s : State) : State := { s with fwc := { s.fwc with lastBeat := s.clk.time } }

/-- The last entry of each command, in the order in which the commands first stand in the journal. -/
def lastEntries (j : List JEntry) : List JEntry :=
  ((j.map fun e => (e.queue, e.index)).eraseDups).filterMap fun k =>
    (j.filter fun e => decide (e.queue = k.1) && decide (e.index = k.2)).getLast?

/-- A command entry as its fields. -/
def cmdOf (ws : List W64) : Cmd :=
  { w0 := (getAt ws 0 0).extractLsb' 8 56, addr := getAt ws 1 0, arg := getAt ws 2 0, done := getAt ws 3 0 }

/-- A command that was taken and is held nowhere is performed by the stand-in (R450). -/
def State.replayTaken (s : State) (e : JEntry) : State :=
  let pending := s.dist.completions.any fun c => decide (c.queue = e.queue) && decide (c.index = e.index)
  if pending || s.isHanded e.queue e.index then s
  else
    match KMap.get? s.dist.queues e.queue with
    | none => s
    | some x =>
      match s.queueEntry e.queue { x with r := e.index } with
      | (s, .error _) => s
      | (s, .ok ws) =>
        let c := cmdOf ws
        match e.op with
        | 1 => s.launchWith e.queue e.index c (if e.header.isEmpty then none else some e.header)
        | 2 => s.doSelham e.queue e.index c
        | 3 => s.doPrio e.queue e.index c
        | 4 => s.doPreempt e.queue e.index c
        | 5 => s.doResume e.queue e.index c
        | 6 => s.doWait e.queue e.index c
        | 7 => s.doTlbinv e.queue e.index c
        | _ => s.refuse e.queue e.index 1 0 0 c.done

/-- The record of a command that was done is written again to the address that its entry still names; a queue that has come
round since holds another entry there, and its record has been read (DEDUCED, log 44). -/
def State.replayDone (s : State) (e : JEntry) : State :=
  match KMap.get? s.dist.queues e.queue with
  | none => s
  | some x =>
    if 2 ^ x.logn < (x.widx.toNat + 2 ^ 32 - e.index % 2 ^ 32) % 2 ^ 32 then s
    else
      match s.queueEntry e.queue { x with r := e.index } with
      | (s, .error _) => s
      | (s, .ok ws) => (s.cmdStore e.queue (bits (getAt ws 3 0).toNat 54 0) (e.record.flatMap fun w => leBytes 8 w.toNat)).1

def State.replayEntry (s : State) (e : JEntry) : State :=
  if e.kind = 1 then s.replayTaken e
  else if e.kind = 3 then s.replayDone e
  else s

/-- Read indexes from the journal; kick bits cleared, and every queue looked at again. -/
def State.rescan (s : State) (j : List JEntry) : State :=
  { s with dist := { s.dist with
    kick := []
    queues := s.dist.queues.map fun (q : Nat × CmdQueue) =>
      let top := (j.filter fun e => decide (e.queue = q.1)).foldl (fun n e => max n (e.index + 1)) 0
      (q.1, { q.2 with r := if top = 0 then q.2.r else top, blocked := false }) } }

/-- Handover: the failing core is held in reset, STATE is 1, and the stand-in is signalled (R450, step 2). -/
def State.handover (s : State) : State :=
  (s.setFw s.activeFw .inReset).setSched (bits s.fwc.sched.toNat 31 24) 1 s.activeFw

/-- The stand-in replays the journal, scans the queues again, and takes the place of the active scheduler (R450, steps 3 to
5). Its own entries follow the last one that it could read. -/
def State.takeover (s : State) : State :=
  let new := 1 - s.activeFw
  let j := s.journalRead
  let s := { s with fwc := { s.fwc with journalSeq := (j.getLast?.map fun (e : JEntry) => e.seq + 1).getD s.fwc.journalSeq } }
  let s := { s with dist := { s.dist with queues := s.dist.queues.map fun (q : Nat × CmdQueue) => (q.1, { q.2 with waiting := none }) } }
  let s := s.rescan j
  let s := (lastEntries j).foldl State.replayEntry s
  let s := s.setSched (min 255 (bits s.fwc.sched.toNat 31 24 + 1)) 2 new
  let s := s.beat.raise (srcFw new) (fwEvent new codeTakeover 4)
  let held := s.dist.completions.filter fun c => c.evseq.isSome
  held.foldl (fun s c => (s.journalAdd c.queue (s.journalOp c.queue c.index) 1 c.index [] []).writeCompletion c
    (s.journalOp c.queue c.index)) s

/-- A heartbeat; the first of a stand-in that has been signalled ends the takeover (R447, R450). -/
def execHeartbeat (s : State) : Result :=
  if s.booted && s.fwRuns s.activeFw then .next s.beat
  else if s.booted && s.schedState = 1 && s.fwRuns (1 - s.activeFw) then .next s.takeover
  else .refused (.notEnabled "HEARTBEAT")

/-- The active scheduler fails: the handover to the stand-in, or without one acceptance halts for good. -/
def State.failScheduler (s : State) : State :=
  if s.schedState = 0 && s.fwRuns (1 - s.activeFw) then s.handover
  else (s.setFw s.activeFw .halted).raise (srcFw s.activeFw) (fwEvent s.activeFw codeUncorrected 1)

/-- The security core finds the heartbeat late: of a core that runs, or of one that a trap in M-mode left without its handover
path. -/
def execHeartbeatTimeout (s : State) : Result :=
  let limit := max 1 (bits s.fwc.sched.toNat 23 16) * 1000000
  let core := getAt s.fwc.cores s.activeFw .halted
  if !s.booted || (core ≠ .running && core ≠ .stuck) || !s.fwRuns fwSecurity || s.clk.time < s.fwc.lastBeat + limit then
    .refused (.notEnabled "HEARTBEAT_TIMEOUT")
  else .next s.failScheduler

/-- The failed core is reloaded and checked; it is the stand-in again, or stays out. -/
def execStandinReload (checkOk : Bool) (s : State) : Result :=
  let f := 1 - s.activeFw
  if s.schedState ≠ 2 || getAt s.fwc.cores f .halted ≠ .inReset || !s.fwRuns fwManagement then .refused (.notEnabled "STANDIN_RELOAD")
  else if checkOk then .next ((s.setFw f .running).setSched (bits s.fwc.sched.toNat 31 24) 0 s.activeFw)
  else .next (s.setFw f .halted)

/-- The active scheduler traps in M-mode: whether its handover path can run is a free choice. Without it the core waits for
its heartbeat to be found late; without a stand-in it halts (R450). -/
def State.trapScheduler (s : State) : State :=
  let f := s.activeFw
  match s.choice 2 with
  | (0, s) => if s.schedState = 0 && s.fwRuns (1 - f) then s.handover else s.setFw f .halted
  | (_, s) => s.setFw f .stuck

/-- An uncorrectable error in the memory of a firmware core (R446). A stand-in that fails while it takes over leaves no
scheduler. -/
def execFirmwareMemoryError (fw : Nat) (s : State) : Result :=
  if 4 ≤ fw || !s.booted || !s.fwRuns fw then .refused (.notEnabled "FIRMWARE_MEMORY_ERROR")
  else
    let told := s.raise (srcFw fw) (fwEvent fw codeUncorrected 1)
    if fw = s.activeFw then
      .next told.trapScheduler
    else if fw < 2 then
      .next ((told.setFw fw (if s.schedState = 1 then .halted else .inReset)).setSched (bits s.fwc.sched.toNat 31 24) 2 s.activeFw)
    else if fw = fwManagement then
      .next { (told.setFw fw .halted) with clk := { s.clk with arithMhz := 1800, fabMhz := 1200 } }
    else .next (told.setFw fw .halted)

/-! ## Stage-2 faults (R408, R411, R456) -/

/-- Firmware resolves or declines the stage-2 fault that reached it first; one on a page that is being merged or moved waits
for the end of that. -/
def execStage2FaultResolve (s : State) : Result :=
  match s.fwc.holds with
  | [] => .refused (.notEnabled "STAGE2_FAULT_RESOLVE")
  | h :: _ =>
    if s.inWindow h.vf (h.ia / 65536) then .refused (.notEnabled "STAGE2_FAULT_RESOLVE") else .next s.answerHold

/-! ## Registers (R52, R67, R271, R279, R303, R306-R308, R337, R338, R358, R361, R377, R381, R382, R420, R422, R437, R439,
R444, R447, R455) -/

/-- MEMSHARE of a virtual function's configuration. -/
def memShare (c : VfCfgWords) : Nat := bits c.w00.toNat 23 16

/-- The shares of every die fit beside Selham's (R357). -/
def sharesFit (vfs : KMap Vf) (share : Nat) : Bool :=
  (List.range 4).all fun d =>
    decide (((vfs.filter fun e => e.2.valid && (List.range 3).any fun k => e.2.ownsDomain (3 * d + k)).map
      fun e => memShare e.2.cfg).foldl (· + ·) share ≤ 64)

/-- A debugger's operation that a write to CORE_DBG starts; one that cannot start leaves the state. -/
def State.debugOp (s : State) (c : Nat) (w : Nat) : State :=
  let slot := bits w 8 0
  let r : Result := match bits w 27 25 with
    | 1 => execDebugStop c slot s
    | 2 => execDebugStepGroup c slot s
    | 3 => execDebugStepEntry c slot (bit w 16) (bits w 24 17) s
    | 4 => execDebugResume c slot s
    | _ => .next s
  match r with
  | .next t => t
  | .fault _ => s
  | .refused _ => s

/-- A write by firmware. -/
def State.fwWrite (s : State) (reg : MmioReg) (value : W64) : State :=
  let w : W32 := value.setWidth 32
  match reg with
  | .qtrSched c q => s.setCore c ((s.core c).setQuarter q { (s.core c).quarter q with sched := w &&& 0x000FF0FF })
  | .eseCtl c => s.setCore c { s.core c with eseCtl := w &&& 0x0000FFFF }
  | .coreDbg c =>
    if bits w.toNat 27 25 ≠ 0 && s.dbgIgnores c then s
    else (s.setCore c { s.core c with dbg := w &&& 0x21FF01FF }).debugOp c w.toNat
  | .l2sPway _ => s
  | .l2sVfway _ _ => s
  | .l2sWmstat d => s.setDie d { s.die d with wmstat := (s.die d).wmstat &&& ~~~(w &&& 0x8000) }
  | .l2sSeqto d => s.setDie d { s.die d with seqto := w &&& 0x00FFFFFF }
  | .fabCtl d => s.setDie d { s.die d with fabCtl := w &&& 0x0000FF01 }
  | .memcScrub d => s.setDie d { s.die d with memcScrub := w &&& 0xFFFF00F1 }
  | .distDbell v k => s.ringDoorbell v k w
  | .distKick n => { s with dist := { s.dist with kick := KMap.putD s.dist.kick n (KMap.getD s.dist.kick n 0 &&& ~~~w) 0 } }
  | .distPto => { s with dist := { s.dist with pto := w &&& 0x00FFFFFF } }
  | .distNbase v => s.setVf v { s.vf v with nbase := value &&& 0x007FFFFFFFFFFFE0 }
  | .distNctl v => s.writeNotify v 0x108 w
  | .distNstat _ => s
  | .fwcPkgid => s
  | .fwcErrcfg => s
  | .fwcErridx => s
  | .fwcSched =>
    let s := { s with fwc := { s.fwc with sched := (s.fwc.sched &&& 0xFF00000D) ||| (w &&& 0x00FF0000) } }
    if w.getLsbD 4 then s.beat else s
  | .fwcKill => s
  | .fwcHpol v => s.setVf v { s.vf v with hpol := w &&& 0x1F }
  | .siftCtl => { s with fwc := { s.fwc with sift := w &&& 0xFF007F01 } }
  | .selBwres =>
    if bits w.toNat 3 0 ≤ 8 && sharesFit s.vfs (bits w.toNat 3 0) then s.setSel { s.sel with bwres := w &&& 0xF } else s
  | .selRctl => s.setSel { s.sel with rctl := w &&& 0x0000FF00 }
  | .selFrdy h => s.setHead h { s.head h with frdy := w }
  | .selFrtn _ => s
  | .scanStat h =>
    let x := s.selHead h
    s.setSelHead h { x with stat := (w &&& 0xFFFF0000) ||| (x.stat &&& ~~~(w &&& 7) &&& 7) }
  | .pmb slot off => s.writePose (64 * slot + off) w

/-- A write of FWC_KILL: GO starts the kill that the other fields name (R437). -/
def State.writeKill (s : State) (value : W64) : State :=
  let x := value.toNat
  let q := bits x 31 22
  if !bit x 0 then s.setKill ((value &&& 0x0000FFFFFFE00000) ||| (s.fwc.kill &&& 2))
  else if bit x 21 then (if s.booted && !s.killBusy then s.killAll q (bits x 47 32) else s)
  else
    match execContextKill q (BitVec.ofNat 16 (bits x 47 32)) s with
    | .next t => t
    | .fault _ => s
    | .refused _ => s

/-- The registers that the hypervisor writes; any other ignores it (R455). -/
def State.hvWrite (s : State) (reg : MmioReg) (value : W64) : State :=
  match reg with
  | .fwcErrcfg => { s with fwc := { s.fwc with errcfg := value &&& 0x007FFFFFFFFFF0F1 } }
  | .fwcErridx => { s with fwc := { s.fwc with erridx := (s.fwc.erridx &&& 0xFFFFFFFF00000000) ||| (value &&& 0xFFFFFFFF) } }
  | .fwcKill => s.writeKill value
  | .distDbell v k => if v = 127 then s.ringDoorbell v k (value.setWidth 32) else s
  | _ => s

/-- The registers of the pages that a tenant's space can hold; RO ones change nothing. -/
def State.tenantWrite (s : State) (v : Nat) (reg : MmioReg) (value : W64) : State :=
  match reg with
  | .distDbell x k => if x = v then s.ringDoorbell v k (value.setWidth 32) else s
  | .distNbase x => if x = v then s.fwWrite reg value else s
  | .distNctl x => if x = v then s.fwWrite reg value else s
  | .selFrdy _ => s.fwWrite reg value
  | .pmb _ _ => s.fwWrite reg value
  | _ => s

/-- The register stands in the part. -/
def regExists (r : MmioReg) : Bool :=
  match r with
  | .qtrSched c q => decide (c < 192) && decide (q < 4)
  | .eseCtl c => decide (c < 192)
  | .coreDbg c => decide (c < 192)
  | .l2sPway d => decide (d < 4)
  | .l2sVfway d v => decide (d < 4) && decide (v < 128)
  | .l2sWmstat d => decide (d < 4)
  | .l2sSeqto d => decide (d < 4)
  | .fabCtl d => decide (d < 4)
  | .memcScrub d => decide (d < 4)
  | .distDbell v k => decide (v < 128) && decide (k < 8)
  | .distKick n => decide (n < 32)
  | .distNbase v => decide (v < 128)
  | .distNctl v => decide (v < 128)
  | .distNstat v => decide (v < 128)
  | .fwcHpol v => decide (v < 128)
  | .selFrdy h => decide (h < 4)
  | .selFrtn h => decide (h < 4)
  | .scanStat h => decide (h < 4)
  | .pmb slot off => decide (slot < 8) && decide (off < 64) && decide (off % 4 = 0)
  | .distPto => true
  | .fwcPkgid => true
  | .fwcErrcfg => true
  | .fwcErridx => true
  | .fwcSched => true
  | .fwcKill => true
  | .siftCtl => true
  | .selBwres => true
  | .selRctl => true

/-- A write to a register that has no row of its own; the mask registers have (R277). No tenant's write reaches a register that
only firmware writes: the store traps with PERMISSION where it issues (R455, `mmioDenied`). -/
def execRegisterWrite (reg : MmioReg) (value : W64) (by_ : Writer) (s : State) : Result :=
  if !regExists reg then .refused (.notEnabled "REGISTER_WRITE")
  else
    match by_ with
    | .firmware =>
      match reg with
      | .l2sPway d => execL2sPwayWrite d (value.setWidth 32) s
      | .l2sVfway d v => execL2sVfwayWrite d v (value.setWidth 32) s
      | _ => .next (s.fwWrite reg value)
    | .hypervisor => .next (s.hvWrite reg value)
    | .tenant v =>
      if firmwareOnly reg then .refused (.notEnabled "REGISTER_WRITE") else .next (s.tenantWrite v reg value)

/-! ## Plug-ins and attestation (R362, R364) -/

def State.reply (s : State) (r : MailReply) : State := { s with fwc := { s.fwc with mailbox := s.fwc.mailbox ++ [r] } }

def execPluginLoad (plugin : Nat) (code : List Byte) (s : State) : Result :=
  if !s.booted then .refused (.notEnabled "PLUGIN_LOAD")
  else if 262144 < code.length then .next (s.reply .refused)
  else
    let ps := s.fwc.plugins.filter fun p => decide (p.id ≠ plugin)
    let p : Plugin := { id := plugin, code := code, data := [] }
    .next ({ s with fwc := { s.fwc with plugins := ps ++ [p] } }.reply (.pluginLoaded plugin))

/-- Every candidate that a core could bind. -/
def State.allCands (s : State) (c : Nat) : State × List Cand :=
  match s.coreVf c with
  | none => (s, [])
  | some v =>
    let wgs := s.dist.launches.flatMap fun e => if e.2.hdr.vf = v then s.wgCands c e.1 else []
    let (s, tasks) := s.taskCands c v (List.range (min 16 (s.vf v).tqCnt))
    (s, (wgs ++ tasks).map fun k => k.cand)

/-- The size of a region that PMP opens to a plug-in; the VF configurations are 128 of 128 bytes (R356, R362). -/
def Plugin.sizeOf (p : Plugin) : FwRegion → Nat
  | .code => p.code.length
  | .data => 262144
  | .vfConfigs => 16384
  | .other => 0

/-- What PMP lets a plug-in do: execute and read its code, read and write its data, read the VF configurations (R362). -/
def Plugin.allows (p : Plugin) : PluginAct → Bool
  | .fetch r off => decide (r = .code) && decide (off < p.sizeOf r)
  | .load r off n => decide (off + n ≤ p.sizeOf r)
  | .store r off bs => decide (r = .data) && decide (off + bs.length ≤ p.sizeOf r)

/-- An access that PMP allows: a store changes the plug-in's data, and nothing else of the part. -/
def Plugin.act (p : Plugin) (a : PluginAct) : Plugin :=
  match a with
  | .store _ off bs => { p with data := bs.zipIdx.foldl (fun m b => KMap.putD m (off + b.2) b.1 0) p.data }
  | .fetch _ _ => p
  | .load _ _ _ => p

/-- The accesses of a call in turn, up to the first that PMP refuses: the plug-in after them, and whether none was refused. -/
def Plugin.run (p : Plugin) : List PluginAct → Plugin × Bool
  | [] => (p, true)
  | a :: t => if p.allows a then (p.act a).run t else (p, false)

/-- The plug-in with the identifier is this one. -/
def State.setPlugin (s : State) (p : Plugin) : State :=
  { s with fwc := { s.fwc with plugins := s.fwc.plugins.map fun (x : Plugin) => if x.id = p.id then p else x } }

/-- The built-in default: firmware selects by R342. -/
def State.selectDefault (s : State) (core : Nat) : State :=
  match s.select core with
  | (s, some a) => s.choose core a
  | (s, none) => s

/-- The candidate that a decision numbers, or the default where it numbers none. -/
def State.selectDecided (s : State) (core n : Nat) : State :=
  let (t, cs) := s.allCands core
  match cs[n]? with
  | some a => t.choose core a
  | none => s.selectDefault core

/-- A plug-in's decision among a core's candidates, while nothing is selected for the core. The active scheduler's kernel, in
S-mode, calls it, and it runs in U-mode until its `ecall`. A call beyond 100,000 instructions, or one that traps, as an access
that PMP refuses does, is ended, and R342 selects (R362). The binary's instructions are RV64GC's, to which the manual gives no
meaning: what a call accesses and how it ends are operands. -/
def execPluginCall (plugin core : Nat) (result : PluginResult) (s : State) : Result :=
  if (KMap.get? s.dist.chosen core).isSome || getAt s.fwc.modes s.activeFw .machine ≠ .supervisor then
    .refused (.notEnabled "PLUGIN_CALL")
  else
    match s.fwc.plugins.find? fun p => decide (p.id = plugin) with
    | none => .refused (.notEnabled "PLUGIN_CALL")
    | some p =>
      match result with
      | .trapped => .next (s.selectDefault core)
      | .decision n count => .next (if 100000 < count then s.selectDefault core else s.selectDecided core n)
      | .ran acts n count =>
        let (p, ok) := p.run acts
        let s := s.setPlugin p
        .next (if ok && count ≤ 100000 then s.selectDecided core n else s.selectDefault core)

/-- The 128 bytes of a VF configuration (R356). -/
def cfgBytes (c : VfCfgWords) : List Byte :=
  ([c.w00, c.w08, c.w10, c.w18, c.w20, c.w28, c.w30].flatMap fun w => leBytes 8 w.toNat) ++ List.replicate 72 0#8

/-- A digest as it stands in memory, its first byte first. -/
def digestBytes (d : BitVec 512) : List Byte := (leBytes 64 d.toNat).reverse

/-- The bytes of a report that its signature covers (R364). -/
def reportBytes (nonce image : BitVec 512) (plugins : List (BitVec 512)) (config : BitVec 512) (pkgid : W32) : List Byte :=
  leBytes 64 nonce.toNat ++ digestBytes image ++ plugins.flatMap digestBytes ++ digestBytes config ++ leBytes 4 pkgid.toNat

/-- The report for a virtual function, signed with the part's identity key; the nonce of a signature is free (log 9). -/
def State.attest (s : State) (vf : Nat) (nonce : BitVec 512) : State :=
  let ps := s.fwc.plugins.map fun p => sha512 p.code
  let cfg := sha512 (cfgBytes (s.vf vf).cfg)
  let sig := ecdsaSign Config.identityKey (Config.signNonce s.frees)
    (sha512 (reportBytes nonce s.fwc.imageDigest ps cfg s.fwc.pkgid))
  { s with frees := s.frees + 1 }.reply (.attestation nonce s.fwc.imageDigest ps cfg s.fwc.pkgid sig)

def execAttestationReport (vf : Nat) (nonce : BitVec 512) (s : State) : Result :=
  if !s.booted then .refused (.notEnabled "ATTESTATION_REPORT")
  else if s.fwRuns fwSecurity then .next (s.attest vf nonce)
  else .next (s.reply .refused)

/-! ## Boot, power and temperature (R23, R24, R31-R34, R363, R444) -/

/-- Everything of an image before its signature. -/
def imageBody (x : FwImage) : List Byte := x.header ++ x.sections.flatten

/-- The bytes of a public key: two coordinates of 66 bytes, the most significant first. -/
def keyBytes (q : Nat × Nat) : List Byte := (leBytes 66 q.1).reverse ++ (leBytes 66 q.2).reverse

/-- What the boot ROM checks: four sections, a key of the fused digest, its signature over the image's digest, and a version
not below the fused count (R363). -/
def imageGood (x : FwImage) (signature : Nat × Nat) : Bool :=
  decide (x.sections.length = 4) && decide (sha512 (keyBytes (Config.headerKey x.header)) = Config.keyDigest)
    && ecdsaOk (Config.headerKey x.header) (sha512 (imageBody x)) signature
    && decide (Config.rollbackCount ≤ Config.headerVersion x.header)

/-- Power-on: the image is checked and its sections start the four cores; then the good dies and devices fill FWC_PKGID and all
memory is scrubbed. The journal's frames are firmware's (R354, R448), and the security core sets the keys of IDE (R352). A part that R34 refuses launches on is reported to the host. -/
def execBoot (image : FwImage) (signature : Nat × Nat) (dies : BitVec 5) (memdev : Byte) (s : State) : Result :=
  if s.booted || !s.fwc.securityOk then .refused (.notEnabled "BOOT")
  else if !imageGood image signature then
    .next { s with fwc := { s.fwc with
      securityOk := false, cores := [.inReset, .inReset, .inReset, .inReset], modes := [.machine, .machine, .machine, .machine] } }
  else
    let id := BitVec.ofNat 32 (0x96020000 + dies.toNat * 2 ^ 11 + memdev.toNat)
    let s := { s with
      booted := true, mem := [], poison := [], noise := []
      fwc := { s.fwc with
        pkgid := id, fwVersion := Config.headerVersion image.header, imageDigest := sha512 (imageBody image)
        sections := image.sections, cores := [.running, .running, .running, .running]
        modes := [.supervisor, .supervisor, .supervisor, .supervisor]
        owners := (s.fwc.journalAt.flatMap fun b => (List.range 16).map fun i => b / 65536 + i).foldl (fun m f => KMap.put m f 0xFF)
          s.fwc.owners
        lastBeat := s.clk.time, nextKey := s.fwc.nextKey + 3 }
      clk := { s.clk with ideKeys := [(0, s.fwc.nextKey), (1, s.fwc.nextKey + 1), (2, s.fwc.nextKey + 2)] } }
    .next (if s.wrongPart then { s with clk := { s.clk with hostOut := s.clk.hostOut ++ [HostMsg.report id] } } else s)

/-- The fabric clock that R24 sets beside an arithmetic clock, in MHz. -/
def fabricFor (mhz : Nat) : Nat := 2400 * mhz / 3600 / 100 * 100

/-- One step of 100 MHz of the arithmetic clock, from 200 MHz upward: R24 gives no floor (DESIGN CHOICE, log 40). -/
def execPowerLimitStep (up : Bool) (s : State) : Result :=
  let m := s.clk.arithMhz
  if !s.booted || !s.fwRuns fwManagement || s.clk.thermal ≠ .running || (up && 3600 ≤ m) || (!up && m ≤ 100) then
    .refused (.notEnabled "POWER_LIMIT_STEP")
  else
    let m := if up then m + 100 else m - 100
    .next { s with clk := { s.clk with arithMhz := m, fabMhz := fabricFor m } }

/-- A die at 105 °C: the three clocks stop, with a THERMAL event. -/
def execThermalStop (die : Nat) (s : State) : Result :=
  if 5 ≤ die || !s.booted || s.clk.thermal ≠ .running || !s.fwRuns fwManagement then .refused (.notEnabled "THERMAL_STOP")
  else
    .next ({ s with clk := { s.clk with thermal := .stopped, stopTime := s.clk.time } }.raise (srcFw fwManagement)
      { fwEvent fwManagement codeThermal 1 with die := die })

/-- A head that starts again at line 0 of a new presented frame (R32, R328). -/
def restartHead (now serial : Nat) (hd : Head) : Head :=
  if !hd.driven then hd
  else
    let w := hd.show_
    let shown := if w.vtotal = 0 then 0 else (w.nextLine + w.vtotal - 1) / w.vtotal * w.vtotal
    let t0 := roundUp16 (now + max w.lead (2 * w.lineClk) + 16)
    { hd with
      old := none, returns := hd.returns.map fun r => (r.1, none, r.2.2)
      show_ := { w with
        serial := serial, t0 := t0, nextLine := 0, nextScan := 0, upto := w.upto.map fun n => n - shown, fifo := [], late := []
        gov := [], reel := [], nums := [] } }

/-- Firmware reloads the units of a running launch, without counting restarts (R32, R444). -/
def State.reloadSelham (s : State) : State :=
  if !s.sel.running then s
  else
    let heads := (List.range 4).map fun h => restartHead s.clk.selham s.sel.serial (s.selHead h)
    let first := (heads.filter fun h => h.driven).foldl (fun (b : Option Nat) h =>
      let t := h.show_.t0 - h.show_.lead
      match b with
      | none => some t
      | some u => some (min t u)) none
    let d := s.sel.dme
    let d := if s.load.dmePc = 0 then d else
      { d with
        pc := 0, stack := [], busy := .waitClk (first.getD s.clk.selham), halted := false, stopped := false, reported := false
        accum := [], accumBad := [], accumTaint := [] }
    s.setSel { s.sel with
      heads := heads, dme := d, serial := s.sel.serial + 1
      lcrs := s.sel.lcrs.map fun (e : Nat × Lcr) =>
        (e.1, { loadLcr s.load e.1 Lcr.reset with runs := e.2.runs.map fun r => { r with tok := none } }) }

/-- The clocks stay stopped: 10 s have passed, or a die reports 115 °C. -/
def execThermalHold (die : Nat) (s : State) : Result :=
  if 5 ≤ die || s.clk.thermal ≠ .stopped || !s.fwRuns fwManagement then .refused (.notEnabled "THERMAL_HOLD")
  else
    .next ({ s with clk := { s.clk with thermal := .held } }.raise (srcFw fwManagement)
      { fwEvent fwManagement codeThermal 1 with die := die })

end Sys2Proof.Machine
end

