-- ==== Sys2Proof/Machine/HostEvents.lean ====
section
/-! DEFINITION. Requests of the hypervisor, accesses of the host, and the care of memory: queues, virtual functions and domains,
the sifter, scrubbers and frame retirement, and the restart after a thermal stop (R28, R32, R334, R335, R352-R357, R361, R410,
R416, R419, R420, R456). -/

namespace Sys2Proof.Machine

/-! ## Queues and virtual functions (R334, R355-R357, R456) -/

/-- Firmware creates a command queue, or refuses one outside R334 or one that exists. -/
def execCreateQueue (queue base logn : Nat) (s : State) : Result :=
  if !s.booted then .refused (.notEnabled "CREATE_QUEUE")
  else if 1024 ≤ queue || base % 32 ≠ 0 || logn < 4 || 16 < logn || (KMap.get? s.dist.queues queue).isSome then
    .next (s.reply .refused)
  else .next (s.setQueue queue { base := base, logn := logn, r := 0, widx := 0, waiting := none, blocked := false })

/-- A resident group, a queued task or a running Selham launch of a virtual function (R355). -/
def State.vfBusy (s : State) (v : Nat) : Bool :=
  !(s.groupsOf v).isEmpty || (s.sel.running && decide (s.load.vf = v))
    || (List.range (min 16 (s.vf v).tqCnt)).any fun q => (s.taskHead 4 v q).2.isSome

/-- The bits of a configuration that are fields, and their limits (R356). -/
def vfCfgOk (c : VfCfgWords) : Bool :=
  onlyBits c.w00 [(63, 63), (43, 32), (31, 24), (23, 16), (11, 0)] && onlyBits c.w08 [(54, 0)] && onlyBits c.w10 [(31, 0)]
    && onlyBits c.w18 [(54, 0)] && onlyBits c.w20 [(16, 0)] && onlyBits c.w28 [(54, 0)] && onlyBits c.w30 [(4, 0)]
    && decide (memShare c ≤ 48) && decide (bits c.w20.toNat 16 0 ≤ 65536) && decide (bits c.w30.toNat 4 0 ≤ 16)

/-- The cores of a domain (R26). -/
def domainCores (k : Nat) : List Nat := (List.range 16).map fun i => 48 * (k / 3) + 16 * (k % 3) + i

/-- The cores of a domain hold work: of its owner, or of the one that it is being taken from (R357). -/
def State.domainWorks (s : State) (k : Nat) : Bool := (domainCores k).any fun c => !(s.core c).groups.isEmpty

/-- A domain that a new configuration would take from another virtual function, or take or leave while its cores hold work, as
they do while the domain is being moved (R357). -/
def State.domainClash (s : State) (v : Nat) (new : Vf) : Bool :=
  (List.range 12).any fun k =>
    (new.ownsDomain k != (s.vf v).ownsDomain k && s.domainWorks k)
      || (new.ownsDomain k && !(s.vf v).ownsDomain k
        && (s.vfs.any (fun e => decide (e.1 ≠ v) && e.2.valid && e.2.ownsDomain k) || (s.die (k / 3)).lost))

/-- The cores of a domain are given to virtual function `v`, cleared (R83, R229, R232). -/
def State.giveDomain (s : State) (k v : Nat) : State := (domainCores k).foldl (fun s c => s.assign c v) s

/-- Firmware writes a configuration, or refuses one that breaks R27, R356 or R357. -/
def execVfConfigWrite (vf : Nat) (cfg : VfCfgWords) (s : State) : Result :=
  if !s.booted || 127 ≤ vf then .refused (.notEnabled "VF_CONFIG_WRITE")
  else
    let old := s.vf vf
    let new := { old with cfg := cfg }
    if !vfCfgOk cfg || new.valid != old.valid || s.domainClash vf new
        || !sharesFit (KMap.put s.vfs vf new) (bits s.sel.bwres.toNat 3 0) then .next (s.reply .refused)
    else
      let gained := (List.range 12).filter fun k => new.ownsDomain k && !old.ownsDomain k
      let s := gained.foldl (fun s k => s.giveDomain k vf) s
      .next (s.setVf vf { s.vf vf with cfg := cfg })

/-- A virtual function comes to be with a fresh key pair and counters 0, the lane-bank writes that cores hold for its number
among them (R360). -/
def execVfCreate (vf root1 root2 : Nat) (s : State) : Result :=
  if !s.booted || 127 ≤ vf then .refused (.notEnabled "VF_CREATE")
  else if !s.fwRuns fwSecurity || (s.vf vf).valid then .next (s.reply .refused)
  else
    let x : Vf := { Vf.reset with
      cfg := { VfCfgWords.zero with w00 := 0x8000000000000000 }, root1 := some root1, root2 := some root2
      key := some s.fwc.nextKey }
    .next { (s.setVf vf x) with
      fwc := { s.fwc with nextKey := s.fwc.nextKey + 1 }
      cores := s.cores.map fun c => (c.1, if c.2.lastVf = some vf then { c.2 with bankWrites := 0 } else c.2) }

/-- The frames with ENC = 1 of a virtual function. -/
def State.framesOf (s : State) (v : Nat) : List Nat :=
  (s.fwc.owners.filter fun o => decide (o.2.toNat = 128 + v)).map Prod.fst

/-- A virtual function without work goes: its keys are erased, and its frames with ENC = 1 read as noise (R355). -/
def State.eraseVf (s : State) (vf : Nat) : State :=
  let s := { s with
    noise := s.noise ++ s.framesOf vf
    fwc := { s.fwc with holds := s.fwc.holds.filter fun h => decide (h.vf ≠ vf), merged := s.fwc.merged.filter fun m => decide (m.1 ≠ vf) } }
  (s.setVf vf Vf.reset).dropTlb fun t => decide (t.vf = vf)

/-- The running Selham launch of a virtual function stops for a kill. -/
def State.selhamEnds (s : State) (vf : Nat) : Bool := s.sel.running && s.sel.killed && decide (s.load.vf = vf)

/-- A virtual function is destroyed: its work is killed, and its keys are erased once it has none (R355, R436). While its Selham
launch is still to stop, the step waits to be executed again. -/
def execVfDestroy (vf : Nat) (s : State) : Result :=
  if !s.booted || 127 ≤ vf then .refused (.notEnabled "VF_DESTROY")
  else if !(s.vf vf).valid then .next (s.reply .refused)
  else if s.selhamEnds vf && (s.groupsOf vf).isEmpty then .refused (.notEnabled "VF_DESTROY")
  else
    let s := s.killVf vf 3
    .next (if s.vfBusy vf then s else s.eraseVf vf)

/-- The number of the key pair under which the controllers keep a frame of an owner byte; none for a plain frame (R354,
R355). -/
def State.keyOf (s : State) (owner : Byte) : Option Nat :=
  if owner.getLsbD 7 then (s.vf (owner.toNat % 128)).key else none

/-- A granule of a frame, as a controller with the key `new` reads what one with the key `old` has stored (R355). -/
def rekeyGranule (old new : Option Nat) (granule : Nat) (bs : List Byte) : List Byte :=
  let raw := match old with
    | none => bs
    | some k => xtsGranule false (Config.keyPair k) granule bs
  match new with
  | none => raw
  | some k => xtsGranule true (Config.keyPair k) granule raw

/-- A frame under another key: the stored bytes stay, and read under the new key. -/
def State.rekeyFrame (s : State) (f : Nat) (old new : Option Nat) : State :=
  if old = new then s
  else
    let one := fun (m : List Host.Cell) (g : Nat) =>
      let a := 65536 * f + 256 * g
      Memory.write m a (rekeyGranule old new (a / 256) ((List.range 256).map fun i => Memory.byte m (a + i)))
    { s with mem := (List.range 256).foldl one s.mem }

/-- A change of a frame's owner byte, or of its virtual function's key, where neither virtual function concerned has work
(R355); a frame of an erased key is scrubbed first. -/
def execFrameOwnerChange (frame : Nat) (owner : Byte) (newKey : Bool) (s : State) : Result :=
  if !s.booted || !populated (65536 * frame) then .refused (.notEnabled "FRAME_OWNER_CHANGE")
  else
    let old := s.ownerOf frame
    let v := owner.toNat % 128
    let busy := fun (b : Byte) => (s.vf (b.toNat % 128)).valid && s.vfBusy (b.toNat % 128)
    if !s.fwRuns fwSecurity || busy old || busy owner || old = 0xFF || owner = 0xFF || (newKey && !(s.vf v).valid) then
      .next (s.reply .refused)
    else
      let s := if newKey then
          let s := (s.framesOf v).foldl (fun s f => s.rekeyFrame f (s.vf v).key (some s.fwc.nextKey)) s
          { (s.setVf v { s.vf v with key := some s.fwc.nextKey }) with fwc := { s.fwc with nextKey := s.fwc.nextKey + 1 } }
        else s
      let s := if s.noise.contains frame then s.zeroFrame frame
        else s.rekeyFrame frame (s.keyOf old) (s.keyOf owner)
      .next { s with fwc := { s.fwc with owners := KMap.putD s.fwc.owners frame owner 0 } }

/-- The work of a virtual function on a core is pre-empted with RULE 0 (R348, R349). -/
def State.preemptCore (s : State) (c : Nat) : State :=
  let k := s.core c
  let s := ((k.wgs.filter fun w => !w.2.isTask).map Prod.fst).foldl (fun s n => s.preemptWg true (c, n)) s
  (((s.core c).groups.filter fun g => g.2.task.isSome).map Prod.fst).foldl (fun s slot => s.parkTask c slot) s

/-- A configuration with a domain taken away or given. -/
def Vf.setDomain (x : Vf) (k : Nat) (own : Bool) : Vf :=
  let b : W64 := BitVec.ofNat 64 (2 ^ (32 + k))
  { x with cfg := { x.cfg with w00 := if own then x.cfg.w00 ||| b else x.cfg.w00 &&& ~~~b } }

/-- A domain moves: while its cores hold the old owner's work, that work is pre-empted and the domain belongs to neither; the
step that finds the cores empty scrubs them and gives the domain away (R357). -/
def execDomainMove (domain toVf : Nat) (s : State) : Result :=
  if !s.booted || 12 ≤ domain || 127 ≤ toVf then .refused (.notEnabled "DOMAIN_MOVE")
  else
    let cs := domainCores domain
    let freed := s.vfs.map fun (e : Nat × Vf) => (e.1, e.2.setDomain domain false)
    let given := KMap.put freed toVf ((s.vf toVf).setDomain domain true)
    if !(s.vf toVf).valid || (s.die (domain / 3)).lost || !sharesFit given (bits s.sel.bwres.toNat 3 0) then .next (s.reply .refused)
    else if (s.vf toVf).ownsDomain domain then .next s
    else
      let work := s.domainWorks domain
      let waiting := cs.all fun c => (s.core c).wgs.all fun w => w.2.saving || w.2.draining || w.2.isTask
      let owned := s.vfs.any fun e => e.2.valid && e.2.ownsDomain domain
      let s := { s with vfs := freed }
      if work then
        if waiting && !owned then .refused (.notEnabled "DOMAIN_MOVE")
        else .next (cs.foldl (fun s c => s.preemptCore c) s)
      else
        let s := s.giveDomain domain toVf
        .next (s.setVf toVf ((s.vf toVf).setDomain domain true))

/-- A frame that an allowance may name: populated, not withheld for check bits, no other's with ENC = 1, and in no other
virtual function's allowance (R90, R354, R456). -/
def State.mayAllow (s : State) (v f : Nat) : Bool :=
  populated (65536 * f) && !s.withheld (65536 * f) && !s.foreign v f
    && !s.vfs.any fun e => decide (e.1 ≠ v) && (e.2.allowance.contains f || e.2.taken.any fun t => decide (t.1 = f))

/-- The hypervisor describes a virtual function's intermediate addresses, its frames and the register pages in it. A frame that
a resolution has taken and that stage 2 still maps stays taken (R456). -/
def execIaRanges (vf : Nat) (ranges : List IaRange) (allowance : List Nat) (mmio : List (Nat × MmioPage)) (s : State) : Result :=
  if !s.booted || 127 ≤ vf then .refused (.notEnabled "IA_RANGES")
  else if 64 < ranges.length || !(s.vf vf).valid || !allowance.all (s.mayAllow vf) then .next (s.reply .refused)
  else
    let s := s.reclaim vf
    let x := s.vf vf
    let free := allowance.eraseDups.filter fun f => !x.taken.any fun t => decide (t.1 = f)
    .next (s.setVf vf { x with ranges := ranges, allowance := free, mmio := mmio })

/-! ## Accesses of the host and of peers (R32, R352-R354, R358) -/

/-- A frame that an access of the host, or of a peer through UIO, may reach. -/
def State.hostMay (s : State) (uio : Bool) (frame : Nat) : Bool :=
  let o := s.ownerOf frame
  !o.getLsbD 7 && (!uio || (s.vf (o.toNat % 128)).hpol.getLsbD 2)

/-- The lines of 64 bytes that an access of the host, not through UIO, leaves in the host's caches (R352). -/
def hostLinesOf (pa n : Nat) : List Nat := ((List.range n).map fun i => (pa + i) / 64).eraseDups

/-- An access to device memory: what it may not reach reads all ones and takes no write, with an event. Lines that the host
reads through CXL.mem may stay in its caches, and its own write takes them out (R352). -/
def State.hostDo (s : State) (a : HostAccess) : State :=
  match a.space with
  | .pfBar _ => s
  | .vfBar _ _ => s
  | .config _ => s
  | .absent => s
  | .ideKey _ => s
  | .peer _ => s
  | .hdm range =>
    let pa := range * 2 ^ 40 + a.offset
    let frames := ((List.range a.data.length).map fun i => (pa + i) / 65536).eraseDups
    let denied := frames.filter fun f => !s.hostMay a.uio f
    let s := match denied with
      | [] => s
      | f :: _ => s.raise (srcPort a.port)
          { Event.blank with code := codeHostDenied, cls := 1, block := 22, die := 4, unit := a.port, addr := BitVec.ofNat 64 (max pa (65536 * f)) }
    let lines := hostLinesOf pa a.data.length
    if a.write then
      let s := if a.uio then s else
        { s with clk := { s.clk with hostHeld := s.clk.hostHeld.filter fun l => !lines.contains l } }
      s.storeAll (((a.data.zipIdx).filter fun b => !denied.contains ((pa + b.2) / 65536)).map fun b => (pa + b.2, [b.1]))
    else
      let out := (List.range a.data.length).map fun i => if denied.contains ((pa + i) / 65536) then 0xFF#8 else s.byte (pa + i)
      let held := if a.uio then s.clk.hostHeld
        else s.clk.hostHeld ++ lines.filter fun l => !s.clk.hostHeld.contains l && !denied.contains (l / 1024)
      { s with clk := { s.clk with hostOut := s.clk.hostOut ++ [.data a.port out], hostHeld := held } }

/-- A register of virtual function `v`'s doorbell page, which its BAR maps (R335, R337, R381). -/
def inVfBar (v : Nat) (reg : MmioReg) : Bool :=
  match reg with
  | .distDbell x _ => decide (x = v) && decide (v < 127)
  | .distNbase x => decide (x = v)
  | .distNctl x => decide (x = v)
  | .distNstat x => decide (x = v)
  | _ => false

/-- A message leaves on a CXL port. -/
def State.sendHost (s : State) (m : HostMsg) : State := { s with clk := { s.clk with hostOut := s.clk.hostOut ++ [m] } }

/-- The registers of 64 bits (R377, R381, R437). -/
def wideReg (r : MmioReg) : Bool :=
  match r with
  | .distNbase _ => true
  | .fwcErrcfg => true
  | .fwcErridx => true
  | .fwcKill => true
  | _ => false

/-- A register's value with the 32-bit words that a write covers whole replaced; none where it covers none: such a write
changes no register (DESIGN CHOICE, log 19). -/
def coverWords (cur : W64) (wide : Bool) (offset : Nat) (data : List Byte) : Option W64 :=
  let covers := fun (i : Nat) => decide (offset ≤ 4 * i) && decide (4 * i + 4 ≤ offset + data.length)
  let word := fun (i : Nat) (old : W32) =>
    if covers i then BitVec.ofNat 32 (leNat ((data.drop (4 * i - offset)).take 4)) else old
  if covers 0 || (wide && covers 1) then some ((if wide then word 1 (hi32 cur) else 0) ++ word 0 (lo32 cur)) else none

/-- An access to a register through a BAR on port 0: a read returns its value, a write acts as the hypervisor's or the tenant's
on the words that it covers (R335, R353, R455). -/
def State.barDo (s : State) (reg : MmioReg) (v : Option Nat) (write : Bool) (offset : Nat) (data : List Byte) : State :=
  if write then
    match coverWords (s.regValue reg) (wideReg reg) offset data with
    | none => s
    | some value =>
      match v with
      | none => s.hvWrite reg value
      | some v => s.tenantWrite v reg value
  else s.sendHost (.data 0 (((leBytes 8 (s.regValue reg).toNat).drop offset).take data.length))

/-- An access to the configuration space of the physical function or of one of the 128 virtual functions, whose layout CXL 3.1
gives; a function that does not exist is an absent capability (R352) (DESIGN CHOICE, log 43). -/
def State.configDo (s : State) (v : Option Nat) (write : Bool) (offset : Nat) (data : List Byte) : State :=
  let fn := (v.map fun v => v + 1).getD 0
  if 128 < fn then s.sendHost (.absentCapability 0)
  else if write then
    { s with clk := { s.clk with config := (data.zipIdx.map fun b => (fn, offset + b.2, b.1)).reverse ++ s.clk.config } }
  else s.sendHost (.data 0 ((List.range data.length).map fun i => Config.configByte fn (offset + i) s.clk.config))

/-- The security core sets the key of IDE on a protocol: 0 CXL.io, 1 CXL.cache, 2 CXL.mem; without it the request is refused
(R352, R446). -/
def State.setIdeKey (s : State) (protocol : Nat) : State :=
  if s.fwRuns fwSecurity then
    { s with
      clk := { s.clk with ideKeys := KMap.put s.clk.ideKeys protocol s.fwc.nextKey }
      fwc := { s.fwc with nextKey := s.fwc.nextKey + 1 } }
  else s.reply .refused

/-- A read's `data` gives its length. An access to memory waits while the clocks are stopped (R32). -/
def execHostMemAccess (port : Nat) (uio write : Bool) (space : HostSpace) (offset : Nat) (data : List Byte) (s : State) : Result :=
  match space with
  | .hdm range =>
    if !s.booted || 2 ≤ port || 4 ≤ range || 0x1200000000 < offset + data.length then .refused (.notEnabled "HOST_MEM_ACCESS")
    else
      let a : HostAccess := { port := port, uio := uio, write := write, space := space, offset := offset, data := data }
      if s.clk.thermal = .running then .next (s.hostDo a)
      else .next { s with clk := { s.clk with hostWaits := s.clk.hostWaits ++ [a] } }
  | .pfBar reg =>
    if !s.booted || port ≠ 0 || uio || !regExists reg then .refused (.notEnabled "HOST_MEM_ACCESS")
    else .next (s.barDo reg none write offset data)
  | .vfBar v reg =>
    if !s.booted || port ≠ 0 || uio || !regExists reg || !inVfBar v reg then .refused (.notEnabled "HOST_MEM_ACCESS")
    else .next (s.barDo reg (some v) write offset data)
  | .config v =>
    if !s.booted || port ≠ 0 || uio || 4096 < offset + data.length then .refused (.notEnabled "HOST_MEM_ACCESS")
    else .next (s.configDo v write offset data)
  | .absent =>
    if !s.booted || 2 ≤ port then .refused (.notEnabled "HOST_MEM_ACCESS") else .next (s.sendHost (.absentCapability port))
  | .ideKey p => if !s.booted || 3 ≤ p then .refused (.notEnabled "HOST_MEM_ACCESS") else .next (s.setIdeKey p)
  | .peer range =>
    if !s.booted || 2 ≤ port || !uio || 4 ≤ range then .refused (.notEnabled "HOST_MEM_ACCESS")
    else .next (s.sendHost (.peerAccess port write range offset data))

/-- The oldest access that waits reaches the completion timeout of CXL 3.1, whose answer that standard gives: here a data message of
no bytes, for a read and a write alike (DESIGN CHOICE, log 43). -/
def execHostAccessTimeout (s : State) : Result :=
  match s.clk.hostWaits with
  | [] => .refused (.notEnabled "HOST_ACCESS_TIMEOUT")
  | a :: t =>
    if s.clk.thermal = .running then .refused (.notEnabled "HOST_ACCESS_TIMEOUT")
    else
      let range := match a.space with
        | .hdm r => r
        | _ => 0
      .next ({ s with clk := { s.clk with hostWaits := t, hostOut := s.clk.hostOut ++ [HostMsg.data a.port []] } }.raise (srcPort a.port)
        { Event.blank with
          code := codeHostDenied, cls := 1, block := 22, die := 4, unit := a.port, addr := BitVec.ofNat 64 (range * 2 ^ 40 + a.offset) })

/-- A snoop of a line of host memory: a hit answers with the line, which is then clean or gone; else a miss (R28, R352). -/
def execHostSnoop (addr : Nat) (invalidate : Bool) (s : State) : Result :=
  if !s.booted then .refused (.notEnabled "HOST_SNOOP")
  else
    match s.clk.hostLines.find? fun l => decide (l.addr = addr / 64) with
    | none => .next { s with clk := { s.clk with hostOut := s.clk.hostOut ++ [.snoopMiss addr] } }
    | some l =>
      let keep := s.clk.hostLines.filter fun x => decide (x.addr ≠ l.addr)
      .next { s with clk := { s.clk with
        hostOut := s.clk.hostOut ++ [.snoopHit addr l.bytes l.dirty]
        hostLines := if invalidate then keep else keep ++ [{ l with dirty := false }] } }

/-- The stopped clocks restart at least 1 s after the stop, and no later than 1 s after the 10 s within which the dies must have
cooled (DEDUCED, log 36); Selham's units are reloaded and the host's accesses go on. -/
def execThermalRestart (s : State) : Result :=
  if s.clk.thermal ≠ .stopped || !s.fwRuns fwManagement || s.clk.time < s.clk.stopTime + 1000000000
      || s.clk.stopTime + 11000000000 < s.clk.time then .refused (.notEnabled "THERMAL_RESTART")
  else
    let ws := s.clk.hostWaits
    let s := { s with clk := { s.clk with thermal := .running, arithMhz := 3000, fabMhz := 2000, hostWaits := [] } }
    .next (ws.foldl State.hostDo s.reloadSelham)

/-! ## The sifter (R104, R361, R410) -/

/-- The bytes of a frame, listed ones only. -/
def State.frameCells (s : State) (f : Nat) : List (Nat × Byte) :=
  (s.mem.filter fun c => decide (c.1 / 65536 = f)).map fun c => (c.1 % 65536, c.2)

/-- Places of the entries that satisfy `ok` in the stage-2 table at frame `f`. -/
def State.tableEntries (s : State) (f : Nat) (ok : Nat → Bool) : List Nat :=
  ((s.mem.filter fun c => decide (c.1 / 65536 = f) && decide (c.1 % 8 = 0)).map fun c => c.1).filter fun a => ok (s.readNat a 8)

/-- The leaves of a virtual function's stage 2, by the place of each. -/
def State.leaves2 (s : State) (v : Nat) : List Nat :=
  match (s.vf v).root2 with
  | none => []
  | some root =>
    let t1 := (s.tableEntries (root / 65536) ptrOk).map fun a => frameOf (s.readNat a 8) / 65536
    let t2 := t1.flatMap fun f => (s.tableEntries f ptrOk).map fun a => frameOf (s.readNat a 8) / 65536
    t2.eraseDups.flatMap fun f => s.tableEntries f leafOk

/-- The place of each stage-1 leaf of a virtual function, where stage 2 leads to its tables (R94). -/
def State.leaves1 (s : State) (v : Nat) : List Nat :=
  match (s.vf v).root1 with
  | none => []
  | some root =>
    let next := fun (f : Nat) => (s.tableEntries f ptrOk).filterMap fun a => s.frameAt v (frameOf (s.readNat a 8) / 65536)
    match s.frameAt v (root / 65536) with
    | none => []
    | some f0 => (((next f0).eraseDups.flatMap next).eraseDups).flatMap fun f => s.tableEntries f leafOk

/-- A page of intermediate addresses that is PRES by stage 1 (R94). -/
def State.presByStage1 (s : State) (v page : Nat) : Bool :=
  (s.leaves1 v).any fun a => decide (frameOf (s.readNat a 8) / 65536 = page) && bit (s.readNat a 8) 6

/-- A frame that a mapping of the presentation system holds: PRES by a leaf of either stage (R86, R94) (DESIGN CHOICE, log 36). -/
def State.pinnedFrame (s : State) (f : Nat) : Bool :=
  s.vfs.any fun e => (s.leaves2 e.1).any (fun a => decide (frameOf (s.readNat a 8) / 65536 = f) && bit (s.readNat a 8) 6)
    || (s.leaves1 e.1).any fun a => bit (s.readNat a 8) 6 && decide (s.frameAt e.1 (frameOf (s.readNat a 8) / 65536) = some f)

/-- A dirty line of a frame. -/
def LineEnt.dirtyOf (l : LineEnt) (f : Nat) : Bool := decide (l.line / 512 = f) && l.dirty

/-- A frame has dirty lines in its slices, or lines that are being written back. -/
def State.frameDirty (s : State) (f : Nat) : Bool :=
  (s.die (homeDie (65536 * f))).slices.any fun e => e.2.lines.any (fun l => l.dirtyOf f) || e.2.wbs.any fun l => decide (l / 512 = f)

/-- A slice that holds a dirty line of a frame has a free write-back entry. -/
def State.mayClean (s : State) (f : Nat) : Bool :=
  (s.die (homeDie (65536 * f))).slices.any fun e => e.2.lines.any (fun l => l.dirtyOf f) && decide (e.2.wbs.length < 16)

/-- A slice writes back dirty lines of a frame, as many as it has write-back entries for (R275). -/
def State.cleanSlice (s : State) (d f j : Nat) : State :=
  let x := s.slice d j
  let out := ((x.lines.filter fun l => l.dirtyOf f).map fun l => l.line).take (16 - x.wbs.length)
  let tidy := fun (l : LineEnt) => { l with dirty := l.dirty && !out.contains l.line }
  let s := s.setSlice d j { x with lines := x.lines.map tidy, wbs := x.wbs ++ out }
  out.foldl (fun s l => s.sendWriteBack d j l) s

/-- Lines of a frame that an L1 owns come back, and its dirty lines are written back as far as its slices can (R275, R410). -/
def State.cleanFrame (s : State) (f : Nat) : State :=
  let d := homeDie (65536 * f)
  let s := { s with l1own := s.l1own.filter fun o => decide (o.1 / 512 ≠ f) }
  ((s.die d).slices.map Prod.fst).foldl (fun s j => s.cleanSlice d f j) s

/-- The first step of a merge or retirement: the entries lose W, the translations go, and the write-back of the frames begins. -/
def State.openWindow (s : State) (w : MoveWindow) (frames : List Nat) : State :=
  let s := w.entries.foldl (fun s e => s.poke64 e.2.2.1 (e.2.2.2 - (if bit e.2.2.2 3 then 8 else 0))) s
  let s := { s with fwc := { s.fwc with window := some w } }
  let s := s.dropTlb fun t => t.stage2 && w.entries.any fun e => decide (t.vf = e.1)
  frames.foldl State.cleanFrame s

/-- Two pages that the sifter may merge: mapped to two frames, neither of them PRES, pinned or of an erased key (R104). -/
def State.maySift (s : State) (v ia1 ia2 a1 a2 : Nat) : Bool :=
  let e1 := s.readNat a1 8
  let e2 := s.readNat a2 8
  let f1 := frameOf e1 / 65536
  let f2 := frameOf e2 / 65536
  decide (a1 ≠ a2) && leafOk e1 && leafOk e2 && decide (f1 ≠ f2) && populated (65536 * f1) && populated (65536 * f2)
    && !s.pinnedFrame f1 && !s.pinnedFrame f2 && !s.presByStage1 v (ia1 / 65536) && !s.presByStage1 v (ia2 / 65536)
    && !s.noise.contains f1 && !s.noise.contains f2

/-- The last step of a merge: the second page's entry points at the first's frame, both have COW = 1, and the second's frame is
free for its virtual function again where nothing else maps it (R410). -/
def State.endMerge (s : State) (v : Nat) (w : MoveWindow) (p1 p2 e1 e2 a1 a2 : Nat) : State :=
  let f1 := frameOf e1 / 65536
  let f2 := frameOf e2 / 65536
  let lower := fun (e f : Nat) => f * 65536 + bits e 15 0 - (if bit e 3 then 8 else 0) + (if bit e 7 then 0 else 128)
  let s := (s.poke64 a1 (lower e1 f1)).poke64 a2 (lower e2 f1)
  let m1 := (v, p1, f1)
  let known := s.fwc.merged.filter fun m => decide (m ≠ m1) && !(decide (m.1 = v) && decide (m.2.1 = p2))
  let shared := known.any fun m => decide (m.1 = v) && decide (m.2.2 = f2)
  let s := { s with fwc := { s.fwc with merged := known ++ [m1, (v, p2, f1)], window := none } }
  let x := s.vf v
  let own := x.taken.any fun t => decide (t.1 = f1)
  let kept := if shared then x.taken else x.taken.filter fun t => decide (t.1 ≠ f2)
  let s := s.setVf v { x with
    allowance := if shared then x.allowance else x.allowance ++ [f2]
    taken := if own then kept ++ [(f1, p2)] else kept }
  s.dropTlb fun t => decide (t.vf = v) && t.stage2 && w.merge

/-- The sifter on the pages at `ia1` and `ia2` of the virtual function that SIFT_CTL names: it opens the merge; when it is executed
again it goes on writing back, and, once both frames are clean in memory, ends it: with one frame where the pages are alike and no
store has waited for them, else as they were. -/
def execSifterMerge (ia1 ia2 : Nat) (s : State) : Result :=
  let ctl := s.fwc.sift.toNat
  let v := bits ctl 14 8
  if !s.booted || s.clk.thermal ≠ .running then .refused (.notEnabled "SIFTER_MERGE")
  else
    match s.fwc.window with
    | some w =>
      match w.entries with
      | [(v, p1, a1, e1), (_, p2, a2, e2)] =>
        let frames := [frameOf e1 / 65536, frameOf e2 / 65536]
        if !w.merge || w.ia1 ≠ ia1 || w.ia2 ≠ ia2 then .refused (.notEnabled "SIFTER_MERGE")
        else if frames.any s.frameDirty then
          if frames.any s.mayClean then .next (frames.foldl State.cleanFrame s) else .refused (.notEnabled "SIFTER_MERGE")
        else if (s.fwc.holds.any fun h => decide (h.vf = v) && (decide (h.ia / 65536 = p1) || decide (h.ia / 65536 = p2)))
            || s.frameCells (frameOf e1 / 65536) ≠ s.frameCells (frameOf e2 / 65536) then .next (s.abandonMerge w)
        else .next (s.endMerge v w p1 p2 e1 e2 a1 a2)
      | _ => .refused (.notEnabled "SIFTER_MERGE")
    | none =>
      match (s.vf v).root2 with
      | none => .refused (.notEnabled "SIFTER_MERGE")
      | some root =>
        match s.leafAddr2 root ia1, s.leafAddr2 root ia2 with
        | some a1, some a2 =>
          if !bit ctl 0 || !((s.vf v).hpol.getLsbD 3) || !s.maySift v ia1 ia2 a1 a2 then .refused (.notEnabled "SIFTER_MERGE")
          else
            let e1 := s.readNat a1 8
            let e2 := s.readNat a2 8
            let w : MoveWindow :=
              { merge := true, ia1 := ia1, ia2 := ia2, frame := 0, spare := 0
                entries := [(v, ia1 / 65536, a1, e1), (v, ia2 / 65536, a2, e2)] }
            .next (s.openWindow w [frameOf e1 / 65536, frameOf e2 / 65536])
        | _, _ => .refused (.notEnabled "SIFTER_MERGE")

/-! ## Scrubbers (R365, R376, R416, R419, R420) -/

/-- The unit that checks a place: its arbiter input, where the place stands in the part. -/
def State.scrubSource (s : State) (p : ScrubPlace) : Option Nat :=
  let onFrame := fun (c f : Nat) (ok : Frame → Bool) =>
    if c < 192 && ((s.core c).frames.any fun x => decide (x.1 = f) && ok x.2) then some (srcCore c) else none
  let onLine := fun (line : Nat) => if populated (line * 128) then some (srcMemc (homeDie (line * 128))) else none
  match p with
  | .gddr d line =>
    if d < 4 && homeDie (line * 128) = d && (s.die d).memcScrub.getLsbD 0 && s.lineEcc line then onLine line else none
  | .gddrRead d line => if d < 4 && homeDie (line * 128) = d && s.lineEcc line then onLine line else none
  | .trapReg c i r l => if c < 192 && l < 8 && r < 64 && (KMap.get? (s.core c).traps i).isSome then some (srcCore c) else none
  | .fwMem f => if f < 4 then some (srcFw f) else none
  | .l2 d j line => if d < 4 && j < 16 && (s.slice d j).lines.any (fun l => decide (l.line = line)) then some (srcSlice d j) else none
  | .scratch c b => if c < 192 && b < 2 ^ 21 then some (srcCore c) else none
  | .frameReg c f r l => if l < 8 then onFrame c f fun x => decide (r < x.size) else none
  | .accum c a => if c < 192 && a < (s.core c).accsPart then some (srcCore c) else none
  | .bstore c => if c < 192 then some (srcCore c) else none
  | .lineStore l u => if l < 16 && u < 24576 then some (srcSel l) else none
  | .header c f => onFrame c f fun x => x.hdr.isSome
  | .l1 c line => if c < 192 && ((s.core c).l1.any fun l => decide (l.1 = line)) then some (srcCore c) else none
  | .l1Tlb c i => if c < 192 && i < (s.core c).tlb.length then some (srcCore c) else none
  | .dieTlb d i => if d < 4 && i < (s.die d).tlb.length then some (srcSlice d 0) else none
  | .recordCache c i => if c < 192 && i < (s.core c).latched.length then some (srcCore c) else none
  | .lcrCode l => if l < 16 then some (srcSel l) else none
  | .regBank c f r b => if b < 8 then onFrame c f fun x => decide (r < x.size) else none
  | .bundle c => if c < 192 then some (srcCore c) else none
  | .dmeWeight u => if u < 16384 then some (srcSel 16) else none
  | .dmeAccum u => if u < 8192 then some (srcSel 16) else none
  | .gddrLink d line n => if n ≤ 8 && homeDie (line * 128) = d then onLine line else none
  | .gddrBit line b => if b < 1024 && !s.lineEcc line then onLine line else none

/-- A line marked poisoned (R416). -/
def State.poisonLine (s : State) (line : Nat) : State :=
  { s with poison := if s.poison.contains line then s.poison else s.poison ++ [line] }

/-- An entry of a cache that carries parity is dropped; it is read again when it is needed (R365, R419). -/
def State.dropPlace (s : State) (p : ScrubPlace) : State :=
  match p with
  | .l1 c line => s.setCore c { s.core c with l1 := (s.core c).l1.filter fun l => decide (l.1 ≠ line) }
  | .l1Tlb c i => s.setCore c { s.core c with tlb := (s.core c).tlb.eraseIdx i }
  | .dieTlb d i => s.setDie d { s.die d with tlb := (s.die d).tlb.eraseIdx i }
  | .recordCache c i =>
    s.setCore c { s.core c with latched := ((s.core c).latched.zipIdx.filter fun x => decide (x.2 ≠ i) || decide (x.1.count ≠ 0)).map Prod.fst }
  | _ => s

/-- A random place of the B-store marked: which byte an error there hits is a free choice. -/
def State.markBstore (s : State) (c : Nat) : State :=
  let (b, s) := s.choice (64 * 65536)
  let k := s.core c
  s.setCore c { k with bstorePoison := if k.bstorePoison.contains b then k.bstorePoison else b :: k.bstorePoison }

/-- An L1 line that its core owns: no other copy of it is up to date (R150). -/
def State.l1Dirty (s : State) (c line : Nat) : Bool := (KMap.get? s.l1own line).any fun o => decide (o.1 = c)

/-- The mark that an uncorrectable error leaves, and whether it raises an event of class 1. -/
def State.markPlace (s : State) (p : ScrubPlace) : State × Bool :=
  match p with
  | .gddr _ line => (s.poisonLine line, true)
  | .gddrRead _ line => (s.poisonLine line, true)
  | .trapReg c i r l => (s.setCore c ((s.core c).markPoison (.trap i r) (BitVec.ofNat 8 (2 ^ l))), true)
  | .fwMem _ => (s, false)
  | .l2 d j line =>
    let x := s.slice d j
    if x.lines.any fun l => decide (l.line = line) && l.dirty then (s.poisonLine line, true)
    else ((s.setSlice d j { x with lines := x.lines.filter fun l => decide (l.line ≠ line) }).leaveClean line, false)
  | .scratch c b =>
    let k := s.core c
    (s.setCore c { k with scratchPoison := if k.scratchPoison.contains b then k.scratchPoison else b :: k.scratchPoison }, true)
  | .frameReg c f r l => (s.setCore c ((s.core c).markPoison (.frame f r) (BitVec.ofNat 8 (2 ^ l))), true)
  | .accum c a =>
    let k := s.core c
    (s.setCore c { k with accPoison := if k.accPoison.contains a then k.accPoison else a :: k.accPoison }, true)
  | .bstore c => (s.markBstore c, true)
  | .lineStore l u =>
    let x := s.lcr l
    (s.setLcr l { x with storeBad := if x.storeBad.contains u then x.storeBad else u :: x.storeBad }, true)
  | .header c f => (s.setCore c ((s.core c).updFrame f fun x => { x with hdr := x.hdr.map fun h => { h with bad := true } }), true)
  | .l1 c line =>
    if s.l1Dirty c line then (s.poisonLine line, true) else (s.dropPlace p, false)
  | .regBank c f r b =>
    let k := (s.core c).markPoison (.frame f r) (BitVec.ofNat 8 (2 ^ b))
    (s.setCore c { k with poisonLoads := k.poisonLoads.filter fun l => !l.1.contains (RegLoc.frame f r) }, true)
  | .bundle c => (s.markBstore c, true)
  | .dmeWeight u =>
    let d := s.sel.dme
    (s.setSel { s.sel with dme := { d with weightBad := if d.weightBad.contains u then d.weightBad else u :: d.weightBad } }, true)
  | .dmeAccum u =>
    let d := s.sel.dme
    (s.setSel { s.sel with dme := { d with accumBad := if d.accumBad.contains u then d.accumBad else u :: d.accumBad } }, true)
  | .gddrLink d line _ =>
    let held := s.lineEcc line || (List.range 16).any fun j => (s.slice d j).misses.any (fun m => decide (m.line = line))
      || (s.slice d j).lines.any fun l => decide (l.line = line)
    (if held then s.poisonLine line else s, true)
  | .gddrBit line b =>
    let a := line * 128 + b / 8
    (s.poke a [Memory.byte s.mem a ^^^ BitVec.ofNat 8 (2 ^ (b % 8))], false)
  | .l1Tlb _ _ => (s, false)
  | .dieTlb _ _ => (s, false)
  | .recordCache _ _ => (s, false)
  | .lcrCode _ => (s, false)

/-- What a check of R365 can find at a place: parity alone corrects nothing in a register bank or in a dirty L1 line, a dropped
entry is never uncorrectable, the eighth retry of a burst still corrects, and nothing finds a bit that flips in a domain without
ECC. An uncorrectable error in a firmware core's memory is FIRMWARE_MEMORY_ERROR's (R446). -/
def State.findable (s : State) (p : ScrubPlace) (e : ScrubResult) : Bool :=
  match e, p with
  | .clean, _ => true
  | .corrected, .regBank _ _ _ _ => false
  | .corrected, .l1 c line => !s.l1Dirty c line
  | .uncorrectable, .l1 c line => s.l1Dirty c line
  | .uncorrectable, .fwMem _ => false
  | .corrected, .gddrBit _ _ => false
  | .uncorrectable, .l1Tlb _ _ => false
  | .uncorrectable, .dieTlb _ _ => false
  | .uncorrectable, .recordCache _ _ => false
  | .uncorrectable, .lcrCode _ => false
  | .uncorrectable, .gddrLink _ _ n => decide (n = 8)
  | _, _ => true

/-- The address that the event of an uncorrectable error gives, and its code (R376). -/
def scrubAddr (p : ScrubPlace) : W64 :=
  match p with
  | .gddr _ line => BitVec.ofNat 64 (line * 128)
  | .gddrRead _ line => BitVec.ofNat 64 (line * 128)
  | .l2 _ _ line => BitVec.ofNat 64 (line * 128)
  | .l1 _ line => BitVec.ofNat 64 (line * 128)
  | .gddrLink _ line _ => BitVec.ofNat 64 (line * 128)
  | _ => 0

def scrubCode (p : ScrubPlace) : Nat :=
  match p with
  | .regBank _ _ _ _ => codeParity
  | .bundle _ => codeParity
  | _ => codeUncorrected

/-- RETIRE of a die's MEMC (R420). -/
def State.retireLimit (s : State) (d : Nat) : Nat := bits (s.die d).memcScrub.toNat 7 4

/-- The number of the present scrub pass of a die's ECC domains: passes of PERIOD hours, counted from reset (R420). -/
def State.scrubPass (s : State) (d : Nat) : Nat :=
  s.clk.time / (max 1 (bits (s.die d).memcScrub.toNat 31 16) * 3600000000000)

/-- A corrected error of a frame, among those of the same pass; a frame that has reached RETIRE stays due (R420). -/
def State.countFrame (s : State) (d f : Nat) : State :=
  let pass := s.scrubPass d
  let x := KMap.getD s.fwc.corrected f (pass, 0)
  let due := decide (0 < s.retireLimit d) && decide (s.retireLimit d ≤ x.2)
  { s with fwc := { s.fwc with corrected := KMap.put s.fwc.corrected f (pass, if x.1 = pass || due then x.2 + 1 else 1) } }

/-- A corrected error counted for its unit, and for its frame in memory with ECC. -/
def State.countCorrected (s : State) (src : Nat) (p : ScrubPlace) : State :=
  let s := s.noteCorrection src
  match p with
  | .gddr d line => s.countFrame d (line / 512)
  | .gddrRead d line => s.countFrame d (line / 512)
  | _ => s

/-- A scrubber, or the check of an access, reads and corrects a location. -/
def execPatrolScrub (place : ScrubPlace) (errors : ScrubResult) (s : State) : Result :=
  match s.scrubSource place with
  | none => .refused (.notEnabled "PATROL_SCRUB")
  | some src =>
    if s.clk.thermal ≠ .running || !s.findable place errors then .refused (.notEnabled "PATROL_SCRUB")
    else
      match errors with
      | .clean => .next s
      | .corrected => .next ((s.dropPlace place).countCorrected src place)
      | .uncorrectable =>
        let (s, tell) := s.markPlace place
        let e : Event := { Event.blank with
          code := scrubCode place, cls := 1, block := (srcPlace src).1, die := (srcPlace src).2.1, unit := (srcPlace src).2.2
          addr := scrubAddr place }
        .next (if tell then s.raise src e else s)

/-! ## Retirement of frames (R420) -/

/-- The pages of a virtual function that its stage 2 maps to a frame, by walking its tables: page, place and entry of each. -/
def State.mapsOf (s : State) (v f : Nat) : List (Nat × Nat × Nat × Nat) :=
  match (s.vf v).root2 with
  | none => []
  | some root =>
    let level := fun (t : Nat × Nat) (ok : Nat → Bool) =>
      (s.tableEntries t.2 ok).map fun a => (t.1 * 8192 + a % 65536 / 8, a)
    let down := fun (t : Nat × Nat) => (level t ptrOk).map fun x => (x.1, frameOf (s.readNat x.2 8) / 65536)
    let leaves := ((down (0, root / 65536)).flatMap down).flatMap fun t => level t leafOk
    (leaves.filter fun x => decide (frameOf (s.readNat x.2 8) / 65536 = f)).map fun x => (v, x.1, x.2, s.readNat x.2 8)

/-- A frame with RETIRE corrected errors in a pass moves to a spare one: the first execution takes W from its pages and begins to
write it back, later ones go on with that, and the last copies it and gives W back. A frame of firmware or a pinned one is not moved; the class 0 records of its MEMC have
reported its errors (R376, R420) (DEDUCED, log 36). -/
def execFrameRetirement (frame spare : Nat) (s : State) : Result :=
  let limit := s.retireLimit (homeDie (65536 * frame))
  if !s.booted || s.clk.thermal ≠ .running then .refused (.notEnabled "FRAME_RETIREMENT")
  else
    match s.fwc.window with
    | some w =>
      if w.merge || w.frame ≠ frame || w.spare ≠ spare then .refused (.notEnabled "FRAME_RETIREMENT")
      else if s.frameDirty frame then
        if s.mayClean frame then .next (s.cleanFrame frame) else .refused (.notEnabled "FRAME_RETIREMENT")
      else .next (s.endRetirement w)
    | none =>
      if limit = 0 || (KMap.getD s.fwc.corrected frame (0, 0)).2 < limit then .refused (.notEnabled "FRAME_RETIREMENT")
      else if s.ownerOf frame = 0xFF || s.pinnedFrame frame then
        .next { s with fwc := { s.fwc with corrected := KMap.del s.fwc.corrected frame } }
      else if !populated (65536 * spare) || s.withheld (65536 * spare) || (KMap.get? s.fwc.owners spare).isSome || spare = frame then
        .refused (.notEnabled "FRAME_RETIREMENT")
      else
        let s := { s with fwc := { s.fwc with corrected := KMap.del s.fwc.corrected frame } }
        let w : MoveWindow :=
          { merge := false, ia1 := 0, ia2 := 0, frame := frame, spare := spare
            entries := (s.vfs.map Prod.fst).flatMap fun v => s.mapsOf v frame }
        .next (s.openWindow w [frame])

end Sys2Proof.Machine
end

