-- ==== Sys2Proof/Machine/Integer.lean ====
section
/-! DEFINITION. The integer, logic, bit, select, address and move instructions: opcodes 0x00 to 0x37
(R180-R186), with special registers (R42, R175). -/

namespace Sys2Proof.Machine

/-! ## Arithmetic (R181) -/

def uses2 : Uses := { d := .typed, a := .typed, b := .typed, c := .no }
def uses1 : Uses := { d := .typed, a := .typed, b := .no, c := .no }

/-- A two-operand integer instruction whose result goes to `Put(D, f A B)`. -/
def intBinary (i : Instr) (o : V3) (types : List Nat) (lat : Nat) (f : Int → Int → Int) (s : State) : Result :=
  issue (intSpec o i uses2 types [0]) (fun x _ => x.intRes lat o fun l => f (x.opdA o l) (x.opdB o l)) s

/-- A one-operand integer instruction. -/
def intUnary (i : Instr) (o : V3) (types : List Nat) (lat : Nat) (f : Int → Int) (s : State) : Result :=
  issue (intSpec o i uses1 types [0]) (fun x _ => x.intRes lat o fun l => f (x.opdA o l)) s

/-- x clamped to the range of TYPE (R181). -/
def clampTy (t : Nat) (x : Int) : Int :=
  let n := tyBits t
  if tySigned t then max (-(2 ^ (n - 1) : Int)) (min x (2 ^ (n - 1) - 1)) else max 0 (min x (2 ^ n - 1))

def execIadd (o : V3) (s : State) : Result := intBinary (.iadd o) o [0, 1, 4, 5, 6, 7] 4 (fun a b => a + b) s
def execIsub (o : V3) (s : State) : Result := intBinary (.isub o) o [0, 1, 4, 5, 6, 7] 4 (fun a b => a - b) s

/-- `IADDS`: FUNC 0 adds, 1 subtracts, clamped to TYPE (R181). -/
def execIadds (o : V3) (s : State) : Result :=
  issue (intSpec o (.iadds o) uses2 [0, 1, 4, 5, 6, 7] [0, 1])
    (fun x _ => x.intRes 4 o fun l =>
      clampTy o.ty.toNat (if o.func = 0#3 then x.opdA o l + x.opdB o l else x.opdA o l - x.opdB o l)) s

def execIadd64 (o : V3) (s : State) : Result := intBinary (.iadd64 o) o [2, 3] 6 (fun a b => a + b) s
def execIsub64 (o : V3) (s : State) : Result := intBinary (.isub64 o) o [2, 3] 6 (fun a b => a - b) s
def execImul (o : V3) (s : State) : Result := intBinary (.imul o) o [0, 1, 2, 3, 4, 5, 6, 7] 6 (fun a b => a * b) s
/-- The upper 32 bits of the exact 64-bit product (R181). -/
def execImulh (o : V3) (s : State) : Result := intBinary (.imulh o) o [0, 1] 6 (fun a b => (a * b) / 2 ^ 32) s

def execImad (o : V3) (s : State) : Result :=
  issue (intSpec o (.imad o) { uses2 with c := .typed } [0, 1, 4, 5, 6, 7] [0])
    (fun x _ => x.intRes 6 o fun l => x.opdA o l * x.opdB o l + x.opdC o l) s

/-- `IMADW`: the product of 32-bit operands plus the pair vC, to the pair vD (R181). -/
def execImadw (o : V3) (s : State) : Result :=
  issue (intSpec o (.imadw o) { d := .two, a := .one, b := .one, c := .two } [0, 1] [0])
    (fun x _ => .fixed 6
      (x.put2 o.d.toNat fun l =>
        narrow (x.opdA o l * x.opdB o l + readAs o.ty.toNat 64 (x.pair o.c.toNat l).toNat) 64) []) s

def execImin (o : V3) (s : State) : Result := intBinary (.imin o) o [0, 1, 2, 3, 4, 5, 6, 7] 4 (fun a b => min a b) s
def execImax (o : V3) (s : State) : Result := intBinary (.imax o) o [0, 1, 2, 3, 4, 5, 6, 7] 4 (fun a b => max a b) s
/-- The absolute value; the narrowing of `Put` leaves −2^(n−1) as it is (R181). -/
def execIabs (o : V3) (s : State) : Result := intUnary (.iabs o) o [0, 2, 4, 6] 4 (fun a => if a < 0 then -a else a) s
def execIneg (o : V3) (s : State) : Result := intUnary (.ineg o) o [0, 1, 2, 3, 4, 5, 6, 7] 4 (fun a => -a) s

/-! ## Logic and bits (R182) -/

/-- A bitwise instruction on the n-bit fields. -/
def bitBinary (i : Instr) (o : V3) (f : Nat → Nat → Nat) (s : State) : Result :=
  issue (intSpec o i uses2 [0, 1, 2, 3, 4, 5, 6, 7] [0])
    (fun x _ =>
      let n := tyBits o.ty.toNat
      x.intRes 4 o fun l => (f (x.raw o.a.toNat n l) (x.rawB o n l) : Nat)) s

def execAnd (o : V3) (s : State) : Result := bitBinary (.and o) o (fun a b => a &&& b) s
def execOr (o : V3) (s : State) : Result := bitBinary (.or o) o (fun a b => a ||| b) s
def execXor (o : V3) (s : State) : Result := bitBinary (.xor o) o (fun a b => a ^^^ b) s
def execAndn (o : V3) (s : State) : Result := bitBinary (.andn o) o (fun a b => a - (a &&& b)) s

def execNot (o : V3) (s : State) : Result :=
  intUnary (.not o) o [0, 1, 2, 3, 4, 5, 6, 7] 4 (fun a => -a - 1) s

def usesShift : Uses := { d := .typed, a := .typed, b := .one, c := .no }

/-- A shift or rotation of the n-bit field by the 32-bit amount. -/
def shiftOp (i : Instr) (o : V3) (funcs : List Nat) (f : Nat → Nat → Nat → Int) (s : State) : Result :=
  issue (intSpec o i usesShift [0, 1, 2, 3] funcs)
    (fun x _ =>
      let n := tyBits o.ty.toNat
      x.intRes 4 o fun l => f n (x.raw o.a.toNat n l) (x.amount o l)) s

def execShl (o : V3) (s : State) : Result :=
  shiftOp (.shl o) o [0] (fun n a k => if n ≤ k then 0 else ((a <<< k : Nat) : Int)) s
def execShr (o : V3) (s : State) : Result :=
  shiftOp (.shr o) o [0] (fun n a k => if n ≤ k then 0 else ((a >>> k : Nat) : Int)) s
/-- All copies of the sign bit for an amount of n or more (R182). -/
def execSar (o : V3) (s : State) : Result :=
  shiftOp (.sar o) o [0] (fun n a k => signExt a n / 2 ^ (min k (n - 1))) s

/-- The n-bit field rotated left by k mod n. -/
def rotl (n a k : Nat) : Nat := (a <<< (k % n) ||| a >>> (n - k % n)) % 2 ^ n

def execRot (o : V3) (s : State) : Result :=
  shiftOp (.rot o) o [0, 1] (fun n a k => (rotl n a (if o.func = 0#3 then k % n else n - k % n) : Nat)) s

/-- A count: one natural 32-bit register vD, whatever TYPE says (R182). -/
def countOp (i : Instr) (o : V3) (f : Nat → Nat → Nat) (s : State) : Result :=
  issue (intSpec o i { d := .one, a := .typed, b := .no, c := .no } [0, 1, 2, 3] [0])
    (fun x _ =>
      let n := tyBits o.ty.toNat
      .fixed 6 (x.put1 o.d.toNat fun l => f n (x.raw o.a.toNat n l)) []) s

def execPopc (o : V3) (s : State) : Result := countOp (.popc o) o popcount s
def execClz (o : V3) (s : State) : Result := countOp (.clz o) o clz s
def execCtz (o : V3) (s : State) : Result := countOp (.ctz o) o ctz s

def execBrev (o : V3) (s : State) : Result :=
  issue (intSpec o (.brev o) uses1 [0, 1, 2, 3] [0])
    (fun x _ =>
      let n := tyBits o.ty.toNat
      x.intRes 6 o fun l => (ofBits n fun i => (x.raw o.a.toNat n l).testBit (n - 1 - i) : Nat)) s

/-! ## Funnel shift, bit fields and interleave (R183, R184) -/

/-- `FNL` on vA:vC: FUNC 0 right, 1 left (R183). -/
def funnel (left : Bool) (a c k : Nat) : Nat :=
  let w := a * 2 ^ 32 + c
  if left then (w <<< (k % 32)) / 2 ^ 32 % 2 ^ 32 else (w >>> (k % 32)) % 2 ^ 32

def execFnl (o : V3) (s : State) : Result :=
  issue (intSpec o (.fnl o) { d := .one, a := .one, b := .one, c := .one } [0, 1] [0, 1])
    (fun x _ => .fixed 6
      (x.put1 o.d.toNat fun l =>
        funnel (decide (o.func = 1#3)) (x.lane o.a.toNat l).toNat (x.lane o.c.toNat l).toNat (x.amount o l)) []) s

/-- Position and length of a field from B: B[4:0], and B[13:8] cut at bit 31 (R183). -/
def fieldPos (b : Nat) : Nat := bits b 4 0
def fieldLen (b : Nat) : Nat := min (bits b 13 8) (32 - fieldPos b)

def execBfx (o : V3) (s : State) : Result :=
  issue (intSpec o (.bfx o) { d := .one, a := .one, b := .one, c := .no } [0, 1] [0])
    (fun x _ => .fixed 6
      (x.put1 o.d.toNat fun l =>
        let b := x.amount o l
        let f := ((x.lane o.a.toNat l).toNat >>> fieldPos b) % 2 ^ fieldLen b
        if fieldLen b = 0 then 0
        else if o.ty = 0#4 then narrow (signExt f (fieldLen b)) 32
        else f) []) s

def execBfi (o : V3) (s : State) : Result :=
  issue (intSpec o (.bfi o) { d := .one, a := .one, b := .one, c := .one } [0, 1] [0])
    (fun x _ => .fixed 6
      (x.put1 o.d.toNat fun l =>
        let b := x.amount o l
        let m := ((2 ^ fieldLen b - 1) <<< fieldPos b) % 2 ^ 32
        let c := (x.lane o.c.toNat l).toNat
        (c - (c &&& m)) ||| (((x.lane o.a.toNat l).toNat <<< fieldPos b) &&& m)) []) s

/-- The ways of a way code, 2 or 3, and the bits of each input (R184). -/
def waysOf (code : Nat) : Nat := if code % 2 = 0 then 2 else 3
def wayBits (code : Nat) : Nat :=
  match code with
  | 0 => 16
  | 1 => 10
  | 2 => 32
  | _ => 21
def wayLong (code : Nat) : Bool := decide (2 ≤ code)

def execBilv (o : V3) (s : State) : Result :=
  let code := o.func.toNat
  let w := waysOf code
  let u : Uses :=
    { d := if wayLong code then .two else .one, a := .one, b := .one, c := if w = 3 then .one else .no }
  issue (intSpec o (.bilv o) u [0, 1] [0, 1, 2, 3])
    (fun x _ =>
      let f := fun (l : Nat) =>
        ofBits (w * wayBits code) fun j =>
          let i := j / w
          if j % w = 0 then (x.lane o.a.toNat l).toNat.testBit i
          else if j % w = 1 then (x.rawB o 32 l).testBit i
          else (x.lane o.c.toNat l).toNat.testBit i
      .fixed 6 (if wayLong code then x.put2 o.d.toNat f else x.put1 o.d.toNat f) []) s

def execBdil (o : V3) (s : State) : Result :=
  let code := o.func.toNat
  let w := waysOf code
  let u : Uses := { d := .one, a := if wayLong code then .two else .one, b := .one, c := .no }
  issue (intSpec o (.bdil o) u [0, 1] [0, 1, 2, 3])
    (fun x _ => .fixed 6
      (x.put1 o.d.toNat fun l =>
        let k := x.amount o l
        let a := if wayLong code then (x.pair o.a.toNat l).toNat else (x.lane o.a.toNat l).toNat
        if w ≤ k then 0 else ofBits (wayBits code) fun i => a.testBit (w * i + k)) []) s

/-! ## Select, compare, address and moves (R185, R186) -/

def execIsel (o : V3) (s : State) : Result :=
  issue (intSpec o (.isel o) { uses2 with c := .pred } [0, 1, 2, 3, 4, 5, 6, 7] [0])
    (fun x _ => x.intRes 4 o fun l => if x.pred o.c.toNat l then x.opdA o l else x.opdB o l) s

/-- `ICMP`: pD := Compare(A, B) and pC (R185). -/
def execIcmp (o : V3) (s : State) : Result :=
  issue (intSpec o (.icmp o) { uses2 with d := .pred, c := .pred } [0, 1, 2, 3, 4, 5, 6, 7] [0, 1, 2, 3, 4, 5])
    (fun x _ => x.predRes 4 o.d.toNat fun l =>
      ccHolds o.func.toNat (x.opdA o l) (x.opdB o l) && x.pred o.c.toNat l) s

/-- `LEA`: the pair vA plus the extended B shifted by C, modulo 2^64 (R185). -/
def execLea (o : V3) (s : State) : Result :=
  let u : Uses := { d := .two, a := .two, b := .one, c := .num }
  issue (v3Spec o (.lea o) u (intOk o u [0, 1] [0] && decide (o.c.toNat < 32)))
    (fun x _ => .fixed 4
      (x.put2 o.d.toNat fun l =>
        narrow ((x.pair o.a.toNat l).toNat + readAs o.ty.toNat 32 (x.amount o l) * 2 ^ o.c.toNat) 64) []) s

def execMov (o : V3) (s : State) : Result :=
  issue (intSpec o (.mov o) { d := .typed, a := .no, b := .typed, c := .no } [0, 1, 2, 3, 4, 5, 6, 7] [0])
    (fun x _ => x.intRes 4 o fun l => x.opdB o l) s

/-- `MOVI`: word bits [23:0] sign-extended (R186). -/
def execMovi (o : VI) (s : State) : Result :=
  issue { instr := .movi o, g := o.g, fields := decide (o.a = 0#8) && decide (o.b = 0#8), dsts := [(o.d.toNat, 1)] }
    (fun x _ => .fixed 4 (x.put1 o.d.toNat fun _ => narrow (signExt (o.imm8.toNat * 2 ^ 16 + o.imm16.toNat) 24) 32) []) s

/-- `MOVL`: W = 0 writes the literal's low half, W = 1 the pair (R186). -/
def execMovl (o : VI) (s : State) : Result :=
  let wide := o.imm16.getLsbD 0
  issue
    { instr := .movl o, g := o.g, lit := true
      fields := decide (o.a = 0#8) && decide (o.b = 0#8) && decide (o.imm8 = 0#8) && decide (o.imm16.toNat < 2)
        && (if wide then decide (o.d.toNat % 2 = 0) else decide (hi32 o.literal = 0#32))
      dsts := [(o.d.toNat, if wide then 2 else 1)] }
    (fun x _ => .fixed 4
      (if wide then x.put2 o.d.toNat fun _ => o.literal.toNat else x.put1 o.d.toNat fun _ => o.literal.toNat) []) s

/-- Field fi of the group's WID: 0 for a field of width 0, for a VIEW field, and in the code of a task
(R42, R72). -/
def widField (h : LaunchHdr) (x : Iss) (i : Nat) : Nat :=
  let lo := 3 + (List.range i).foldl (fun a j => a + h.width j) 0
  if (runningTask x.k x.g x.e).isSome || h.width i = 0 || h.bind i = 3 then 0
  else bits (x.g.wid.toNat * 8) (lo + h.width i - 1) lo

/-- The special registers that IMM16 can name, with whether each is a pair (R175). -/
def sregKnown (n : Nat) : Bool :=
  decide (n ≤ 0x06) || (decide (0x08 ≤ n) && decide (n ≤ 0x0D)) || (decide (0x10 ≤ n) && decide (n ≤ 0x15))
def sregWide (n : Nat) : Bool := decide (n = 0x00) || decide (n = 0x11)

/-- The value of a special register in lane `l` (R42, R371). -/
def sregValue (s : State) (x : Iss) (n l : Nat) : Nat :=
  let h := (s.launch x.g.launch).hdr
  let ts := x.e.handler.bind fun i => KMap.get? x.k.traps i
  match n with
  | 0x00 => if (runningTask x.k x.g x.e).isSome then l else x.g.wid.toNat * 8 + l
  | 0x08 => l
  | 0x09 =>
    match x.e.id with
    | .own => 0xFFFFFFFF
    | .frag f => f
  | 0x0A => x.c
  | 0x0B => x.c / 48
  | 0x0C => x.v % 128
  | 0x0D => if (x.k.wg x.g.wg).idem then 1 else 0
  | 0x10 => (ts.map fun t => t.tcause.toNat).getD 0
  | 0x11 => (ts.map fun t => t.tpc.toNat).getD 0
  | 0x12 => (ts.map fun t => t.tinfo0.toNat).getD 0
  | 0x13 => (ts.map fun t => t.tinfo1.toNat).getD 0
  | 0x14 => (ts.map fun t => t.tinfo2.toNat).getD 0
  | 0x15 => (ts.map fun t => t.tinfo3.toNat).getD 0
  | n => widField h x (n - 1)

def execSreg (o : VI) (s : State) : Result :=
  let n := o.imm16.toNat
  issue
    { instr := .sreg o, g := o.g
      fields := decide (o.a = 0#8) && decide (o.b = 0#8) && decide (o.imm8 = 0#8) && sregKnown n
        && (!sregWide n || decide (o.d.toNat % 2 = 0))
      dsts := [(o.d.toNat, if sregWide n then 2 else 1)] }
    (fun x s => .fixed 4
      (if sregWide n then x.put2 o.d.toNat (sregValue s x n) else x.put1 o.d.toNat (sregValue s x n)) []) s

/-- `SETP`: mode 0 looks three predicates up in IMM8, mode 1 reads a register bit, mode 2 writes a predicate
into a register (R186). -/
def execSetp (o : VI) (s : State) : Result :=
  let mode := bits o.imm16.toNat 15 14
  let low := bits o.imm16.toNat 13 0
  match mode with
  | 0 =>
    issue
      { instr := .setp o, g := o.g, psrcs := [o.a.toNat, o.b.toNat, low]
        fields := decide (o.d.toNat < 8) && decide (o.a.toNat < 8) && decide (o.b.toNat < 8) && decide (low < 8) }
      (fun x _ => x.predRes 4 o.d.toNat fun l =>
        o.imm8.getLsbD ((if x.pred o.a.toNat l then 4 else 0) + (if x.pred o.b.toNat l then 2 else 0)
          + (if x.pred low l then 1 else 0))) s
  | 1 =>
    issue
      { instr := .setp o, g := o.g, srcs := [(o.a.toNat, 1)]
        fields := decide (o.d.toNat < 8) && decide (o.b = 0#8) && decide (low = 0) && decide (o.imm8.toNat < 32) }
      (fun x _ => x.predRes 4 o.d.toNat fun l => (x.lane o.a.toNat l).getLsbD o.imm8.toNat) s
  | 2 =>
    issue
      { instr := .setp o, g := o.g, dsts := [(o.d.toNat, 1)], psrcs := [o.a.toNat]
        fields := decide (o.a.toNat < 8) && decide (o.b = 0#8) && decide (low = 0) && decide (o.imm8 = 0#8) }
      (fun x _ => .fixed 4 (x.put1 o.d.toNat fun l => if x.pred o.a.toNat l then 1 else 0) []) s
  | _ => issue { instr := .setp o, g := o.g, fields := false } (fun _ s => .done s) s

end Sys2Proof.Machine
end

