-- ==== Sys2Proof/Machine/Lane.lean ====
section
/-! DEFINITION. The lane instructions: shuffle, vote, match, reduction and byte permute (R208-R212). -/

namespace Sys2Proof.Machine

/-- The bits of field A in a lane at the width of a TYPE. -/
def Iss.wideA (x : Iss) (o : V3) (l : Nat) : Nat :=
  if tyWide o.ty.toNat then (x.pair o.a.toNat l).toNat else (x.lane o.a.toNat l).toNat

/-- A result at the width of a TYPE. -/
def Iss.putW (x : Iss) (o : V3) (f : Nat → Nat) : List (Nat × Mask × Reg) :=
  if tyWide o.ty.toNat then x.put2 o.d.toNat f else x.put1 o.d.toNat f

/-- The TYPE codes of a 32-bit lane or a pair (R209, R210). -/
def laneTypes : List Nat := [0, 1, 8, 2, 3, 9]

/-- The source lane of `SHFL` (R209); a lane outside Active() reads its own value (R208). -/
def shflLane (mode b : Nat) (act : Mask) (l : Nat) : Nat :=
  let t := match mode with
    | 0 => b % 8
    | 1 => if l < b then l else l - b
    | 2 => if 7 < l + b then l else l + b
    | _ => l ^^^ (b % 8)
  if act.getLsbD t then t else l

def execShfl (o : V3) (s : State) : Result :=
  let u : Uses := { d := .typed, a := .typed, b := .one, c := .no }
  let ok := fltOk o u laneTypes [0, 1, 2, 3] modsNone && (!(o.lit || o.bi) || decide (o.ty.toNat < 8))
  issue (v3Spec o (.shfl o) u ok)
    (fun x _ => .fixed 6 (x.putW o fun l => x.wideA o (shflLane o.func.toNat (x.amount o l) x.act l)) []) s

/-- `VOTE`: a predicate over Active(), or its ballot (R210). -/
def execVote (o : V3) (s : State) : Result :=
  let bal := decide (o.func = 3#3)
  issue (fltSpec o (.vote o) { d := if bal then .one else .pred, a := .pred, b := .no, c := .no } [0] [0, 1, 2, 3] modsNone)
    (fun x _ =>
      let m := x.act &&& x.g.pred o.a.toNat
      match o.func.toNat with
      | 0 => x.predRes 6 o.d.toNat fun _ => decide (m = x.act)
      | 1 => x.predRes 6 o.d.toNat fun _ => decide (m ≠ 0#8)
      | 2 => x.predRes 6 o.d.toNat fun _ => decide (m = x.act) || decide (m = 0#8)
      | _ => .fixed 6 (x.put1 o.d.toNat fun _ => m.toNat) []) s

/-- `MATCH`: the lanes of Active() that hold an equal value (R210). -/
def execMatchLanes (o : V3) (s : State) : Result :=
  issue (fltSpec o (.matchLanes o) { d := .one, a := .typed, b := .no, c := .no } laneTypes [0, 1] modsNone)
    (fun x _ =>
      let same := fun (l : Nat) => maskOf fun i => x.act.getLsbD i && decide (x.wideA o i = x.wideA o l)
      .fixed 6 (x.put1 o.d.toNat fun l =>
        if o.func = 0#3 then (same l).toNat
        else if same (lowLane x.act) = x.act then x.act.toNat else 0) []) s

/-- One level of `LaneTree`: neighbours joined (R211). -/
def treeLevel {α : Type} (f : α → α → α) : List (Option α) → List (Option α)
  | none :: y :: t => y :: treeLevel f t
  | some a :: none :: t => some a :: treeLevel f t
  | some a :: some b :: t => some (f a b) :: treeLevel f t
  | l => l

/-- `LaneTree` of R211 over eight lanes, absent outside Active(). -/
def laneTree {α : Type} (f : α → α → α) (vs : List (Option α)) : Option α :=
  (treeLevel f (treeLevel f (treeLevel f vs))).head?.join

/-- The integer operation of a `REDL` FUNC at a TYPE, on n-bit fields. -/
def redInt (func t a b : Nat) : Nat :=
  let n := tyBits t
  match func with
  | 0 => (a + b) % 2 ^ n
  | 1 => if readAs t n a ≤ readAs t n b then a else b
  | 2 => if readAs t n a ≤ readAs t n b then b else a
  | 3 => a &&& b
  | 4 => a ||| b
  | _ => a ^^^ b

/-- The floating-point operation of a `REDL` FUNC, keeping the exceptions of both sides. -/
def redFlt (func : Nat) (f : FFmt) (rm : Rm) (a b : FRes) : FRes :=
  let r := match func with
    | 0 => fAdd f rm a.bits b.bits
    | 1 => fMinMax f false a.bits b.bits
    | _ => fMinMax f true a.bits b.bits
  { r with invalid := r.invalid || a.invalid || b.invalid, overflow := r.overflow || a.overflow || b.overflow }

/-- `REDL`: the reduction over Active() in the order of `LaneTree`, to every lane of Active() (R211). RM is reserved in the floating-point minimum and
maximum, which round nothing (DESIGN CHOICE, log 22). -/
def execRedl (o : V3) (s : State) : Result :=
  let t := o.ty.toNat
  let flt := isFloatTy t
  let func := o.func.toNat
  let types := if func < 3 then [0, 1, 2, 3, 8, 9] else [0, 1, 2, 3]
  let mods : FMods := { rm := flt && decide (func = 0), na := flt, nb := false, nc := false, aa := flt }
  issue (fltSpec o (.redl o) { d := .typed, a := .typed, b := .no, c := .no } types [0, 1, 2, 3, 4, 5] mods)
    (fun x s =>
      let at_ := fun {α : Type} (v : Nat → α) => (List.range 8).map fun l => if x.act.getLsbD l then some (v l) else none
      if flt then
        let f := fmtOf t
        let r := (laneTree (redFlt func f (rmOf o.rm.toNat)) (at_ fun l => FRes.plain (x.fA o l))).getD (FRes.plain 0)
        match fpTrap (s.launch x.g.launch).hdr x fun _ => r with
        | some tr => .trap tr
        | none => .fixed 10 (x.putF f o.d.toNat fun _ => r.bits) []
      else
        let r := (laneTree (redInt func t) (at_ fun l => x.raw o.a.toNat (tyBits t) l)).getD 0
        .fixed 10 (x.putW o fun _ => r) []) s

/-- Byte `k` of a `PRMT` result (R212). -/
def prmtByte (pool sel k : Nat) : Nat :=
  let nib := bits sel (4 * k + 3) (4 * k)
  let b := bits pool (8 * (nib % 8) + 7) (8 * (nib % 8))
  if nib < 8 then b else if 128 ≤ b then 255 else 0

def execPrmt (o : V3) (s : State) : Result :=
  issue (fltSpec o (.prmt o) { d := .one, a := .one, b := .one, c := .one } [0, 1] [0] modsNone)
    (fun x _ => .fixed 6 (x.put1 o.d.toNat fun l =>
      let pool := (x.lane o.a.toNat l).toNat + (x.lane o.c.toNat l).toNat * 2 ^ 32
      let sel := x.amount o l % 65536
      (List.range 4).foldl (fun r k => r + prmtByte pool sel k * 256 ^ k) 0) []) s

end Sys2Proof.Machine
end

