-- ==== Sys2Proof/Machine/Rings.lean ====
section
/-! DEFINITION. Rings (R73, R231, R232). -/

namespace Sys2Proof.Machine

/-! ## A ring's counts and slots (R231) -/

/-- The next claim, by a running task or by none. -/
def Ring.claim (r : Ring) (task : Option W64) : Ring :=
  let i := r.k % r.slotsN
  let cl := match task with
    | some h => KMap.put r.claimers i h
    | none => KMap.del r.claimers i
  { r.setSlot i .claimed with k := r.k + 1, claimers := cl }

/-- Released slots at F become free, by fuel. -/
def Ring.freeUp : Nat → Ring → Ring
  | 0, r => r
  | n + 1, r =>
    let i := r.f % r.slotsN
    if r.f < r.t && r.slot i = .released then Ring.freeUp n { r.setSlot i .free with f := r.f + 1 } else r

/-- The relevant owner of R73: the claimer of the oldest claimed and unpublished slot, else the producer. -/
def Ring.owner (r : Ring) : W64 :=
  match ((List.range (r.k - r.f)).map fun i => (r.f + i) % r.slotsN).find? fun i => decide (r.slot i = .claimed) with
  | some i => KMap.getD r.claimers i 0
  | none => r.producer

/-! ## Ring ids and their checks (R231, R232) -/

/-- RING_MISUSE with the item of R232 (R371). -/
def ringTrap (x : Iss) (id : W32) (item : Nat) : Trap := trapPlain .ringMisuse id (BitVec.ofNat 32 item) x.act

/-- The ring that a ring id names; PERMISSION for a ring of another virtual function is judged by the caller. -/
def State.ringAt (s : State) (x : Iss) (id : W32) : Except Trap (Nat × Nat × Ring) :=
  match s.ringPlace x.c id with
  | none => .error (ringTrap x id 1)
  | some (h, i) =>
    match KMap.get? (s.core h).rings i with
    | none => .error (ringTrap x id 2)
    | some r => .ok (h, i, r)

/-- The virtual-function check of R232, once its items are past. -/
def ringOwned (x : Iss) (id : W32) (r : Ring) : Option Trap :=
  if r.vf = x.v then none else some (trapPlain .permission id 0 x.act)

def State.setRing (s : State) (h i : Nat) (r : Ring) : State :=
  let k := s.core h
  s.setCore h { k with rings := KMap.put k.rings i r }

/-- The checks on registers that only the ring's s reveals: R61, R55, R56 and R415, in that order. -/
def State.ringRegs (s : State) (x : Iss) (rs : List (Nat × Nat)) (reads : Bool) (k : Unit → Res) : Res :=
  match badRange x.k x.e rs with
  | some f => .trap (trapPlain .regRange (BitVec.ofNat 32 f) (BitVec.ofNat 32 (x.k.frameSize x.e.frame)) x.act)
  | none =>
    if anyBusy x.k x.e rs then .wait s (if reads then busyOuts x.k x.e [] rs else busyOuts x.k x.e rs [])
    else
      match (if reads then s.shadowTrap x rs [] else none) with
      | some t => .trap t
      | none =>
        match (if reads then poisonRead { x with act := 0xFF } rs else none) with
        | some (l, m) => .trap (poisonTrap x l m)
        | none => k ()

/-- The facts of a ring word. -/
def ringSpec (o : SF) (i : Instr) (d b c imm : Bool) : Spec :=
  { instr := i, g := o.g, inHandler := false, fields := sfZero o d true b c imm
    dsts := if d then [(o.d.toNat, 1)] else []
    srcs := (o.a.toNat, 1) :: (if b then [(o.b.toNat, 1)] else []) }

/-! ## The ring instructions -/

def riniC (o : SF) : Nat := bits o.ctrl.toNat 3 0
def riniS (o : SF) : Nat := bits o.ctrl.toNat 5 4

def execRini (o : SF) (s : State) : Result :=
  let sp := ringSpec o (.rini o) false true false true
  let c := riniC o
  let sz := riniS o
  issue { sp with fields := sp.fields && decide (bits o.ctrl.toNat 15 6 = 0) && decide (0 < c) && decide (c ≤ 12) }
    (fun x s =>
      let id := x.low32 o.a.toNat
      match s.ringPlace x.c id with
      | none => .trap (ringTrap x id 1)
      | some (h, i) =>
        let old := KMap.get? (s.core h).rings i
        let held := match old with
          | some r => r.slots.any fun t => decide (t = .claimed) || decide (t = .published) || decide (t = .taken)
          | none => false
        if h ≠ x.c || held then .trap (ringTrap x id 3)
        else
          match old.bind (ringOwned x id) with
          | some t => .trap t
          | none =>
            let w := x.k.wg x.g.wg
            let off := (x.low32 o.b.toNat).toNat
            if off % (32 * 2 ^ sz) ≠ 0 || w.scratchLen < off + 2 ^ c * 32 * 2 ^ sz then
              .trap (wideTrap x (scrTrap .permission off))
            else
              .done (s.setRing h i
                { vf := x.v, base := w.scratchBase + off, c := c, s := sz, k := 0, t := 0, f := 0
                  slots := List.replicate (2 ^ c) .free, claimers := []
                  producer := (runningTask x.k x.g x.e).getD 0 })) s

/-- A claim: the slot's number in vD. -/
def State.claimSlot (s : State) (x : Iss) (d h i : Nat) (r : Ring) : State :=
  (s.setRing h i (r.claim (runningTask x.k x.g x.e))).give32 x d (r.k % r.slotsN)

def execRclm (o : SF) (s : State) : Result :=
  let sp := ringSpec o (.rclm o) true false true false
  issue { sp with fields := sp.fields && decide (o.c.toNat < 8) }
    (fun x s =>
      let id := x.low32 o.a.toNat
      match s.ringAt x id with
      | .error t => .trap t
      | .ok (h, i, r) =>
        match ringOwned x id r with
        | some t => .trap t
        | none =>
          if r.full then .done (s.givePred x o.c.toNat (allLanes false))
          else .done ((s.claimSlot x o.d.toNat h i r).givePred x o.c.toNat (allLanes true))) s

/-- A slot's data written, all eight lanes of each register in turn. -/
def Core.putSlot (k : Core) (r : Ring) (i : Nat) (regs : List Reg) : Core :=
  k.putScratch (r.base + i * r.slotBytes) (regs.flatMap fun (v : Reg) => leBytes 32 v.toNat)

def execRpub (o : SF) (s : State) : Result :=
  let sp := ringSpec o (.rpub o) false true true false
  issue { sp with srcs := [(o.a.toNat, 1), (o.b.toNat, 1), (o.c.toNat, 1)] }
    (fun x s =>
      let id := x.low32 o.a.toNat
      let v := (x.low32 o.c.toNat).toNat
      match s.ringAt x id with
      | .error t => .trap t
      | .ok (h, i, r) =>
        if r.slotsN ≤ v then .trap (ringTrap x id 6)
        else if r.slot v ≠ .claimed then .trap (ringTrap x id 4)
        else
          match ringOwned x id r with
          | some t => .trap t
          | none =>
            s.ringRegs x [(o.b.toNat, 2 ^ r.s)] true fun _ =>
              let s := s.setCore h ((s.core h).putSlot r v ((List.range (2 ^ r.s)).map fun j => x.reg (o.b.toNat + j)))
              .done (s.setRing h i (r.setSlot v .published))) s

/-- The registers of a slot's data, and the lanes with poisoned bytes. -/
def Core.slotRegs (k : Core) (r : Ring) (i : Nat) : List Reg :=
  (List.range (2 ^ r.s)).map fun j =>
    BitVec.ofNat 256 (leNat ((List.range 32).map fun b => KMap.getD k.scratch (r.base + i * r.slotBytes + 32 * j + b) 0))

def Core.slotPoison (k : Core) (r : Ring) (i : Nat) : Mask :=
  maskOf fun l => k.scratchPoison.any fun p =>
    let a := r.base + i * r.slotBytes
    decide (a ≤ p) && decide (p < a + r.slotBytes) && decide ((p - a) % 32 / 4 = l)

def execRwfl (o : SF) (s : State) : Result :=
  issue (ringSpec o (.rwfl o) true false false false)
    (fun x s =>
      let id := x.low32 o.a.toNat
      match s.ringAt x id with
      | .error t => .trap t
      | .ok (h, i, r) =>
        match ringOwned x id r with
        | some t => .trap t
        | none =>
          s.ringRegs x [(o.d.toNat, 2 ^ r.s + 1)] false fun _ =>
            if !r.ready then .moved (s.adoptOrWait x.c x.slot x.e r.owner false (.ringData id))
            else
              let n := r.t % r.slotsN
              let vals := (s.core h).slotRegs r n ++ [splat (BitVec.ofNat 32 n)]
              let s := s.addResult x o.d.toNat vals ((s.core h).slotPoison r n) [] 0 false []
              .done (s.setRing h i { r.setSlot n .taken with t := r.t + 1 })) s

def execRrel (o : SF) (s : State) : Result :=
  let sp := ringSpec o (.rrel o) false false true false
  issue { sp with srcs := [(o.a.toNat, 1), (o.c.toNat, 1)] }
    (fun x s =>
      let id := x.low32 o.a.toNat
      let v := (x.low32 o.c.toNat).toNat
      match s.ringAt x id with
      | .error t => .trap t
      | .ok (h, i, r) =>
        if r.slotsN ≤ v then .trap (ringTrap x id 6)
        else if r.slot v ≠ .taken then .trap (ringTrap x id 5)
        else
          match ringOwned x id r with
          | some t => .trap t
          | none =>
            .done (s.setRing h i (Ring.freeUp r.slotsN { r.setSlot v .released with claimers := KMap.del r.claimers v }))) s

def execRwfr (o : SF) (s : State) : Result :=
  issue (ringSpec o (.rwfr o) true false false false)
    (fun x s =>
      let id := x.low32 o.a.toNat
      match s.ringAt x id with
      | .error t => .trap t
      | .ok (h, i, r) =>
        match ringOwned x id r with
        | some t => .trap t
        | none =>
          if r.full then .wait s (.ringFree id) else .done (s.claimSlot x o.d.toNat h i r)) s

end Sys2Proof.Machine
end

