-- ==== Sys2Proof/Machine/Dispatch.lean ====
section
/-! DEFINITION. The meaning of every instruction: one arm for each constructor of `Instr`. -/

namespace Sys2Proof.Machine

def exec (i : Instr) (s : State) : Host.Outcome State Fault Refusal :=
  match i with
  | .iadd o => Sys2Proof.Machine.execIadd o s
  | .isub o => Sys2Proof.Machine.execIsub o s
  | .iadds o => Sys2Proof.Machine.execIadds o s
  | .iadd64 o => Sys2Proof.Machine.execIadd64 o s
  | .isub64 o => Sys2Proof.Machine.execIsub64 o s
  | .imul o => Sys2Proof.Machine.execImul o s
  | .imulh o => Sys2Proof.Machine.execImulh o s
  | .imad o => Sys2Proof.Machine.execImad o s
  | .imadw o => Sys2Proof.Machine.execImadw o s
  | .imin o => Sys2Proof.Machine.execImin o s
  | .imax o => Sys2Proof.Machine.execImax o s
  | .iabs o => Sys2Proof.Machine.execIabs o s
  | .ineg o => Sys2Proof.Machine.execIneg o s
  | .and o => Sys2Proof.Machine.execAnd o s
  | .or o => Sys2Proof.Machine.execOr o s
  | .xor o => Sys2Proof.Machine.execXor o s
  | .andn o => Sys2Proof.Machine.execAndn o s
  | .not o => Sys2Proof.Machine.execNot o s
  | .shl o => Sys2Proof.Machine.execShl o s
  | .shr o => Sys2Proof.Machine.execShr o s
  | .sar o => Sys2Proof.Machine.execSar o s
  | .rot o => Sys2Proof.Machine.execRot o s
  | .fnl o => Sys2Proof.Machine.execFnl o s
  | .bfx o => Sys2Proof.Machine.execBfx o s
  | .bfi o => Sys2Proof.Machine.execBfi o s
  | .popc o => Sys2Proof.Machine.execPopc o s
  | .clz o => Sys2Proof.Machine.execClz o s
  | .ctz o => Sys2Proof.Machine.execCtz o s
  | .brev o => Sys2Proof.Machine.execBrev o s
  | .bilv o => Sys2Proof.Machine.execBilv o s
  | .bdil o => Sys2Proof.Machine.execBdil o s
  | .isel o => Sys2Proof.Machine.execIsel o s
  | .icmp o => Sys2Proof.Machine.execIcmp o s
  | .lea o => Sys2Proof.Machine.execLea o s
  | .mov o => Sys2Proof.Machine.execMov o s
  | .movi o => Sys2Proof.Machine.execMovi o s
  | .movl o => Sys2Proof.Machine.execMovl o s
  | .sreg o => Sys2Proof.Machine.execSreg o s
  | .setp o => Sys2Proof.Machine.execSetp o s
  | .nop o => Sys2Proof.Machine.execNop o s
  | .bra o => Sys2Proof.Machine.execBra o s
  | .brx o => Sys2Proof.Machine.execBrx o s
  | .rcvt o => Sys2Proof.Machine.execRcvt o s
  | .rcvm o => Sys2Proof.Machine.execRcvm o s
  | .call o => Sys2Proof.Machine.execCall o s
  | .callx o => Sys2Proof.Machine.execCallx o s
  | .ret o => Sys2Proof.Machine.execRet o s
  | .unwind o => Sys2Proof.Machine.execUnwind o s
  | .exit o => Sys2Proof.Machine.execExit o s
  | .yield o => Sys2Proof.Machine.execYield o s
  | .idmc o => Sys2Proof.Machine.execIdmc o s
  | .lead o => Sys2Proof.Machine.execLead o s
  | .fadd o => Sys2Proof.Machine.execFadd o s
  | .fsub o => Sys2Proof.Machine.execFsub o s
  | .fmul o => Sys2Proof.Machine.execFmul o s
  | .ffma o => Sys2Proof.Machine.execFfma o s
  | .fmin o => Sys2Proof.Machine.execFmin o s
  | .fmax o => Sys2Proof.Machine.execFmax o s
  | .fcmp o => Sys2Proof.Machine.execFcmp o s
  | .fsel o => Sys2Proof.Machine.execFsel o s
  | .frnd o => Sys2Proof.Machine.execFrnd o s
  | .fdot2 o => Sys2Proof.Machine.execFdot2 o s
  | .frcp o => Sys2Proof.Machine.execFrcp o s
  | .frsq o => Sys2Proof.Machine.execFrsq o s
  | .fsqrt o => Sys2Proof.Machine.execFsqrt o s
  | .fexp2 o => Sys2Proof.Machine.execFexp2 o s
  | .flog2 o => Sys2Proof.Machine.execFlog2 o s
  | .fsin o => Sys2Proof.Machine.execFsin o s
  | .fcos o => Sys2Proof.Machine.execFcos o s
  | .fcvt o => Sys2Proof.Machine.execFcvt o s
  | .cvtn o => Sys2Proof.Machine.execCvtn o s
  | .fsplit3 o => Sys2Proof.Machine.execFsplit3 o s
  | .hadd2 o => Sys2Proof.Machine.execHadd2 o s
  | .hmul2 o => Sys2Proof.Machine.execHmul2 o s
  | .hfma2 o => Sys2Proof.Machine.execHfma2 o s
  | .shfl o => Sys2Proof.Machine.execShfl o s
  | .vote o => Sys2Proof.Machine.execVote o s
  | .redl o => Sys2Proof.Machine.execRedl o s
  | .prmt o => Sys2Proof.Machine.execPrmt o s
  | .matchLanes o => Sys2Proof.Machine.execMatchLanes o s
  | .tex o => Sys2Proof.Machine.execTex o s
  | .texg o => Sys2Proof.Machine.execTexg o s
  | .edge o => Sys2Proof.Machine.execEdge o s
  | .viewx o => Sys2Proof.Machine.execViewx o s
  | .packc o => Sys2Proof.Machine.execPackc o s
  | .ld o => Sys2Proof.Machine.execLd o s
  | .st o => Sys2Proof.Machine.execSt o s
  | .lds o => Sys2Proof.Machine.execLds o s
  | .sts o => Sys2Proof.Machine.execSts o s
  | .ldb o => Sys2Proof.Machine.execLdb o s
  | .stb o => Sys2Proof.Machine.execStb o s
  | .ldx o => Sys2Proof.Machine.execLdx o s
  | .stx o => Sys2Proof.Machine.execStx o s
  | .ldc o => Sys2Proof.Machine.execLdc o s
  | .prf o => Sys2Proof.Machine.execPrf o s
  | .atom o => Sys2Proof.Machine.execAtom o s
  | .red o => Sys2Proof.Machine.execRed o s
  | .cas o => Sys2Proof.Machine.execCas o s
  | .fence o => Sys2Proof.Machine.execFence o s
  | .waita o => Sys2Proof.Machine.execWaita o s
  | .copyt o => Sys2Proof.Machine.execCopyt o s
  | .copy16 o => Sys2Proof.Machine.execCopy16 o s
  | .cwait o => Sys2Proof.Machine.execCwait o s
  | .cwmk o => Sys2Proof.Machine.execCwmk o s
  | .bari o => Sys2Proof.Machine.execBari o s
  | .bara o => Sys2Proof.Machine.execBara o s
  | .barw o => Sys2Proof.Machine.execBarw o s
  | .bars o => Sys2Proof.Machine.execBars o s
  | .barp o => Sys2Proof.Machine.execBarp o s
  | .rini o => Sys2Proof.Machine.execRini o s
  | .rclm o => Sys2Proof.Machine.execRclm o s
  | .rpub o => Sys2Proof.Machine.execRpub o s
  | .rwfl o => Sys2Proof.Machine.execRwfl o s
  | .rrel o => Sys2Proof.Machine.execRrel o s
  | .rwfr o => Sys2Proof.Machine.execRwfr o s
  | .fnew o => Sys2Proof.Machine.execFnew o s
  | .fset o => Sys2Proof.Machine.execFset o s
  | .fwait o => Sys2Proof.Machine.execFwait o s
  | .tspn o => Sys2Proof.Machine.execTspn o s
  | .tend o => Sys2Proof.Machine.execTend o s
  | .lkaq o => Sys2Proof.Machine.execLkaq o s
  | .lkrl o => Sys2Proof.Machine.execLkrl o s
  | .ores o => Sys2Proof.Machine.execOres o s
  | .orel o => Sys2Proof.Machine.execOrel o s
  | .mseq o => Sys2Proof.Machine.execMseq o s
  | .trap o => Sys2Proof.Machine.execTrap o s
  | .bkpt o => Sys2Proof.Machine.execBkpt o s
  | .rdc o => Sys2Proof.Machine.execRdc o s
  | .wrc o => Sys2Proof.Machine.execWrc o s
  | .rett o => Sys2Proof.Machine.execRett o s
  | .perfRd o => Sys2Proof.Machine.execPerfRd o s
  | .perfMark o => Sys2Proof.Machine.execPerfMark o s
  | .timeSliceSwap core quarter place => Sys2Proof.Machine.execTimeSliceSwap core quarter place s
  | .loadComplete core id => Sys2Proof.Machine.execLoadComplete core id s
  | .frameAllocation core => Sys2Proof.Machine.execFrameAllocation core s
  | .eseSpill core => Sys2Proof.Machine.execEseSpill core s
  | .eseRefill core slot => Sys2Proof.Machine.execEseRefill core slot s
  | .workgroupBind core => Sys2Proof.Machine.execWorkgroupBind core s
  | .taskStart core vf queue => Sys2Proof.Machine.execTaskStart core vf queue s
  | .taskRequeue vf task => Sys2Proof.Machine.execTaskRequeue vf task s
  | .copyComplete core ch => Sys2Proof.Machine.execCopyComplete core ch s
  | .copy16Complete core id => Sys2Proof.Machine.execCopy16Complete core id s
  | .engineOpEnded core id => Sys2Proof.Machine.execEngineOpEnded core id s
  | .matrixOpComplete core => Sys2Proof.Machine.execMatrixOpComplete core s
  | .lit v => Sys2Proof.Machine.execLit v s
  | .engineNop f => Sys2Proof.Machine.execEngineNop f s
  | .ext f => Sys2Proof.Machine.execExt f s
  | .dup f => Sys2Proof.Machine.execDup f s
  | .drop f => Sys2Proof.Machine.execDrop f s
  | .swap f => Sys2Proof.Machine.execSwap f s
  | .overWord f => Sys2Proof.Machine.execOver f s
  | .add f => Sys2Proof.Machine.execAdd f s
  | .addi f => Sys2Proof.Machine.execAddi f s
  | .shape f => Sys2Proof.Machine.execShape f s
  | .mma f => Sys2Proof.Machine.execMma f s
  | .mmaz f => Sys2Proof.Machine.execMmaz f s
  | .drain f => Sys2Proof.Machine.execDrain f s
  | .drainadd f => Sys2Proof.Machine.execDrainadd f s
  | .drainaddo f => Sys2Proof.Machine.execDrainaddo f s
  | .arrive f => Sys2Proof.Machine.execArrive f s
  | .waitb f => Sys2Proof.Machine.execWaitb f s
  | .loop f => Sys2Proof.Machine.execLoop f s
  | .halt f => Sys2Proof.Machine.execHalt f s
  | .dmma f => Sys2Proof.Machine.execDmma f s
  | .dmmaz f => Sys2Proof.Machine.execDmmaz f s
  | .dout f => Sys2Proof.Machine.execDout f s
  | .dwt f => Sys2Proof.Machine.execDwt f s
  | .dline f => Sys2Proof.Machine.execDline f s
  | .cluNop o => Sys2Proof.Machine.execCluNop o s
  | .cluIadd o => Sys2Proof.Machine.execCluIadd o s
  | .cluIsub o => Sys2Proof.Machine.execCluIsub o s
  | .cluAnd o => Sys2Proof.Machine.execCluAnd o s
  | .cluOr o => Sys2Proof.Machine.execCluOr o s
  | .cluXor o => Sys2Proof.Machine.execCluXor o s
  | .cluShl o => Sys2Proof.Machine.execCluShl o s
  | .cluShr o => Sys2Proof.Machine.execCluShr o s
  | .cluSar o => Sys2Proof.Machine.execCluSar o s
  | .cluImin o => Sys2Proof.Machine.execCluImin o s
  | .cluImax o => Sys2Proof.Machine.execCluImax o s
  | .cluIcmp o => Sys2Proof.Machine.execCluIcmp o s
  | .cluXsel o => Sys2Proof.Machine.execCluXsel o s
  | .cluMov o => Sys2Proof.Machine.execCluMov o s
  | .cluBr o => Sys2Proof.Machine.execCluBr o s
  | .cluLoopr o => Sys2Proof.Machine.execCluLoopr o s
  | .cluSetlc o => Sys2Proof.Machine.execCluSetlc o s
  | .cluEndl o => Sys2Proof.Machine.execCluEndl o s
  | .cluGset o => Sys2Proof.Machine.execCluGset o s
  | .cluGlut o => Sys2Proof.Machine.execCluGlut o s
  | .cluKpop o => Sys2Proof.Machine.execCluKpop o s
  | .cluKpush o => Sys2Proof.Machine.execCluKpush o s
  | .cluQlen o => Sys2Proof.Machine.execCluQlen o s
  | .cluFadd o => Sys2Proof.Machine.execCluFadd o s
  | .cluFmul o => Sys2Proof.Machine.execCluFmul o s
  | .cluFfma o => Sys2Proof.Machine.execCluFfma o s
  | .cluFmin o => Sys2Proof.Machine.execCluFmin o s
  | .cluFmax o => Sys2Proof.Machine.execCluFmax o s
  | .cluFcmp o => Sys2Proof.Machine.execCluFcmp o s
  | .cluFcvt o => Sys2Proof.Machine.execCluFcvt o s
  | .cluShuf o => Sys2Proof.Machine.execCluShuf o s
  | .cluLerp o => Sys2Proof.Machine.execCluLerp o s
  | .cluWarp o => Sys2Proof.Machine.execCluWarp o s
  | .cluPose o => Sys2Proof.Machine.execCluPose o s
  | .cluSdrv o => Sys2Proof.Machine.execCluSdrv o s
  | .cluPack o => Sys2Proof.Machine.execCluPack o s
  | .cluLcpy o => Sys2Proof.Machine.execCluLcpy o s
  | .cluLdl o => Sys2Proof.Machine.execCluLdl o s
  | .cluStl o => Sys2Proof.Machine.execCluStl o s
  | .fetch o => Sys2Proof.Machine.execFetch o s
  | .store o => Sys2Proof.Machine.execStore o s
  | .emit o => Sys2Proof.Machine.execEmit o s
  | .fetchRunComplete lcr => Sys2Proof.Machine.execFetchRunComplete lcr s
  | .lineCopyStart lcr => Sys2Proof.Machine.execLineCopyStart lcr s
  | .lineScheduleStart lcr => Sys2Proof.Machine.execLineScheduleStart lcr s
  | .scanOutLine head => Sys2Proof.Machine.execScanOutLine head s
  | .reelRead head => Sys2Proof.Machine.execReelRead head s
  | .frameReturn head => Sys2Proof.Machine.execFrameReturn head s
  | .lineCoreReload lcr => Sys2Proof.Machine.execLineCoreReload lcr s
  | .launch c => Sys2Proof.Machine.execLaunch c s
  | .selham c => Sys2Proof.Machine.execSelham c s
  | .prio c => Sys2Proof.Machine.execPrio c s
  | .preempt c => Sys2Proof.Machine.execPreempt c s
  | .resume c => Sys2Proof.Machine.execResume c s
  | .waitCmd c => Sys2Proof.Machine.execWaitCmd c s
  | .tlbinv c => Sys2Proof.Machine.execTlbinv c s
  | .workgroupSave core wg => Sys2Proof.Machine.execWorkgroupSave core wg s
  | .launchCompletion queue index => Sys2Proof.Machine.execLaunchCompletion queue index s
  | .wayWalkComplete die => Sys2Proof.Machine.execWayWalkComplete die s
  | .sliceRequest die slice => Sys2Proof.Machine.execSliceRequest die slice s
  | .sideQueueRetry die slice => Sys2Proof.Machine.execSideQueueRetry die slice s
  | .lineFill die slice line victimWay => Sys2Proof.Machine.execLineFill die slice line victimWay s
  | .writeBackComplete die slice => Sys2Proof.Machine.execWriteBackComplete die slice s
  | .lineYield line => Sys2Proof.Machine.execLineYield line s
  | .drainAddArrive die slice => Sys2Proof.Machine.execDrainAddArrive die slice s
  | .orderedContribution die slice => Sys2Proof.Machine.execOrderedContribution die slice s
  | .sequenceTimeout die slice line => Sys2Proof.Machine.execSequenceTimeout die slice line s
  | .routerFlit die flit crcErr => Sys2Proof.Machine.execRouterFlit die flit crcErr s
  | .dieLinkFlitReceive link dir crcErr => Sys2Proof.Machine.execDieLinkFlitReceive link dir crcErr s
  | .dieLinkAck link dir => Sys2Proof.Machine.execDieLinkAck link dir s
  | .crossDieReceive die => Sys2Proof.Machine.execCrossDieReceive die s
  | .beacon src dst => Sys2Proof.Machine.execBeacon src dst s
  | .correctedReport unit => Sys2Proof.Machine.execCorrectedReport unit s
  | .swapthrExpiry core quarter place => Sys2Proof.Machine.execSwapthrExpiry core quarter place s
  | .unassignedOpcode w => Sys2Proof.Machine.execUnassignedOpcode w s
  | .unassignedEngineWord w => Sys2Proof.Machine.execUnassignedEngineWord w s
  | .doorbell vf k widx => Sys2Proof.Machine.execDoorbell vf k widx s
  | .contextKill queue index => Sys2Proof.Machine.execContextKill queue index s
  | .killAll queue => Sys2Proof.Machine.execKillAll queue s
  | .heartbeat => Sys2Proof.Machine.execHeartbeat s
  | .heartbeatTimeout => Sys2Proof.Machine.execHeartbeatTimeout s
  | .standinReload checkOk => Sys2Proof.Machine.execStandinReload checkOk s
  | .firmwareMemoryError fw => Sys2Proof.Machine.execFirmwareMemoryError fw s
  | .debugStop core slot => Sys2Proof.Machine.execDebugStop core slot s
  | .debugStepGroup core slot => Sys2Proof.Machine.execDebugStepGroup core slot s
  | .debugStepEntry core slot gent frag => Sys2Proof.Machine.execDebugStepEntry core slot gent frag s
  | .debugResume core slot => Sys2Proof.Machine.execDebugResume core slot s
  | .l2sPwayWrite die value => Sys2Proof.Machine.execL2sPwayWrite die value s
  | .l2sVfwayWrite die vf value => Sys2Proof.Machine.execL2sVfwayWrite die vf value s
  | .registerWrite reg value by_ => Sys2Proof.Machine.execRegisterWrite reg value by_ s
  | .createQueue queue base logn => Sys2Proof.Machine.execCreateQueue queue base logn s
  | .vfConfigWrite vf cfg => Sys2Proof.Machine.execVfConfigWrite vf cfg s
  | .vfCreate vf root1 root2 => Sys2Proof.Machine.execVfCreate vf root1 root2 s
  | .vfDestroy vf => Sys2Proof.Machine.execVfDestroy vf s
  | .domainMove domain toVf => Sys2Proof.Machine.execDomainMove domain toVf s
  | .iaRanges vf ranges allowance mmio => Sys2Proof.Machine.execIaRanges vf ranges allowance mmio s
  | .attestationReport vf nonce => Sys2Proof.Machine.execAttestationReport vf nonce s
  | .pluginLoad plugin code => Sys2Proof.Machine.execPluginLoad plugin code s
  | .pluginCall plugin core result => Sys2Proof.Machine.execPluginCall plugin core result s
  | .boot image signature dies memdev => Sys2Proof.Machine.execBoot image signature dies memdev s
  | .thermalStop die => Sys2Proof.Machine.execThermalStop die s
  | .thermalRestart => Sys2Proof.Machine.execThermalRestart s
  | .thermalHold die => Sys2Proof.Machine.execThermalHold die s
  | .hostAccessTimeout => Sys2Proof.Machine.execHostAccessTimeout s
  | .hostMemAccess port uio write space offset data => Sys2Proof.Machine.execHostMemAccess port uio write space offset data s
  | .hostSnoop addr invalidate => Sys2Proof.Machine.execHostSnoop addr invalidate s
  | .stage2FaultResolve => Sys2Proof.Machine.execStage2FaultResolve s
  | .sifterMerge ia1 ia2 => Sys2Proof.Machine.execSifterMerge ia1 ia2 s
  | .patrolScrub place errors => Sys2Proof.Machine.execPatrolScrub place errors s
  | .frameRetirement frame spare => Sys2Proof.Machine.execFrameRetirement frame spare s
  | .linkDown die router port => Sys2Proof.Machine.execLinkDown die router port s
  | .linkRetry die router port => Sys2Proof.Machine.execLinkRetry die router port s
  | .dieLinkDown link => Sys2Proof.Machine.execDieLinkDown link s
  | .linkRetrain dieLink a router port => Sys2Proof.Machine.execLinkRetrain dieLink a router port s
  | .frameOwnerChange frame owner newKey => Sys2Proof.Machine.execFrameOwnerChange frame owner newKey s
  | .powerLimitStep up => Sys2Proof.Machine.execPowerLimitStep up s
  | .poseCommit slot seq => Sys2Proof.Machine.execPoseCommit slot seq s
  | .selhamLaunchEnd => Sys2Proof.Machine.execSelhamLaunchEnd s
  | .dmeRestart => Sys2Proof.Machine.execDmeRestart s
  | .eventStamp => Sys2Proof.Machine.execEventStamp s
  | .errorRecord => Sys2Proof.Machine.execErrorRecord s
  | .dieLinkNak link dir => Sys2Proof.Machine.execDieLinkNak link dir s
  | .dieLinkReplayTimeout link dir => Sys2Proof.Machine.execDieLinkReplayTimeout link dir s
  | .preemptTimeout queue => Sys2Proof.Machine.execPreemptTimeout queue s

end Sys2Proof.Machine
end

