-- ==== Sys2Proof/Machine/Fetch.lean ====
section
/-! DEFINITION. Fetching the word of an agent that issues: compute words through both translation stages, engine words of
a context, and the words that Selham's units and the command queues hold (R162, R187, R243, R244, R292, R325, R334, R385,
R398). -/

namespace Sys2Proof.Machine

/-- What the fetch of an agent's word gives. -/
inductive Fetched where
  /-- An instruction to execute, with the agent's turn in the state. -/
  | run (i : Instr) (s : State)
  /-- The agent issues nothing: it is gone, it waits, or its fetch failed with the effect in the state. -/
  | idle (s : State)
  /-- Bytes that the agent's loader never accepts. -/
  | bad (why : String)
  deriving DecidableEq, Repr

/-! ## Compute words (R162, R187, R385) -/

/-- Both words of an instruction decoded; a word without a literal leaves the second alone. -/
def decodeWords (s : State) (bs : List Byte) : Except Trap (State × Instr) :=
  match decode .compute bs with
  | .ok (i, _) => .ok (s, i)
  | .error _ => .error (trapPlain .illegalOpcode 0 0 0)

/-- The word of 8 bytes that a fetch of launch `l` gives: the word in memory, or one that a store has replaced since the launch
was accepted; which one is open (R163) (DESIGN CHOICE, log 3). -/
def State.codeWord (s : State) (l pa : Nat) : W64 × State :=
  let old := s.oldCode.filter fun o => decide (o.word = pa / 8) && decide (l < o.before)
  if old.isEmpty then (s.word pa, s)
  else
    let (n, s) := s.choice (old.length + 1)
    match old[n]? with
    | some o => (o.value, s)
    | none => (s.word pa, s)

/-- The place of an instruction byte; PERMISSION where a register page lies there. -/
def State.fetchPa (s : State) (c v va : Nat) : Except Trap Nat :=
  match s.xlate (s.tlbOf c) v va .ex with
  | .mem pa _ => .ok pa
  | .mmio _ _ => .error (xlateTrap va .permission false 0)
  | .bad cause st2 ia => .error (xlateTrap va cause st2 ia)

/-- The instruction at `pc` that a group of launch `l` fetches, its literal word at `pc` + 8 if it has one. -/
def State.fetchCompute (s : State) (c v l : Nat) (pc : W64) : Except Trap (State × Instr) :=
  match s.fetchPa c v pc.toNat with
  | .error t => .error t
  | .ok pa =>
    let (w, s) := (s.noteXlate c v pc.toNat .ex).codeWord l pa
    if hasLiteral w then
      match s.fetchPa c v (pc + 8).toNat with
      | .error t => .error t
      | .ok pb =>
        let (x, s) := (s.noteXlate c v (pc + 8).toNat .ex).codeWord l pb
        decodeWords s (wordBytes w ++ wordBytes x)
    else decodeWords s (wordBytes w)

/-- A debugger's step of the group is under way. -/
def State.inStep (s : State) (c slot : Nat) : Bool := s.agenda.contains (.stepEnd c slot)

/-- The entry may make its issue attempt: lanes, frames at hand, its wait over, no other entry of its group in a handler, the
group running or stepped, no park of its task under way but for a handler or an adopted task, and room for a fatal event of the
core (R65, R347, R348, R369, R378, R383, R384, R399). -/
def State.mayIssue (s : State) (c slot : Nat) (g : Group) (e : Entry) : Bool :=
  decide (e.mask ≠ 0#8) && !g.spilled && s.waitOver c slot g e && !((s.core c).wg g.wg).held
    && !(g.entries.any fun f => decide (f.id ≠ e.id) && f.handler.isSome)
    && (!g.halted || s.inStep c slot) && (!g.parking || e.handler.isSome || e.adopting.isSome) && !s.inputFull (srcCore c)

/-- The wait of an entry at its issue: over, but for one that says what the word met when it first issued (R243, R408). -/
def Entry.issuing (e : Entry) : Entry := if e.wait.kept then e else { e with wait := .none }

/-- The entry as an issue, for the delivery of a fetch fault: every lane of the entry. -/
def State.fetchIss (s : State) (c slot : Nat) (g : Group) (e : Entry) : Iss :=
  { c := c, slot := slot, k := s.core c, g := g, e := e, act := e.mask, now := s.clk.compute }

/-- Step 1 of R385 for an entry. -/
def State.fetchEntry (s : State) (c slot : Nat) (id : EntId) : Fetched :=
  match (s.core c).group? slot with
  | none => .idle s
  | some g =>
    match g.entry? id with
    | none => .idle s
    | some e =>
      if !s.mayIssue c slot g e then .idle s
      else
        let s := s.setCore c ((s.core c).setEntry slot e.issuing)
        match s.fetchCompute c g.vf g.launch e.pc with
        | .ok (s, i) => .run i { s with turn := some (.entry c slot id) }
        | .error t => .idle (s.deliver (s.fetchIss c slot g e.issuing) { t with fmask := e.mask } 8)

/-! ## Engine words (R244, R325, R398) -/

/-- A word with OP 0x12 to 0x1F belongs to no compute stream (R398). -/
def contextInstr (w : BitVec 16) : Instr :=
  if w.getLsbD 15 && decide (0x12 ≤ bits w.toNat 14 10) then .unassignedEngineWord w else engineOf w

/-- The word at a context's PC; a fetch fault stops the context with no word and the depth of its stack. -/
def State.fetchContext (s : State) (c n : Nat) : Fetched :=
  match KMap.get? (s.core c).ctxs n with
  | none => .idle s
  | some x =>
    if s.inputFull (srcCore c) || ((s.core c).wg x.wg).held then .idle s
    else
      match s.agentAddr (c / 48) x.vf x.pc.toNat .ex with
      | (s, .error code) => .idle (s.stopAt c n x code 0)
      | (s, .ok pa) =>
        let (w, s) := s.codeWord ((s.core c).wg x.wg).launch (pa / 8 * 8)
        .run (contextInstr (w.extractLsb' (8 * (pa % 8)) 16)) { s with turn := some (.context c n) }

/-- The next word of the DME's store. -/
def State.fetchDme (s : State) : Fetched :=
  match s.sel.dme.words[s.sel.dme.pc]? with
  | none => .idle s.haltDme
  | some w => .run (engineOf w) { s with turn := some .dme }

/-! ## Selham's words (R291, R309, R323) -/

def State.fetchCluster (s : State) (l c : Nat) : Fetched :=
  match (s.lcr l).imem[((s.lcr l).cluster c).pc]? with
  | none => .idle s
  | some w =>
    match decode .cluster (wordBytes w) with
    | .ok (i, _) => .run i { s with turn := some (.cluster l c) }
    | .error _ => .bad "a cluster word that the loader refuses (R313)"

/-- The word at position `pos` of an engine stream. -/
def streamWord (ws : List W64) (pos : Nat) : List Byte :=
  wordBytes (getAt ws (2 * pos) 0) ++ wordBytes (getAt ws (2 * pos + 1) 0)

def State.fetchFetch (s : State) (l : Nat) : Fetched :=
  match decode .selFetch (streamWord (s.lcr l).fetchMem (s.lcr l).fetchPos) with
  | .ok (i, _) => .run i { s with turn := some (.fetchEngine l) }
  | .error .endOfLine => .idle s
  | .error _ => .bad "a fetch engine word that the loader refuses (R401)"

def State.fetchStore (s : State) (l : Nat) : Fetched :=
  match decode .selStore (streamWord (s.lcr l).storeMem (s.lcr l).storePos) with
  | .ok (i, _) => .run i { s with turn := some (.storeEngine l) }
  | .error .endOfLine => .idle s
  | .error _ => .bad "a store engine word that the loader refuses (R401)"

/-! ## Commands (R334, R340, R453) -/

/-- The read index of a queue stands before its write index, and nothing holds the queue. -/
def CmdQueue.open_ (x : CmdQueue) : Bool :=
  decide (x.r % 2 ^ 32 ≠ x.widx.toNat) && x.waiting.isNone && !x.blocked

def State.fetchCommand (s : State) (q : Nat) : Fetched :=
  match KMap.get? s.dist.queues q with
  | none => .idle s
  | some x =>
    if !s.schedulerUp || !x.open_ then .idle s
    else
      match s.queueEntry q x with
      | (s, .error code) => .idle (s.entryUnread q x code)
      | (s, .ok ws) =>
        match decode .command (ws.flatMap wordBytes) with
        | .ok (i, _) => .run i { s with turn := some (.queue q) }
        | .error _ => .idle (s.unknownCommand q ws)

/-- The word of an agent. -/
def State.fetch (s : State) (a : Agent) : Fetched :=
  match a with
  | .entry c slot id => s.fetchEntry c slot id
  | .context c n => s.fetchContext c n
  | .dme => s.fetchDme
  | .cluster l c => s.fetchCluster l c
  | .fetchEngine l => s.fetchFetch l
  | .storeEngine l => s.fetchStore l
  | .queue q => s.fetchCommand q
  | .selIssue => .idle s
  | .coreIssue _ => .idle s
  | .stepEnd _ _ => .idle s

end Sys2Proof.Machine
end

