-- ==== Sys2Proof/Machine/Schedule.lean ====
section
/-! DEFINITION. Who issues and what happens next: the issue slots of a quarter, the clocks of the part, and the free choice
among the steps that hardware and firmware take by themselves (R23, R49-R52, R72, R228, R243, R334, R337, R439). -/

namespace Sys2Proof.Machine

/-! ## The issue slots of a quarter (R51) -/

/-- The virtual functions resident in a quarter, in ascending order. -/
def Core.tenants (k : Core) (q : Nat) : List Nat :=
  (List.range 128).filter fun v => k.groups.any fun g => decide (quarterOf g.1 = q) && decide (g.2.vf = v)

/-- `NextTenantAfter(p)`. -/
def nextTenant (ts : List Nat) (p : Option Nat) : Option Nat :=
  match p with
  | none => ts.head?
  | some n => (ts.find? fun t => decide (n < t)).orElse fun _ => ts.head?

/-- `Start(p)`. -/
def startTenant (ts : List Nat) (p : Option Nat) : Option Nat :=
  match p with
  | none => ts.head?
  | some n => if ts.contains n then some n else nextTenant ts p

/-- The tenants from `Start(p)` in ascending order with wrap. -/
def tenantsFrom (ts : List Nat) (p : Option Nat) : List Nat :=
  match startTenant ts p with
  | none => ts
  | some n => (ts.filter fun t => decide (n ≤ t)) ++ ts.filter fun t => decide (t < n)

/-- The deficits, the entries chosen in this clock, and the slots that are left. -/
structure Picks where
  deficit : KMap Nat
  chosen : List (Nat × EntId)
  slots : Nat
  deriving DecidableEq, Repr

/-- The ready active entries of tenant `t` of groups that have not been chosen, with the clock of their last issue. -/
def State.candidates (s : State) (c q t : Nat) (pk : Picks) : List (Nat × Nat × EntId) :=
  ((s.core c).quarter q).active.filterMap fun p =>
    match s.placed c q p.1 with
    | none => none
    | some (pl, g, e) =>
      if decide (g.vf = t) && decide (pl.from_ ≤ s.clk.compute) && s.entryReady c pl.slot g e
          && !pk.chosen.any (fun x => decide (x.1 = pl.slot))
      then some (e.lastIssue, pl.slot, pl.ent) else none

/-- The oldest of them; of several of one age, the one in the lowest place of the active set (DESIGN CHOICE, log 40). -/
def oldestCandidate (l : List (Nat × Nat × EntId)) : Option (Nat × Nat × EntId) :=
  l.foldl (fun best x => match best with
    | none => some x
    | some b => if x.1 < b.1 then some x else some b) none

/-- The slots that a tenant takes, at most four; a tenant of positive weight spends a unit of its deficit on each. -/
def State.giveSlots : Nat → State → Nat → Nat → Nat → Bool → Picks → Picks
  | 0, _, _, _, _, _, pk => pk
  | n + 1, s, c, q, t, paid, pk =>
    let d := KMap.getD pk.deficit t 0
    if pk.slots = 0 || (paid && decide (d = 0)) then pk
    else
      match oldestCandidate (s.candidates c q t pk) with
      | none => pk
      | some x =>
        State.giveSlots n s c q t paid
          { deficit := if paid then KMap.put pk.deficit t (d - 1) else pk.deficit
            chosen := pk.chosen ++ [x.2], slots := pk.slots - 1 }

/-- The choice of a quarter in one clock: the quarter with its deficits and pointer, and the chosen entries. -/
def State.pickQuarter (s : State) (c q : Nat) : Quarter × List (Nat × EntId) :=
  let k := s.core c
  let x := k.quarter q
  let ts := k.tenants q
  let w := fun (t : Nat) => (s.vf t).weight
  let quantum := max 1 (bits x.sched.toNat 19 12)
  let pk0 : Picks := { deficit := x.deficit.filter fun d => ts.contains d.1, chosen := [], slots := 4 }
  let credit := ts.any fun t => decide (0 < KMap.getD pk0.deficit t 0) && !(s.candidates c q t pk0).isEmpty
  let round := fun (d : KMap Nat) =>
    ts.foldl (fun d t => KMap.put d t (min (KMap.getD d t 0 + w t * quantum) (w t * quantum))) d
  let d0 := if credit then pk0.deficit else round pk0.deficit
  let ptr := if credit then x.ptr else nextTenant ts x.ptr
  let pk := (tenantsFrom ts ptr).foldl (fun pk t => s.giveSlots 4 c q t true pk) { pk0 with deficit := d0 }
  let pk := (ts.filter fun t => decide (w t = 0)).foldl (fun pk t => s.giveSlots 4 c q t false pk) pk
  ({ x with deficit := pk.deficit, ptr := ptr }, pk.chosen)

/-- The issue of an entry ends in a wait for busy registers, or for atomics of its own (R55, R150). -/
def State.heldAt (s : State) (c slot : Nat) (id : EntId) : Bool :=
  match ((s.core c).group? slot).bind fun g => g.entry? id with
  | some e => (match e.wait with
    | .busyReg _ _ => true
    | _ => false)
  | none => false

/-- An entry whose next word finds a register busy is not ready (R51, R55): it waits for the register from this clock on, before the
quarter chooses. -/
def State.holdBusy (s : State) (c q p : Nat) : State :=
  match s.placed c q p with
  | none => s
  | some (pl, g, e) =>
    if !decide (pl.from_ ≤ s.clk.compute) || !s.entryReady c pl.slot g e then s
    else
      match s.fetchEntry c pl.slot pl.ent with
      | .run i t =>
        (match exec i t with
        | .next u => if u.heldAt c pl.slot pl.ent then u else s
        | _ => s)
      | _ => s

/-- The issue of a core in one clock: its quarters choose, and the chosen entries get their turns. -/
def State.coreIssue (s : State) (c : Nat) : State :=
  (List.range 4).foldl (fun s q =>
    if ((s.core c).tenants q).isEmpty then s
    else
      let s := (List.range 8).foldl (fun s p => s.holdBusy c q p) s
      let r := s.pickQuarter c q
      { s.setCore c ((s.core c).setQuarter q r.1) with
        agenda := s.agenda ++ r.2.map fun x => .entry c x.1 x.2 }) s

/-- The end of a debugger's step: the group is stopped again (R384). -/
def State.stepEnd (s : State) (c slot : Nat) : State :=
  match (s.core c).group? slot with
  | none => s
  | some g => if g.halted then s.stopGroup c slot g.bkpt else s

/-! ## A compute clock -/

/-- Since when each pending entry of a core has been ready (R49). -/
def State.noteReady (s : State) (c : Nat) : State :=
  let k := s.core c
  let now := s.clk.compute
  let entry := fun (slot : Nat) (g : Group) (e : Entry) =>
    if (k.placeOf slot e.id).isNone && s.entryReady c slot g e then { e with readyAt := some (e.readyAt.getD now) }
    else { e with readyAt := none }
  s.setCore c { k with
    groups := k.groups.map fun (g : Nat × Group) => (g.1, { g.2 with entries := g.2.entries.map (entry g.1 g.2) }) }

/-- A free place of an active set takes a ready pending entry (R44, R49). -/
def State.fillPlace (s : State) (c q p : Nat) : State :=
  let now := s.clk.compute
  match KMap.get? ((s.core c).quarter q).active p with
  | some _ => s
  | none =>
    match pickPending ((s.core c).quarter q).deficit 128 now (s.readyPending c q) with
    | none => s
    | some x => s.setCore c ((s.core c).enter q p x now now)

/-- An active entry that still waits at a long-latency dependence is swapped out once a pending one is ready (R49). -/
def State.swapWaiting (s : State) (c q p : Nat) : State :=
  match s.placed c q p with
  | none => s
  | some (pl, g, e) =>
    if (s.core c).longWait e && e.handler.isNone && !s.waitOver c pl.slot g e then (s.swapPlace c q p false fun _ => true).getD s else s

/-- The active sets of a core after its entries' waits have been looked at. -/
def State.tendCore (s : State) (c : Nat) : State :=
  let places := (List.range 4).flatMap fun q => (List.range 8).map fun p => (q, p)
  places.foldl (fun s x => (s.fillPlace c x.1 x.2).swapWaiting c x.1 x.2) (s.noteReady c)

/-- The swaps that a clock brings (R49, R50). -/
def State.swapsDue (s : State) (c : Nat) : List Instr :=
  let places := (List.range 4).flatMap fun q => (List.range 8).map fun p => (q, p)
  places.flatMap fun x =>
    (if (s.lateOuts c x.1 x.2).isEmpty then [] else [Instr.swapthrExpiry c x.1 x.2])
      ++ (if (s.sliceOver c x.1 x.2).isSome then [Instr.timeSliceSwap c x.1 x.2] else [])

/-- The parked tasks of a core whose object has come are made ready (R72). -/
def State.wakeParked (s : State) (c : Nat) : State :=
  (s.core c).spills.foldl (fun s r => match r.2.kind with
    | .park h v es _ _ _ => if es.head?.any (fun e => s.objectOver c v e.wait) then s.wakeTask c v h else s
    | .group _ => s
    | .saved _ => s) s

/-- The copies of a core go on, each by a number of elements that is open (DESIGN CHOICE, log 3). -/
def State.moveCopies (s : State) (c : Nat) : State :=
  (s.core c).chans.foldl (fun s x =>
    if x.2.op.isSome then
      let (n, s) := s.choice 65
      State.copySome n s c x.1
    else s) s

/-- The wait of a context's word is over, and its workgroup is not held (R243, R347, R399). -/
def Core.ctxReady (k : Core) (n : Nat) (x : SeqCtx) : Bool :=
  !(k.wg x.wg).held && match x.wait with
  | .none => true
  | .bar b => decide (((k.wg x.wg).barrier b).phase ≠ getAt x.tokens b 0)
  | .ops => (k.liveOps n x.wg).isEmpty
  | .queue => decide ((Core.shiftDrains 16 k).launchQ.length < 16)

/-- The sequencer's next context in round-robin order that does not wait. -/
def Core.nextCtx (k : Core) : Option Nat :=
  ((List.range 8).map fun i => (k.seqPtr + 1 + i) % 8).find? fun n =>
    match KMap.get? k.ctxs n with
    | none => false
    | some x => k.ctxReady n x

def State.sequence (s : State) (c : Nat) : State :=
  let k := s.core c
  match k.nextCtx with
  | none => s
  | some n => { s.setCore c { k with seqPtr := n } with agenda := s.agenda ++ [.context c n] }

/-- What one clock brings in a core. -/
def State.tickCore (s : State) (c : Nat) : State :=
  let s := (((s.stopsDue c).tendCore c).wakeParked c).moveCopies c
  let s := { s with inbox := s.inbox ++ s.swapsDue c }
  let s := s.sequence c
  if (s.core c).groups.isEmpty then s else { s with agenda := s.agenda ++ [.coreIssue c] }

/-- One compute clock passes. -/
def State.tickCompute (s : State) : State :=
  let s := { s with clk := { s.clk with compute := s.clk.compute + 1 } }
  ((s.cores.map Prod.fst).foldl State.tickCore s).parkAgain

/-! ## The other clocks -/

/-- One nanosecond passes; the timeout of a pre-emption does not count while a group of its launch is stopped (R439). -/
def State.tickTime (s : State) : State :=
  let s := { s with clk := { s.clk with time := s.clk.time + 1 } }
  let held := fun (l : Nat) => s.cores.any fun c => c.2.groups.any fun g => decide (g.2.launch = l) && decide (g.2.dbg ≠ .running)
  { s with dist := { s.dist with
    preempts := s.dist.preempts.map fun (p : Preempt) => if held p.launch then { p with due := p.due.map fun t => t + 1 } else p } }

/-- One firmware clock passes: the active scheduler takes up a queue whose doorbell has rung or that holds commands; a
kick bit is cleared, and lets a queue with an unreadable entry go on (R334, R337, R453). -/
def State.tickFirmware (s : State) : State :=
  let s := { s with clk := { s.clk with firmware := s.clk.firmware + 1 } }
  let kicked := fun (q : Nat) => (KMap.getD s.dist.kick (q / 32) 0).getLsbD (q % 32)
  let qs := if s.schedulerUp && !s.inputFull (srcFw s.activeFw) then (s.dist.queues.filter fun x => kicked x.1 || x.2.open_).map Prod.fst else []
  if qs.isEmpty then s
  else
    let (n, s) := s.choice qs.length
    let q := getAt qs n 0
    match KMap.get? s.dist.queues q with
    | none => s
    | some x =>
      let word := KMap.getD s.dist.kick (q / 32) 0 &&& ~~~(BitVec.ofNat 32 (2 ^ (q % 32)))
      { s with
        dist := { s.dist with
          kick := KMap.put s.dist.kick (q / 32) word
          queues := if kicked q then KMap.put s.dist.queues q { x with blocked := false } else s.dist.queues }
        agenda := s.agenda ++ [.queue q] }

/-- The result of a step that the machine takes by itself: where its condition does not hold, nothing happens. -/
def idleUnless (s : State) (r : Result) : Result :=
  match r with
  | .refused (.notEnabled _) => .next s
  | .next t => .next t
  | .fault f => .fault f
  | .refused x => .refused x

/-- One fabric clock passes: congested links signal, and beacons that are due go (R149, R270). -/
def State.clockFabric (s : State) : State :=
  let s := { s with clk := { s.clk with fabric := s.clk.fabric + 1 } }
  let now := s.clk.fabric
  { s with dies := s.dies.map fun (e : Nat × Die) => (e.1, e.2.signal now) }.beacons

/-- The fabric clock, where it is not stopped; the arbiter takes at most one event, during a thermal stop too (R31, R378). -/
def State.tickFabric (s : State) : Result :=
  let s := if s.clk.thermal = .running then s.clockFabric else s
  idleUnless s (execEventStamp s)

/-! ## Steps that hardware and firmware take by themselves -/

/-- Step `k` with operands that are free choices (DESIGN CHOICE, log 3). -/
def State.spontaneous (s : State) (k : Nat) (n : Nat → Nat) : Result :=
  let c := n 0 % 192
  let d := n 0 % 5
  let j := n 1 % 16
  let flag := decide (n 1 % 2 = 1)
  match k with
  | 0 => execLoadComplete c (n 1) s
  | 1 => execFrameAllocation c s
  | 2 => execEseSpill c s
  | 3 => execEseRefill c (n 1 % 512) s
  | 4 => execWorkgroupBind c s
  | 5 => execTaskStart c (n 1 % 128) (n 2 % 16) s
  | 6 => execTaskRequeue (n 0 % 128) (n 1) s
  | 7 => execCopyComplete c (n 1) s
  | 8 => execCopy16Complete c (n 1) s
  | 9 => execEngineOpEnded c (n 1) s
  | 10 => execMatrixOpComplete c s
  | 11 => execWorkgroupSave c (n 1) s
  | 12 =>
    match s.dist.completions with
    | [] => .refused (.notEnabled "LAUNCH_COMPLETION")
    | x :: _ => execLaunchCompletion x.queue x.index s
  | 13 => execWayWalkComplete d s
  | 14 => execSliceRequest d j s
  | 15 => execSideQueueRetry d j s
  | 16 => execLineFill d j (n 2) (n 3 % 32) s
  | 17 => execWriteBackComplete d j s
  | 18 => execLineYield (n 0) s
  | 19 => execDrainAddArrive d j s
  | 20 => execOrderedContribution d j s
  | 21 => execSequenceTimeout d j (n 2) s
  | 22 => execRouterFlit d (n 1) (BitVec.ofNat 16 (n 2)) s
  | 23 => execDieLinkFlitReceive (n 0 % 8) flag (BitVec.ofNat 32 (n 2)) s
  | 24 => execDieLinkAck (n 0 % 8) flag s
  | 25 => execDieLinkNak (n 0 % 8) flag s
  | 26 => execDieLinkReplayTimeout (n 0 % 8) flag s
  | 27 => execCrossDieReceive d s
  | 28 => execBeacon d (n 1 % 5) s
  | 29 => execCorrectedReport (n 0) s
  | 30 => execErrorRecord s
  | 31 => execHeartbeat s
  | 32 => execHeartbeatTimeout s
  | 33 => execPreemptTimeout (n 0 % 1024) s
  | 34 => execStage2FaultResolve s
  | 35 =>
    match s.fwc.window with
    | some w => if w.merge then execSifterMerge w.ia1 w.ia2 s else execFrameRetirement w.frame w.spare s
    | none => execSifterMerge (n 0) (n 1) s
  | 36 => execFrameRetirement (n 0) (n 1) s
  | 37 => execLinkDown d j (n 2 % 8) s
  | 38 => execLinkRetry d j (n 2 % 8) s
  | 39 => execDieLinkDown (n 0 % 8) s
  | _ => execLinkRetrain flag (n 0 % 8) j (n 2 % 8) s

/-- Step `k` is the event arbiter's or a firmware core's own: such steps go on while the clocks are stopped (R32). -/
def ofFirmware (k : Nat) : Bool := decide (29 ≤ k) && decide (k ≤ 32)

/-- The sources of R378 that step `k` belongs to: while the input of one of them is full it waits. The step that takes records out
of the arbiter's queue does not. -/
def State.stepSources (s : State) (k : Nat) (n : Nat → Nat) : List Nat :=
  let d := n 0 % 5
  let ends := fun (l : Nat) => [srcLink l 0, srcLink l 1]
  if k < 4 || (7 ≤ k && k < 12) then [srcCore (n 0 % 192)]
  else if (14 ≤ k && k < 18) || (19 ≤ k && k < 22) then [srcSlice d (n 1 % 16)] ++ (if k = 16 then [srcMemc d] else [])
  else if k = 22 then ((s.die d).flits.filter fun f => decide (f.id = n 1)).map fun f => srcRouter d f.router
  else if 23 ≤ k && k < 27 then ends (n 0 % 8)
  else if k = 37 || k = 38 then [srcRouter d (n 1 % 16)]
  else if k = 39 then ends (n 0 % 8)
  else if (4 ≤ k && k < 7) || k = 12 || (31 ≤ k && k < 37) then [srcFw s.activeFw]
  else []

/-- Something that hardware or firmware does by itself; while the clocks are stopped, only what firmware does (R32), and nothing
of a source whose event waits for room (R378). -/
def State.byItself (s : State) : Result :=
  let n := fun (i : Nat) => Config.choose (s.choices + 1 + i)
  let t := { s with choices := s.choices + 5 }
  let k := Config.choose s.choices % 41
  if (s.clk.thermal ≠ .running && !ofFirmware k) || (s.stepSources k n).any s.inputFull then .next t
  else idleUnless t (t.spontaneous k n)

/-- A unit of Selham waits for room in its input of the arbiter: Selham's clock waits with it (R378) (DESIGN CHOICE, log 3). -/
def State.selWaits (s : State) : Bool := (List.range 21).any fun u => s.inputFull (srcSel u)

/-- What happens next where no input waits and no agent has a turn: a clock ticks, or something happens by itself (R23;
DESIGN CHOICE, log 3). A stopped clock does not tick (R31). -/
def State.goOn (s : State) : Result :=
  let (n, s) := s.choice 6
  let up := decide (s.clk.thermal = .running)
  match n with
  | 0 => .next (if up then s.tickCompute else s)
  | 1 => s.tickFabric
  | 2 => .next (if up && !s.selWaits then s.tickSelham else s)
  | 3 => .next s.tickFirmware
  | 4 => .next s.tickTime
  | _ => s.byItself

/-! ## Inputs during a thermal stop (R31, R32) -/

/-- A register of a block whose clock goes on: the distributor's and firmware's. -/
def regWhileStopped (r : MmioReg) : Bool :=
  match r with
  | .qtrSched _ _ => false
  | .eseCtl _ => false
  | .coreDbg _ => false
  | .l2sPway _ => false
  | .l2sVfway _ _ => false
  | .l2sWmstat _ => false
  | .l2sSeqto _ => false
  | .fabCtl _ => false
  | .memcScrub _ => false
  | .distDbell _ _ => true
  | .distKick _ => true
  | .distPto => true
  | .distNbase _ => true
  | .distNctl _ => true
  | .distNstat _ => true
  | .fwcPkgid => true
  | .fwcErrcfg => true
  | .fwcErridx => true
  | .fwcSched => true
  | .fwcKill => true
  | .fwcHpol _ => true
  | .siftCtl => true
  | .selBwres => false
  | .selRctl => false
  | .selFrdy _ => false
  | .selFrtn _ => false
  | .scanStat _ => false
  | .pmb _ _ => false

/-- An input that is taken while the clocks are stopped: it reaches only firmware, the distributor, the arbiter and the host's side.
Any other waits (R32) (DEDUCED, log 36). -/
def instrWhileStopped (i : Instr) : Bool :=
  match i with
  | .doorbell _ _ _ => true
  | .heartbeat => true
  | .heartbeatTimeout => true
  | .standinReload _ => true
  | .firmwareMemoryError _ => true
  | .registerWrite r _ _ => regWhileStopped r
  | .attestationReport _ _ => true
  | .pluginLoad _ _ => true
  | .boot _ _ _ _ => true
  | .thermalStop _ => true
  | .thermalRestart => true
  | .thermalHold _ => true
  | .hostAccessTimeout => true
  | .hostMemAccess _ _ _ space _ _ => (match space with
    | .pfBar r => regWhileStopped r
    | .vfBar _ r => regWhileStopped r
    | _ => true)
  | .hostSnoop _ _ => true
  | .eventStamp => true
  | .errorRecord => true
  | .correctedReport _ => true
  | _ => false

/-- The first input of a list that is taken while the clocks are stopped, and the others. -/
def takeWhileStopped : List Instr → Option (Instr × List Instr)
  | [] => none
  | i :: t => if instrWhileStopped i then some (i, t) else (takeWhileStopped t).map fun r => (r.1, i :: r.2)

/-- The input that comes next, and the state without it: the oldest; while the clocks are stopped, the oldest that does not
wait for them (R32). -/
def State.nextInput (s : State) : Option (Instr × State) :=
  let r := if s.clk.thermal = .running then (match s.inbox with
      | [] => none
      | i :: t => some (i, t))
    else takeWhileStopped s.inbox
  r.map fun x => (x.1, { s with inbox := x.2 })

/-- The turns that an agent without a word of its own hands out (R51, R283, R384). -/
def State.handOut (s : State) (a : Agent) : Option State :=
  match a with
  | .selIssue => some { s.selIssue.1 with agenda := s.selIssue.2 ++ s.agenda }
  | .coreIssue c => some (s.coreIssue c)
  | .stepEnd c slot => some (s.stepEnd c slot)
  | .entry _ _ _ => none
  | .context _ _ => none
  | .dme => none
  | .cluster _ _ => none
  | .fetchEngine _ => none
  | .storeEngine _ => none
  | .queue _ => none

end Sys2Proof.Machine
end

