-- ==== Sys2Proof/Machine/Step.lean ====
section
/-! DEFINITION. One step of the machine, and the placing of one instruction where the next step fetches it. -/

namespace Sys2Proof.Machine

/-- The turn of an agent: its word is fetched and executed. -/
def State.runAgent (s : State) (a : Agent) : Result :=
  match s.handOut a with
  | some t => .next t
  | none =>
    match s.fetch a with
    | .run i t => exec i t
    | .idle t => .next t
    | .bad why => .refused (.noEncoding why)

/-- One step: an input that has arrived, else the next agent whose turn it is, else what the clocks bring (DESIGN CHOICE, log 3). While
the clocks are stopped no agent has a turn and most inputs wait (R32). A part whose image check failed stands still (R363). -/
def step (s : State) : Host.Outcome State Fault Refusal :=
  if !s.fwc.securityOk then .fault .heldUntilReset
  else
    match s.nextInput with
    | some (i, t) => idleUnless t (exec i t)
    | none =>
      match s.agenda with
      | a :: rest => if s.clk.thermal = .running then ({ s with agenda := rest }).runAgent a else s.goOn
      | [] => s.goOn

/-! ## Placing one instruction (DESIGN CHOICE, log 5) -/

/-- Page 0 of virtual function 0 leads to frame 0, readable and executable, in the die's and the core's TLB. -/
def placedLeaf (stage2 : Bool) : TlbEnt := { vf := 0, stage2 := stage2, page := 0, leaf := 23 }

/-- The state with the bytes at PA 0, virtual function 0 mapped onto them, the clocks running, no input waiting, and one turn to
come. -/
def State.place0 (s : State) (bs : List Byte) (a : Agent) : State :=
  { s with
    mem := Memory.write s.mem 0 bs, noise := s.noise.filter fun f => decide (f ≠ 0)
    vfs := KMap.put s.vfs 0 { s.vf 0 with root1 := some 0, root2 := some 0, mmio := [] }
    dies := KMap.put s.dies 0 { s.die 0 with tlb := [placedLeaf false, placedLeaf true] }
    fwc := { s.fwc with securityOk := true }, clk := { s.clk with thermal := .running }, inbox := [], agenda := [a] }

/-- An engine word of a matrix stream, in context 0 of core 0. -/
def State.placeEngine (s : State) (w : Nat) : State :=
  let x : SeqCtx :=
    { wg := 0, vf := 0, pc := 0, stack := [], m := 64, n := 64, tokens := List.replicate 16 0, wait := .none }
  let k := s.core 0
  (s.place0 (leBytes 2 w) (.context 0 0)).setCore 0 { k with ctxs := KMap.put k.ctxs 0 x }

/-- An engine word of the DME, as the only word of its store. -/
def State.placeDme (s : State) (w : Nat) : State :=
  { s with
    fwc := { s.fwc with securityOk := true }, clk := { s.clk with thermal := .running }, inbox := [], agenda := [.dme]
    sel := { s.sel with dme := { s.sel.dme with
      words := [BitVec.ofNat 16 w], pc := 0, stack := [], busy := .idle, halted := false, stopped := false } } }

/-- A compute instruction, at the PC of one entry of a group in slot 0 of core 0, with a frame of 248 registers. -/
def State.placeCompute (s : State) (w : Nat) : State :=
  let k := s.core 0
  let e := Entry.fresh 0 0 s.clk.compute
  let f : Frame := { slot := 0, base := 0, size := 248, regs := [], poison := [], parent := none, hdr := none }
  let k := { k with
    groups := KMap.put k.groups 0 (Group.fresh 0 0 0 0 none e), frames := KMap.put k.frames 0 f
    wgs := KMap.put k.wgs 0 { Workgroup.blank with isTask := false, slots := [0] }, nextFrame := max 1 k.nextFrame
    nextWg := max 1 k.nextWg }
  (s.place0 (leBytes 16 w) (.entry 0 0 .own)).setCore 0 k

/-- The state in which the next step fetches and runs the word of the opcode table. -/
def State.withFetchWord (s : State) (nbits w : Nat) : State :=
  if nbits = 16 then
    if 0xE000 ≤ w % 65536 && w % 65536 < 0xF400 then s.placeDme w else s.placeEngine w
  else s.placeCompute w

end Sys2Proof.Machine
end

