-- ==== Sys2Proof/Safety.lean ====
section
/-! DEFINITION. What counts as a safe run, and the terms in which the statements speak: when a compute word passes
every check of R385, and what the machine is after each kind of result. -/

namespace Sys2Proof.Machine

/-- Nothing refuses. -/
def Outcome.safe {σ φ : Type} (o : Host.Outcome σ φ Refusal) : Prop :=
  match o with
  | .next _ => True
  | .fault _ => True
  | .refused _ => False

/-- The memory of the state is in canonical form, and no issue is half done. -/
def State.Sound (s : State) : Prop := Memory.wf s.mem = true ∧ s.turn = none

/-- Memory and the erased frames read the same: every byte of memory is what it was. -/
def SameMem (s t : State) : Prop := t.mem = s.mem ∧ t.noise = s.noise

/-- A place that holds a register: in a frame of the register part, or in a trap frame. -/
def Core.holds (k : Core) (l : RegLoc) : Prop :=
  match l with
  | .frame f _ => (KMap.get? k.frames f).isSome = true
  | .trap _ _ => True

/-! ## When a compute word runs (R385) -/

/-- The entry whose turn it is comes with the word to step 3 of R385: the turn's entry has no adopted task to place, a handler
may run the word, no register of the word is busy, no atomic of the entry waits for its line, and an entry-wide word has the
whole mask or no lane. `s1` is the state with the results that are ready by now in place, `x` the issue. -/
structure AtChecks (s : State) (sp : Spec) (s1 : State) (x : Iss) : Prop where
  turn : s.issuer sp.g = some (s1, x)
  unclaimed : x.claimed = none
  allowed : sp.inHandler = true ∨ x.e.handler = none
  free : anyBusy x.k x.e (sp.dsts ++ sp.srcs ++ sp.args) = false
  single : (x.k.atomsOf x.slot x.e.id).isEmpty = true
  whole : sp.whole = true → x.act = 0#8 ∨ x.act = x.e.mask

/-- The word issues: it passes every check of R385 too. No field is reserved, every register lies in the frame, the word's own
early checks hold, no source is in the shadow of a pending result, Active() is not empty, the scope is permitted and no
source is poisoned. -/
structure Issues (s : State) (sp : Spec) (s1 : State) (x : Iss) : Prop extends AtChecks s sp s1 x where
  fields : sp.fields = true
  ranges : badRange x.k x.e (sp.dsts ++ sp.srcs) = none
  early : sp.early x = none
  visible : s1.shadowOf x sp = none
  lanes : x.act ≠ 0#8
  scope : s1.scopeDenied x.v sp.scope = false
  clean : poisonRead x sp.srcs = none

/-! ## The state after each kind of result (R54, R55) -/

/-- The word is over: it counts as issued, and no agent has the turn. -/
def State.ended (s : State) (x : Iss) : State := (s.countIssue x).endTurn

/-- After an effect that is in the state: the PC passes the word and the next issue waits for STALL. -/
def State.afterDone (s : State) (x : Iss) (sp : Spec) : State := (s.advance x sp.g.stall.toNat sp.len).ended x

/-- After a fixed-latency word: its results wait in the group until `lat` clocks after the issue. -/
def State.afterFixed (s : State) (x : Iss) (sp : Spec) (lat : Nat) (ws : List (Nat × Mask × Reg))
    (ps : List (Nat × Mask × Mask)) : State :=
  (s.setCore x.c ((s.core x.c).addPend x lat ws ps)).afterDone x sp

/-- The destinations of a variable-latency result in Active(). -/
def outDests (k : Core) (x : Iss) (ws : List (Nat × Reg)) : List OutDest :=
  ws.filterMap fun w => (locOf k x.e w.1).map fun l =>
    ({ loc := l, mask := x.act, val := w.2, poison := 0, vas := [] } : OutDest)

/-- After a variable-latency word with no request to memory: its destinations are busy until the result lands. -/
def State.afterLater (s : State) (x : Iss) (sp : Spec) (ws : List (Nat × Reg)) : State :=
  (s.setCore x.c ((s.core x.c).addOut x (outDests (s.core x.c) x ws) 0 false [])).afterDone x sp

/-- After an effect that has set the PC itself. -/
def State.afterMoved (s : State) (x : Iss) (sp : Spec) : State :=
  (((s.stamp x sp.g.stall.toNat).countIssue x).meetWait x.c x.slot x.e.id true).endTurn

/-- After a trap: taken, or held for firmware where it came from stage 2. -/
def State.afterTrap (s : State) (x : Iss) (sp : Spec) (t : Trap) : State := (s.deliver x t sp.len).endTurn

/-- After a word that waits: the entry stands at it with its cause, and issues it again. -/
def State.afterWait (s : State) (x : Iss) (w : Wait) : State :=
  ((s.waitHere x.c x.slot x.e w).meetWait x.c x.slot x.e.id false).endTurn

/-- Whenever the word issues, it completes with fixed-latency results. -/
def Fixed (i : Instr) (sp : Spec) (lat : Nat) (ws : State → Iss → List (Nat × Mask × Reg))
    (ps : State → Iss → List (Nat × Mask × Mask)) : Prop :=
  ∀ s s1 x, Issues s sp s1 x → exec i s = .next (s1.afterFixed x sp lat (ws s1 x) (ps s1 x))

/-- The same, where the lanes' floating-point results `r` raise no exception that the launch traps (R123). -/
def FixedF (i : Instr) (sp : Spec) (lat : Nat) (r : Iss → Nat → FRes) (ws : Iss → List (Nat × Mask × Reg))
    (ps : Iss → List (Nat × Mask × Mask)) : Prop :=
  ∀ s s1 x, Issues s sp s1 x → fpTrap (s1.launch x.g.launch).hdr x (r x) = none →
    exec i s = .next (s1.afterFixed x sp lat (ws x) (ps x))

/-- The same for a variable-latency result with no request to memory. -/
def LaterF (i : Instr) (sp : Spec) (r : Iss → Nat → FRes) (ws : Iss → List (Nat × Reg)) : Prop :=
  ∀ s s1 x, Issues s sp s1 x → fpTrap (s1.launch x.g.launch).hdr x (r x) = none →
    exec i s = .next (s1.afterLater x sp (ws x))

/-- Whenever the word issues under condition `p`, it completes with its effect `f` in the state and the PC past it. -/
def Done (i : Instr) (sp : Spec) (p : State → Iss → Prop) (f : State → Iss → State) : Prop :=
  ∀ s s1 x, Issues s sp s1 x → p s1 x → exec i s = .next ((f s1 x).afterDone x sp)

/-- Whenever the word issues under condition `p`, it completes with its effect `f`, the PC's new value included. -/
def Moved (i : Instr) (sp : Spec) (p : State → Iss → Prop) (f : State → Iss → State) : Prop :=
  ∀ s s1 x, Issues s sp s1 x → p s1 x → exec i s = .next ((f s1 x).afterMoved x sp)

/-- Whenever the word issues under condition `p`, it completes with the PC past it and an effect of which `q` holds. -/
def DoneWith (i : Instr) (sp : Spec) (p : State → Iss → Prop) (q : State → Iss → State → Prop) : Prop :=
  ∀ s s1 x, Issues s sp s1 x → p s1 x → ∃ s2, exec i s = .next (s2.afterDone x sp) ∧ q s1 x s2

/-- The same for an effect that sets the PC itself. -/
def MovedWith (i : Instr) (sp : Spec) (p : State → Iss → Prop) (q : State → Iss → State → Prop) : Prop :=
  ∀ s s1 x, Issues s sp s1 x → p s1 x → ∃ s2, exec i s = .next (s2.afterMoved x sp) ∧ q s1 x s2

/-- Whenever the word issues under condition `p`, it traps as `t` says. -/
def Traps (i : Instr) (sp : Spec) (p : State → Iss → Prop) (t : State → Iss → Trap) : Prop :=
  ∀ s s1 x, Issues s sp s1 x → p s1 x → exec i s = .next (s1.afterTrap x sp (t s1 x))

/-- Whenever the word issues under condition `p`, its entry waits for `w`. -/
def Waits (i : Instr) (sp : Spec) (p : State → Iss → Prop) (w : State → Iss → Wait) : Prop :=
  ∀ s s1 x, Issues s sp s1 x → p s1 x → exec i s = .next (s1.afterWait x (w s1 x))

/-- The trap of step 3, 4 or 6 of R385: RESERVED_FIELD with the word, REG_RANGE with the field and the frame's size, SCOPE_DENIED
with the scope. -/
def fieldTrap (x : Iss) (sp : Spec) : Trap := trapPlain .reservedField (lo32 sp.word) (hi32 sp.word) x.act
def rangeTrap (x : Iss) (f : Nat) : Trap :=
  trapPlain .regRange (BitVec.ofNat 32 f) (BitVec.ofNat 32 (x.k.frameSize x.e.frame)) x.act
def scopeTrap (x : Iss) (sp : Spec) : Trap := trapPlain .scopeDenied (BitVec.ofNat 32 sp.scope) 0 x.act

/-- Whatever state the word comes to its checks in, the first of them that fails gives the trap: a reserved field, then a
register outside the frame, then the word's own early check, then a shadowed source, then, where Active() has a lane, the
scope, then a poisoned source. With no lane in Active() and the earlier checks passed, the PC alone goes on. -/
def ChecksInOrder (i : Instr) (sp : Spec) : Prop :=
  ∀ s s1 x, AtChecks s sp s1 x →
    let traps := fun (t : Trap) => exec i s = .next (s1.afterTrap x sp t)
    let ranges := badRange x.k x.e (sp.dsts ++ sp.srcs)
    (sp.fields = false → traps (fieldTrap x sp))
    ∧ (sp.fields = true → ∀ f, ranges = some f → traps (rangeTrap x f))
    ∧ (sp.fields = true → ranges = none → ∀ t, sp.early x = some t → traps t)
    ∧ (sp.fields = true → ranges = none → sp.early x = none → ∀ t, s1.shadowOf x sp = some t → traps t)
    ∧ (sp.fields = true → ranges = none → sp.early x = none → s1.shadowOf x sp = none →
      (x.act = 0#8 → exec i s = .next (s1.afterDone x sp))
      ∧ (x.act ≠ 0#8 → s1.scopeDenied x.v sp.scope = true → traps (scopeTrap x sp))
      ∧ (x.act ≠ 0#8 → s1.scopeDenied x.v sp.scope = false → ∀ l m, poisonRead x sp.srcs = some (l, m) →
          traps (poisonTrap x l m)))

/-- No condition. -/
def always (_ : State) (_ : Iss) : Prop := True

end Sys2Proof.Machine
end

