-- ==== Sys2Proof/Certificates/Slice0/Obligations.lean ====
section
/-! DEFINITION. The statements about the machine: one `Obligations` definition for each, over the parts that stand before
it. -/

namespace Sys2Proof.Statements
end Sys2Proof.Statements

open Sys2Proof Sys2Proof.Machine Sys2Proof.Statements

/-! ## Integer and logic instructions (R180-R186) -/

/-- R181: whenever an integer arithmetic word issues, it completes: lane by lane of Active(), `Put` of the sum,
difference, clamped sum or difference, product, upper product, multiply-add, wide multiply-add, smaller, larger,
absolute value and negation, after 4 clocks (6 for the 64-bit and multiplying ones), and the PC passes the word. -/
def Obligations.IntegerArithmeticCompletes : Prop :=
  ∀ o : V3,
    let ty := o.ty.toNat
    let d := o.d.toNat
    let put := fun (f : Iss → Nat → Int) (_ : State) (x : Iss) => x.putT ty d (f x)
    let np := fun (_ : State) (_ : Iss) => ([] : List (Nat × Mask × Mask))
    Fixed (.iadd o) (intSpec o (.iadd o) uses2 [0, 1, 4, 5, 6, 7] [0]) 4 (put fun x l => x.opdA o l + x.opdB o l) np
    ∧ Fixed (.isub o) (intSpec o (.isub o) uses2 [0, 1, 4, 5, 6, 7] [0]) 4 (put fun x l => x.opdA o l - x.opdB o l) np
    ∧ Fixed (.iadds o) (intSpec o (.iadds o) uses2 [0, 1, 4, 5, 6, 7] [0, 1]) 4
        (put fun x l => clampTy ty (if o.func = 0#3 then x.opdA o l + x.opdB o l else x.opdA o l - x.opdB o l)) np
    ∧ Fixed (.iadd64 o) (intSpec o (.iadd64 o) uses2 [2, 3] [0]) 6 (put fun x l => x.opdA o l + x.opdB o l) np
    ∧ Fixed (.isub64 o) (intSpec o (.isub64 o) uses2 [2, 3] [0]) 6 (put fun x l => x.opdA o l - x.opdB o l) np
    ∧ Fixed (.imul o) (intSpec o (.imul o) uses2 [0, 1, 2, 3, 4, 5, 6, 7] [0]) 6
        (put fun x l => x.opdA o l * x.opdB o l) np
    ∧ Fixed (.imulh o) (intSpec o (.imulh o) uses2 [0, 1] [0]) 6 (put fun x l => x.opdA o l * x.opdB o l / 2 ^ 32) np
    ∧ Fixed (.imad o) (intSpec o (.imad o) { uses2 with c := .typed } [0, 1, 4, 5, 6, 7] [0]) 6
        (put fun x l => x.opdA o l * x.opdB o l + x.opdC o l) np
    ∧ Fixed (.imadw o) (intSpec o (.imadw o) { d := .two, a := .one, b := .one, c := .two } [0, 1] [0]) 6
        (fun _ x => x.put2 d fun l =>
          narrow (x.opdA o l * x.opdB o l + readAs ty 64 (x.pair o.c.toNat l).toNat) 64) np
    ∧ Fixed (.imin o) (intSpec o (.imin o) uses2 [0, 1, 2, 3, 4, 5, 6, 7] [0]) 4
        (put fun x l => min (x.opdA o l) (x.opdB o l)) np
    ∧ Fixed (.imax o) (intSpec o (.imax o) uses2 [0, 1, 2, 3, 4, 5, 6, 7] [0]) 4
        (put fun x l => max (x.opdA o l) (x.opdB o l)) np
    ∧ Fixed (.iabs o) (intSpec o (.iabs o) uses1 [0, 2, 4, 6] [0]) 4 (put fun x l => ((x.opdA o l).natAbs : Int)) np
    ∧ Fixed (.ineg o) (intSpec o (.ineg o) uses1 [0, 1, 2, 3, 4, 5, 6, 7] [0]) 4 (put fun x l => -x.opdA o l) np

namespace Sys2Proof.Statements

/-- R182: whenever a logic, shift, rotation, count or bit-reversal word issues, it completes with the bitwise result
of the n-bit fields: a shift by n or more gives 0 (SAR: copies of the sign), a rotation turns by the amount modulo n,
a count of 0 gives n for CLZ and CTZ, and BREV puts bit n-1-i at bit i. -/
def LogicAndBitsComplete : Prop :=
  ∀ o : V3,
    let n := tyBits o.ty.toNat
    let np := fun (_ : State) (_ : Iss) => ([] : List (Nat × Mask × Mask))
    let put := fun (f : Iss → Nat → Nat) (_ : State) (x : Iss) => x.putT o.ty.toNat o.d.toNat fun l => (f x l : Int)
    let one := fun (f : Iss → Nat → Nat) (_ : State) (x : Iss) => x.put1 o.d.toNat (f x)
    let all := [0, 1, 2, 3, 4, 5, 6, 7]
    let a := fun (x : Iss) (l : Nat) => x.raw o.a.toNat n l
    let b := fun (x : Iss) (l : Nat) => x.rawB o n l
    let cnt := { d := Use.one, a := .typed, b := .no, c := .no : Uses }
    Fixed (.and o) (intSpec o (.and o) uses2 all [0]) 4 (put fun x l => a x l &&& b x l) np
    ∧ Fixed (.or o) (intSpec o (.or o) uses2 all [0]) 4 (put fun x l => a x l ||| b x l) np
    ∧ Fixed (.xor o) (intSpec o (.xor o) uses2 all [0]) 4 (put fun x l => a x l ^^^ b x l) np
    ∧ Fixed (.andn o) (intSpec o (.andn o) uses2 all [0]) 4 (put fun x l => a x l &&& (2 ^ n - 1 - b x l)) np
    ∧ Fixed (.not o) (intSpec o (.not o) uses1 all [0]) 4
        (fun _ x => x.putT o.ty.toNat o.d.toNat fun l => -x.opdA o l - 1) np
    ∧ Fixed (.shl o) (intSpec o (.shl o) usesShift [0, 1, 2, 3] [0]) 4
        (put fun x l => if n ≤ x.amount o l then 0 else a x l <<< x.amount o l) np
    ∧ Fixed (.shr o) (intSpec o (.shr o) usesShift [0, 1, 2, 3] [0]) 4
        (put fun x l => if n ≤ x.amount o l then 0 else a x l >>> x.amount o l) np
    ∧ Fixed (.sar o) (intSpec o (.sar o) usesShift [0, 1, 2, 3] [0]) 4
        (fun _ x => x.putT o.ty.toNat o.d.toNat fun l => signExt (a x l) n / 2 ^ min (x.amount o l) (n - 1)) np
    ∧ Fixed (.rot o) (intSpec o (.rot o) usesShift [0, 1, 2, 3] [0, 1]) 4
        (put fun x l => rotl n (a x l) (if o.func = 0#3 then x.amount o l % n else n - x.amount o l % n)) np
    ∧ Fixed (.popc o) (intSpec o (.popc o) cnt [0, 1, 2, 3] [0]) 6 (one fun x l => popcount n (a x l)) np
    ∧ Fixed (.clz o) (intSpec o (.clz o) cnt [0, 1, 2, 3] [0]) 6 (one fun x l => clz n (a x l)) np
    ∧ Fixed (.ctz o) (intSpec o (.ctz o) cnt [0, 1, 2, 3] [0]) 6 (one fun x l => ctz n (a x l)) np
    ∧ Fixed (.brev o) (intSpec o (.brev o) uses1 [0, 1, 2, 3] [0]) 6
        (put fun x l => ofBits n fun i => (a x l).testBit (n - 1 - i)) np

/-- R183, R184: whenever a funnel shift, bit-field or interleave word issues, it completes with its 32-bit or pair
result: 32 bits of vA:vC from the amount modulo 32, the field of B's position and length extracted or inserted, the
bits of the ways taken in turn, or one way of a key. -/
def FieldInstructionsComplete : Prop :=
  ∀ o : V3,
    let d := o.d.toNat
    let np := fun (_ : State) (_ : Iss) => ([] : List (Nat × Mask × Mask))
    let one := fun (f : Iss → Nat → Nat) (_ : State) (x : Iss) => x.put1 d (f x)
    let va := fun (x : Iss) (l : Nat) => (x.lane o.a.toNat l).toNat
    let vc := fun (x : Iss) (l : Nat) => (x.lane o.c.toNat l).toNat
    let f4 := { d := Use.one, a := .one, b := .one, c := .one : Uses }
    let code := o.func.toNat
    Fixed (.fnl o) (intSpec o (.fnl o) f4 [0, 1] [0, 1]) 6
        (one fun x l => funnel (decide (o.func = 1#3)) (va x l) (vc x l) (x.amount o l)) np
    ∧ Fixed (.bfx o) (intSpec o (.bfx o) { f4 with c := .no } [0, 1] [0]) 6
        (one fun x l =>
          let p := bits (x.amount o l) 4 0
          let n := min (bits (x.amount o l) 13 8) (32 - p)
          let f := (va x l >>> p) % 2 ^ n
          if n = 0 then 0 else if o.ty = 0#4 then narrow (signExt f n) 32 else f) np
    ∧ Fixed (.bfi o) (intSpec o (.bfi o) f4 [0, 1] [0]) 6
        (one fun x l =>
          let p := bits (x.amount o l) 4 0
          let n := min (bits (x.amount o l) 13 8) (32 - p)
          ofBits 32 fun i => if p ≤ i ∧ i < p + n then (va x l).testBit (i - p) else (vc x l).testBit i) np
    ∧ Fixed (.bilv o) (intSpec o (.bilv o)
          { d := if wayLong code then .two else .one, a := .one, b := .one, c := if waysOf code = 3 then .one else .no }
          [0, 1] [0, 1, 2, 3]) 6
        (fun _ x =>
          let f := fun (l : Nat) => ofBits (waysOf code * wayBits code) fun j =>
            let w := j % waysOf code
            if w = 0 then (va x l).testBit (j / waysOf code)
            else if w = 1 then (x.rawB o 32 l).testBit (j / waysOf code)
            else (vc x l).testBit (j / waysOf code)
          if wayLong code then x.put2 d f else x.put1 d f) np
    ∧ Fixed (.bdil o) (intSpec o (.bdil o)
          { d := .one, a := if wayLong code then .two else .one, b := .one, c := .no } [0, 1] [0, 1, 2, 3]) 6
        (one fun x l =>
          let a := if wayLong code then (x.pair o.a.toNat l).toNat else va x l
          if waysOf code ≤ x.amount o l then 0
          else ofBits (wayBits code) fun i => a.testBit (waysOf code * i + x.amount o l)) np

end Sys2Proof.Statements

/-- R182, R183, R184: logic, shift, count and field words complete with their results: `LogicAndBitsComplete` and
`FieldInstructionsComplete`. -/
def Obligations.LogicAndFieldWordsComplete : Prop :=
  Sys2Proof.Statements.LogicAndBitsComplete ∧ Sys2Proof.Statements.FieldInstructionsComplete

/-- R185, R186: whenever a select, compare, address or move word issues, it completes: ISEL the operand that the
predicate chooses, ICMP the comparison ANDed with pC, LEA the pair plus the extended index shifted by C modulo 2^64,
MOV operand B, MOVI its sign-extended 24 bits, MOVL its literal, SREG the special register, SETP the looked-up
predicate, the register bit, or the predicate as a number. -/
def Obligations.SelectAndMoveComplete : Prop :=
  (∀ o : V3,
    let ty := o.ty.toNat
    let np := fun (_ : State) (_ : Iss) => ([] : List (Nat × Mask × Mask))
    let all := [0, 1, 2, 3, 4, 5, 6, 7]
    let put := fun (f : Iss → Nat → Int) (_ : State) (x : Iss) => x.putT ty o.d.toNat (f x)
    Fixed (.isel o) (intSpec o (.isel o) { uses2 with c := .pred } all [0]) 4
        (put fun x l => if x.pred o.c.toNat l then x.opdA o l else x.opdB o l) np
    ∧ Fixed (.icmp o) (intSpec o (.icmp o) { uses2 with d := .pred, c := .pred } all [0, 1, 2, 3, 4, 5]) 4
        (fun _ _ => []) (fun _ x => [(o.d.toNat, x.act, maskOf fun l =>
          ccHolds o.func.toNat (x.opdA o l) (x.opdB o l) && x.pred o.c.toNat l)])
    ∧ Fixed (.lea o)
        (v3Spec o (.lea o) { d := .two, a := .two, b := .one, c := .num }
          (intOk o { d := .two, a := .two, b := .one, c := .num } [0, 1] [0] && decide (o.c.toNat < 32))) 4
        (fun _ x => x.put2 o.d.toNat fun l =>
          narrow ((x.pair o.a.toNat l).toNat + readAs ty 32 (x.amount o l) * 2 ^ o.c.toNat) 64) np
    ∧ Fixed (.mov o) (intSpec o (.mov o) { d := .typed, a := .no, b := .typed, c := .no } all [0]) 4
        (put fun x l => x.opdB o l) np)
  ∧ ∀ o : VI,
    let d := o.d.toNat
    let np := fun (_ : State) (_ : Iss) => ([] : List (Nat × Mask × Mask))
    let nw := fun (_ : State) (_ : Iss) => ([] : List (Nat × Mask × Reg))
    let wide := o.imm16.getLsbD 0
    let n := o.imm16.toNat
    let low := bits n 13 0
    Fixed (.movi o) { instr := .movi o, g := o.g, fields := decide (o.a = 0#8) && decide (o.b = 0#8), dsts := [(d, 1)] } 4
        (fun _ x => x.put1 d fun _ => narrow (signExt (o.imm8.toNat * 2 ^ 16 + o.imm16.toNat) 24) 32) np
    ∧ Fixed (.movl o)
        { instr := .movl o, g := o.g, lit := true
          fields := decide (o.a = 0#8) && decide (o.b = 0#8) && decide (o.imm8 = 0#8) && decide (o.imm16.toNat < 2)
            && (if wide then decide (o.d.toNat % 2 = 0) else decide (hi32 o.literal = 0#32))
          dsts := [(d, if wide then 2 else 1)] } 4
        (fun _ x => if wide then x.put2 d fun _ => o.literal.toNat else x.put1 d fun _ => o.literal.toNat) np
    ∧ Fixed (.sreg o)
        { instr := .sreg o, g := o.g
          fields := decide (o.a = 0#8) && decide (o.b = 0#8) && decide (o.imm8 = 0#8) && sregKnown n
            && (!sregWide n || decide (o.d.toNat % 2 = 0))
          dsts := [(d, if sregWide n then 2 else 1)] } 4
        (fun s x => if sregWide n then x.put2 d (sregValue s x n) else x.put1 d (sregValue s x n)) np
    ∧ (bits n 15 14 = 0 →
        Fixed (.setp o)
          { instr := .setp o, g := o.g, psrcs := [o.a.toNat, o.b.toNat, low]
            fields := decide (o.d.toNat < 8) && decide (o.a.toNat < 8) && decide (o.b.toNat < 8) && decide (low < 8) } 4
          nw (fun _ x => [(d, x.act, maskOf fun l =>
            o.imm8.getLsbD ((if x.pred o.a.toNat l then 4 else 0) + (if x.pred o.b.toNat l then 2 else 0)
              + (if x.pred low l then 1 else 0)))]))
    ∧ (bits n 15 14 = 1 →
        Fixed (.setp o)
          { instr := .setp o, g := o.g, srcs := [(o.a.toNat, 1)]
            fields := decide (o.d.toNat < 8) && decide (o.b = 0#8) && decide (low = 0) && decide (o.imm8.toNat < 32) } 4
          nw (fun _ x => [(d, x.act, maskOf fun l => (x.lane o.a.toNat l).getLsbD o.imm8.toNat)]))
    ∧ (bits n 15 14 = 2 →
        Fixed (.setp o)
          { instr := .setp o, g := o.g, dsts := [(d, 1)], psrcs := [o.a.toNat]
            fields := decide (o.a.toNat < 8) && decide (o.b = 0#8) && decide (low = 0) && decide (o.imm8 = 0#8) } 4
          (fun _ x => x.put1 d fun l => if x.pred o.a.toNat l then 1 else 0) np)

/-! ## Floating-point, lane and graphics instructions (R198-R217) -/

namespace Sys2Proof.Statements

/-- R123, R199-R202: whenever a floating-point add, subtract, multiply, multiply-add, minimum, maximum, compare, select or
round issues and no lane raises an exception that the launch traps, it completes with the rounded result of the
operands under their sign modifiers, after 5 clocks (8 for F64); FSEL moves bits unchanged and raises nothing. -/
def FloatArithmeticCompletes : Prop :=
  ∀ o : V3,
    let t := o.ty.toNat
    let f := fmtOf t
    let rm := rmOf o.rm.toNat
    let lat := if t = 9 then 8 else 5
    let d := o.d.toNat
    let np := fun (_ : Iss) => ([] : List (Nat × Mask × Mask))
    let put := fun (r : Iss → Nat → FRes) (x : Iss) => x.putF f d fun l => (r x l).bits
    let m2 := { rm := true, na := true, nb := true, nc := false, aa := true : FMods }
    let un := { rm := false, na := true, nb := true, nc := false, aa := true : FMods }
    let ty := [8, 9, 10, 11]
    let ar := fun (i : Instr) (u : Uses) (m : FMods) (r : Iss → Nat → FRes) =>
      FixedF i (fltSpec o i u ty [0] m) lat r (put r) np
    ar (.fadd o) fu2 m2 (fun x l => fAdd f rm (x.fA o l) (x.fB o l))
    ∧ ar (.fsub o) fu2 m2 (fun x l => fSub f rm (x.fA o l) (x.fB o l))
    ∧ ar (.fmul o) fu2 m2 (fun x l => fMul f rm (x.fA o l) (x.fB o l))
    ∧ ar (.ffma o) fu3 { m2 with nc := true } (fun x l => fFma f rm (x.fA o l) (x.fB o l) (x.fC o l))
    ∧ ar (.fmin o) fu2 un (fun x l => fMinMax f false (x.fA o l) (x.fB o l))
    ∧ ar (.fmax o) fu2 un (fun x l => fMinMax f true (x.fA o l) (x.fB o l))
    ∧ ar (.frnd o) fu1 { m2 with nb := false } (fun x l => fRnd f rm (x.fA o l))
    ∧ FixedF (.fcmp o)
        (fltSpec o (.fcmp o) { d := .pred, a := .typed, b := .typed, c := .pred } ty [0, 1, 2, 3, 4, 5, 6, 7] un) lat
        (fun x l => { FRes.plain 0 with invalid := (fCompare f o.func.toNat (x.fA o l) (x.fB o l)).2 }) (fun _ => [])
        (fun x => [(d, x.act, maskOf fun l =>
          (fCompare f o.func.toNat (x.fA o l) (x.fB o l)).1 && x.pred o.c.toNat l)])
    ∧ Fixed (.fsel o) (fltSpec o (.fsel o) { d := .typed, a := .typed, b := .typed, c := .pred } ty [0] modsNone) lat
        (fun _ x => x.putF f d fun l => if x.pred o.c.toNat l then x.fA o l else x.fB o l) (fun _ _ => [])

/-- R136, R198, R203: whenever a special function issues and no lane raises an exception that the launch traps, it
completes as a variable-latency result in Active(): reciprocal, reciprocal square root, square root, powers and
logarithms of 2, sine and cosine. The bits within the error bound of R137 are a free value (DESIGN CHOICE, log 6). -/
def SpecialFunctionsComplete : Prop :=
  ∀ o : V3,
    let f := fmtOf o.ty.toNat
    let rm := rmOf o.rm.toNat
    let go := fun (i : Instr) (types : List Nat) (anyRm : Bool) (g : Nat → FRes) =>
      LaterF i (fltSpec o i fu1 types [0] { rm := anyRm, na := true, nb := false, nc := false, aa := true })
        (fun x l => g (x.fA o l))
        (fun x => (x.putF f o.d.toNat fun l => (g (x.fA o l)).bits).map fun w => (w.1, w.2.2))
    go (.frcp o) [8, 9, 10] false (fRcp f)
    ∧ go (.frsq o) [8, 9, 10] false (fRsq f)
    ∧ go (.fsqrt o) [8, 9, 10] true (fSqrt f rm)
    ∧ go (.fexp2 o) [8, 10] false (fExp2 f)
    ∧ go (.flog2 o) [8, 10] false (fLog2 f)
    ∧ go (.fsin o) [8, 10] false (fSinCos false f)
    ∧ go (.fcos o) [8, 10] false (fSinCos true f)

end Sys2Proof.Statements

/-- R123, R199, R200, R201, R202, R136, R198, R203, R137: floating-point words and special functions complete:
`FloatArithmeticCompletes` and `SpecialFunctionsComplete`. Model's choice: the bits of a special function within its bound are
a free value (log 6). -/
def Obligations.FloatWordsComplete : Prop :=
  Sys2Proof.Statements.FloatArithmeticCompletes ∧ Sys2Proof.Statements.SpecialFunctionsComplete

/-- R204-R207: whenever a conversion, a BF16 split, a packed half-precision word or the dot product issues and no lane
raises an exception that the launch traps, it completes: FCVT in the direction that DIR gives, CVTN packing 4 TW8 or 8 MO4
elements or unpacking them with the scale of operand B, FSPLIT3 in three registers, the packed forms half by half. -/
def Obligations.ConversionsAndPackedFormsComplete : Prop :=
  ∀ o : V3,
    let t := o.ty.toNat
    let f := fmtOf t
    let rm := rmOf o.rm.toNat
    let d := o.d.toNat
    let a := o.a.toNat
    let np := fun (_ : Iss) => ([] : List (Nat × Mask × Mask))
    let va := fun (x : Iss) (l : Nat) => (x.lane a l).toNat
    let vc := fun (x : Iss) (l : Nat) => (x.lane o.c.toNat l).toNat
    let pk := fun (i : Instr) (useC : Bool) (g : Nat → Nat → Nat → FRes) =>
      let r := fun (x : Iss) (l : Nat) =>
        let h := fun (k : Nat) => g (half f o.aa o.na k (va x l)) (half f false o.nb k (x.packB o l)) (half f false o.nc k (vc x l))
        joinHalves (h 0) (h 1)
      FixedF i (fltSpec o i { d := .one, a := .one, b := .one, c := if useC then .one else .no } [10, 11] [0]
          { rm := true, na := true, nb := true, nc := useC, aa := true }) 5 r (fun x => x.putF f32 d fun l => (r x l).bits) np
    let other := bits o.c.toNat 3 0
    let dir := bit o.c.toNat 4
    let src := if dir then t else other
    let dst := if dir then other else t
    let cv := fun (x : Iss) (l : Nat) =>
      fcvtLane src dst rm o.na o.aa (x.raw a (if isFloatTy src then (fmtOf src).width else tyBits src) l)
    let tw := decide (t = 12)
    let n := if tw then 4 else 8
    let w := if tw then 8 else 4
    let sc := fun (x : Iss) (l : Nat) => ((x.amount o l % 256 : Nat) : Int)
    let pack := decide (o.func = 0#3)
    let sp3 := fun (x : Iss) (sel : Nat × Nat × Nat → Nat) (l : Nat) =>
      sel (split3 (va x l)) + sel (split3 (x.lane o.b.toNat l).toNat) * 65536
    pk (.hadd2 o) false (fun p q _ => fAdd f rm p q)
    ∧ pk (.hmul2 o) false (fun p q _ => fMul f rm p q)
    ∧ pk (.hfma2 o) true (fFma f rm)
    ∧ FixedF (.fdot2 o)
        (fltSpec o (.fdot2 o) { d := .one, a := .one, b := .one, c := .one } [10, 11] [0]
          { rm := true, na := true, nb := true, nc := true, aa := true }) 5
        (fun x l => fdot2 f rm (half f o.aa o.na 0 (va x l)) (half f o.aa o.na 1 (va x l)) (half f false o.nb 0 (x.packB o l))
          (half f false o.nb 1 (x.packB o l)) (signMods f32 false o.nc (vc x l)))
        (fun x => x.putF f32 d fun l =>
          (fdot2 f rm (half f o.aa o.na 0 (va x l)) (half f o.aa o.na 1 (va x l)) (half f false o.nb 0 (x.packB o l))
            (half f false o.nb 1 (x.packB o l)) (signMods f32 false o.nc (vc x l))).bits) np
    ∧ FixedF (.fcvt o)
        { instr := .fcvt o, g := o.g, dsts := [(d, if tyWide dst then 2 else 1)], srcs := [(a, if tyWide src then 2 else 1)]
          fields := decide (o.rm.toNat < 4) && !o.nb && !o.nc && ((!o.na && !o.aa) || isFloatTy src) && !o.lit && !o.bi
            && decide (o.b = 0#8) && isFloatTy t && decide (o.func = 0#3) && decide (o.c.toNat < 32) && decide (other < 12)
            && (!tyWide src || decide (o.a.toNat % 2 = 0)) && (!tyWide dst || decide (o.d.toNat % 2 = 0)) }
        (if tyWide src || tyWide dst then 8 else 5) cv
        (fun x => if isFloatTy dst then x.putF (fmtOf dst) d fun l => (cv x l).bits
          else x.putT dst d fun l => readAs dst (tyBits dst) (cv x l).bits) np
    ∧ Fixed (.cvtn o)
        { instr := .cvtn o, g := o.g, lit := o.lit, dsts := [(d, if pack then 1 else n)]
          fields := fltOk o { d := .num, a := .num, b := .one, c := .no } [12, 13] [0, 1] modsNone
          srcs := [(a, if pack then n else 1)] ++ if o.lit || o.bi then [] else [(o.b.toNat, 1)] } 5
        (fun _ x =>
          if pack then x.put1 d fun l =>
            (List.range n).foldl (fun r i => r + toNarrow tw (127 - sc x l) (x.lane (a + i) l).toNat * 2 ^ (w * i)) 0
          else (List.range n).flatMap fun i =>
            x.put1 (d + i) fun l => fromNarrow tw (sc x l - 127) (bits (va x l) (w * i + w - 1) (w * i)))
        (fun _ _ => [])
    ∧ Fixed (.fsplit3 o)
        { instr := .fsplit3 o, g := o.g, dsts := [(d, 3)], srcs := [(a, 1), (o.b.toNat, 1)]
          fields := fltOk o { d := .num, a := .one, b := .one, c := .no } [11] [0] modsNone && !o.lit } 5
        (fun _ x => x.put1 d (sp3 x fun r => r.1) ++ x.put1 (d + 1) (sp3 x fun r => r.2.1)
          ++ x.put1 (d + 2) (sp3 x fun r => r.2.2)) (fun _ _ => [])

/-- R208-R212: whenever a shuffle, vote, match, reduction or byte permute issues (and a floating-point reduction raises no
exception that the launch traps), it completes: SHFL reads the lane that its mode names, or its own where that lane is
outside Active(); VOTE and MATCH judge the lanes of Active() alone; REDL joins them in the order of LaneTree; PRMT
picks bytes of vC:vA. -/
def Obligations.LaneInstructionsComplete : Prop :=
  ∀ o : V3,
    let t := o.ty.toNat
    let d := o.d.toNat
    let func := o.func.toNat
    let np := fun (_ : State) (_ : Iss) => ([] : List (Nat × Mask × Mask))
    let nw := fun (_ : State) (_ : Iss) => ([] : List (Nat × Mask × Reg))
    let bal := decide (o.func = 3#3)
    let vote := fltSpec o (.vote o) { d := if bal then .one else .pred, a := .pred, b := .no, c := .no } [0] [0, 1, 2, 3] modsNone
    let m := fun (x : Iss) => x.act &&& x.g.pred o.a.toNat
    let same := fun (x : Iss) (l : Nat) => maskOf fun i => x.act.getLsbD i && decide (x.wideA o i = x.wideA o l)
    let flt := isFloatTy t
    let redl := fltSpec o (.redl o) { d := .typed, a := .typed, b := .no, c := .no }
      (if func < 3 then [0, 1, 2, 3, 8, 9] else [0, 1, 2, 3]) [0, 1, 2, 3, 4, 5]
      { rm := flt && decide (func = 0), na := flt, nb := false, nc := false, aa := flt }
    let tree := fun (x : Iss) => (laneTree (redFlt func (fmtOf t) (rmOf o.rm.toNat))
      ((List.range 8).map fun l => if x.act.getLsbD l then some (FRes.plain (x.fA o l)) else none)).getD (FRes.plain 0)
    Fixed (.shfl o)
        (v3Spec o (.shfl o) { d := .typed, a := .typed, b := .one, c := .no }
          (fltOk o { d := .typed, a := .typed, b := .one, c := .no } laneTypes [0, 1, 2, 3] modsNone
            && (!(o.lit || o.bi) || decide (o.ty.toNat < 8)))) 6
        (fun _ x => x.putW o fun l => x.wideA o (shflLane func (x.amount o l) x.act l)) np
    ∧ (func = 0 → Fixed (.vote o) vote 6 nw (fun _ x => [(d, x.act, maskOf fun _ => decide (m x = x.act))]))
    ∧ (func = 1 → Fixed (.vote o) vote 6 nw (fun _ x => [(d, x.act, maskOf fun _ => decide (m x ≠ 0#8))]))
    ∧ (func = 2 → Fixed (.vote o) vote 6 nw
        (fun _ x => [(d, x.act, maskOf fun _ => decide (m x = x.act) || decide (m x = 0#8))]))
    ∧ (func = 3 → Fixed (.vote o) vote 6 (fun _ x => x.put1 d fun _ => (m x).toNat) np)
    ∧ Fixed (.matchLanes o) (fltSpec o (.matchLanes o) { d := .one, a := .typed, b := .no, c := .no } laneTypes [0, 1] modsNone) 6
        (fun _ x => x.put1 d fun l =>
          if o.func = 0#3 then (same x l).toNat else if same x (lowLane x.act) = x.act then x.act.toNat else 0) np
    ∧ (flt = true → FixedF (.redl o) redl 10 (fun x _ => tree x) (fun x => x.putF (fmtOf t) d fun _ => (tree x).bits) (fun _ => []))
    ∧ (flt = false → Fixed (.redl o) redl 10
        (fun _ x => x.putW o fun _ => (laneTree (redInt func t)
          ((List.range 8).map fun l => if x.act.getLsbD l then some (x.raw o.a.toNat (tyBits t) l) else none)).getD 0) np)
    ∧ Fixed (.prmt o) (fltSpec o (.prmt o) { d := .one, a := .one, b := .one, c := .one } [0, 1] [0] modsNone) 6
        (fun _ x => x.put1 d fun l => (List.range 4).foldl (fun r k =>
          r + prmtByte ((x.lane o.a.toNat l).toNat + (x.lane o.c.toNat l).toNat * 2 ^ 32) (x.amount o l % 65536) k * 256 ^ k) 0) np

/-- R215-R217: whenever EDGE, VIEWX or PACKC issues, it completes: EDGE with the exact cross product clamped to 64
signed bits, VIEWX with every view's four dot products as a variable-latency result, PACKC with the channels as 8-8-8-8
or 10-10-10-2 bit UNORM values. -/
def Obligations.GraphicsArithmeticCompletes : Prop :=
  ∀ o : V3,
    let d := o.d.toNat
    let a := o.a.toNat
    Fixed (.edge o)
        { instr := .edge o, g := o.g, dsts := [(d, 2)], srcs := [(a, 2), (o.b.toNat, 2), (o.c.toNat, 2)]
          fields := fltOk o { d := .two, a := .two, b := .two, c := .two } [0] [0] modsNone && !o.lit && !o.bi } 8
        (fun _ x => x.put2 d fun l =>
          let c := fun (f : Nat) => signExt (x.lane f l).toNat 32
          satS 64 ((c a - c o.b.toNat) * (c (o.c.toNat + 1) - c (o.b.toNat + 1))
            - (c (a + 1) - c (o.b.toNat + 1)) * (c o.c.toNat - c o.b.toNat))) (fun _ _ => [])
    ∧ (∀ s s1 x, Issues s
          { instr := .viewx o, g := o.g, dsts := [(d, 4 * s.viewCount)], srcs := [(a, 4), (o.b.toNat, 2 * s.viewCount)]
            fields := fltOk o { d := .num, a := .num, b := .one, c := .no } [8] [0] modsNone && !o.lit } s1 x →
        exec (.viewx o) s = .next (s1.afterLater x
          { instr := .viewx o, g := o.g, dsts := [(d, 4 * s.viewCount)], srcs := [(a, 4), (o.b.toNat, 2 * s.viewCount)]
            fields := fltOk o { d := .num, a := .num, b := .one, c := .no } [8] [0] modsNone && !o.lit }
          ((List.range s.viewCount).flatMap fun v => (List.range 4).map fun r => (d + 4 * v + r, mkReg fun l =>
            BitVec.ofNat 32 (viewSum ((List.range 4).map fun c =>
              ((x.lane (o.b.toNat + 2 * v + r / 2) (4 * (r % 2) + c)).toNat, (x.lane (a + c) l).toNat)))))))
    ∧ Fixed (.packc o)
        { instr := .packc o, g := o.g, dsts := [(d, 1)], srcs := [(a, 4)]
          fields := fltOk o { d := .one, a := .num, b := .no, c := .no } [8] [0, 1] modsNone } 5
        (fun _ x => x.put1 d fun l =>
          ((List.range 4).foldl (fun (r : Nat × Nat) c =>
            let w := getAt (packWidths o.func.toNat) c 0
            (r.1 + packChan w (x.lane (a + c) l).toNat * 2 ^ r.2, r.2 + w)) (0, 0)).1) (fun _ _ => [])

/-! ## Control (R187-R196, R68) -/

namespace Sys2Proof.Statements

/-- The facts of a format S word that names no register. -/
def plainSpec (i : Instr) (o : SF) (inHandler whole : Bool) : Spec :=
  { instr := i, g := o.g, inHandler := inHandler, whole := whole, fields := sfZero o false false false false false }

/-- R187, R188, R391: whenever a direct or indirect branch issues outside a handler and its target is a multiple of 8,
the lanes of the target go there and the others go on, as the split of the entry has it; in a handler the whole
entry goes to the target of the lowest lane of Active(). Of an indirect branch outside a handler the lowest target alone is
judged, and the lanes of another target are judged where they issue the word again: that is the model's choice (DEDUCED, log
21), R187's words could also be read to judge every lane at once. -/
def BranchesComplete : Prop :=
  ∀ o : JF,
    let bra := { instr := .bra o, g := o.g, fields := decide (o.z = 0#8) && decide (o.a = 0#8) : Spec }
    let f := o.a.toNat
    let brx := { instr := .brx o, g := o.g, srcs := [(f, 2)]
                 fields := decide (o.z = 0#8) && decide (f % 2 = 0) && decide (o.off = 0#32) : Spec }
    let stall := o.g.stall.toNat
    let e0 := fun (x : Iss) => { x.e with wait := .none, retried := false }
    Moved (.bra o) bra (fun _ x => aligned8 (relTarget x.e.pc o.off) = true ∧ x.e.handler.isSome)
        (fun s x => s.jump x (relTarget x.e.pc o.off))
    ∧ (∀ k, Moved (.bra o) bra
        (fun _ x => aligned8 (relTarget x.e.pc o.off) = true ∧ x.e.handler = none
          ∧ x.k.split x.slot (e0 x) x.act (relTarget x.e.pc o.off) (x.e.mask &&& ~~~x.act) (x.e.pc + 8) x.now
              (x.now + 1 + stall) = some k)
        (fun s x => s.setCore x.c k))
    ∧ Moved (.brx o) brx (fun _ x => aligned8 (x.pair f x.low) = true ∧ x.e.handler.isSome)
        (fun s x => s.jump x (x.pair f x.low))
    ∧ (∀ k, Moved (.brx o) brx
        (fun _ x =>
          let d := lowTarget x f
          let t := targetLanes x f d
          aligned8 d = true ∧ x.e.handler = none
            ∧ x.k.split x.slot (e0 x) t d (x.e.mask &&& ~~~t) (if x.act &&& ~~~t = 0#8 then x.e.pc + 8 else x.e.pc) x.now
                (x.now + 1 + stall) = some k)
        (fun s x => s.setCore x.c k))

/-- R371, R387, R391: a branch whose target is no multiple of 8 traps with MISALIGNED and the target as its VA: for an indirect
one the lowest target (the model's choice, DEDUCED, log 21), or in a handler that of the lowest lane. -/
def BranchToMisalignedTargetTraps : Prop :=
  ∀ o : JF,
    Traps (.bra o) { instr := .bra o, g := o.g, fields := decide (o.z = 0#8) && decide (o.a = 0#8) }
        (fun _ x => (relTarget x.e.pc o.off).toNat % 8 ≠ 0)
        (fun _ x => trapVa .misaligned (relTarget x.e.pc o.off).toNat x.act)
    ∧ Traps (.brx o)
        { instr := .brx o, g := o.g, srcs := [(o.a.toNat, 2)]
          fields := decide (o.z = 0#8) && decide (o.a.toNat % 2 = 0) && decide (o.off = 0#32) }
        (fun _ x => x.e.handler = none ∧ (lowTarget x o.a.toNat).toNat % 8 ≠ 0)
        (fun _ x => trapVa .misaligned (lowTarget x o.a.toNat).toNat (targetLanes x o.a.toNat (lowTarget x o.a.toNat)))
    ∧ Traps (.brx o)
        { instr := .brx o, g := o.g, srcs := [(o.a.toNat, 2)]
          fields := decide (o.z = 0#8) && decide (o.a.toNat % 2 = 0) && decide (o.off = 0#32) }
        (fun _ x => x.e.handler.isSome ∧ (x.pair o.a.toNat x.low).toNat % 8 ≠ 0)
        (fun _ x => trapVa .misaligned (x.pair o.a.toNat x.low).toNat x.act)

/-- The trap of a token stack or call chain misused: the call depth and the stack's height (R371). -/
def depthTrap (c : Cause) (x : Iss) : Trap :=
  trapPlain c (BitVec.ofNat 32 x.e.depth) (BitVec.ofNat 32 (x.g.height x.e.tok)) x.act

/-- R46, R396: a branch outside a handler that would split its entry, with no fragment entry free and the stack full, traps with
RECONV_DEPTH, and no lane moves. -/
def BranchWithoutARecordTraps : Prop :=
  ∀ o : JF,
    let stall := o.g.stall.toNat
    let e0 := fun (x : Iss) => { x.e with wait := .none, retried := false }
    Traps (.bra o) { instr := .bra o, g := o.g, fields := decide (o.z = 0#8) && decide (o.a = 0#8) }
        (fun _ x => aligned8 (relTarget x.e.pc o.off) = true ∧ x.e.handler = none
          ∧ x.k.split x.slot (e0 x) x.act (relTarget x.e.pc o.off) (x.e.mask &&& ~~~x.act) (x.e.pc + 8) x.now
              (x.now + 1 + stall) = none)
        (fun _ x => depthTrap .reconvDepth x)
    ∧ Traps (.brx o)
        { instr := .brx o, g := o.g, srcs := [(o.a.toNat, 2)]
          fields := decide (o.z = 0#8) && decide (o.a.toNat % 2 = 0) && decide (o.off = 0#32) }
        (fun _ x =>
          let d := lowTarget x o.a.toNat
          let t := targetLanes x o.a.toNat d
          aligned8 d = true ∧ x.e.handler = none
            ∧ x.k.split x.slot (e0 x) t d (x.e.mask &&& ~~~t) (if x.act &&& ~~~t = 0#8 then x.e.pc + 8 else x.e.pc) x.now
                (x.now + 1 + stall) = none)
        (fun _ x => depthTrap .reconvDepth x)
    ∧ ∀ (k : Core) (slot : Nat) (g : Group) (e : Entry) (t n : Mask) (tpc npc : W64) (now next : Nat),
        k.group? slot = some g → k.freeFrag (quarterOf slot) = none → 16 ≤ g.items.length → t ≠ 0#8 → n ≠ 0#8 →
        k.split slot e t tpc n npc now next = none

end Sys2Proof.Statements

/-- R187, R188, R391, R371, R387, R46, R396: branches split the entry, and a misaligned target or a full token stack traps:
`BranchesComplete`, `BranchToMisalignedTargetTraps` and `BranchWithoutARecordTraps`. Model's choice (DEDUCED, log 21): outside
a handler BRX judges the lowest target alone, and the lanes of another target are judged where they issue the word again. -/
def Obligations.BranchesCompleteOrTrap : Prop :=
  Sys2Proof.Statements.BranchesComplete ∧ Sys2Proof.Statements.BranchToMisalignedTargetTraps ∧
    Sys2Proof.Statements.BranchWithoutARecordTraps

/-- R47, R190: whenever RCVT issues with room on the token stack, it pushes a token with the entry's mask as expected mask,
the target address and the entry as owner; RCVM where no token stands at its address acts as a NOP; at the token of
its address the entry arrives; over one deferred record of that token it pops the record and runs its lanes at their address;
over two records it acts as a NOP (DEDUCED, log 42). A seventeenth item, and a token of another call depth, trap with
RECONV_DEPTH (R396). -/
def Obligations.ReconvergenceCompletes : Prop :=
  (∀ o : JF, ∀ g id,
    Done (.rcvt o) { instr := .rcvt o, g := o.g, inHandler := false, fields := decide (o.z = 0#8) && decide (o.a = 0#8) }
      (fun _ x => x.g.pushItem x.e false (relTarget x.e.pc o.off) x.e.mask = some (g, id))
      (fun s x => s.setCore x.c (x.k.setGroup x.slot (g.setEntry { x.e with tok := some id }))))
  ∧ (∀ o : JF,
    Traps (.rcvt o) { instr := .rcvt o, g := o.g, inHandler := false, fields := decide (o.z = 0#8) && decide (o.a = 0#8) }
      (fun _ x => 16 ≤ x.g.items.length) (fun _ x => depthTrap .reconvDepth x))
  ∧ ∀ o : SF,
    let sp := plainSpec (.rcvm o) o false false
    let e0 := fun (x : Iss) => { x.e with wait := .none, retried := false }
    Done (.rcvm o) sp (fun _ x => x.g.stackOf x.e.tok = []) (fun s _ => s)
    ∧ (∀ top rest, Done (.rcvm o) sp
        (fun _ x => x.g.stackOf x.e.tok = top :: rest ∧ top.deferred = false ∧ top.pc ≠ x.e.pc) (fun s _ => s))
    ∧ (∀ top rest, Moved (.rcvm o) sp
        (fun _ x => x.g.stackOf x.e.tok = top :: rest ∧ top.deferred = false ∧ top.pc = x.e.pc ∧ top.depth = x.e.depth)
        (fun s x => s.setCore x.c (x.k.arriveToken x.slot (e0 x) top x.now)))
    ∧ (∀ top tok rest, Moved (.rcvm o) sp
        (fun _ x => x.g.stackOf x.e.tok = top :: tok :: rest ∧ top.deferred = true ∧ tok.deferred = false
          ∧ tok.pc = x.e.pc ∧ tok.depth = x.e.depth)
        (fun s x =>
          let g := x.g.popItem top
          s.setCore x.c (x.k.setGroup x.slot (Group.setEntry
            { g with items := g.items.map fun (i : TokItem) =>
                if i.id = tok.id then { i with arrived := i.arrived ||| x.e.mask } else i }
            { e0 x with mask := top.mask, pc := top.pc, tok := top.parent }))))
    ∧ (∀ top below rest, Done (.rcvm o) sp
        (fun _ x => x.g.stackOf x.e.tok = top :: below :: rest ∧ top.deferred = true ∧ (below.deferred = true ∨ below.pc ≠ x.e.pc))
        (fun s _ => s))
    ∧ (∀ top rest, Traps (.rcvm o) sp
        (fun _ x => x.g.stackOf x.e.tok = top :: rest ∧ top.deferred = false ∧ top.pc = x.e.pc ∧ top.depth ≠ x.e.depth)
        (fun _ x => depthTrap .reconvDepth x))
    ∧ (∀ top tok rest, Traps (.rcvm o) sp
        (fun _ x => x.g.stackOf x.e.tok = top :: tok :: rest ∧ top.deferred = true ∧ tok.deferred = false ∧ tok.pc = x.e.pc
          ∧ tok.depth ≠ x.e.depth)
        (fun _ x => depthTrap .reconvDepth x))

namespace Sys2Proof.Statements

/-- The conditions under which a call that is past its checks finds room: the target is a multiple of 8, no argument register is
poisoned, and the register part has a place `p` for the frame (R63, R191). -/
def CallRuns (o : CF) (tgt : W64) (p : Nat × Option (Nat × Nat)) (x : Iss) : Prop :=
  let all : List (Nat × Nat) := if o.args.toNat = 0 then [] else [(o.vbase.toNat, o.args.toNat)]
  tgt.toNat % 8 = 0 ∧ poisonRead x all = none ∧ x.k.mayAlloc x.slot x.e.id = true
    ∧ x.k.place [((o.fsize.toNat + 1) * 8, true)] = some [p]

/-- The header that a call writes (R62, R191). -/
def calleeHdr (o : CF) (x : Iss) : Hdr :=
  { rpc := pc55 (x.e.pc + 16), padv := o.lp, pad := if o.lp then pc55 (relTarget x.e.pc (hi32 o.literal)) else 0, adoption := false
    res := o.res.toNat, args := o.args, vbase := o.vbase.toNat, fsize := o.fsize.toNat
    csize := x.k.frameSize x.e.frame / 8 - 1, cbase := ((x.k.frame? x.e.frame).map fun f => f.base).getD 0, psave := 0
    mask := x.e.mask, adepth := x.e.adepth, tokh := x.g.height x.e.tok, tok := x.e.tok, cellBlock := 0, cellIdx := 0, bad := false }

/-- The core after a call: a new frame with its header, the arguments copied with their poison, the entry in the new
frame, one level deeper, at the target (R191). -/
def callCore (o : CF) (tgt : W64) (p : Nat × Option (Nat × Nat)) (x : Iss) : Core :=
  let r := x.k.addFrame x.slot ((o.fsize.toNat + 1) * 8) p (some x.e.frame) (some (calleeHdr o x))
  let k := (List.range o.args.toNat).foldl (fun k i =>
    (k.writeLoc (.frame r.2 i) 0xFF (k.readLoc (.frame x.e.frame (o.vbase.toNat + i)))).markPoison (.frame r.2 i)
      (k.poisonLoc (.frame x.e.frame (o.vbase.toNat + i)))) r.1
  (k.setEntry x.slot { x.e with frame := r.2, depth := x.e.depth + 1, pc := tgt, wait := .none, retried := false }).doneAlloc
    x.slot x.e.id

/-- The facts of CALL and CALLX. -/
def callSpec (o : CF) : Spec :=
  { instr := .call o, g := o.g, lit := true, inHandler := false, whole := true
    fields := decide (o.a = 0#8) && decide (o.rsv = 0#10), args := callArgs o, early := callEarly o (.call o) false }

def callxSpec (o : CF) : Spec :=
  { instr := .callx o, g := o.g, lit := true, inHandler := false, whole := true, srcs := [(o.a.toNat, 2)]
    fields := decide (o.a.toNat % 2 = 0) && decide (o.rsv = 0#10), args := callArgs o
    early := fun x => if targetLanes x o.a.toNat (lowTarget x o.a.toNat) = x.act then callEarly o (.callx o) true x else none }

/-- R191: whenever a call issues and finds room, the callee's frame and header cell exist, the arguments are in v0 upward of the
callee, and the entry runs at the target one level deeper; an indirect call goes there once all of Active() has one target. -/
def CallsComplete : Prop :=
  ∀ (o : CF) (p : Nat × Option (Nat × Nat)),
    Moved (.call o) (callSpec o)
        (fun _ x => CallRuns o (relTarget x.e.pc (lo32 o.literal)) p x)
        (fun s x => s.setCore x.c (callCore o (relTarget x.e.pc (lo32 o.literal)) p x))
    ∧ Moved (.callx o) (callxSpec o)
        (fun _ x => targetLanes x o.a.toNat (lowTarget x o.a.toNat) = x.act ∧ CallRuns o (lowTarget x o.a.toNat) p x)
        (fun s x => s.setCore x.c (callCore o (lowTarget x o.a.toNat) p x))

/-- R61, R171, R191, R396: the checks of a call in their order. A window that leaves the caller's or the callee's frame is
REG_RANGE with VBASE and the caller's size; a call of a lane at depth 64 is FRAME_DEMAND with the frame's size; an unused
half of the literal that is not 0 is RESERVED_FIELD; a call that keeps all three passes. They stand before SHADOW_READ. -/
def CallChecksInOrder : Prop :=
  ∀ o : CF,
    let f := (o.fsize.toNat + 1) * 8
    let fits := fun (x : Iss) =>
      o.vbase.toNat + o.args.toNat ≤ x.k.frameSize x.e.frame ∧ o.vbase.toNat + o.res.toNat ≤ x.k.frameSize x.e.frame
        ∧ o.args.toNat ≤ f ∧ o.res.toNat ≤ f
    let shallow := fun (x : Iss) => x.act = 0#8 ∨ x.e.depth < 64
    let halves := fun (indirect : Bool) => (o.lp = true ∨ hi32 o.literal = 0#32) ∧ (indirect = true → lo32 o.literal = 0#32)
    ChecksInOrder (.call o) (callSpec o) ∧ ChecksInOrder (.callx o) (callxSpec o)
    ∧ ∀ i ind x,
      (¬fits x → callEarly o i ind x = some (rangeTrap x o.vbase.toNat))
      ∧ (fits x → ¬shallow x →
          callEarly o i ind x = some (trapPlain .frameDemand (BitVec.ofNat 32 f) (BitVec.ofNat 32 x.e.depth) x.act))
      ∧ (fits x → shallow x → ¬halves ind → callEarly o i ind x = some (fieldTrap x { instr := i, g := o.g }))
      ∧ (fits x → shallow x → halves ind → callEarly o i ind x = none)

/-- R192, R68: whenever RET issues in a frame of a CALL whose caller is resident, with the token stack not below the header's,
its header cell good and no result register busy or poisoned, the results are in the caller's window, and the entry goes on
after the call in the caller's frame; at depth 0 outside a task the lanes end as by EXIT; UNWIND goes to the landing pad of
the nearest CALL.L, with its value in v0 of the frame that made the call, and waits there while that frame is spilled. -/
def ReturnAndUnwindComplete : Prop :=
  (∀ (o : SF) (fr : Frame) (h : Hdr) (caller : Nat) (tok : Option Nat),
    Moved (.ret o) (plainSpec (.ret o) o false true)
      (fun _ x =>
        let all : List (Nat × Nat) := if h.res = 0 then [] else [(0, h.res)]
        let outs : List RegLoc := (List.range h.res).map fun i => .frame caller (h.vbase + i)
        x.e.depth ≠ 0 ∧ x.k.frame? x.e.frame = some fr ∧ fr.hdr = some h ∧ fr.parent = some caller ∧ h.bad = false ∧ h.adoption = false
          ∧ x.g.cutTo x.e.tok h.tokh = some tok ∧ (KMap.get? x.k.frames caller).isSome ∧ anyBusy x.k x.e all = false
          ∧ outs.any (fun l => x.k.busy l) = false ∧ poisonRead x all = none)
      (fun s x =>
        let all : List (Nat × Nat) := if h.res = 0 then [] else [(0, h.res)]
        let k0 := x.k.settle x.slot fun p => match p.tgt with
          | .reg l => (rangeLocs x.k x.e all).contains l
          | .pred _ => false
        let k := (List.range h.res).foldl (fun k i =>
          k.putNow x (.reg (.frame caller (h.vbase + i))) x.e.mask (k.readLoc (.frame x.e.frame i))) k0
        s.leaveTo x k caller tok h.rpc))
  ∧ (∀ o : SF, Moved (.ret o) (plainSpec (.ret o) o false true)
      (fun _ x => x.e.depth = 0 ∧ runningTask x.k x.g x.e = none)
      (fun s x => (s.setCore x.c x.k).exitEntry x.c x.slot { x.e with wait := .none } x.e.mask))
  ∧ ∀ (o : SF) (i : Nat) (h : Hdr) (tok : Option Nat),
    Moved (.unwind o)
      { instr := .unwind o, g := o.g, inHandler := false, whole := true, srcs := [(o.a.toNat, 1)]
        fields := sfZero o false true false false false }
      (fun _ x =>
        let dst := ((x.k.frame? i).bind fun f => f.parent).getD 0
        (walked x.k (x.k.chain x.e.frame)).all (fun h => !h.bad) = true ∧ landing x.k (x.k.chain x.e.frame) = some (i, h)
          ∧ x.g.cutTo x.e.tok h.tokh = some tok ∧ x.k.busy (.frame dst 0) = false)
      (fun s x =>
        let dst := ((x.k.frame? i).bind fun f => f.parent).getD 0
        (s.leaveTo x (x.k.putNow x (.reg (.frame dst 0)) x.act (x.reg o.a.toNat)) dst tok h.pad).awaitFrame x dst)

/-- R192, R396: RET at depth 0 in a task, RET at an adoption header and UNWIND with no landing pad trap with UNWIND_EMPTY; a
return or unwind whose cut would discard a deferred record, or that finds its stack below the header's height, traps with
RECONV_DEPTH. No frame is left. -/
def LeavingTooFarTraps : Prop :=
  (∀ o : SF, Traps (.ret o) (plainSpec (.ret o) o false true)
      (fun _ x => x.e.depth = 0 ∧ (runningTask x.k x.g x.e).isSome) (fun _ x => depthTrap .unwindEmpty x))
  ∧ (∀ (o : SF) (fr : Frame) (h : Hdr) (caller : Nat),
    let at_ := fun (x : Iss) =>
      x.e.depth ≠ 0 ∧ x.k.frame? x.e.frame = some fr ∧ fr.hdr = some h ∧ fr.parent = some caller ∧ h.bad = false
    Traps (.ret o) (plainSpec (.ret o) o false true) (fun _ x => at_ x ∧ h.adoption = true) (fun _ x => depthTrap .unwindEmpty x)
    ∧ Traps (.ret o) (plainSpec (.ret o) o false true)
        (fun _ x => at_ x ∧ h.adoption = false ∧ x.g.cutTo x.e.tok h.tokh = none) (fun _ x => depthTrap .reconvDepth x))
  ∧ ∀ o : SF,
    let sp : Spec :=
      { instr := .unwind o, g := o.g, inHandler := false, whole := true, srcs := [(o.a.toNat, 1)]
        fields := sfZero o false true false false false }
    let good := fun (x : Iss) => (walked x.k (x.k.chain x.e.frame)).all (fun h => !h.bad) = true
    Traps (.unwind o) sp (fun _ x => good x ∧ landing x.k (x.k.chain x.e.frame) = none) (fun _ x => depthTrap .unwindEmpty x)
    ∧ ∀ i h, Traps (.unwind o) sp
        (fun _ x => good x ∧ landing x.k (x.k.chain x.e.frame) = some (i, h) ∧ x.g.cutTo x.e.tok h.tokh = none)
        (fun _ x => depthTrap .reconvDepth x)

end Sys2Proof.Statements

/-- R191, R61, R171, R396, R192, R68: CALL, RET and UNWIND build and leave frames, and trap where they cannot:
`CallsComplete`, `CallChecksInOrder`, `ReturnAndUnwindComplete` and `LeavingTooFarTraps`. Model's choices: a return copies
results that are pending (log 21) and REG_RANGE of a call reads the callee's size (log 21). -/
def Obligations.CallsAndReturnsComplete : Prop :=
  Sys2Proof.Statements.CallsComplete ∧ Sys2Proof.Statements.CallChecksInOrder ∧
    Sys2Proof.Statements.ReturnAndUnwindComplete ∧ Sys2Proof.Statements.LeavingTooFarTraps

/-- R189, R193-R196: whenever NOP, EXIT, YIELD, IDMC or LEAD issues, it completes: NOP with no effect, EXIT (outside a
handler) with the lanes of Active() ended, YIELD past the word as a candidate for a swap, IDMC with the workgroup's
idempotence bit clear, LEAD with pD 1 in the lowest lane of Active() alone (behind an older result of pD that is pending, R56).
EXIT in a handler is fatal, with the cause and information of the first trap (R373). -/
def Obligations.EntryControlCompletes : Prop :=
  ∀ o : SF,
    Done (.nop o) (plainSpec (.nop o) o true false) always (fun s _ => s)
    ∧ Moved (.exit o) (plainSpec (.exit o) o true false) (fun _ x => x.e.handler = none)
        (fun s x => (s.setCore x.c x.k).exitEntry x.c x.slot { x.e with wait := .none, retried := false } x.act)
    ∧ Moved (.yield o) (plainSpec (.yield o) o false false) always
        (fun s x => s.setCore x.c (x.k.setEntry x.slot { x.e with
          pc := x.e.pc + 8, wait := .yield, waitFrom := x.now, retried := false }))
    ∧ Done (.idmc o) (plainSpec (.idmc o) o false false) always
        (fun s x => s.setCore x.c (x.k.setWg x.g.wg { x.k.wg x.g.wg with idem := false }))
    ∧ (∀ i ts, Moved (.exit o) (plainSpec (.exit o) o true false)
        (fun _ x => x.e.handler = some i ∧ KMap.get? x.k.traps i = some ts)
        (fun s x => (s.raise (srcCore x.c) (fatalEvent x.c x.slot x.k x.g x.e (bits ts.tcause.toNat 7 0) ts.tinfo0 ts.tinfo1 false
          ts.va)).fatalEnd x.c x.slot x.e))
    ∧ (∀ g, Done (.lead o)
        { instr := .lead o, g := o.g, fields := decide (o.d.toNat < 8) && sfZero o true false false false false }
        (fun _ x => x.k.group? x.slot = some g ∧ g.pend.all (fun p => decide (p.tgt ≠ .pred o.d.toNat)) = true)
        (fun s x => s.setCore x.c (x.k.setGroup x.slot
          (g.setPred o.d.toNat x.e.mask (maskOf fun i => decide (i = x.low))))))
    ∧ ∀ g, Done (.lead o)
        { instr := .lead o, g := o.g, fields := decide (o.d.toNat < 8) && sfZero o true false false false false }
        (fun _ x => x.k.group? x.slot = some g ∧ g.pend.any (fun p => decide (p.tgt = .pred o.d.toNat)) = true)
        (fun s x =>
          let older := g.pend.filter fun q => decide (q.tgt = .pred o.d.toNat)
          s.setCore x.c (x.k.setGroup x.slot { g with pend := g.pend ++
            [{ by_ := x.e.id, ready := older.foldl (fun n q => max n q.ready) x.now, tgt := .pred o.d.toNat, mask := x.e.mask
               val := (maskOf fun i => decide (i = x.low)).setWidth 256 }] }))

/-! ## Memory (R138-R142, R155, R218-R226) -/

namespace Sys2Proof.Statements

/-- The result of a load from the places `ps`: vD upward is busy with each lane's `2^SIZE` bytes as they are at issue, in
little-endian order and extended as SIZE says; memory is as it was. -/
def Loaded (z d : Nat) (addrs : List (Nat × Nat)) (ps : List (Nat × Reach)) (s : State) (x : Iss) (s2 : State) : Prop :=
  ∃ s3 reqs, SameMem s s3 ∧
    s2 = s3.addResult x d (laneRegs (szRegs z) (ps.map fun p => (p.1, szExtend z (leNat (s.placeBytes p.2 (szBytes z))))))
      (s3.poisonMask ps) (laneVas addrs) reqs true []

end Sys2Proof.Statements

/-- R168, R220-R222: whenever LD, LDC or LDX issues and every lane's address is aligned and reaches memory or a register
page, it completes: vD is busy until the bytes arrive, which are the bytes at issue, and memory is as it was. -/
def Obligations.LoadsComplete : Prop :=
  (∀ (o : MF) (ps : List (Nat × Reach)),
    let z := o.size.toNat
    let d := o.d.toNat
    DoneWith (.ld o) (loadSpec (.ld o) o [2]) (fun s x => s.reachAll x (x.memAddrs o) (szBytes z) .rd = .ok ps)
        (fun s x s2 => Loaded z d (x.memAddrs o) ps s x s2)
    ∧ DoneWith (.ldc o) (loadSpec (.ldc o) o []) (fun s x => s.reachAll x (x.memAddrs o) (szBytes z) .rd = .ok ps)
        (fun s x s2 => Loaded z d (x.memAddrs o) ps s x s2))
  ∧ ∀ (o : XF) (ps : List (Nat × Reach)),
    let z := o.size.toNat
    DoneWith (.ldx o)
        { instr := .ldx o, g := o.g, dsts := [(o.d.toNat, szRegs z)], srcs := [(o.a.toNat, 2), (o.b.toNat, idxRegs o)]
          scope := o.scope.toNat, fields := gatherOk o o.d.toNat [2] && decide (o.c = 0#8) }
        (fun s x => s.reachAll x (x.gatherAddrs o) (szBytes z) .rd = .ok ps)
        (fun s x s2 => Loaded z o.d.toNat (x.gatherAddrs o) ps s x s2)

namespace Sys2Proof.Statements

/-- The stores of the lanes `ps` whose places lie in memory. -/
def laneStores (ps : List (Nat × Reach)) (data : Nat → List Byte) : List (Nat × List Byte) :=
  ps.filterMap fun p => match p.2 with
    | .mem pa _ => some (pa, data p.1)
    | .mmio _ _ => none

/-- The facts of ST and STX. -/
def stSpec (o : MF) : Spec :=
  { instr := .st o, g := o.g, srcs := [(o.a.toNat, 2), (o.b.toNat, szRegs o.size.toNat)], scope := o.scope.toNat
    fields := decide (o.size.toNat ≠ 7) && szAligned o.size.toNat o.b.toNat && decide (o.a.toNat % 2 = 0) && decide (o.d = 0#8)
      && annOk o.scope.toNat o.ord.toNat [1] }

def stxSpec (o : XF) : Spec :=
  { instr := .stx o, g := o.g, srcs := [(o.a.toNat, 2), (o.b.toNat, idxRegs o), (o.c.toNat, szRegs o.size.toNat)]
    scope := o.scope.toNat, fields := gatherOk o o.c.toNat [1] && decide (o.d = 0#8) }

end Sys2Proof.Statements

/-- R138, R220, R222: whenever ST or STX issues and every lane's address is aligned and reaches memory or a register page, it
completes with the PC past it: memory holds the low bytes of each lane's data registers at the lane's place, a higher lane
winning, and is otherwise as it was. -/
def Obligations.StoresComplete : Prop :=
  (∀ (o : MF) (ps : List (Nat × Reach)),
    DoneWith (.st o) (stSpec o) (fun s x => s.reachAll x (x.memAddrs o) (szBytes o.size.toNat) .wr = .ok ps)
      (fun s x s2 => SameMem (s.storeAll (laneStores ps fun l =>
        leBytes (szBytes o.size.toNat) (x.wide o.b.toNat (szRegs o.size.toNat) l))) s2))
  ∧ ∀ (o : XF) (ps : List (Nat × Reach)),
    DoneWith (.stx o) (stxSpec o) (fun s x => s.reachAll x (x.gatherAddrs o) (szBytes o.size.toNat) .wr = .ok ps)
      (fun s x s2 => SameMem (s.storeAll (laneStores ps fun l =>
        leBytes (szBytes o.size.toNat) (x.wide o.c.toNat (szRegs o.size.toNat) l))) s2)

namespace Sys2Proof.Statements

/-- The facts of ATOM, CAS and RED. -/
def atomSpec (o : MF) : Spec :=
  let z := o.size.toNat
  { instr := .atom o, g := o.g, dsts := [(o.d.toNat, szRegs z)], srcs := [(o.a.toNat, 2), (o.b.toNat, szRegs z)]
    scope := o.scope.toNat, fields := atomOk o (aopTypes (aopOf o)) [o.d.toNat, o.b.toNat] [1, 2, 3] }

def casSpec (o : MF) : Spec :=
  let z := o.size.toNat
  { instr := .cas o, g := o.g, dsts := [(o.d.toNat, szRegs z)]
    srcs := [(o.d.toNat, szRegs z), (o.a.toNat, 2), (o.b.toNat, szRegs z)], scope := o.scope.toNat
    fields := atomOk o [0, 1, 2, 3, 8, 9] [o.d.toNat, o.b.toNat] [1, 2, 3] && decide ((aopOf o) = 0) }

def redSpec (o : MF) : Spec :=
  { instr := .red o, g := o.g, srcs := [(o.a.toNat, 2), (o.b.toNat, szRegs o.size.toNat)], scope := o.scope.toNat
    fields := atomOk o (aopTypes (aopOf o)) [o.b.toNat] [1] && decide (o.d = 0#8) }

/-- Byte `a` lies in none of the `n`-byte places `ps`. -/
def outside (ps : List (Nat × Reach)) (n a : Nat) : Prop := ∀ p ∈ ps, ∀ pa pres, p.2 = Reach.mem pa pres → a < pa ∨ pa + n ≤ a

end Sys2Proof.Statements

/-- R138, R220, R222, R223 (frame): a store or an atomic that completes leaves every byte of memory as it was but the bytes
at its lanes' places in memory, which its own checks found; a load leaves every byte. -/
def Obligations.MemoryOutsideStoresUnchanged : Prop :=
  (∀ (o : MF) (ps : List (Nat × Reach)) s s1 x t a, outside ps (szBytes o.size.toNat) a →
    (Issues s (stSpec o) s1 x → s1.reachAll x (x.memAddrs o) (szBytes o.size.toNat) .wr = .ok ps →
      exec (.st o) s = .next t → t.byte a = s.byte a)
    ∧ (∀ i sp, (i, sp) ∈ [(Instr.atom o, atomSpec o), (.cas o, casSpec o), (.red o, redSpec o)] →
      Issues s sp s1 x → s1.reachAtoms x (x.atomAddrs o) (szBytes o.size.toNat) .wr = .ok ps →
      exec i s = .next t → t.byte a = s.byte a))
  ∧ (∀ (o : XF) (ps : List (Nat × Reach)) s s1 x t a, outside ps (szBytes o.size.toNat) a →
    Issues s (stxSpec o) s1 x → s1.reachAll x (x.gatherAddrs o) (szBytes o.size.toNat) .wr = .ok ps →
    exec (.stx o) s = .next t → t.byte a = s.byte a)
  ∧ ∀ (o : MF) (ps : List (Nat × Reach)) s s1 x t a, Issues s (loadSpec (.ld o) o [2]) s1 x →
    s1.reachAll x (x.memAddrs o) (szBytes o.size.toNat) .rd = .ok ps → exec (.ld o) s = .next t → t.byte a = s.byte a

namespace Sys2Proof.Statements

/-- R142, R221, R226: whenever PRF or FENCE issues it completes: PRF with no check beyond its fields and no effect, FENCE with
no effect in one coherent store (DESIGN CHOICE, log 4). -/
def PrefetchAndFenceComplete : Prop :=
  (∀ o : MF, Done (.prf o)
    { instr := .prf o, g := o.g, shadow := false, args := [(o.a.toNat, 2)]
      fields := decide (o.d = 0#8) && decide (o.a.toNat % 2 = 0) && decide (o.b = 0#8) && decide (o.size = 0#3)
        && decide (o.ord = 0#2) && decide (o.scope = 0#3) } always (fun s _ => s))
  ∧ ∀ o : SF, Done (.fence o)
    { instr := .fence o, g := o.g, scope := bits o.ctrl.toNat 15 13
      fields := decide (o.d = 0#8) && decide (o.a = 0#8) && decide (o.b = 0#8) && decide (o.c = 0#8)
        && decide (bits o.ctrl.toNat 10 0 = 0) && decide (bits o.ctrl.toNat 15 13 ≠ 7) } always (fun s _ => s)

/-- R82, R155, R220: whenever LDS or STS issues and every lane's offset is aligned and inside the workgroup's scratchpad, it
completes: LDS (where no copy holds the bytes back) makes vD busy with the bytes of the scratchpad, STS writes them. -/
def ScratchpadAccessesComplete : Prop :=
  ∀ o : MF,
    let z := o.size.toNat
    let n := szBytes z
    let w := fun (x : Iss) => x.k.wg x.g.wg
    DoneWith (.lds o)
        { instr := .lds o, g := o.g, dsts := [(o.d.toNat, szRegs z)], srcs := [(o.a.toNat, 1)], scope := o.scope.toNat
          fields := decide (z ≠ 7) && szAligned z o.d.toNat && decide (o.b = 0#8) && annOk o.scope.toNat o.ord.toNat [2] }
        (fun _ x => scrChecks (w x) (x.scrAddrs o) n = none
          ∧ (x.scrAddrs o).find? (fun a => x.k.copyStalls x.g.wg a.2 n) = none)
        (fun s x s2 => ∃ pz, s2 = s.addResult x o.d.toNat (laneRegs (szRegs z)
          ((x.scrAddrs o).map fun a => (a.1, szExtend z (leNat (x.k.scrBytes (w x) a.2 n))))) pz (laneVas (x.scrAddrs o)) 0 true [])
    ∧ Done (.sts o)
        { instr := .sts o, g := o.g, srcs := [(o.a.toNat, 1), (o.b.toNat, szRegs z)], scope := o.scope.toNat
          fields := decide (z ≠ 7) && szAligned z o.b.toNat && decide (o.d = 0#8) && annOk o.scope.toNat o.ord.toNat [1] }
        (fun _ x => scrChecks (w x) (x.scrAddrs o) n = none)
        (fun s x => s.setCore x.c ((x.scrAddrs o).foldl (fun k a =>
          k.putScratch ((w x).scratchBase + a.2) (leBytes n (x.wide o.b.toNat (szRegs z) a.1))) (s.core x.c)))

/-- What the lanes of an atomic write, one after the other, each with what it finds there. -/
def ranLanes (lanes : List AtomLane) (s : State) : State :=
  lanes.foldl (fun s a => s.storeAll [(a.pa, leBytes a.size (a.fn.apply (s.readNat a.pa a.size)))]) s

/-- The lanes of an atomic, line by line. -/
def byLine (lanes : List AtomLane) : List AtomLane :=
  ((lanes.map fun a => lineOf a.pa).eraseDups).flatMap fun l => lanes.filter fun a => decide (lineOf a.pa = l)

/-- The core's L1 owns the line of a lane's atomic, no other core has asked for it, no atomic of the core waits for it, and it
is good. -/
def Owned (s : State) (c : Nat) (a : AtomLane) : Prop :=
  (∃ left, 16 < left ∧ KMap.get? s.l1own (lineOf a.pa) = some (c, left)) ∧ (s.core c).atomsAt (lineOf a.pa) = []
    ∧ s.poisoned a.pa = false ∧ s.bypasses a = false

/-- One lane's atomic on a good line: the location takes what the function makes of the value found there, and the result's
registers take that value in the lane. -/
def LaneIsDone : Prop :=
  ∀ (s : State) (c : Nat) (a : AtomLane), s.poisoned a.pa = false →
    let old := s.readNat a.pa a.size
    SameMem (s.storeAll [(a.pa, leBytes a.size (a.fn.apply old))]) (s.doLane c a)
    ∧ (a.returns = true → ∀ o ∈ (s.core c).outs, o.id = a.out → ∃ o' ∈ ((s.doLane c a).core c).outs, o'.id = a.out ∧
        ∀ i d, o.dests[i]? = some d → ∃ d', o'.dests[i]? = some d' ∧ d'.loc = d.loc ∧ d'.mask = d.mask
          ∧ d'.val = mergeReg (1#8 <<< a.lane) d.val (splat (BitVec.ofNat 32 (old / 2 ^ (32 * i)))))

end Sys2Proof.Statements

/-- R150, R169, R223, R224: whenever ATOM, CAS or RED issues and every lane's address is aligned and reaches memory, it
completes with the PC past it: vD of ATOM and CAS is busy, and the lanes' atomics start, line by line in ascending lane order.
Where the core's L1 owns their lines they are all done at once, each with what it finds (`LaneIsDone` is what one does); else
the lines are asked for. -/
def Obligations.AtomicsComplete : Prop :=
  (∀ (o : MF) (ps : List (Nat × Reach)),
    let z := o.size.toNat
    let n := szBytes z
    let reaches := fun (s : State) (x : Iss) => s.reachAtoms x (x.atomAddrs o) n .wr = .ok ps
    let swap := fun (x : Iss) (l : Nat) => AtomFn.cas (x.wide o.d.toNat (szRegs z) l) (x.wide o.b.toNat (szRegs z) l)
    let lanes := fun (returns : Bool) (fn : Iss → Nat → AtomFn) (x : Iss) => atomLanes x n returns (fn x) (x.k.nextId) ps
    let starts := fun (d regs : Nat) (fn : Iss → Nat → AtomFn) (s : State) (x : Iss) (s2 : State) =>
      ∃ s3, SameMem s s3 ∧ s2 = (s3.addResult x d (List.replicate regs 0) 0 (laneVas (x.atomAddrs o)) 0 false []).startAtoms x.c
        (lanes (decide (regs ≠ 0)) fn x)
    let owned := fun (returns : Bool) (fn : Iss → Nat → AtomFn) (s : State) (x : Iss) =>
      reaches s x ∧ ∀ a ∈ lanes returns fn x, Owned s x.c a
    let ran := fun (returns : Bool) (fn : Iss → Nat → AtomFn) (s : State) (x : Iss) (s2 : State) =>
      SameMem (ranLanes (byLine (lanes returns fn x)) s) s2
    DoneWith (.atom o) (atomSpec o) reaches (starts o.d.toNat (szRegs z) (opFn o))
    ∧ DoneWith (.cas o) (casSpec o) reaches (starts o.d.toNat (szRegs z) swap)
    ∧ DoneWith (.red o) (redSpec o) reaches (starts 0 0 (opFn o))
    ∧ DoneWith (.atom o) (atomSpec o) (owned true (opFn o)) (ran true (opFn o))
    ∧ DoneWith (.cas o) (casSpec o) (owned true swap) (ran true swap)
    ∧ DoneWith (.red o) (redSpec o) (owned false (opFn o)) (ran false (opFn o)))
  ∧ LaneIsDone

namespace Sys2Proof.Statements

/-- R225: whenever WAITA issues and every lane's address is aligned and reaches memory, vD becomes busy with
the values found; where one differs from vB, or the quarter's monitor table has no room, the entry goes on past
the word; else the table holds a monitor for every line and the entry, past the word, waits for a write. -/
def WaitaCompletes : Prop :=
  ∀ (o : MF) (ps : List (Nat × Reach)),
    let z := o.size.toNat
    let n := szBytes z
    let sp : Spec :=
      { instr := .waita o, g := o.g, dsts := [(o.d.toNat, szRegs z)], srcs := [(o.a.toNat, 2), (o.b.toNat, szRegs z)]
        fields := atomOk o [0, 1, 2, 3] [o.d.toNat, o.b.toNat] [] && decide ((aopOf o) = 0) }
    let reaches := fun (s : State) (x : Iss) => s.reachAtoms x (x.atomAddrs o) n .rd = .ok ps
    let vals := fun (s : State) => ps.map fun p => (p.1, leNat (s.placeBytes p.2 n))
    let found := fun (s : State) (x : Iss) (s2 : State) =>
      ∃ s3 reqs, SameMem s s3 ∧ s2 = s3.addResult x o.d.toNat (laneRegs (szRegs z) (vals s)) (s.poisonMask ps)
        (laneVas (x.atomAddrs o)) reqs false []
    let same := fun (s : State) (x : Iss) => ∀ v ∈ vals s, v.2 = x.wide o.b.toNat (szRegs z) v.1
    DoneWith (.waita o) sp (fun s x => reaches s x ∧ ¬ same s x) found
    ∧ (∀ s s1 x, Issues s sp s1 x → reaches s1 x → same s1 x → ∃ s2, found s1 x s2 ∧
        let q := (s2.core x.c).quarter (quarterOf x.slot)
        let arm := (placeLines ps).map fun l => (l.1, x.slot, x.e.id)
        (32 < q.monitors.length + arm.length → exec (.waita o) s = .next (s2.afterDone x sp))
        ∧ (q.monitors.length + arm.length ≤ 32 → exec (.waita o) s = .next
            ((s2.setCore x.c (((s2.core x.c).setQuarter (quarterOf x.slot) { q with monitors := q.monitors ++ arm }).setEntry
              x.slot { x.e with pc := x.e.pc + 8, wait := .monitor, waitFrom := x.now, retried := false })).afterMoved x sp)))

end Sys2Proof.Statements

/-- R142, R221, R226, R82, R155, R220, R225: PRF, FENCE, LDS, STS and WAITA complete: `PrefetchAndFenceComplete`,
`ScratchpadAccessesComplete` and `WaitaCompletes`. Model's choices: FENCE has no effect in one coherent store (log 4); the sum
of LDS and STS is modulo 2^32 (log 22). -/
def Obligations.HintsScratchpadAndMonitorsComplete : Prop :=
  Sys2Proof.Statements.PrefetchAndFenceComplete ∧ Sys2Proof.Statements.ScratchpadAccessesComplete ∧
    Sys2Proof.Statements.WaitaCompletes

namespace Sys2Proof.Statements

/-- The facts of LDB and STB. -/
def ldbSpec (o : XF) : Spec :=
  { instr := .ldb o, g := o.g, dsts := [(o.d.toNat, szRegs o.size.toNat)], srcs := [(o.a.toNat, 1), (o.b.toNat, 2)]
    scope := o.scope.toNat, fields := recordOk o [2] && decide (o.c = 0#8) }

def stbSpec (o : XF) : Spec :=
  { instr := .stb o, g := o.g, srcs := [(o.a.toNat, 1), (o.b.toNat, 2), (o.c.toNat, szRegs o.size.toNat)]
    scope := o.scope.toNat, fields := recordOk o [1] && decide (o.d = 0#8) }

/-- The state after the free choice whether the record cache serves (R98), and that choice. -/
def afterChoice (s : State) : State := (s.choice 2).2

def cacheServes (s : State) : Bool := decide ((s.choice 2).1 = 1)

end Sys2Proof.Statements

/-- R98-R101, R115, R222: whenever LDB or STB issues, every lane's record is good and every element lies in memory, it completes:
LDB makes vD busy with each element's value as its encoding or codec block gives it, STB writes each plain element's converted
bytes and then each codec line. -/
def Obligations.RecordAccessesComplete : Prop :=
  ∀ (o : XF) (rs : List (Nat × Brec × Nat)) (ps : List (Nat × Brec × Nat × Nat × Bool)),
    let z := o.size.toNat
    let val := fun (x : Iss) (l : Nat) => x.wide o.c.toNat (szRegs z) l
    DoneWith (.ldb o) (ldbSpec o)
        (fun s x => (afterChoice s).recordLanes x o o.d.toNat .read (ldbSpec o).word (cacheServes s) = .ok rs
          ∧ (afterChoice s).reachRecords x rs .rd = .ok ps)
        (fun s x s2 => ∃ s3 pz vas reqs la, SameMem s s3 ∧ la.map Prod.fst = (accessRecords rs).map Brec.handle
          ∧ s2 = s3.addResult x o.d.toNat
          (laneRegs (szRegs z) (ps.map fun p => (p.1, (afterChoice s).recordValue p.2.1 p.2.2.1 p.2.2.2.1))) pz vas reqs
          true la)
    ∧ DoneWith (.stb o) (stbSpec o)
        (fun s x => (afterChoice s).recordLanes x o o.c.toNat .write (stbSpec o).word (cacheServes s) = .ok rs
          ∧ (afterChoice s).reachRecords x rs .wr = .ok ps)
        (fun s x s2 => ∃ s3, SameMem (((afterChoice s).noteAll x (ps.map fun p => accessVa p.2.1 p.2.2.1) .wr).storeAll ((ps.filter fun p => p.2.1.region.isNone).map fun p =>
            (p.2.2.2.1, leBytes (2 ^ p.2.1.esize) (convStore p.2.1.enc p.2.1.esize p.2.1.scale (val x p.1))))) s3
          ∧ s2 = (gatherLines ps (val x) []).foldl (fun s ls => s.storeLine x ls) s3)

namespace Sys2Proof.Statements

/-- The facts of TEX and TEXG, and what each samples. -/
def texSpec (o : V3) : Spec :=
  { instr := .tex o, g := o.g, fields := texOk o && decide (o.c = 0#8), dsts := [(o.d.toNat, 4)]
    srcs := [(o.a.toNat, 2), (o.b.toNat, 1)] }

def texgSpec (o : V3) : Spec :=
  { instr := .texg o, g := o.g, fields := texOk o && !o.func.getLsbD 0 && decide (o.c.toNat < 4), dsts := [(o.d.toNat, 4)]
    srcs := [(o.a.toNat, 2), (o.b.toNat, 1)] }

def texOp (o : V3) : TexOp := { lin := o.func.getLsbD 0, addr := o.func.toNat / 2, gather := none }

def texgOp (o : V3) : TexOp := { lin := true, addr := o.func.toNat / 2, gather := some o.c.toNat }

end Sys2Proof.Statements

/-- R213, R214: whenever TEX or TEXG issues and its lanes' records are textures with their texels in memory, it completes: vD
to vD+3 are busy with the sampled, filtered or gathered channels, and memory is as it was. -/
def Obligations.TextureInstructionsComplete : Prop :=
  ∀ (o : V3) (q : TexReads),
    let reads := fun (t : TexOp) (sp : Spec) (s : State) (x : Iss) =>
      (afterChoice s).texReads x o t sp.word (cacheServes s) = .ok q
    let gives := fun (t : TexOp) (s : State) (x : Iss) (s2 : State) =>
      ∃ s3 pz lv reqs la, SameMem s s3 ∧ la.map Prod.fst = (accessRecords (q.recs.map fun r => (r.1, r.2, 0))).map Brec.handle
        ∧ s2 = s3.addResult x o.d.toNat ((afterChoice s).texRegs x o t q) pz lv reqs true la
    DoneWith (.tex o) (texSpec o) (reads (texOp o) (texSpec o)) (gives (texOp o))
    ∧ DoneWith (.texg o) (texgSpec o) (reads (texgOp o) (texgSpec o)) (gives (texgOp o))

/-! ## Synchronisation, tasks and the matrix interface (R228-R235) -/

namespace Sys2Proof.Statements

/-- R230: whenever a barrier word issues, it completes: BARI on a barrier without arrivals sets its expected count, BARA makes
its arrivals where the count allows them, BARW goes on once the phase differs from the token and waits until then, BARS
arrives and either goes on with the new phase or waits past the word for it, BARP returns the phase. BARI on a barrier with
arrivals or with count 0, and arrivals that the barrier refuses, trap with BARRIER_MISUSE, the barrier's number, its expected
count and its arrivals (R371). -/
def BarriersComplete : Prop :=
  ∀ o : SF,
    let b := o.c.toNat
    let n := if o.ctrl = 0#16 then 1 else o.ctrl.toNat
    let bar := fun (x : Iss) => (x.k.wg x.g.wg).barrier b
    let misuse := fun (_ : State) (x : Iss) => trapPlain .barrierMisuse (BitVec.ofNat 32 b)
      (BitVec.ofNat 32 ((bar x).expected * 65536 + (bar x).arrival)) x.act
    Done (.bari o) (barSpec o (.bari o) false false true) (fun _ x => (bar x).arrival = 0 ∧ o.ctrl ≠ 0#16)
        (fun s x => s.setCore x.c (x.k.setBarrier x.g.wg b { bar x with expected := o.ctrl.toNat, arrival := 0 }))
    ∧ (∀ s', Done (.bara o) (barSpec o (.bara o) false false true) (fun s x => s.arriveBar x.c x.g.wg b n = some s')
        (fun _ _ => s'))
    ∧ Done (.barw o) (barSpec o (.barw o) false true false)
        (fun _ x => (bar x).phase ≠ (x.low32 o.a.toNat).extractLsb' 0 16) (fun s _ => s)
    ∧ Waits (.barw o) (barSpec o (.barw o) false true false)
        (fun _ x => (bar x).phase = (x.low32 o.a.toNat).extractLsb' 0 16) (fun _ x => .barrier b (bar x).phase)
    ∧ Traps (.bari o) (barSpec o (.bari o) false false true) (fun _ x => (bar x).arrival ≠ 0 ∨ o.ctrl = 0#16) misuse
    ∧ Traps (.bara o) (barSpec o (.bara o) false false true) (fun s x => s.arriveBar x.c x.g.wg b n = none) misuse
    ∧ Traps (.bars o) (barSpec o (.bars o) false false true) (fun s x => s.arriveBar x.c x.g.wg b n = none) misuse
    ∧ (∀ s', Done (.bars o) (barSpec o (.bars o) false false true)
        (fun s x => s.arriveBar x.c x.g.wg b n = some s' ∧ (((s'.core x.c).wg x.g.wg).barrier b).phase ≠ (bar x).phase)
        (fun _ _ => s'))
    ∧ (∀ s', Moved (.bars o) (barSpec o (.bars o) false false true)
        (fun s x => s.arriveBar x.c x.g.wg b n = some s' ∧ (((s'.core x.c).wg x.g.wg).barrier b).phase = (bar x).phase)
        (fun _ x => s'.setCore x.c ((s'.core x.c).setEntry x.slot { x.e with
          pc := x.e.pc + 8, wait := .bars b (bar x).phase, waitFrom := x.now, retried := false })))
    ∧ ∀ s s1 x, Issues s { barSpec o (.barp o) true false false with inHandler := true } s1 x →
        exec (.barp o) s = .next (s1.afterLater x { barSpec o (.barp o) true false false with inHandler := true }
          [(o.d.toNat, splat ((bar x).phase.setWidth 32))])

/-- R230 (a barrier's rule): an arrival that makes the count meet the expected one moves the phase on and sets the count to 0; a
smaller one adds to the count; a larger one, or a barrier with no expected count, is BARRIER_MISUSE. -/
def BarrierArrivalRule : Prop :=
  ∀ (b : Barrier) (n : Nat),
    (b.expected = 0 → b.arrive n = none)
    ∧ (b.expected ≠ 0 → b.expected < b.arrival + n → b.arrive n = none)
    ∧ (b.expected ≠ 0 → b.arrival + n = b.expected →
        b.arrive n = some { expected := b.expected, arrival := 0, phase := b.phase + 1 })
    ∧ (b.arrival + n < b.expected → b.arrive n = some { expected := b.expected, arrival := b.arrival + n, phase := b.phase })

end Sys2Proof.Statements

/-- R230, R371: barrier words complete, by the rule of arrivals: `BarriersComplete` and `BarrierArrivalRule`. -/
def Obligations.BarriersCompleteByTheirRule : Prop :=
  Sys2Proof.Statements.BarriersComplete ∧ Sys2Proof.Statements.BarrierArrivalRule

namespace Sys2Proof.Statements

/-- The virtual function owns the ring that the lowest lane's id names, and the ring exists. -/
def RingNamed (o : SF) (h i : Nat) (r : Ring) (s : State) (x : Iss) : Prop :=
  s.ringAt x (x.low32 o.a.toNat) = .ok (h, i, r) ∧ r.vf = x.v

/-- The registers that only the ring's slot size reveals are in range, not busy, and where they are read neither shadowed
nor poisoned. -/
def RingRegsOk (rs : List (Nat × Nat)) (reads : Bool) (s : State) (x : Iss) : Prop :=
  badRange x.k x.e rs = none ∧ anyBusy x.k x.e rs = false
    ∧ (reads = true → s.shadowTrap x rs [] = none ∧ poisonRead { x with act := 0xFF } rs = none)

end Sys2Proof.Statements

/-- R231, R232: whenever a ring word issues on a ring of its virtual function, it completes: RINI makes a ring with free slots,
RCLM claims a slot or says that the ring is full, RPUB publishes its data in a claimed slot, RWFL takes the next published
slot, RREL releases a taken slot and frees what it can, RWFR claims a slot once there is room. -/
def Obligations.RingsComplete : Prop :=
  ∀ (o : SF) (h i : Nat) (r : Ring),
    let v := fun (x : Iss) => (x.low32 o.c.toNat).toNat
    let rini := { ringSpec o (.rini o) false true false true with
      fields := (ringSpec o (.rini o) false true false true).fields && decide (bits o.ctrl.toNat 15 6 = 0)
        && decide (0 < riniC o) && decide (riniC o ≤ 12) }
    let rclm := { ringSpec o (.rclm o) true false true false with
      fields := (ringSpec o (.rclm o) true false true false).fields && decide (o.c.toNat < 8) }
    (∀ i, Done (.rini o) rini
        (fun s x =>
          let off := (x.low32 o.b.toNat).toNat
          s.ringPlace x.c (x.low32 o.a.toNat) = some (x.c, i) ∧ KMap.get? (s.core x.c).rings i = none
            ∧ off % (32 * 2 ^ riniS o) = 0 ∧ off + 2 ^ riniC o * 32 * 2 ^ riniS o ≤ (x.k.wg x.g.wg).scratchLen)
        (fun s x => s.setRing x.c i
          { vf := x.v, base := (x.k.wg x.g.wg).scratchBase + (x.low32 o.b.toNat).toNat, c := riniC o, s := riniS o, k := 0, t := 0
            f := 0, slots := List.replicate (2 ^ riniC o) .free, claimers := [], producer := (runningTask x.k x.g x.e).getD 0 }))
    ∧ Done (.rclm o) rclm (fun s x => RingNamed o h i r s x ∧ r.full = true)
        (fun s x => s.givePred x o.c.toNat (allLanes false))
    ∧ Done (.rclm o) rclm (fun s x => RingNamed o h i r s x ∧ r.full = false)
        (fun s x => (s.claimSlot x o.d.toNat h i r).givePred x o.c.toNat (allLanes true))
    ∧ Done (.rpub o) { ringSpec o (.rpub o) false true true false with srcs := [(o.a.toNat, 1), (o.b.toNat, 1), (o.c.toNat, 1)] }
        (fun s x => RingNamed o h i r s x ∧ v x < r.slotsN ∧ r.slot (v x) = .claimed ∧ RingRegsOk [(o.b.toNat, 2 ^ r.s)] true s x)
        (fun s x => (s.setCore h ((s.core h).putSlot r (v x) ((List.range (2 ^ r.s)).map fun j => x.reg (o.b.toNat + j)))).setRing
          h i (r.setSlot (v x) .published))
    ∧ Done (.rwfl o) (ringSpec o (.rwfl o) true false false false)
        (fun s x => RingNamed o h i r s x ∧ RingRegsOk [(o.d.toNat, 2 ^ r.s + 1)] false s x ∧ r.ready = true)
        (fun s x =>
          let n := r.t % r.slotsN
          (s.addResult x o.d.toNat ((s.core h).slotRegs r n ++ [splat (BitVec.ofNat 32 n)]) ((s.core h).slotPoison r n) [] 0
            false []).setRing h i { r.setSlot n .taken with t := r.t + 1 })
    ∧ Done (.rrel o) { ringSpec o (.rrel o) false false true false with srcs := [(o.a.toNat, 1), (o.c.toNat, 1)] }
        (fun s x => RingNamed o h i r s x ∧ v x < r.slotsN ∧ r.slot (v x) = .taken)
        (fun s x => s.setRing h i
          (Ring.freeUp r.slotsN { r.setSlot (v x) .released with claimers := KMap.del r.claimers (v x) }))
    ∧ Done (.rwfr o) (ringSpec o (.rwfr o) true false false false) (fun s x => RingNamed o h i r s x ∧ r.full = false)
        (fun s x => s.claimSlot x o.d.toNat h i r)

/-- R233: whenever a future word issues on good handles, it completes: FNEW renews each lane's future and returns its handle,
FSET sets the empty ones, FWAIT returns the value of a set future, or 0 and the failed mark of a failed one, and on an empty
future adopts its owner's task, waits or parks. -/
def Obligations.FuturesComplete : Prop :=
  ∀ (o : SF) (pas : Nat → Nat) (prs : Nat → Bool) (fs : List (Nat × Nat × Nat)) (pa w : Nat),
    let at_ := fun (x : Iss) (l : Nat) => (x.pair o.a.toNat l).toNat
    let fnew := { futSpec o (.fnew o) true true false false with
      dsts := [(o.d.toNat, 2)], srcs := [(o.a.toNat, 2)]
      fields := (futSpec o (.fnew o) true true false false).fields && decide (o.d.toNat % 2 = 0) }
    let fset := { futSpec o (.fset o) true true true false with
      srcs := [(o.a.toNat, 2), (o.b.toNat, 2)]
      fields := (futSpec o (.fset o) true true true false).fields && decide (o.d.toNat < 8) }
    let fwait := { futSpec o (.fwait o) true true false true with
      dsts := [(o.d.toNat, 2)], srcs := [(o.a.toNat, 2)]
      fields := (futSpec o (.fwait o) true true false true).fields && decide (o.d.toNat % 2 = 0) && decide (o.c.toNat < 8) }
    let fut := fun (s : State) (x : Iss) => s.futureAt x (x.low64 o.a.toNat) .rd = .ok (pa, w)
    Done (.fnew o) fnew
        (fun s x => ∀ l ∈ lanesOf x.act,
          at_ x l % 32 = 0 ∧ at_ x l < 2 ^ 53 ∧ s.reachMem x (at_ x l) .wr = .ok (pas l, prs l))
        (fun s x =>
          let r := s.newFutures x ((lanesOf x.act).map fun l => (l, at_ x l, pas l))
          r.1.addResult x o.d.toNat (laneRegs 2 r.2) 0 [] 0 false [])
    ∧ Done (.fset o) fset
        (fun s x => overLanes (lanesOf x.act) (fun l => s.futureAt x (x.pair o.a.toNat l) .wr) = .ok fs)
        (fun s x =>
          let r := s.setFutures x (fun l => x.pair o.b.toNat l) fs
          r.1.givePred x o.d.toNat (maskOf fun l => r.2.contains l))
    ∧ Done (.fwait o) fwait (fun s x => fut s x ∧ futState w = 1)
        (fun s x => (s.give64 x o.d.toNat (s.word pa)).givePred x o.c.toNat (allLanes false))
    ∧ Done (.fwait o) fwait (fun s x => fut s x ∧ futState w = 2)
        (fun s x => (s.give64 x o.d.toNat 0).givePred x o.c.toNat (allLanes true))
    ∧ Moved (.fwait o) fwait (fun s x => fut s x ∧ futState w = 0)
        (fun s x => s.adoptOrWait x.c x.slot x.e (s.word (pa + 16)) true (.future (x.low64 o.a.toNat)))

/-- R72-R77, R234: whenever TSPN, TEND, LKAQ or LKRL issues on good operands, it completes: TSPN spawns its lanes' READY tasks
and says which entered their queue, TEND ends the running task with its value in the task's future and leaves the adoption
or frees the group, LKAQ takes a free lock, LKRL frees one. -/
def Obligations.TasksAndLocksComplete : Prop :=
  ∀ (o : SF) (ps : List (Nat × Spawn)) (h : W64) (pa : Nat) (pr : Bool) (f : Nat × Bool),
    let pair := fun (i : Instr) => { futSpec o i false true false false with srcs := [(o.a.toNat, 2)] }
    let tspn := { futSpec o (.tspn o) true true false false with
      srcs := [(o.a.toNat, 2)], fields := (futSpec o (.tspn o) true true false false).fields && decide (o.d.toNat < 8) }
    let ending := fun (s : State) (x : Iss) =>
      runningTask x.k x.g x.e = some h ∧ s.reachMem x (s.taskVa x.v h) .rd = .ok (pa, pr)
        ∧ (∃ q, s.reachMem x (s.taskVa x.v h) .wr = .ok q)
        ∧ (if s.word (pa + 16) = 0#64 then .ok (0, false) else s.reachMem x (futVa (s.word (pa + 16))) .wr : Except Trap (Nat × Bool)) = .ok f
    Done (.tspn o) tspn (fun s x => s.spawnCheck x (lanesOf x.act) (fun l => x.pair o.a.toNat l) = .ok ps)
        (fun s x => (s.spawn x ps).1.givePred x o.d.toNat (maskOf fun l => (s.spawn x ps).2.contains l))
    ∧ Moved (.tend o) (pair (.tend o)) (fun s x => ending s x ∧ (x.k.adoption x.e.frame).isSome)
        (fun s x => (s.finishTask x.c x.v h (x.low64 o.a.toNat)).leaveAdoption x.c x.slot x.e)
    ∧ Moved (.tend o) (pair (.tend o)) (fun s x => ending s x ∧ x.k.adoption x.e.frame = none)
        (fun s x => ((x.k.adoptedTasks x.g).foldl (fun s t => s.failTask x.c x.v t)
          (s.finishTask x.c x.v h (x.low64 o.a.toNat))).dropGroup x.c x.slot)
    ∧ Done (.lkaq o) (pair (.lkaq o)) (fun s x => s.lockAt x (x.low64 o.a.toNat).toNat = .ok pa ∧ s.word pa = 0#64)
        (fun s x => s.objectWrite x pa [1, (runningTask x.k x.g x.e).getD 0])
    ∧ Moved (.lkaq o) (pair (.lkaq o)) (fun s x => s.lockAt x (x.low64 o.a.toNat).toNat = .ok pa ∧ s.word pa ≠ 0#64)
        (fun s x => s.adoptOrWait x.c x.slot x.e (s.word (pa + 8)) false (.lock (x.low64 o.a.toNat)))
    ∧ Done (.lkrl o) (pair (.lkrl o)) (fun s x => s.lockAt x (x.low64 o.a.toNat).toNat = .ok pa)
        (fun s x => s.objectWrite x pa [0, 0])

namespace Sys2Proof.Statements

/-- R235, R241, R243: whenever ORES, OREL or MSEQ issues, it completes: ORES enters a record that meets no check of R241 under its
number, OREL removes a record that no operation reads, MSEQ starts a context of the core at the stream address with the phases
of the workgroup's barriers at its first issue as tokens, and waits with them while the workgroup has a context or the core
has none free. -/
def MatrixInterfaceCompletes : Prop :=
  ∀ o : SF,
    let w := fun (x : Iss) => x.k.wg x.g.wg
    let n := o.c.toNat
    let q := fun (x : Iss) => { r0 := x.low32 (o.a.toNat + 0), r1 := x.low32 (o.a.toNat + 1), r2 := x.low32 (o.a.toNat + 2)
                                r3 := x.low32 (o.a.toNat + 3) : Resv }
    let mseq : Spec :=
      { instr := .mseq o, g := o.g, inHandler := false, srcs := [(o.a.toNat, 2)]
        fields := sfZero o false true false false false && decide (o.a.toNat % 2 = 0) }
    let atFirst := fun (x : Iss) (tokens : List (BitVec 16)) =>
      x.e.wait = .sequencer tokens
        ∨ (∀ t, x.e.wait ≠ .sequencer t) ∧ tokens = (List.range 16).map fun b => ((w x).barrier b).phase
    Done (.ores o) (resSpec o (.ores o) true) (fun _ x => oresCheck x (w x) n (q x) (resSpec o (.ores o) true).word = none)
        (fun s x => s.setCore x.c (x.k.setWg x.g.wg { w x with res := KMap.put (w x).res n (q x) }))
    ∧ Done (.orel o) (resSpec o (.orel o) false)
        (fun _ x => (KMap.get? (w x).res n).isSome ∧ x.k.readsRes x.g.wg n = false)
        (fun s x => s.setCore x.c (x.k.setWg x.g.wg { w x with res := KMap.del (w x).res n }))
    ∧ (∀ (i : Nat) (tokens : List (BitVec 16)), Done (.mseq o) mseq
        (fun _ x => (x.low64 o.a.toNat).toNat % 2 = 0 ∧ (w x).ctx = none ∧ x.k.freeCtx = some i ∧ atFirst x tokens)
        (fun s x =>
          let k := x.k.setWg x.g.wg { w x with ctx := some i }
          s.setCore x.c { k with ctxs := KMap.put k.ctxs i (seqStart (w x) x.g.wg (x.low64 o.a.toNat) tokens) }))
    ∧ ∀ tokens, Waits (.mseq o) mseq
        (fun _ x => (x.low64 o.a.toNat).toNat % 2 = 0 ∧ ((w x).ctx ≠ none ∨ x.k.freeCtx = none) ∧ atFirst x tokens)
        (fun _ _ => .sequencer tokens)

/-- R228, R229: whenever a copy word issues under its conditions, it completes: COPYT hands its box to an idle channel, with the
watermark at the destination, COPY16 starts each lane's 16 bytes, CWAIT goes on once the watermark is past the offset, CWMK
returns the watermark. -/
def CopiesStart : Prop :=
  ∀ (o : SF) (ws : List W64) (pas : Nat → Nat) (prs : Nat → Bool),
    let imm := copyImm o
    let ch := bits imm 3 0
    let bst := bit imm 9
    let copyt := { instr := .copyt o, g := o.g, inHandler := false, scope := copyScope o
                   srcs := [(o.a.toNat, 1), (o.b.toNat, 4), (o.c.toNat, 3)]
                   fields := copyCtlOk o && decide (o.d = 0#8) && !bit imm 10 : Spec }
    let copy16 := { instr := .copy16 o, g := o.g, inHandler := false, scope := copyScope o, srcs := [(o.a.toNat, 2), (o.b.toNat, 1)]
                    fields := copyCtlOk o && decide (o.d = 0#8) && decide (o.c = 0#8) && decide (o.a.toNat % 2 = 0)
                      && decide (bits imm 10 4 = 0) : Spec }
    let org := fun (x : Iss) => (List.range 4).map fun j => x.low32 (o.b.toNat + j)
    let box := fun (x : Iss) =>
      (List.range 4).map fun i => (x.low32 (o.c.toNat + 1 + i / 2)).toNat / 2 ^ (16 * (i % 2)) % 65536
    let dst := fun (x : Iss) => (x.low32 o.c.toNat).toNat
    let r := lrecOf ws
    let n := fun (x : Iss) => (box x).foldl (· * ·) 1 * 2 ^ r.esize
    let w := fun (x : Iss) => x.k.wg x.g.wg
    let s0 := fun (s : State) => (s.choice 2).2
    let src := fun (x : Iss) (l : Nat) => (x.pair o.a.toNat l).toNat
    let place := fun (x : Iss) (l : Nat) => (x.lane o.b.toNat l).toNat
    DoneWith (.copyt o) copyt
        (fun s x => (s0 s).latchLrec x (decide ((s.choice 2).1 = 1)) (x.low32 o.a.toNat) copyt.word = .ok ws
          ∧ (List.range 4).any (fun j => decide (r.rank ≤ j) && (decide (1 < getAt (box x) j 0) || decide (getAt (org x) j 0 ≠ 0#32))) = false
          ∧ (box x).contains 0 = false ∧ copyDstTrap (w x) bst (dst x) (n x) r.rank (2 ^ r.esize) (box x) = none
          ∧ (x.k.chan ch).op = none)
        (fun s x s2 => SameMem s s2 ∧ ∃ op, (((s2.core x.c).chan ch).op = some op) ∧ op.lrec = ws ∧ op.org = org x ∧ op.box = box x
          ∧ op.dst = dst x ∧ op.bst = bst ∧ op.pos = 0 ∧ (bst = false → ((s2.core x.c).chan ch).wmk = dst x))
    ∧ DoneWith (.copy16 o) copy16
        (fun s x => ∀ l ∈ lanesOf x.act, src x l % 16 = 0 ∧ place x l % 16 = 0 ∧ place x l + 16 ≤ (w x).scratchLen
          ∧ s.reachMem x (src x l) .rd = .ok (pas l, prs l))
        (fun s x s2 => SameMem s s2 ∧ ∃ op ∈ (s2.core x.c).copy16s, op.bar = bits imm 3 0
          ∧ op.moves = (lanesOf x.act).map fun l => (pas l, (w x).scratchBase + place x l, prs l))
    ∧ Done (.cwait o)
        { instr := .cwait o, g := o.g, inHandler := false, srcs := [(o.a.toNat, 1)]
          fields := sfZero o false true false true false && decide (o.c.toNat < 16) }
        (fun _ x => x.k.copyPast o.c.toNat x.g.wg (x.low32 o.a.toNat).toNat = true) (fun s _ => s)
    ∧ ∀ s s1 x,
        let sp := { instr := .cwmk o, g := o.g, inHandler := false, dsts := [(o.d.toNat, 1)]
                    fields := sfZero o true false false true false && decide (o.c.toNat < 16) : Spec }
        Issues s sp s1 x → exec (.cwmk o) s = .next (s1.afterLater x sp
          [(o.d.toNat, splat (BitVec.ofNat 32 (x.k.chan o.c.toNat).wmk))])

end Sys2Proof.Statements

/-- R235, R241, R243, R228, R229: copy words start or wait, and ORES, OREL and MSEQ complete: `MatrixInterfaceCompletes` and
`CopiesStart`. -/
def Obligations.CopiesAndMatrixInterfaceComplete : Prop :=
  Sys2Proof.Statements.MatrixInterfaceCompletes ∧ Sys2Proof.Statements.CopiesStart

/-! ## System (R236, R359, R360, R369-R374, R388) -/

/-- R236, R359, R360, R372, R383, R388: whenever a system word issues, its own effect completes: TRAP and BKPT take their traps (BKPT
stops the group under BKSTOP instead), RDC of a readable register returns it, WRC and an unreadable RDC trap with PERMISSION,
RETT in a handler returns from it, PERF.RD returns a counter where FWC_HPOL permits it, PERF.MARK sends its notice, and an
unassigned opcode traps with ILLEGAL_OPCODE. -/
def Obligations.SystemInstructionsComplete : Prop :=
  ∀ o : SF,
    let n := o.ctrl.toNat
    let d := o.d.toNat
    let imm := fun (i : Instr) => { instr := i, g := o.g, fields := sfZero o false false false false true : Spec }
    let rdc := { instr := .rdc o, g := o.g, dsts := cregRegs n d
                 fields := sfZero o true false false false true && cregKnown n && (!cregWide n || decide (d % 2 = 0)) : Spec }
    let perf := { instr := .perfRd o, g := o.g, dsts := [(d, 2)]
                  fields := sfZero o true false false true true && decide (o.c = 0#8) && decide (d % 2 = 0) && decide (n < 8) : Spec }
    Traps (.trap o) (imm (.trap o)) always (fun _ x => trapPlain .swTrap (o.ctrl.setWidth 32) 0 x.act)
    ∧ Traps (.bkpt o) (imm (.bkpt o)) (fun _ x => x.k.bkstop = false)
        (fun _ x => trapPlain .breakpoint (o.ctrl.setWidth 32) 0 x.act)
    ∧ Moved (.bkpt o) (imm (.bkpt o)) (fun _ x => x.k.bkstop = true) (fun s x => s.stopGroup x.c x.slot (some (x.e.id, x.e.pc)))
    ∧ (∀ s s1 x, Issues s rdc s1 x → n < 2 → exec (.rdc o) s = .next (s1.afterLater x rdc
        [(d, splat (lo32 (BitVec.ofNat 64 (s1.creg x.v n)))), (d + 1, splat (hi32 (BitVec.ofNat 64 (s1.creg x.v n))))]))
    ∧ Traps (.rdc o) rdc (fun _ _ => 2 ≤ n) (fun _ x => trapPlain .permission (BitVec.ofNat 32 n) 0 x.act)
    ∧ Traps (.wrc o)
        { instr := .wrc o, g := o.g, srcs := cregRegs n o.a.toNat
          fields := sfZero o false true false false true && cregKnown n && (!cregWide n || decide (o.a.toNat % 2 = 0)) }
        always (fun _ x => trapPlain .permission (BitVec.ofNat 32 n) 0 x.act)
    ∧ Moved (.rett o) { instr := .rett o, g := o.g, fields := sfZero o false false false false false }
        (fun _ x => x.e.handler.isSome) (fun s x => s.returnFromTrap x.c x.slot x.e)
    ∧ (∀ s s1 x, Issues s perf s1 x → (s1.vf x.v).hpol.getLsbD 4 = true → exec (.perfRd o) s = .next (s1.afterLater x perf
        [(d, splat (lo32 (s1.perfCounter x.v n))), (d + 1, splat (hi32 (s1.perfCounter x.v n)))]))
    ∧ Done (.perfMark o) { instr := .perfMark o, g := o.g, fields := sfZero o false false false true true && decide (o.c = 1#8) }
        always (fun s x => s.raise (srcCore x.c) (markEvent x o.ctrl))
    ∧ ∀ (w : W64) s s1 x, s.issuer (wordGuard w) = some (s1, x) → x.claimed = none →
        exec (.unassignedOpcode w) s = .next (s1.afterTrap x { instr := .unassignedOpcode w, g := wordGuard w }
          (trapPlain .illegalOpcode (lo32 w) (hi32 w) x.act))

/-! ## Engine words (R246-R250, R325, R326) -/

namespace Sys2Proof.Statements

/-- Context `n` of core `c` holds `x`, and its word is the next to run. -/
def CtxTurn (s : State) (c n : Nat) (x : SeqCtx) : Prop :=
  s.turn = some (.context c n) ∧ KMap.get? (s.core c).ctxs n = some x

/-- The word takes a stack `pre`, top first, to `post`, and goes `back` words back (0: to the next word), in a context
and in the display matrix engine. -/
def StackEffect (i : Instr) (pre post : List W64) (back : Nat) : Prop :=
  post.length ≤ 8 →
    (∀ s c n x, CtxTurn s c n x → x.stack = pre →
      exec i s = .next (s.setCtx c n { x with
        stack := post, pc := if back = 0 then x.pc + 2 else x.pc - BitVec.ofNat 64 (2 * back) }).endTurn)
    ∧ ∀ s : State, s.turn = some .dme → s.sel.dme.stack = pre →
      exec i s = .next (s.setSel { s.sel with dme := { s.sel.dme with
        stack := post, pc := if back = 0 then s.sel.dme.pc + 1 else s.sel.dme.pc - back } }).endTurn

/-- R246, R250: the words that only move the stack, each with its row's stack effect modulo 2^64, in a context and in the
display matrix engine; `LOOP` goes d words back while the top item exceeds 1, and else pops it and goes on. -/
def StackWordsComplete : Prop :=
  ∀ (x y : W64) (t : List W64) (f : BitVec 10),
    (∀ v, StackEffect (.lit v) t (v.setWidth 64 :: t) 0)
    ∧ StackEffect (.engineNop 0) t t 0
    ∧ StackEffect (.ext f) (x :: t) ((x * 1024 + f.setWidth 64) :: t) 0
    ∧ StackEffect (.dup 0) (x :: t) (x :: x :: t) 0
    ∧ StackEffect (.drop 0) (x :: t) t 0
    ∧ StackEffect (.swap 0) (y :: x :: t) (x :: y :: t) 0
    ∧ StackEffect (.overWord 0) (y :: x :: t) (x :: y :: x :: t) 0
    ∧ StackEffect (.add 0) (y :: x :: t) ((x + y) :: t) 0
    ∧ StackEffect (.addi f) (x :: t) ((x + f.signExtend 64) :: t) 0
    ∧ (f ≠ 0 → 1 < x.toNat → StackEffect (.loop f) (x :: t) ((x - 1) :: t) f.toNat)
    ∧ (f ≠ 0 → x.toNat ≤ 1 → StackEffect (.loop f) (x :: t) t 0)

/-- R398, R251: a stack word that would take more than the stack holds, or leave more than eight items, stops its context
with ENGINE_STACK, the word and the depth; a word with an unused field bit set stops it with ENGINE_WORD. -/
def EngineStackFaultsStop : Prop :=
  ∀ (s : State) (c n : Nat) (x : SeqCtx) (v : BitVec 15) (f : BitVec 10), CtxTurn s c n x →
    (x.stack.length = 8 → exec (.lit v) s = .next (s.stopAt c n x Cause.engineStack.code (0#1 ++ v)).endTurn)
    ∧ (x.stack = [] → exec (.ext f) s = .next (s.stopAt c n x Cause.engineStack.code (0x8400#16 ||| f.setWidth 16)).endTurn)
    ∧ (x.stack.length < 2 → exec (.add 0) s = .next (s.stopAt c n x Cause.engineStack.code 0x9800#16).endTurn)
    ∧ (f ≠ 0 → exec (.dup f) s = .next (s.stopAt c n x Cause.engineWord.code (0x8800#16 ||| f.setWidth 16)).endTurn)

end Sys2Proof.Statements

/-- R246, R250, R398, R251: engine stack words complete, and stack faults stop the context: `StackWordsComplete` and
`EngineStackFaultsStop`. -/
def Obligations.StackWordsCompleteOrStop : Prop :=
  Sys2Proof.Statements.StackWordsComplete ∧ Sys2Proof.Statements.EngineStackFaultsStop

namespace Sys2Proof.Statements

/-- A context word has its effect: the context holds `x`, `p` holds, and the state is then `r`. -/
def CtxRuns (i : Instr) (p : State → Nat → Nat → SeqCtx → Prop) (r : State → Nat → Nat → SeqCtx → State) : Prop :=
  ∀ s c n x, CtxTurn s c n x → p s c n x → exec i s = .next (r s c n x).endTurn

/-- Reservations `ra` and `rb` fit an operation of depth `kk` from `k0` on slot `slot` in the context's shape: the checks
of R247. -/
structure MmaFits (w : Workgroup) (x : SeqCtx) (ra rb : Resv) (slot kk k0 : Nat) : Prop where
  spaces : ra.space = 0 ∧ rb.space = 1
  format : ra.fmt = rb.fmt
  extents : x.m ≤ ra.ext ∧ x.n ≤ rb.ext
  slotHeld : slot < w.acc.length
  depth : kk ≠ 0 ∧ kk % kStep ra.fmt = 0 ∧ k0 % kStep ra.fmt = 0
  lengths : k0 + kk ≤ ra.klen ∧ k0 + kk ≤ rb.klen
  tiling : ra.scaled = true → ra.tilingBroken = false ∧ rb.tilingBroken = false

/-- R246, R247, R249, R250: `SHAPE` sets the context's shape; `MMA` and `MMAZ` that pass the checks enter the launch queue
where it has room; `ARRIVE` with no operation to wait for arrives once; `WAITB` whose phase differs takes one phase; `HALT`
with no operation to wait for frees the context. -/
def ContextWordsComplete : Prop :=
  ∀ (a b m' n' : Nat) (f : BitVec 10) (ra rb : Resv) (k0 kk slot : W64) (t : List W64) (k' : Core) (s' : State),
    (m' < 3 → n' < 3 → CtxRuns (.shape (BitVec.ofNat 10 (m' + 4 * n'))) (fun _ _ _ _ => True)
      (fun s c n x => s.setCtx c n ({ x with m := 16 * 2 ^ m', n := 16 * 2 ^ n' }.past 0)))
    ∧ (a < 16 → b < 16 → ∀ zero : Bool,
        CtxRuns (if zero then .mmaz (BitVec.ofNat 10 (a + 16 * b)) else .mma (BitVec.ofNat 10 (a + 16 * b)))
          (fun s c n x =>
            let w := (s.core c).wg x.wg
            x.stack = slot :: kk :: k0 :: t ∧ KMap.get? w.res a = some ra ∧ KMap.get? w.res b = some rb
              ∧ MmaFits w x ra rb slot.toNat kk.toNat k0.toNat
              ∧ (s.core c).enqueue (.mma n x.wg x.vf a b ra rb w.scratchBase (getAt w.acc slot.toNat 0) k0.toNat kk.toNat
                  x.m x.n zero) = some k')
          (fun s c n x => s.setCore c { k' with nextId := k'.nextId + 1, ctxs := KMap.put k'.ctxs n (x.past 3) }))
    ∧ (f.toNat < 16 → CtxRuns (.arrive f)
        (fun s c n x => (s.core c).liveOps n x.wg = [] ∧ s.arriveBar c x.wg f.toNat 1 = some s')
        (fun _ c n x => s'.setCtx c n (x.past 0)))
    ∧ (f.toNat < 16 → CtxRuns (.waitb f)
        (fun s c _ x => (((s.core c).wg x.wg).barrier f.toNat).phase ≠ getAt x.tokens f.toNat 0)
        (fun s c n x => s.setCtx c n
          ({ x with tokens := setAt x.tokens f.toNat (getAt x.tokens f.toNat 0 + 1) }.past 0)))
    ∧ CtxRuns (.halt 0) (fun s c n x => (s.core c).liveOps n x.wg = [])
        (fun s c n x =>
          let k := if ((s.core c).wg? x.wg).isSome then (s.core c).setWg x.wg { (s.core c).wg x.wg with ctx := none }
            else s.core c
          s.setCore c { k with ctxs := KMap.del k.ctxs n })

/-- The scope code of a drain word, and the word's field. -/
def drainField (scope : Nat) (scr : Bool) (cvt : Nat) : BitVec 10 := BitVec.ofNat 10 (scope * 128 + (if scr then 4 else 0) + cvt)

/-- The checks of R248 on a drain of `e`-byte elements with these stack items: the slot is the workgroup's, the pitch takes
a row, scope and conversion are ones a drain may name, and address and pitch are multiples of e. -/
structure DrainFits (s : State) (w : Workgroup) (x : SeqCtx) (scope cvt e : Nat) (scr : Bool) (slot : Nat)
    (addr pitch : W64) : Prop where
  slotHeld : slot < w.acc.length
  row : x.n * e ≤ pitch.toNat
  conversion : cvt < 3
  scopeNamed : 1 ≤ scope ∧ scope ≤ 6
  scopePermitted : s.scopeDenied x.vf scope = false
  aligned : addr.toNat % e = 0 ∧ pitch.toNat % e = 0
  inScratch : scr = true → addr.toNat + (x.m - 1) * pitch.toNat + x.n * e ≤ w.scratchLen

end Sys2Proof.Statements

/-- R248, R253: a drain that passes its checks, every page of memory that it writes being translated with write
permission, enters the launch queue where it has room; `DRAINADDO` takes a sequence item as well. -/
def Obligations.DrainWordsComplete : Prop :=
  ∀ (scope cvt : Nat) (scr : Bool) (slot q pitch addr : W64) (t : List W64) (s' : State) (k' : Core),
    let op := fun (s' : State) (c n : Nat) (x : SeqCtx) (kind cv : Nat) (scr : Bool) (q : W64) (f : BitVec 10) (opc : Nat) =>
      let w := (s'.core c).wg x.wg
      MatOp.drain n x.wg x.vf (s'.core c).nextId kind scr cv addr pitch q w.scratchBase (getAt w.acc slot.toNat 0) x.m x.n
        none x.pc (engineInfo (BitVec.ofNat 16 (32768 + opc * 1024 + f.toNat)) x.stack.length)
    let done := fun (_ : State) (c n : Nat) (x : SeqCtx) (pops : Nat) =>
      s'.setCore c { k' with nextId := k'.nextId + 1, ctxs := KMap.put k'.ctxs n (x.past pops) }
    let e := if cvt = 0 then 4 else 2
    CtxRuns (.drain (drainField scope scr cvt))
        (fun s c n x => x.stack = slot :: pitch :: addr :: t
          ∧ DrainFits s ((s.core c).wg x.wg) x scope cvt e scr slot.toNat addr pitch
          ∧ (if scr then s' = s else State.drainPages (c / 48) x.vf s (drainTouches addr pitch x.m x.n e) = (s', none))
          ∧ (s'.core c).wg x.wg = (s.core c).wg x.wg
          ∧ (s'.core c).enqueue (op s' c n x 0 cvt scr 0 (drainField scope scr cvt) 11) = some k')
        (fun s c n x => done s c n x 3)
    ∧ CtxRuns (.drainadd (drainField scope false 0))
        (fun s c n x => x.stack = slot :: pitch :: addr :: t
          ∧ DrainFits s ((s.core c).wg x.wg) x scope 0 4 false slot.toNat addr pitch
          ∧ State.drainPages (c / 48) x.vf s (drainTouches addr pitch x.m x.n 4) = (s', none)
          ∧ (s'.core c).wg x.wg = (s.core c).wg x.wg
          ∧ (s'.core c).enqueue (op s' c n x 1 0 false 0 (drainField scope false 0) 12) = some k')
        (fun s c n x => done s c n x 3)
    ∧ CtxRuns (.drainaddo (drainField scope false 0))
        (fun s c n x => x.stack = slot :: q :: pitch :: addr :: t ∧ seqItemOk q = true
          ∧ DrainFits s ((s.core c).wg x.wg) x scope 0 4 false slot.toNat addr pitch
          ∧ State.drainPages (c / 48) x.vf s (drainTouches addr pitch x.m x.n 4) = (s', none)
          ∧ (s'.core c).wg x.wg = (s.core c).wg x.wg
          ∧ (s'.core c).enqueue (op s' c n x 2 0 false q (drainField scope false 0) 13) = some k')
        (fun s c n x => done s c n x 4)

/-- R325, R326: the words of the display matrix engine. `SHAPE` changes nothing but the PC; a matrix word whose operands lie
inside accumulator and weight memory, `DOUT` and `DWT` take their items and keep the engine busy from the clock of issue;
`DLINE` waits for its line core, and where its launch is over it halts; `HALT` halts. -/
def Obligations.DmeWordsComplete : Prop :=
  ∀ (s : State), s.turn = some .dme →
    let d := s.sel.dme
    let now := s.clk.selham
    let past := fun (pops : Nat) (b : DmeBusy) =>
      { s with sel := { s.sel with dme := { d with stack := d.stack.drop pops, pc := d.pc + 1, busy := b } } }
    let halted := { s with sel := { s.sel with dme := { d with halted := true, busy := .idle } } }
    let at_ := fun (c q : Nat) => ({ unit := 6, addr := BitVec.ofNat 64 (s.load.dmePc + 2 * d.pc)
                                     info := BitVec.ofNat 64 (q + (s.lcr c).line % 65536 * 65536) } : SelAt)
    (∀ m' n', m' < 3 → n' < 3 → d.stack.length ≤ 8 →
      exec (.shape (BitVec.ofNat 10 (m' + 4 * n'))) s
        = .next (s.setSel { s.sel with dme := { d with pc := d.pc + 1 } }).endTurn)
    ∧ (∀ (fmt c : Nat) (w kk a : W64) (t : List W64) (zero : Bool), fmt < 2 → c < 16 → d.stack = w :: kk :: a :: t →
        kk.toNat ≠ 0 → kk.toNat % (if fmt = 0 then 32 else 64) = 0 → a.toNat + 64 ≤ 8192 →
        w.toNat * 64 + 32 * kk.toNat * (if fmt = 0 then 2 else 1) ≤ 2 ^ 20 →
        exec (if zero then .dmmaz (BitVec.ofNat 10 (fmt + 2 * c)) else .dmma (BitVec.ofNat 10 (fmt + 2 * c))) s
          = .next (past 3 (.mma zero fmt c a.toNat kk.toNat w.toNat now none [] (if zero then List.replicate 64 0 else [])
              false (at_ c 7))).endTurn)
    ∧ (∀ (cvt c q : Nat) (a : W64) (t : List W64), cvt < 2 → c < 16 → q < 8 → d.stack = a :: t →
        exec (.dout (BitVec.ofNat 10 (cvt + 2 * c + 32 * q))) s
          = .next (past 1 (.out cvt c q a.toNat now [] false (at_ c q))).endTurn)
    ∧ (∀ (k : W64) (t : List W64), d.stack = k :: t →
        exec (.dwt 0) s = .next (past 1 (.waitClk (now + 1 + k.toNat))).endTurn)
    ∧ (∀ c, c < 16 → exec (.dline (BitVec.ofNat 10 c)) s
        = .next (if s.sel.stopping then halted else past 0 (.waitLine c)).endTurn)
    ∧ exec (.halt 0) s = .next halted.endTurn

namespace Sys2Proof.Statements

/-- R398, R251: a word whose OP no row assigns stops its context with ENGINE_WORD, at its address, with the word and the
stack's depth. -/
def UnassignedEngineWordStops : Prop :=
  ∀ (s : State) (c n : Nat) (x : SeqCtx) (w : BitVec 16), CtxTurn s c n x →
    exec (.unassignedEngineWord w) s
      = .next (s.stopContext c n Cause.engineWord.code x.pc (BitVec.ofNat 64 (w.toNat + x.stack.length % 16 * 65536))).endTurn

end Sys2Proof.Statements

/-- R246, R247, R249, R250, R398, R251: context words complete, and an unassigned word stops the context:
`ContextWordsComplete` and `UnassignedEngineWordStops`. -/
def Obligations.ContextWordsCompleteOrStop : Prop :=
  Sys2Proof.Statements.ContextWordsComplete ∧ Sys2Proof.Statements.UnassignedEngineWordStops

/-! ## Steps that a core takes by itself -/

namespace Sys2Proof.Statements

/-- The entry in a place of an active set stalls, with the results `reads` to the registers that its word reads, and the load `o`
among them, not yet counted as long, has been outstanding for more than SWAPTHR clocks. -/
def StallsTooLong (s : State) (c q : Nat) (e : Entry) (outs reads : List Nat) (o : Out) : Prop :=
  e.wait = .busyReg outs reads ∧ o ∈ (s.core c).outs ∧ o.id ∈ reads ∧ o.load = true ∧ o.long = false
    ∧ bits ((s.core c).quarter q).sched.toNat 7 0 < s.clk.compute - o.since

/-- R49, R50: an entry in a place that runs no handler leaves it after 2,048 clocks for the ready pending entry that the swap
rule picks among tenants with weight; a stall on a load of more than SWAPTHR clocks becomes a long-latency dependence,
and the entry meets it. -/
def SwapStepsComplete : Prop :=
  ∀ (s : State) (c q p : Nat) (pl : Place) (g : Group) (e : Entry), s.placed c q p = some (pl, g, e) →
    (∀ t, e.handler = none → pl.since + 2048 ≤ s.clk.compute →
      s.swapPlace c q p false (fun g => decide ((s.vf g.vf).weight ≠ 0)) = some t →
      exec (.timeSliceSwap c q p) s = .next t)
    ∧ ∀ outs reads o, StallsTooLong s c q e outs reads o →
      exec (.swapthrExpiry c q p) s
        = .next ((s.setCore c { s.core c with
            outs := (s.core c).outs.map fun x =>
              if (s.lateOuts c q p).contains x.id then { x with long := true } else x }).meetWait c pl.slot e.id false)

end Sys2Proof.Statements

/-- R55, R56, R150, R413, R415: a result whose requests have all been answered, whose atomics are done and behind which no older
result of one of its registers is still on its way lands: older results of its registers are in place first (`k1`), and it
leaves the outstanding results. Each of its destination registers, in a frame of the register part or a trap frame, takes the
arrived lanes and keeps the others, and every other register of the core is as it was. -/
def Obligations.LoadCompletionCompletes : Prop :=
  ∀ (s : State) (c id : Nat) (o : Out), (s.core c).outs.find? (fun o => decide (o.id = id)) = some o → o.reqs = 0 →
    (∀ a ∈ (s.core c).atoms, a.out ≠ o.id) →
    let older := fun (p : Pend) => o.dests.any fun d => decide (p.tgt = .reg d.loc)
    (∀ g, (s.core c).group? o.slot = some g → ∀ p ∈ g.pend, older p = true → p.ready ≤ s.clk.compute) →
    let k1 := (s.core c).settle o.slot older
    ∃ k, exec (.loadComplete c id) s = .next (s.setCore c k)
      ∧ k.outs = (s.core c).outs.filter (fun x => decide (x.id ≠ id))
      ∧ ((o.dests.map OutDest.loc).Nodup → (∀ d ∈ o.dests, k1.holds d.loc) →
          (∀ d ∈ o.dests, k.readLoc d.loc = mergeReg d.mask (k1.readLoc d.loc) d.val)
          ∧ ∀ l, l ∉ o.dests.map OutDest.loc → k.readLoc l = k1.readLoc l)

namespace Sys2Proof.Statements

/-- R63-R67: the oldest request of a core is served: a refill takes place where its frames fit, also for an entry of a group
that has been spilled while it waited, an entry that waits for a frame issues again where the frame fits, and once SPILLWAIT
clocks have passed without a freed frame the extension engine spills for it, for a refill where there is a group to spill (DESIGN
CHOICE, log 15: a spill and a refill are one step each); a spilled group with a ready entry gets its
frames at once where no request is older, and else asks. -/
def FrameStepsComplete : Prop :=
  ∀ (s : State) (c slot : Nat) (a : AllocReq) (rest : List AllocReq),
    let k := s.core c
    ((s.core c).allocs = a :: rest →
      (∀ ps, a.ent = none → k.refillPlace a.slot = some ps →
        exec (.frameAllocation c) s = .next (s.refill c a.slot ps))
      ∧ (∀ id g e ps, a.ent = some id → k.group? a.slot = some g → g.entry? id = some e → g.spilled = true →
          k.refillPlace a.slot = some ps → exec (.frameAllocation c) s = .next (s.refill c a.slot ps))
      ∧ (∀ id g e, a.ent = some id → k.group? a.slot = some g → g.entry? id = some e → e.wait = .alloc → g.spilled = false →
          (k.place (s.allocSizes g.vf e a.size)).isSome = true →
          exec (.frameAllocation c) s = .next (s.setCore c (k.setEntry a.slot { e with wait := .none, waitFrom := s.clk.compute })))
      ∧ (s.allocFits c a = false → max a.since k.lastFree + max 1 (k.eseCtl.toNat % 65536) ≤ s.clk.compute →
          (k.refills a = false ∨ s.spillable c a.slot ≠ []) → exec (.eseSpill c) s = .next (s.spillFor c a)))
    ∧ (s.wantsRefill c slot = true → k.allocs = [] → ∀ ps, k.refillPlace slot = some ps →
        exec (.eseRefill c slot) s = .next (s.refill c slot ps))
    ∧ (s.wantsRefill c slot = true → k.allocs.any (fun a => decide (a.slot = slot) && decide (a.ent = none)) = false →
        (k.allocs ≠ [] ∨ k.refillPlace slot = none) →
        exec (.eseRefill c slot) s = .next (s.setCore c { k with
          allocs := k.allocs ++ [{ slot := slot, ent := none, since := s.clk.compute, size := 0 }] }))

end Sys2Proof.Statements

/-- R49, R50, R63, R64, R65, R66, R67: swaps, frame allocation, spills and refills take place: `SwapStepsComplete` and
`FrameStepsComplete`. -/
def Obligations.SwapAndFrameStepsComplete : Prop :=
  Sys2Proof.Statements.SwapStepsComplete ∧ Sys2Proof.Statements.FrameStepsComplete

namespace Sys2Proof.Statements

/-- R81, R342, R343, R347: a core for which nothing is chosen and that has a candidate gets one chosen; the fresh or saved
workgroup that was chosen for it is bound there, where the core has room for it still, and is a candidate again where not. -/
def BindingCompletes : Prop :=
  ∀ (s : State) (c l w key : Nat) (a : Cand) (p : Plan),
    (KMap.get? s.dist.chosen c = none → (s.select c).2 = some a →
      exec (.workgroupBind c) s = .next ((s.select c).1.choose c a))
    ∧ (KMap.get? s.dist.chosen c = some (.fresh l w) →
        ((s.launch l).live = true → s.freshPlan c l w = some p →
          exec (.workgroupBind c) s = .next ((s.unchoose c).bindFresh c l w p))
        ∧ ((s.launch l).live = false ∨ s.freshPlan c l w = none → exec (.workgroupBind c) s = .next (s.giveUp c)))
    ∧ (KMap.get? s.dist.chosen c = some (.saved l key) →
        ((s.launch l).live = true → s.savedPlan c l key = some p →
          exec (.workgroupBind c) s = .next ((s.unchoose c).bindSaved c l key p))
        ∧ ((s.launch l).live = false ∨ s.savedPlan c l key = none → exec (.workgroupBind c) s = .next (s.giveUp c)))

/-- R71, R72, R342, R453, R454: the head entry of a task queue, whose highest ring that is not empty gives it: an entry whose
record is stale is dropped, one of another virtual function or outside the table with a notice, one that cannot be read with
an access event. The task that the distributor chose for the core is taken off its ring and started: the swap on its control
word won, a READY task's group gets its frame there. A choice that is the head no more, or has no room any more, is given up.
-/
def TaskStartCompletes : Prop :=
  ∀ (s : State) (c v q : Nat) (tq : TaskQueue) (p head tail : Nat) (h : W64),
    (s.vf v).valid = true → q < 16 → q < (s.vf v).tqCnt → (s.taskHead (c / 48) v q).2 = some (tq, p, h, head, tail) →
    let r := (s.taskHead (c / 48) v q).1.startCheck (c / 48) v h
    let drop := fun (t : State) => t.dequeue (c / 48) v q tq p h head tail
    let chosen := (KMap.get? s.dist.chosen c = some (.task q h) ∧ s.coreVf c = some v : Prop)
    (r.2 = .stale → exec (.taskStart c v q) s = .next (drop r.1))
    ∧ (∀ code, r.2 = .notice code → exec (.taskStart c v q) s = .next ((drop r.1).raise (srcFw (s.taskHead (c / 48) v q).1.activeFw)
        { Event.blank with code := code, cls := 4, block := 11, die := 4, vf := v, task := h }))
    ∧ (∀ code, r.2 = .unread code → exec (.taskStart c v q) s
        = .next ((drop r.1).raise (srcFw (s.taskHead (c / 48) v q).1.activeFw) (distEvent v code (r.1.taskVa v h) h)))
    ∧ (∀ ws pl l, r.2 = .ok ws → chosen → r.1.taskPlan c v ws (r.1.parkOf v h ws) = some pl → r.1.taskLaunch v = some l →
        exec (.taskStart c v q) s = .next ((drop (r.1.unchoose c)).startTask c v l h ws pl))
    ∧ (∀ ws, r.2 = .ok ws → chosen → r.1.taskPlan c v ws (r.1.parkOf v h ws) = none →
        exec (.taskStart c v q) s = .next (r.1.giveUp c))
    ∧ ∀ (t : State) (l : Nat) (ws : List W64) (pl : Plan),
        let won := t.swapCtl c v h (ctlRun (getAt ws 1 0).toNat c (getAt pl.slots 0 0) false)
        (won.2 = true → ctlState (getAt ws 1 0).toNat ≠ 2 → t.startTask c v l h ws pl = won.1.bindTask c v l h ws none pl)
        ∧ (won.2 = false → t.startTask c v l h ws pl = won.1)

/-- R72, R344: a READY task that found its ring full goes to the head of the ring once it has room; one that is no longer
READY, or whose record cannot be read, needs no entry. -/
def TaskRequeueCompletes : Prop :=
  ∀ (s : State) (v i : Nat), (v, BitVec.ofNat 64 i) ∈ s.dist.requeue →
    let h := BitVec.ofNat 64 i
    let r := s.ownerRec 0 v h
    let gone := fun (t : State) => { t with dist := { t.dist with requeue := t.dist.requeue.erase (v, h) } }
    (r.2 = none → exec (.taskRequeue v i) s = .next (gone r.1))
    ∧ ∀ ws, r.2 = some ws →
        let ctl := (getAt ws 1 0).toNat
        let put := r.1.enqueue (srcFw r.1.activeFw) 4 v (ctlQueue ctl) (ctlPrio ctl) h true
        (ctlState ctl ≠ 2 ∨ ctlReady ctl = false → exec (.taskRequeue v i) s = .next (gone r.1))
        ∧ (ctlState ctl = 2 → ctlReady ctl = true → put.2 = true → exec (.taskRequeue v i) s = .next (gone put.1))

/-- R228, R229: a copy that can read every element left is over: its range is cleared, its record released and its arrival
made; the lanes of a `COPY16` have moved their 16 bytes each, and its barrier has one arrival. -/
def CopyCompletionsComplete : Prop :=
  ∀ (s : State) (c ch : Nat) (op op' : CopyOp),
    (((s.core c).chan ch).op = some op →
      (((State.copySome (op.total - op.pos) s c ch).core c).chan ch).op = some op' → op'.pos = op'.total →
      exec (.copyComplete c ch) s = .next ((State.copySome (op.total - op.pos) s c ch).copyOver c ch))
    ∧ ∀ (o : Copy16), (s.core c).copy16s.find? (fun x => decide (x.id = o.id)) = some o →
        let v := o.vf
        let s1 := o.moves.foldl (fun t m => t.move16 c m.1 m.2.1)
          (s.sendReqs c v .load none ((o.moves.map fun m => (lineOf m.1, m.2.2)).eraseDups))
        let k := s1.core c
        exec (.copy16Complete c o.id) s = .next
          ((s1.setCore c { k with copy16s := k.copy16s.filter fun x => decide (x.id ≠ o.id) }).copyArrive c v o.wg o.bar)

/-- R409: a copy at an element of a page that cannot be read goes on where firmware resolves the page; else it ends, with one
class 1 event of the cause at that address, its range cleared and its arrival made. -/
def CopyFaultCompletes : Prop :=
  ∀ (s s1 : State) (c ch va : Nat) (op : CopyOp), ((s.core c).chan ch).op = some op → op.source op.pos = some va →
    s.copyData c op op.pos = none →
    (∀ pa, s.agentAddr (c / 48) op.vf va .rd = (s1, .ok pa) → exec (.engineOpEnded c ch) s = .next s1)
    ∧ ∀ code, s.agentAddr (c / 48) op.vf va .rd = (s1, .error code) →
        exec (.engineOpEnded c ch) s = .next ((s1.raise (srcCore c)
          { Event.blank with
            code := code, cls := 1, block := 6, die := c / 48, unit := c % 48, vf := op.vf, addrVa := true
            addr := BitVec.ofNat 64 va }).copyOver c ch)

/-- R237: one of the operations of a core that may end next, which one being open, leaves the core; a matrix operation has its
effect on the accumulators, a drain that waits for no slice its writes, and a stopped context whose last operation it was ends. -/
def MatrixOperationsComplete : Prop :=
  ∀ (s : State) (c : Nat) (o : MatOp),
    let s1 := s.setCore c (Core.shiftDrains 16 (s.core c))
    let ops := (s1.core c).readyOps
    ops[Config.choose s.choices % ops.length]? = some o →
      exec (.matrixOpComplete c) s = .next ({ s1 with choices := s.choices + 1 }.completeOp c o)

end Sys2Proof.Statements

/-- R228, R229, R409, R237: copies and matrix operations end, or end in a fault: `CopyCompletionsComplete`,
`CopyFaultCompletes` and `MatrixOperationsComplete`. Model's choice: which operation ends next is a free choice (log 3). -/
def Obligations.EngineOperationsComplete : Prop :=
  Sys2Proof.Statements.CopyCompletionsComplete ∧ Sys2Proof.Statements.CopyFaultCompletes ∧
    Sys2Proof.Statements.MatrixOperationsComplete

namespace Sys2Proof.Statements

/-- R347, R419, R438: a workgroup that is being saved and whose outstanding work is over is written to one spill record of the
core: its groups leave the core, and the launch holds one more saved workgroup, on this core. Where the record finds no
room, the workgroup stays and is drained instead; a group with a header cell in error ends as by a fatal trap. -/
def WorkgroupSaveCompletes : Prop :=
  ∀ (s : State) (c n : Nat) (w : Workgroup), (s.core c).wg? n = some w → w.saving = true → (s.core c).quiet n = true →
    let k := s.core c
    let frames := fun (slots : List Nat) =>
      (k.frames.filter fun f => slots.contains f.2.slot) ++ slots.flatMap fun m => k.spilledFrames m
    let bad := w.slots.filter fun m => (frames [m]).any fun f => f.2.hdr.any fun h => h.bad
    let r := s.writeSpill c w.vf (s.launch w.launch).hdr 0 (frames w.slots) (saveExtra (k.saveOf w)) (.saved (k.saveOf w))
    (bad ≠ [] → exec (.workgroupSave c n) s
      = .next (bad.foldl (fun s m => s.fatalGroup c m none .dataUncorrectable 0 0) s))
    ∧ (bad = [] → r.2 = none → exec (.workgroupSave c n) s
        = .next (r.1.setCore c ((r.1.core c).setWg n { (r.1.core c).wg n with saving := false, draining := true })))
    ∧ (bad = [] → r.2.isSome = true → ∃ u : State, exec (.workgroupSave c n) s = .next (u.dropWg c n)
        ∧ u.mem = r.1.mem
        ∧ u.launch w.launch = { r.1.launch w.launch with
            saved := (r.1.launch w.launch).saved ++ [(c, (r.1.core c).nextSpill - 1)], saves := (r.1.launch w.launch).saves + 1 })

end Sys2Proof.Statements

/-- R81, R342, R343, R347, R71, R72, R453, R454, R344, R419, R438: workgroups and tasks are bound, requeued and saved:
`BindingCompletes`, `TaskStartCompletes`, `TaskRequeueCompletes` and `WorkgroupSaveCompletes`. Model's choices: selection and
binding are two steps, and a selected task that heads its ring no more is given up (log 33). -/
def Obligations.BindingStepsComplete : Prop :=
  Sys2Proof.Statements.BindingCompletes ∧ Sys2Proof.Statements.TaskStartCompletes ∧
    Sys2Proof.Statements.TaskRequeueCompletes ∧ Sys2Proof.Statements.WorkgroupSaveCompletes

/-! ## Selham's cluster and engine words (R283-R289, R310-R324) -/

namespace Sys2Proof.Statements

/-- A cluster whose turn it is issues the word and passes every check, with guard value 1: a P mark meets no data, a
unit of its kind is free, its line-store bank is no engine bank of the clock and no other cluster's, a word that stands
alone names no stream, and its queues are bound to it. `s1` is the state after its pops and `x` the word with its sources. -/
structure CluIssues (i : Instr) (o : CW) (u : XUnit) (uses : XUses) (drive : Bool) (bank : Option Nat) (s s1 : State)
    (x : XIss) : Prop where
  turn : s.turn = some (.cluster x.l x.c)
  clock : x.t = s.clk.selham
  mark : (o.s && o.p && (s.lcr x.l).holdsData) = false
  unit :
    let k := ((s.lcr x.l).cluster x.c).settle s.clk.selham
    ({ k with pc := k.pc + 1 } : Cluster).take u s.clk.selham = some x.k
  at_ : x.at_ = { unit := x.c
                  addr := BitVec.ofNat 64 (s.load.compPc x.l + 8 * (((s.lcr x.l).cluster x.c).settle s.clk.selham).pc)
                  info := cluWord i }
  bank : ∀ b, bank = some b → b ≠ s.clk.selham % 16 ∧ (s.lcr x.l).banks.contains b = false
  apart : o.s = false → namesStream o uses drive = false
  bound : unbound s.load x.l x.c o uses = false
  guard : x.k.guard o = true
  sources : (s.setLcr x.l ((s.lcr x.l).setCluster x.c x.k)).xReads x.l x.c x.k o uses x.at_ = (s1, x.a, x.b, x.cv)

/-- Whenever the word issues with guard value 1, it completes with its effect `f`, its PC past it. -/
def CluRuns (i : Instr) (o : CW) (u : XUnit) (uses : XUses) (drive : Bool) (bank : Option Nat) (f : XIss → State → State) :
    Prop :=
  ∀ s s1 x, CluIssues i o u uses drive bank s s1 x → exec i s = .next (f x s1).endTurn

/-- The same for a data word of latency `lat`: lane l of field D gets `f` of the lanes of A, B and C. -/
def CluLanes (i : Instr) (o : CW) (u : XUnit) (lat : Nat) (b c : Bool) (f : W32 → W32 → W32 → W32) : Prop :=
  CluRuns i o u { a := true, b := b, c := c, d := true } false none
    (fun x s => s.xPut x o.d.toNat lat (mkX fun l => f (xlane x.a l) (xlane x.b l) (xlane x.cv l)))

/-- R310, R311, R315: the ALU data words give their result per lane, 2 clocks after the issue: sums, differences and logic
modulo 2^32, shifts by B[4:0], the smaller and larger as the word's FN reads its operands, comparisons as all ones or 0,
selection by C, and A itself. -/
def ClusterIntegerWordsComplete : Prop :=
  ∀ o : CW,
    let less := fun (n : Bool) (a b : W32) => if n then decide (a.toNat < b.toNat) else decide (a.toInt < b.toInt)
    let word := fun (i : Instr) (f : W32 → W32 → W32) => CluLanes i o .alu 2 true false (fun a b _ => f a b)
    word (.cluIadd o) (fun a b => a + b)
    ∧ word (.cluIsub o) (fun a b => a - b)
    ∧ word (.cluAnd o) (fun a b => a &&& b)
    ∧ word (.cluOr o) (fun a b => a ||| b)
    ∧ word (.cluXor o) (fun a b => a ^^^ b)
    ∧ word (.cluShl o) (fun a b => BitVec.ofNat 32 (a.toNat * 2 ^ (b.toNat % 32)))
    ∧ word (.cluShr o) (fun a b => BitVec.ofNat 32 (a.toNat / 2 ^ (b.toNat % 32)))
    ∧ word (.cluSar o) (fun a b => BitVec.ofInt 32 (a.toInt / 2 ^ (b.toNat % 32)))
    ∧ word (.cluImin o) (fun a b => if less (o.fn.getLsbD 0) b a then b else a)
    ∧ word (.cluImax o) (fun a b => if less (o.fn.getLsbD 0) a b then b else a)
    ∧ (∀ cc, o.fn.toNat % 8 = cc → cc < 6 →
        word (.cluIcmp o) (fun a b =>
          let n := o.fn.getLsbD 3
          if getAt [decide (a = b), decide (a ≠ b), less n a b, !less n b a, less n b a, !less n a b] cc false then 0xFFFFFFFF
          else 0))
    ∧ CluLanes (.cluXsel o) o .alu 2 true true (fun a b c => if c ≠ 0 then a else b)
    ∧ CluRuns (.cluMov o) o .alu { a := true, b := false, c := false, d := true } false none
        (fun x s => s.xPut x o.d.toNat 2 x.a)

/-- R122, R316: the FMA words give their result per lane, 4 clocks after the issue, in F32 under RNE; `UNPACKB` widens a BF16, a NaN
becoming quiet. -/
def ClusterFloatWordsComplete : Prop :=
  ∀ o : CW,
    let word := fun (i : Instr) (b c : Bool) (f : Nat → Nat → Nat → Nat) =>
      CluLanes i o .fma 4 b c (fun x y z => BitVec.ofNat 32 (f x.toNat y.toNat z.toNat))
    word (.cluFadd o) true false (fun a b _ => (fAdd f32 .rn a b).bits)
    ∧ word (.cluFmul o) true false (fun a b _ => (fMul f32 .rn a b).bits)
    ∧ word (.cluFfma o) true true (fun a b c => (fFma f32 .rn a b c).bits)
    ∧ word (.cluFmin o) true false (fun a b _ => (fMinMax f32 false a b).bits)
    ∧ word (.cluFmax o) true false (fun a b _ => (fMinMax f32 true a b).bits)
    ∧ word (.cluFcmp o) true false (fun a b _ => if (fCompare f32 o.fn.toNat a b).1 then 0xFFFFFFFF else 0)
    ∧ (o.fn = 0 → word (.cluFcvt o) false false (fun a _ _ => (fToInt f32 .rn true 32 a).bits))
    ∧ (o.fn = 1 → word (.cluFcvt o) false false (fun a _ _ => (intToF f32 .rn (BitVec.ofNat 32 a).toInt).bits))
    ∧ (o.fn = 2 → word (.cluFcvt o) true false (fun a b _ =>
        (fConv f32 bf16 .rn a).bits % 65536 + (fConv f32 bf16 .rn b).bits % 65536 * 65536))
    ∧ (o.fn = 3 → word (.cluFcvt o) false false (fun a _ _ => (fConv bf16 f32 .rn (a % 65536)).bits))

end Sys2Proof.Statements

/-- R310, R311, R315, R122, R316: cluster ALU and FMA words give R315's and R316's results per lane:
`ClusterIntegerWordsComplete` and `ClusterFloatWordsComplete`. -/
def Obligations.ClusterArithmeticWordsComplete : Prop :=
  Sys2Proof.Statements.ClusterIntegerWordsComplete ∧ Sys2Proof.Statements.ClusterFloatWordsComplete

/-- R317, R318: the words of the interpolation and shuffle unit: `SHUF` takes the lane that B names, `LERP` and `PACK` work
per lane, `WARP` samples the window of x(B) and x(B + 1), `POSE` gives every lane a field of the line's pose record, and
`SDRV` drives its stream with A. -/
def Obligations.ClusterIsuWordsComplete : Prop :=
  ∀ o : CW,
    let u := fun (a b c d : Bool) => ({ a := a, b := b, c := c, d := d } : XUses)
    CluRuns (.cluShuf o) o .isu (u true true false true) false none
      (fun x s => s.xPut x o.d.toNat 4 (mkX fun l => xlane x.a ((xlane x.b l).toNat % 16)))
    ∧ CluLanes (.cluLerp o) o .isu 4 true true
        (fun a b c => BitVec.ofNat 32 (cluLerp a.toNat b.toNat c.toNat))
    ∧ CluLanes (.cluPack o) o .isu 4 true true
        (fun a b c => BitVec.ofNat 32 (packChan 8 a.toNat + packChan 8 b.toNat * 2 ^ 8 + packChan 8 c.toNat * 2 ^ 16 + 255 * 2 ^ 24))
    ∧ CluRuns (.cluWarp o) o .isu (u true true false true) false none
        (fun x s => s.xPut x o.d.toNat 4 (mkX fun l =>
          let w := warpWindow x.b (x.k.readX (o.b.toNat + 1))
          let p := warpPos (xlane x.a l).toNat
          BitVec.ofNat 32 (warpMix (w (p / 256)) (w (min (p / 256 + 1) 31)) (p % 256))))
    ∧ CluRuns (.cluPose o) o .isu (u false false false true) false none
        (fun x s => s.xPut x o.d.toNat 4 (splatX (poseField
          (KMap.getD (s.selHead (s.load.headOf x.l)).show_.gov (s.lcr x.l).gline poseZero) (o.imm.toNat % 16))))
    ∧ CluRuns (.cluSdrv o) o .isu (u true false false false) true none
        (fun x s => s.setLcr x.l { s.lcr x.l with drives := (s.lcr x.l).drives ++ [(o.d.toNat % 8, x.c, x.a)] })

namespace Sys2Proof.Statements

/-- R289, R322: the control words: `NOP` does nothing, `BR` and a `LOOPR` that turns go to the word's address plus the
offset, `SETLC` opens a loop, `ENDL` ends the cluster's line; `GSET` and `GLUT` write a predicate 2 clocks after. -/
def ClusterControlWordsComplete : Prop :=
  ∀ o : CW,
    let none_ : XUses := { a := false, b := false, c := false, d := false }
    let target := fun (k : Cluster) => ((k.pc : Int) - 1 + o.imm.toInt).toNat
    let putG := fun (x : XIss) (s : State) (b : Bool) => s.setClu x { x.k with
      pend := x.k.pend ++ [{ vis := x.t + 1, tgt := .g (x.k.physG (o.d.toNat % 16)), val := if b then 1 else 0 }] }
    CluRuns (.cluNop o) o .none none_ false none (fun _ s => s)
    ∧ CluRuns (.cluBr o) o .alu none_ false none (fun x s => s.setClu x { x.k with pc := target x.k })
    ∧ CluRuns (.cluLoopr o) o .alu none_ false none (fun x s => s.setClu x
        (if 0 < x.k.lc then { ({ x.k with lc := x.k.lc - 1 } : Cluster).turn true with pc := target x.k }
          else if 0 < x.k.ec then { ({ x.k with ec := x.k.ec - 1 } : Cluster).turn false with pc := target x.k }
          else x.k))
    ∧ CluRuns (.cluSetlc o) o .alu none_ false none (fun x s => s.setClu x (x.k.setLc o.imm.toNat o.fn.toNat))
    ∧ CluRuns (.cluEndl o) o .alu none_ false none (fun x s => s.setClu x { x.k with ended := true })
    ∧ CluRuns (.cluGset o) o .alu { none_ with a := true } false none (fun x s => putG x s (decide (x.a ≠ 0)))
    ∧ CluRuns (.cluGlut o) o .alu none_ false none (fun x s =>
        let g := fun (f : BitVec 7) (n : Nat) => if x.k.readG (f.toNat % 16) then n else 0
        putG x s (o.imm.getLsbD (g o.a 4 + g o.b 2 + g o.c 1)))

/-- R289: a turn moves the rotation base down by one and writes the predicate then named g8, so a value written to xN or gN
is read one name further on. -/
def RotationTurns : Prop :=
  ∀ (k : Cluster) (b : Bool), k.rbase < 32 →
    let t := k.turn b
    t.readG 8 = b
    ∧ (∀ n, 32 ≤ n → n < 63 → t.readX (n + 1) = k.readX n) ∧ t.readX 32 = k.readX 63
    ∧ (∀ n, 8 ≤ n → n < 15 → t.readG (n + 1) = k.readG n)
    ∧ (∀ n, n < 32 → t.readX n = k.readX n) ∧ ∀ n, n < 8 → t.readG n = k.readG n

end Sys2Proof.Statements

/-- R289, R322: cluster control words complete, and rotation renames registers: `ClusterControlWordsComplete` and
`RotationTurns`. -/
def Obligations.ClusterControlWordsComplete : Prop :=
  Sys2Proof.Statements.ClusterControlWordsComplete ∧ Sys2Proof.Statements.RotationTurns

namespace Sys2Proof.Statements

/-- R320, R321, R319: `KPOP` takes the next token of a FIFO, all ones where there is none; `KPUSH` and `QLEN`; `LCPY` hands
one unit to an idle line copy engine; `LDL` and `STL` on a unit of the line store. -/
def ClusterMemoryWordsComplete : Prop :=
  ∀ o : CW,
    let none_ : XUses := { a := false, b := false, c := false, d := false }
    let u := o.imm.toNat
    CluRuns (.cluKpop o) o .alu { none_ with d := true } false none
        (fun x s => (s.tokenPop x.l (u % 8)).1.xPut x o.d.toNat 2 (splatX ((s.tokenPop x.l (u % 8)).2.getD 0xFFFFFFFF)))
    ∧ CluRuns (.cluKpush o) o .alu none_ false none
        (fun x s => s.setLcr x.l { s.lcr x.l with
          kpushes := (s.lcr x.l).kpushes ++ [{ k := u % 8, val := BitVec.ofNat 32 (u / 8), by_ := x.at_ }] })
    ∧ CluRuns (.cluQlen o) o .alu { none_ with d := true } false none
        (fun x s => s.xPut x o.d.toNat 2 (splatX (BitVec.ofNat 32 (getAt (s.lcr x.l).qlen0 (u % 8) 0))))
    ∧ (∀ s s1 x, CluIssues (.cluLcpy o) o .isu { none_ with a := true } false none s s1 x → (s.lcr x.l).lcpy = none →
        exec (.cluLcpy o) s = .next (s1.setLcr x.l { s1.lcr x.l with
          lcpy := some { unit := u, dst := (xlane x.a 0).toNat % getAt [8192, 8192, 16384, 24576] (o.fn.toNat % 4) 0
                         mode := o.fn.toNat % 4, lcrDst := o.c.toNat % 16, issued := x.t, by_ := x.at_ } }).endTurn)
    ∧ (∀ s s1 x, CluIssues (.cluLdl o) o .lsp { none_ with d := true } false (some (u % 16)) s s1 x →
        (s1.lcr x.l).storeBad.contains u = false →
        exec (.cluLdl o) s = .next (s1.xPut x o.d.toNat 6 ((s1.lcr x.l).unit u)).endTurn)
    ∧ CluRuns (.cluStl o) o .lsp { none_ with a := true } false (some (u % 16))
        (fun x s => s.setLcr x.l { s.lcr x.l with storePend := (s.lcr x.l).storePend ++ [(u, x.a)] })

/-- R323, R324: a fetch word enters a run of LENM + 1 units at its clamped address, where the line core holds fewer than 64;
a store and an emit word enter their units, one for each clock from the issue on. Fetches and stores ask the home
slice of every line of their run. -/
def LineEngineWordsComplete : Prop :=
  ∀ (s : State) (l : Nat) (o : EW),
    let x := s.lcr l
    let h := (s.selHead (s.load.headOf l)).show_
    let y : Int := max 0 (min ((x.line : Int) + o.roff.toInt) ((h.height : Int) - 1))
    let addr := o.ia.toNat + y.toNat * o.lstride.toNat * 64
    let n := 64 * (o.lenm.toNat + 1)
    let units := fun (emit : Bool) (base : Nat) (at_ : SelAt) => (List.range (o.lenm.toNat + 1)).map fun i =>
      ({ line := x.gline, clk := s.clk.selham + i, emit := emit, queue := if o.tk then some o.k.toNat else none
         unit := o.lso.toNat + i, addr := base + 64 * i, pix := o.lstride.toNat + 16 * i, by_ := at_ } : StoreUnit)
    (s.turn = some (.fetchEngine l) → x.runs.length < 64 →
      ∃ at_, exec (.fetch o) s = .next ((s.setLcr l { x with
        fetchPos := x.fetchPos + 1
        runs := x.runs ++ [{ line := x.gline, addr := addr, lso := o.lso.toNat, left := List.range (o.lenm.toNat + 1)
                             tok := if o.tk then some o.k.toNat else none, by_ := at_ }] }).hRequests s.load.vf addr n .load).endTurn)
    ∧ (s.turn = some (.storeEngine l) →
      (∃ at_, exec (.store o) s = .next ((s.setLcr l { x with
          storePos := x.storePos + 1, stores := x.stores ++ units false addr at_ }).hRequests s.load.vf addr n .store).endTurn)
      ∧ ∃ at_, exec (.emit o) s = .next (s.setLcr l { x with
          storePos := x.storePos + 1, stores := x.stores ++ units true 0 at_ }).endTurn)

end Sys2Proof.Statements

/-- R320, R321, R319, R323, R324: cluster memory words and fetch and store engine words complete: `ClusterMemoryWordsComplete`
and `LineEngineWordsComplete`. -/
def Obligations.ClusterMemoryAndEngineWordsComplete : Prop :=
  Sys2Proof.Statements.ClusterMemoryWordsComplete ∧ Sys2Proof.Statements.LineEngineWordsComplete

/-! ## Guards, checks and causes of Selham (R283-R289, R312, R402, R403) -/

namespace Sys2Proof.Statements

/-- A cluster word whose cluster has the turn, in any state: the P mark, its unit, its bank, streams apart, the binding of its
queues and, for a copy (`copies`), the copy before it are judged in this order, and the first that fails stops the line core
with its cause, the word without effect. A word that passes, with guard value 0, has no effect: it pops and pushes nothing.
Its unit is occupied and the PC is past it all the same. -/
def CluChecksInOrder (i : Instr) (o : CW) (u : XUnit) (uses : XUses) (drive : Bool) (bank : Option Nat) (copies : Bool) : Prop :=
  ∀ (s : State) (l c : Nat), s.turn = some (.cluster l c) →
    let t := s.clk.selham
    let x := s.lcr l
    let k0 := (x.cluster c).settle t
    let past := { k0 with pc := k0.pc + 1 }
    let at_ : SelAt := { unit := c, addr := BitVec.ofNat 64 (s.load.compPc l + 8 * k0.pc), info := cluWord i }
    let stops := fun (cause : Cause) (k : Cluster) =>
      exec i s = .next ((s.setLcr l ((x.setCluster c k).stop cause at_)).endTurn)
    let marked := o.s = true ∧ o.p = true ∧ x.holdsData = true
    let clash := ∃ b, bank = some b ∧ (b = t % 16 ∨ x.banks.contains b = true)
    let apart := o.s = false ∧ namesStream o uses drive = true
    (marked → stops .tokenMisuse past)
    ∧ (¬marked → past.take u t = none → stops .scheduleViolation past)
    ∧ (¬marked → ∀ k, past.take u t = some k →
        (clash → stops .scheduleViolation k)
        ∧ (¬clash → apart → stops .streamApart k)
        ∧ (¬clash → ¬apart → unbound s.load l c o uses = true → stops .scheduleViolation k)
        ∧ (¬clash → ¬apart → unbound s.load l c o uses = false →
            (copies = true ∧ x.lcpy.isSome = true → stops .scheduleViolation k)
            ∧ (copies = false ∨ x.lcpy = none → k.guard o = false → exec i s = .next ((s.setLcr l (x.setCluster c k)).endTurn))))

/-- R283, R285, R287, R288, R296, R311, R312, R320, R402: the checks of the cluster words, in their order, and a word of guard 0. -/
def ClusterChecksInOrder : Prop :=
  ∀ o : CW,
    let f := fun (a b c d : Bool) => ({ a := a, b := b, c := c, d := d } : XUses)
    let two := f true true false true
    let three := f true true true true
    let bank := some (o.imm.toNat % 16)
    (∀ w ∈ [(Instr.cluIadd o, XUnit.alu, two), (.cluIsub o, .alu, two), (.cluAnd o, .alu, two), (.cluOr o, .alu, two),
        (.cluXor o, .alu, two), (.cluShl o, .alu, two), (.cluShr o, .alu, two), (.cluSar o, .alu, two), (.cluImin o, .alu, two),
        (.cluImax o, .alu, two), (.cluIcmp o, .alu, two), (.cluXsel o, .alu, three), (.cluMov o, .alu, f true false false true),
        (.cluFadd o, .fma, two), (.cluFmul o, .fma, two), (.cluFfma o, .fma, three), (.cluFmin o, .fma, two), (.cluFmax o, .fma, two),
        (.cluFcmp o, .fma, two), (.cluShuf o, .isu, two), (.cluLerp o, .isu, three), (.cluPack o, .isu, three),
        (.cluWarp o, .isu, two), (.cluPose o, .isu, f false false false true), (.cluNop o, .none, f false false false false),
        (.cluBr o, .alu, f false false false false), (.cluLoopr o, .alu, f false false false false),
        (.cluSetlc o, .alu, f false false false false), (.cluEndl o, .alu, f false false false false),
        (.cluGset o, .alu, f true false false false), (.cluGlut o, .alu, f false false false false),
        (.cluKpop o, .alu, f false false false true), (.cluKpush o, .alu, f false false false false),
        (.cluQlen o, .alu, f false false false true)], CluChecksInOrder w.1 o w.2.1 w.2.2 false none false)
    ∧ (o.fn = 0 ∨ o.fn = 1 ∨ o.fn = 3 → CluChecksInOrder (.cluFcvt o) o .fma (f true false false true) false none false)
    ∧ (o.fn = 2 → CluChecksInOrder (.cluFcvt o) o .fma two false none false)
    ∧ CluChecksInOrder (.cluSdrv o) o .isu (f true false false false) true none false
    ∧ CluChecksInOrder (.cluLdl o) o .lsp (f false false false true) false bank false
    ∧ CluChecksInOrder (.cluStl o) o .lsp (f true false false false) false bank false
    ∧ CluChecksInOrder (.cluLcpy o) o .isu (f true false false false) false none true

/-- R295-R297, R402, R403: what arises at the end of a clock. A pop of an empty queue gives zeros and stops the line core with
QUEUE_UNDERFLOW; a push onto 32 entries is lost and stops it with QUEUE_OVERFLOW; a `KPUSH` into 16 tokens is discarded and
stops it with TOKEN_MISUSE. A line core with causes stops at the end of the clock: the line that it builds is late, a copy
that has not started is dropped, and one class 3 event names the cause of the lowest-numbered unit. -/
def RunTimeCausesStop : Prop :=
  ∀ (s : State) (l : Nat),
    let x := s.lcr l
    (∀ q at_, s.load.producer l q ≠ 4 → x.queue q = [] → s.queuePop l q at_ = (s.setLcr l (x.stop .queueUnderflow at_), 0))
    ∧ (∀ q at_ e t, s.load.producer l q ≠ 4 → x.queue q = (e, false) :: t → s.queuePop l q at_ = (s.setLcr l (x.setQueue q t), e))
    ∧ (∀ p : QPush, p.q ≠ 7 → 32 ≤ (x.queue p.q).length → s.pushClock l p = s.setLcr l (x.stop .queueOverflow p.by_))
    ∧ (∀ p : QPush, p.q ≠ 7 → (x.queue p.q).length < 32 →
        s.pushClock l p = s.setLcr l (x.setQueue p.q (x.queue p.q ++ [(p.val, p.bad)])))
    ∧ (∀ p : KPush, let f := x.fifo p.k
        f.late.contains f.pushes = false → 16 ≤ f.toks.length → p.by_.unit < 4 →
        let s1 := s.setLcr l { x with fifos := setAt x.fifos p.k { f with pushes := f.pushes + 1 } }
        s.kpushClock l p = s1.setLcr l ((s1.lcr l).stop .tokenMisuse p.by_))
    ∧ ∀ c t, x.stops = c :: t → x.stopped = false →
        ∃ best ∈ c :: t, (∀ b ∈ c :: t, best.by_.unit ≤ b.by_.unit) ∧
          let s1 := s.markLate l 4
          let s2 := s1.setLcr l { s1.lcr l with stops := [], stopped := true, reported := false, lcpy := none }
          s.stopClock l = (s2.setSel { s2.sel with lastCause := best.cause.code }).raise (selSource 13 l)
            { selEvent 13 l best.cause.code 3 s2.load.vf with
              slot := best.by_.unit, addrVa := true, addr := best.by_.addr, info := best.by_.info }

end Sys2Proof.Statements

/-- R283, R285, R287, R288, R296, R311, R312, R320, R402, R295, R297, R403: cluster words are checked in order, a guard of 0
makes one idle, and a run-time cause stops the unit: `ClusterChecksInOrder` and `RunTimeCausesStop`. -/
def Obligations.ClusterChecksAndCausesStop : Prop :=
  Sys2Proof.Statements.ClusterChecksInOrder ∧ Sys2Proof.Statements.RunTimeCausesStop

/-! ## Selham's lines, heads and launches (R291-R307, R328, R350, R442-R444) -/

namespace Sys2Proof.Statements

/-- R301, R307, R322: in the clock in which the schedule of its head's next line starts on a running line core, the line core
starts that line, every cluster at its entry; at line 0 of a presented frame the head samples SEL_FRDY. -/
def LineScheduleStarts : Prop :=
  ∀ (s : State) (l : Nat), s.sel.heads.length = 4 → s.startsNow l = true →
    let h := s.load.headOf l
    let w := (s.selHead h).show_
    let x := s.lcr l
    x.stopped = false → x.done = false →
      ∃ t, exec (.lineScheduleStart l) s = .next t
        ∧ t.lcr l = x.startLine s.load l (w.nextLine % w.vtotal) w.nextLine s.clk.selham
        ∧ (t.selHead h).show_.nextLine = w.nextLine + 1
        ∧ (w.nextLine % w.vtotal = 0 → (t.selHead h).sampled = (s.selHead h).frdy)

/-- R293, R302, R305, R442: at its deadline a line whose pixels are all in place and that nothing has marked late goes on the
glass; any other line is the safety reel's, counted in SCAN_STAT, and begins or goes on with a late run. Once a launch has ended
with its frames, and until another starts, the glass gets what the reel's buffer holds, as it is stored. -/
def ScanOutSendsALine : Prop :=
  ∀ (s : State) (h : Nat) (w : Show) (old : Bool), s.sel.heads.length = 4 → h < 4 → (s.selHead h).scanDue s.clk.selham = true →
    (s.selHead h).scanning = (w, old) →
    let g := w.nextScan
    let now := KMap.getD w.gov g poseZero
    let ended := (∃ n, w.upto = some n ∧ n ≤ g) ∧ (old = true ∨ s.sel.running = false)
    (∀ px, ¬ ended → w.builtLine g = some px → KMap.getD w.late g 0 = 0 →
      ∃ t, exec (.scanOutLine h) s = .next t ∧ (t.selHead h).glass = (g % w.vtotal, px) ∧ (t.selHead h).lateRun = false
        ∧ (t.selHead h).stat = (s.selHead h).stat)
    ∧ (¬ ended → (w.builtLine g = none ∨ KMap.getD w.late g 0 ≠ 0) →
      ∃ t, exec (.scanOutLine h) s = .next t ∧ (t.selHead h).lateRun = true
        ∧ (t.selHead h).stat = lateStat (s.selHead h).stat (bit (KMap.getD w.late g 0) 1)
        ∧ (t.selHead h).glass = (g % w.vtotal, match KMap.getD w.reel g none with
          | some (px, r) => w.reelLine (w.reeled.contains (g % w.vtotal)) px r now
          | none => w.reelLine false [] poseZero now))
    ∧ (ended → ∃ t, exec (.scanOutLine h) s = .next t ∧ t.mem = s.mem ∧ (t.selHead h).stat = (s.selHead h).stat
        ∧ (t.selHead h).glass = (g % w.vtotal, match KMap.getD w.reel g none with
          | some (px, _) => px
          | none => List.replicate w.width w.border))

/-- R305, R307: the safety reel's read of a line two lines before its deadline is held for that line; the oldest frame number
to return goes to SEL_FRTN once its last line is on the glass and its fetches are over. -/
def ReelAndReturnComplete : Prop :=
  ∀ (s : State) (h : Nat),
    (∀ (old : Bool) (g : Nat), (s.selHead h).reelDue s.clk.selham = some (g, old) →
      let of := fun (hd : Head) => if old then (hd.old.map Prod.fst).getD hd.show_ else hd.show_
      let f := s.reelFetch h (of (s.selHead h)) g
      let w := of (f.1.selHead h)
      exec (.reelRead h) s = .next (f.1.setSelHead h
        ((f.1.selHead h).putScanning { w with reel := KMap.put w.reel g f.2 } old)))
    ∧ ∀ (clk : Nat) (last : Option Nat) (n : W32) (rest : List (Nat × Option Nat × W32)),
        (s.selHead h).returns = (clk, last, n) :: rest → clk ≤ s.clk.selham →
        (∀ g, last = some g → ∀ c ∈ s.coresOf h, ∀ r ∈ (s.lcr c).runs, g < r.line) →
        exec (.frameReturn h) s = .next (s.setSelHead h { s.selHead h with frtn := n, returns := rest })

/-- R294, R298, R324: a fetch run that is written whole leaves the line core, pushing its token where it has one; the line
copy engine takes up a line core's copy in the core's slot and writes it at the earliest 8 clocks on. -/
def LineTransfersComplete : Prop :=
  ∀ (s : State) (l : Nat),
    (∀ r, (s.lcr l).doneRun = some r →
      let s1 := s.setLcr l { s.lcr l with runs := (s.lcr l).runs.erase r }
      exec (.fetchRunComplete l) s = .next (match r.tok with
        | some k => if (s.lcr l).stopped then s1
          else s1.kpushClock l { k := k, val := BitVec.ofNat 32 r.lso, by_ := r.by_ }
        | none => s1))
    ∧ ∀ c, (s.lcr l).lcpy = some c → s.clk.selham % 16 = l → c.issued < s.clk.selham →
        (s.lcr l).storeBad.contains c.unit = false →
        ∃ t, exec (.lineCopyStart l) s = .next t ∧ (t.lcr l).lcpy = none
          ∧ t.sel.copies = s.sel.copies ++ [{ lcr := l, clk := s.clk.selham + 8, dst := c.dst, mode := c.mode
                                              lcrDst := c.lcrDst, val := (s.lcr l).unit c.unit, by_ := c.by_ }]

/-- R444: a stopped line core whose stop has been taken restarts with its streams loaded again, counted as a restart; a stopped
display matrix engine restarts at its first word with an empty stack. With the restart after which RLIMIT restarts lie in one
second the launch stops and fails. -/
def SelhamRestartsComplete : Prop :=
  ∀ (s : State) (l : Nat),
    let fail := s.setSel { s.sel with stopping := true, failing := some s.sel.lastCause }
    (s.reloadDue l = true →
      exec (.lineCoreReload l) s = .next (if s.restartLimit then fail else
        (s.setLcr l { loadLcr s.load l Lcr.reset with
          runs := (s.lcr l).runs.map fun r => { r with tok := none } }).countRestart.judgeRestarts))
    ∧ (s.dmeRestartDue = true →
      exec .dmeRestart s = .next (if s.restartLimit then fail else
        (s.setSel { s.sel with dme := { s.sel.dme with
          pc := 0, stack := [], busy := .idle, stopped := false, reported := false
          accum := [], accumBad := [], accumTaint := [] } }).countRestart.judgeRestarts))
    ∧ (s.countRestart.sel.restarts = s.clk.selham :: s.sel.restarts)
    ∧ (s.restartLimit = true → s.judgeRestarts = fail) ∧ (s.restartLimit = false → s.judgeRestarts = s)
    ∧ (s.restartLimit = true ↔ bits s.sel.rctl.toNat 15 8 ≠ 0
        ∧ bits s.sel.rctl.toNat 15 8 ≤ (s.sel.restarts.filter fun t => decide (s.clk.selham < t + 2000000000)).length)

/-- R350, R293, R444: once every unit of a launch that stops stands, its record is reported: status 1, or status 3 with the last
cause where restarts ran out; a launch that waits starts. -/
def SelhamLaunchEnds : Prop :=
  ∀ (s : State), s.sel.running = true → s.sel.stopping = true → s.selStopped = true →
    ∃ t, exec .selhamLaunchEnd s = .next t
      ∧ (s.sel.next = none → t.sel.running = false)
      ∧ (∀ y, s.sel.next = some y → t.sel.running = true ∧ t.sel.cur = some y)
      ∧ ∃ u, t.dist.completions = s.dist.completions ++ [u] ∧ u.queue = s.load.queue ∧ u.index = s.load.index
        ∧ u.status = (if s.sel.failing = none then 1 else 3) ∧ u.cause = s.sel.failing.getD 0

/-- R303: a write of SEQ to offset 0x38 of a slot of the pose mailbox puts SEQ into the staging record and commits the whole
record. -/
def PoseCommitCompletes : Prop :=
  ∀ (s : State) (slot : Nat) (seq : W32), slot < 8 →
    exec (.poseCommit slot seq) s = .next ((s.stagePose slot 14 seq).commitPose slot)

end Sys2Proof.Statements

/-- R301, R307, R322, R293, R302, R305, R442, R294, R298, R324, R444, R350: lines start, go on the glass and are fetched and
stored; Selham units restart, and a launch ends: `LineScheduleStarts`, `ScanOutSendsALine`, `ReelAndReturnComplete`,
`LineTransfersComplete`, `SelhamRestartsComplete`, `SelhamLaunchEnds` and `PoseCommitCompletes`. Model's choices: which
reading of R328 fixes the first deadline, a reel line is read in one step, and when restarts that have reached the limit end
the launch (log 31). -/
def Obligations.LinesTransfersAndRestartsComplete : Prop :=
  Sys2Proof.Statements.LineScheduleStarts ∧ Sys2Proof.Statements.ScanOutSendsALine ∧
    Sys2Proof.Statements.ReelAndReturnComplete ∧ Sys2Proof.Statements.LineTransfersComplete ∧
    Sys2Proof.Statements.SelhamRestartsComplete ∧ Sys2Proof.Statements.SelhamLaunchEnds ∧
    Sys2Proof.Statements.PoseCommitCompletes

/-! ## Commands (R334-R351, R435-R439) -/

namespace Sys2Proof.Statements

/-- Firmware acts on the entry at the read index of queue `q`, which holds `x`; `t` is the state once the command is TAKEN. -/
def CommandTaken (s : State) (q op : Nat) (x : CmdQueue) (t : State) : Prop :=
  s.turn = some (.queue q) ∧ KMap.get? s.dist.queues q = some x ∧ t = s.takeCommand q op x.r []

/-- R334, R448, R449: taking a command moves the queue's read index past it and writes TAKEN in the journal: the next entry of
the ring, 256 bytes closed by their CRC, in each of the two copies. -/
def TakingACommandMovesTheReadIndex : Prop :=
  ∀ (s : State) (q op : Nat) (x : CmdQueue) (header : List W64), KMap.get? s.dist.queues q = some x →
    let t := s.takeCommand q op x.r header
    let e : JEntry := { seq := s.fwc.journalSeq, queue := q, op := op, kind := 1, index := x.r, record := [], header := header }
    KMap.get? t.dist.queues q = some { x with r := x.r + 1 } ∧ t.fwc.journalSeq = s.fwc.journalSeq + 1
      ∧ e.bytes.length = 256
      ∧ ∀ b ∈ s.fwc.journalAt, s.lostHome (journalPlace b e.seq) = false →
        (∀ b' ∈ s.fwc.journalAt, b' = b ∨ b' + 2 ^ 20 ≤ b ∨ b + 2 ^ 20 ≤ b') →
        ∀ i, i < 256 → Memory.byte t.mem (journalPlace b e.seq + i) = getAt e.bytes i 0

/-- R340, R37, R449: a `LAUNCH` whose fields are well formed and whose header is read and judged without a reason for refusal
starts: the launch has the next number, and the command is journalled and handed over. -/
def LaunchCompletes : Prop :=
  ∀ (s s1 : State) (q : Nat) (x : CmdQueue) (c : Cmd) (ws : List W64),
    s.turn = some (.queue q) → KMap.get? s.dist.queues q = some x → cmdOk q 1 c = true → s.wrongPart = false →
    State.agentReads 16 s 4 (q / 8) c.addr.toNat = (s1, .ok ws) →
    let t := s1.takeCommand q 1 x.r ws
    t.wrongPart = false → t.isHanded q x.r = false → t.judgeHeader q ⟨ws⟩ = none →
      exec (.launch c) s = .next { (t.startLaunch q x.r ⟨ws⟩ c.done).handCommand q 1 x.r with turn := none }

/-- R350: a `SELHAM` whose block the loader passes starts where no Selham launch runs; else it waits as the next one, the
running launch stops, and one that waited already ends with status 1. -/
def SelhamCompletes : Prop :=
  ∀ (s t : State) (q : Nat) (x : CmdQueue) (c : Cmd) (y : SelLoad), CommandTaken s q 2 x t →
    cmdOk q 2 c = true → t.wrongPart = false → t.loadSelham (q / 8) q x.r c.addr.toNat c.done = .ok y →
    t.noDomain (q / 8) = false → t.isHanded q x.r = false →
      (t.sel.running = false →
        exec (.selham c) s = .next { (t.startSelham y).handCommand q 2 x.r with turn := none })
      ∧ (t.sel.running = true → t.sel.next = none →
        exec (.selham c) s
          = .next { (t.setSel { t.sel with next := some y, stopping := true }).handCommand q 2 x.r with turn := none })
      ∧ ∀ z, t.sel.running = true → t.sel.next = some z →
        let u := t.endCommand z.queue z.index 1 0 0 0 z.cdone
        exec (.selham c) s
          = .next { (u.setSel { u.sel with next := some y, stopping := true }).handCommand q 2 x.r with turn := none }

end Sys2Proof.Statements

/-- R334, R448, R449, R340, R37, R350: taking a command moves the read index; LAUNCH and SELHAM start:
`TakingACommandMovesTheReadIndex`, `LaunchCompletes` and `SelhamCompletes`. Model's choice: a launch that waited and is
replaced ends with status 1, and a queue whose base is at or above 2^55 stands in host memory (log 33, 37). -/
def Obligations.CommandsAreTakenAndStart : Prop :=
  Sys2Proof.Statements.TakingACommandMovesTheReadIndex ∧ Sys2Proof.Statements.LaunchCompletes ∧
    Sys2Proof.Statements.SelhamCompletes

namespace Sys2Proof.Statements

/-- R336, R343, R346: `PRIO`, `PREEMPT` and `RESUME` act on the launch that their index names: its priority changes, its
pre-emption starts under RULE 0 (save) or 1 (drain), or it is a candidate again; `PRIO` and `RESUME` end at once. -/
def LaunchCommandsComplete : Prop :=
  ∀ (s : State) (q l : Nat) (x : CmdQueue) (c : Cmd), (s.turn = some (.queue q) ∧ KMap.get? s.dist.queues q = some x) →
    let t := fun (op : Nat) => s.takeCommand q op x.r []
    let ready := fun (op low : Nat) => cmdOk q op c = true ∧ (t op).target q x.r low = some l
      ∧ (t op).noDomain (q / 8) = false ∧ (t op).isHanded q x.r = false
    let done := fun (u : State) (op : Nat) => ({ u.handCommand q op x.r with turn := none } : State)
    (ready 3 (bits c.arg.toNat 47 32) → exec (.prio c) s = .next (done
      (((t 3).setLaunch l { (t 3).launch l with prio := c.arg.toNat % 8 }).endCommand q x.r 1 0 0 0 c.done) 3))
    ∧ (ready 4 (c.arg.toNat % 65536) → exec (.preempt c) s = .next (done
      ((t 4).startPreempt q x.r l (decide (c.w0.toNat % 8 = 0)) c.done) 4))
    ∧ (ready 5 (c.arg.toNat % 65536) → exec (.resume c) s = .next (done
      (((t 5).setLaunch l { (t 5).launch l with stopped := false }).endCommand q x.r 1 0 0 0 c.done) 5))

/-- R342, R351: `WAIT` ends once the records of the queue's earlier launches are written, and holds the queue until then;
`TLBINV` drops the page range of its virtual function and stage from every TLB and ends. -/
def WaitAndInvalidateComplete : Prop :=
  ∀ (s : State) (q : Nat) (x : CmdQueue) (c : Cmd), (s.turn = some (.queue q) ∧ KMap.get? s.dist.queues q = some x) →
    (q < 1016 → s.noDomain (q / 8) = false) →
    let y := { x with r := x.r + 1 }
    (cmdOk q 6 c = true →
      let t := s.takeCommand q 6 x.r []
      let all := s.dist.launches.all fun e => decide (e.2.queue ≠ q) || e.2.written
      exec (.waitCmd c) s = .next {
        (if all then ((t.setQueue q { y with waiting := some c.done }).setQueue q { y with waiting := none }).endCommand q x.r 1 0 0 0 c.done
          else t.setQueue q { y with waiting := some c.done }) with turn := none })
    ∧ (cmdOk q 7 c = true → s.isHanded q x.r = false →
      let t := s.takeCommand q 7 x.r []
      let v := if q < 1016 then q / 8 else bits c.arg.toNat 46 40
      let page := c.addr.toNat / 65536
      let hit := fun (e : TlbEnt) => decide (e.vf = v) && (e.stage2 == bit c.arg.toNat 32) && decide (page ≤ e.page)
        && decide (e.page < page + c.arg.toNat % 2 ^ 32)
      exec (.tlbinv c) s = .next { ((t.dropTlb hit).handCommand q 7 x.r).endCommand q x.r 1 0 0 0 c.done with turn := none })

end Sys2Proof.Statements

/-- R336, R343, R346, R342, R351: PRIO, PREEMPT, RESUME, WAIT and TLBINV complete: `LaunchCommandsComplete` and
`WaitAndInvalidateComplete`. -/
def Obligations.QueueCommandsComplete : Prop :=
  Sys2Proof.Statements.LaunchCommandsComplete ∧ Sys2Proof.Statements.WaitAndInvalidateComplete

namespace Sys2Proof.Statements

/-- R339, R435: the completion that was reported first and has been stamped is journalled and its record written, once the
active scheduler can work and every atomic that its launch has issued is made; BUSY of FWC_KILL goes with the last record of
the kill. -/
def CompletionRecordsComplete : Prop :=
  ∀ (s : State) (c : Completion) (t : List Completion), s.dist.completions = c :: t → c.evseq.isSome = true →
    s.schedulerUp = true → s.atomsPending c.queue c.index = false →
    exec (.launchCompletion c.queue c.index) s = .next (s.writeCompletion c (s.journalOp c.queue c.index))
    ∧ ∀ s : State, s.settleKill.fwc.kill = (if s.sel.killed = true
        ∨ (∃ e ∈ s.dist.launches, e.2.killed = some 0 ∧ e.2.written = false)
        ∨ (∃ c ∈ s.dist.completions, c.status = 4 ∧ c.cause = 0) then s.fwc.kill else s.fwc.kill &&& 0xFFFFFFFFFFFFFFFD)

/-- R436, R437, R439: a write of FWC_KILL kills the launch that it names, or all work of the queue's virtual function, with BUSY
set; one that names no launch is a notice; one made under BUSY is ignored. The workgroups that a pre-emption still waits for at
its timeout are killed with reason 1 and count as discarded. -/
def KillsComplete : Prop :=
  ∀ (s : State) (q : Nat) (index : BitVec 16), s.booted = true →
    let word := fun (low : Nat) (all : Bool) =>
      BitVec.ofNat 64 (low % 65536 * 2 ^ 32 + q % 1024 * 2 ^ 22 + (if all then 2 ^ 21 else 0) + 2)
    (s.fwc.kill.getLsbD 1 = true → exec (.contextKill q index) s = .next s ∧ (q < 1024 → exec (.killAll q) s = .next s))
    ∧ (s.fwc.kill.getLsbD 1 = false →
      (∀ l, s.killTarget q index.toNat = some l →
        exec (.contextKill q index) s
          = .next ({ s with fwc := { s.fwc with kill := word index.toNat false } }.killLaunch l 0).settleKill)
      ∧ (s.killTarget q index.toNat = none → exec (.contextKill q index) s = .next s.killNotice)
      ∧ (q < 1024 → exec (.killAll q) s = .next
          ({ s with fwc := { s.fwc with kill := word (bits s.fwc.kill.toNat 47 32) true } }.killVf (q / 8) 0).settleKill))
    ∧ ∀ p, s.dist.preempts.find? (fun p => decide (p.queue = q) && p.due.any fun t => decide (t ≤ s.clk.time)) = some p →
        let ws := p.left.filter fun b => ((s.core b.1).wg? b.2).isSome
        let t : State := { s with dist := { s.dist with
          preempts := s.dist.preempts.map fun (y : Preempt) =>
            if y = p then { y with discards := y.discards + ws.length, due := none } else y } }
        ((∃ b ∈ ws, ((s.core b.1).wg b.2).isTask = false) →
          exec (.preemptTimeout q) s = .next ((t.killBound p.launch 1 ws).settlePreempts p.launch))
        ∧ ((∀ b ∈ ws, ((s.core b.1).wg b.2).isTask = true) →
          exec (.preemptTimeout q) s = .next ((ws.foldl (fun s b => s.killWg b.1 b.2) t).settlePreempts p.launch))

/-- R337: a doorbell write stores the write index of its queue and sets the queue's bit in the kick words; for a queue that
firmware has not created it does nothing. -/
def DoorbellCompletes : Prop :=
  ∀ (s : State) (v k : Nat) (w : W32), v < 128 → k < 8 →
    let q := 8 * v + k
    (KMap.get? s.dist.queues q = none → exec (.doorbell v k w) s = .next s)
    ∧ ∀ x, KMap.get? s.dist.queues q = some x → ∃ t, exec (.doorbell v k w) s = .next t
        ∧ KMap.get? t.dist.queues q = some { x with widx := w }
        ∧ KMap.getD t.dist.kick (q / 32) 0 = KMap.getD s.dist.kick (q / 32) 0 ||| BitVec.ofNat 32 (2 ^ (q % 32))
        ∧ ∀ j, j ≠ q → KMap.get? t.dist.queues j = KMap.get? s.dist.queues j

end Sys2Proof.Statements

/-- R339, R435, R436, R437, R439, R337: completion records are written, kills and doorbells take effect:
`CompletionRecordsComplete`, `KillsComplete` and `DoorbellCompletes`. -/
def Obligations.RecordsKillsAndDoorbellsComplete : Prop :=
  Sys2Proof.Statements.CompletionRecordsComplete ∧ Sys2Proof.Statements.KillsComplete ∧
    Sys2Proof.Statements.DoorbellCompletes

/-! ## The cache slices (R86, R87, R116, R150-R152, R253, R274-R278, R416, R421, R422) -/

namespace Sys2Proof.Statements

/-- R116, R150, R274, R278, R421: the slice starts the oldest request of its input queue while its side queue has room. A
request to a line that the side queue already names joins it. One to a line with a miss-table entry merges into it behind the
earlier ones while it holds fewer than 16 and else waits aside; without an entry, one that something holds back waits aside, a
hit or one with no way to be allocated in is served at once, and any other takes a free entry of the 256 or waits aside. -/
def SliceRequestsComplete : Prop :=
  ∀ (s : State) (d j : Nat) (r : SReq) (rest : List SReq),
    let x := s.slice d j
    x.inq = r :: rest → x.side.length < 32 →
    let s1 := (s.setSlice d j { x with inq := rest }).pressOwner r
    let y := s1.slice d j
    let aside := s1.setSlice d j { y with side := y.side ++ [r] }
    let sided := y.side.any fun q => decide (q.line = r.line)
    let here := y.lines.any fun l => decide (l.line = r.line)
    let missed := fun (u : State) => if here then u else u.perfAdd r.vf 5 1
    (sided = true → exec (.sliceRequest d j) s = .next aside)
    ∧ (sided = false →
        (∀ m, y.misses.find? (fun m => decide (m.line = r.line)) = some m →
          (m.reqs.length < 16 →
            exec (.sliceRequest d j) s = .next (missed (s1.setSlice d j (y.putMiss r.line (m.reqs ++ [r])))))
          ∧ (16 ≤ m.reqs.length → exec (.sliceRequest d j) s = .next aside))
        ∧ (y.misses.find? (fun m => decide (m.line = r.line)) = none →
            (s1.lineHeld d j r = true → exec (.sliceRequest d j) s = .next aside)
            ∧ (s1.lineHeld d j r = false →
                (here = true ∨ (s1.die d).ways r.vf r.pres = 0 →
                  exec (.sliceRequest d j) s = .next ((s1.setSlice d j (y.touch r)).serve d j r))
                ∧ (here = false → (s1.die d).ways r.vf r.pres ≠ 0 →
                    (y.misses.length < 256 → exec (.sliceRequest d j) s = .next ((s1.setSlice d j { y with
                      misses := y.misses ++ [{ line := r.line, reqs := [r] }] }).perfAdd r.vf 5 1))
                    ∧ (256 ≤ y.misses.length → exec (.sliceRequest d j) s = .next aside)))))

/-- R150, R274, R276, R421: the requests of a filled miss entry are served oldest first; the first that something holds back
stays in the entry with all those behind it, and an L1 that owns its line must yield. -/
def MissesAreServedInOrder : Prop :=
  ∀ (s : State) (d j line : Nat),
    (s.serveMiss d j line [] = s.setSlice d j ((s.slice d j).putMiss line []))
    ∧ ∀ (r : SReq) (rest : List SReq),
      (s.lineHeld d j r = true →
        s.serveMiss d j line (r :: rest) = (s.setSlice d j ((s.slice d j).putMiss line (r :: rest))).pressOwner r)
      ∧ (s.lineHeld d j r = false →
        s.serveMiss d j line (r :: rest)
          = (((s.setSlice d j (((s.slice d j).putMiss line rest).touch r)).serve d j r).serveMiss d j line rest))
      ∧ ∀ x : Slice, (∀ m ∈ (x.putMiss line (r :: rest)).misses, m.line = line → m.reqs = r :: rest)
        ∧ (x.putMiss line (r :: rest)).side = x.side

/-- R150, R274, R275, R278, R416: the requests that wait in a miss entry whose line is there go before a side-queued one; a
side-queued request that can be served now leaves the side queue; a filled line takes its way, what stood there leaves through
a write-back entry if it is dirty, and the waiting requests are served; a write-back ends once its data is at the controller;
an owner whose line is asked for yields it. -/
def SliceLinesComplete : Prop :=
  ∀ (s : State) (d j : Nat),
    let x := s.slice d j
    (∀ m, s.missReady d j = some m → exec (.sideQueueRetry d j) s = .next (s.serveMiss d j m.line m.reqs))
    ∧ (∀ r u, s.missReady d j = none → s.sideReady d j [] x.side = some (r, u) →
      exec (.sideQueueRetry d j) s = .next (u.setSlice d j { u.slice d j with side := (u.slice d j).side.erase r }))
    ∧ (∀ l, x.wbs.find? (fun l => !(s.die d).flits.any fun f => f.writesLine l) = some l →
      exec (.writeBackComplete d j) s = .next ((s.setSlice d j { x with wbs := x.wbs.erase l }).writeBack l))
    ∧ (∀ (line way : Nat) (m : Miss) (r : SReq) (rest : List SReq),
        x.misses.find? (fun m => decide (m.line = line)) = some m → m.reqs = r :: rest → x.has line = false →
        ((s.die d).ways r.vf r.pres).getLsbD way = true →
        let victim := x.lines.find? fun l => decide (l.way = way) && decide (cacheSet (l.line * 128) = cacheSet (line * 128))
        let new : LineEnt := { line := line, way := way, dirty := false, pres := r.pres, vf := r.vf }
        let put := fun (wbs : List Nat) => s.setSlice d j { x with
          lines := (x.lines.filter fun l => decide (some l ≠ victim)) ++ [new], wbs := wbs }
        (victim = none → exec (.lineFill d j line way) s = .next ((put x.wbs).serveMiss d j line m.reqs))
        ∧ (∀ v, victim = some v → v.dirty = false →
            exec (.lineFill d j line way) s
              = .next ((((put x.wbs).recall v.line).leaveClean v.line).serveMiss d j line m.reqs))
        ∧ ∀ v, victim = some v → v.dirty = true → x.wbs.length < 16 →
            exec (.lineFill d j line way) s
              = .next ((((put (x.wbs ++ [v.line])).recall v.line).sendWriteBack d j v.line).serveMiss d j line m.reqs))
    ∧ ∀ line owner left, KMap.get? s.l1own line = some (owner, left) → left ≤ 16 →
        exec (.lineYield line) s = .next { s.dropL1 owner line with l1own := KMap.del s.l1own line }

/-- R116, R151, R152, R154, R253: of the additions that wait, the first that can be performed goes to its line: an unordered
one is added, one rounding for each element; an ordered one with the next ordinal is added and the held ones that follow it
after it, one ahead of the next is held where the tables have room, and one behind it, or of another length, is rejected with
an event. The drain waits for one less once it is added or rejected. -/
def AdditionsComplete : Prop :=
  ∀ (s : State) (d j : Nat) (c : Contribution),
    let x := s.slice d j
    s.nextAdd d j = some c →
    let u := s.dropAdd d j c
    let y := u.slice d j
    (c.seq = none → exec (.drainAddArrive d j) s = .next (u.addTo d j c))
    ∧ (∀ n k : Nat, c.seq = some (n, k) →
        let next := ((y.seqOf c.line).map fun e => e.next).getD 0
        let room := (y.seqOf c.line).isSome || decide (y.seqs.length < 256)
        let sameN := (y.seqOf c.line).all fun e => decide (e.n = n)
        (sameN = true → k = next → (room = true ∨ next + 1 = n) →
          exec (.orderedContribution d j) s = .next (State.advanceSeq 64 (u.addTo d j c) d j c.line n (k + 1)))
        ∧ (sameN = true → next < k → room = true → y.merges.length < 64 →
          exec (.orderedContribution d j) s = .next
            (u.setSlice d j ({ y with merges := y.merges ++ [c] }.putSeq c.line n next u.clk.fabric)))
        ∧ (sameN = false ∨ k < next → exec (.orderedContribution d j) s = .next ((u.raise (srcSlice d j)
            { Event.blank with
              code := codeSeqReject, cls := 1, block := 2, die := d, unit := j, vf := c.vf
              addr := BitVec.ofNat 64 (c.line * 128), info := BitVec.ofNat 64 k }).tookContrib c)))
    ∧ s.codecBusy.contains c.line = false ∧ c ∈ x.adds

/-- R422: an open sequence without a contribution for TIMEOUT × 256 clocks closes: its held contributions are added in ascending
ordinal, and one event names the first missing ordinal. -/
def SequenceTimeoutCompletes : Prop :=
  ∀ (s : State) (d j line : Nat) (e : SeqEnt), (s.slice d j).seqOf line = some e →
    let limit := (s.die d).seqto.toNat % 2 ^ 24 * 256
    limit ≠ 0 → e.last + limit ≤ s.clk.fabric →
    let v := ((s.slice d j).lowestHeld line).map fun c => c.vf
    let u := State.flushSeq 64 s d j line
    exec (.sequenceTimeout d j line) s
      = .next ((u.setSlice d j { u.slice d j with seqs := (u.slice d j).seqs.filter fun y => decide (y ≠ e) }).raise (srcSlice d j)
          { Event.blank with
            code := codeSeqReject, cls := 1, block := 2, die := d, unit := j, vf := v.getD 127
            addr := BitVec.ofNat 64 (line * 128), info := BitVec.ofNat 64 e.next })

/-- R86, R87, R275, R277, R421: a way-mask write takes the mask and, where it excludes ways, sets BUSY for the walk; a write
while BUSY is 1 is ignored with ERR set; the walk goes over the slices, where an excluded line is invalid, or leaves through a
write-back entry if it is dirty, as there are entries; BUSY ends with the last excluded line. -/
def WayMaskStepsComplete : Prop :=
  ∀ (s : State) (d v : Nat) (w : W32), d < 4 →
    let x := s.die d
    (x.wmstat.getLsbD 0 = true →
      exec (.l2sPwayWrite d w) s = .next (s.setDie d { x with wmstat := x.wmstat ||| 0x8000 })
      ∧ (v < 128 → exec (.l2sVfwayWrite d v w) s = .next (s.setDie d { x with wmstat := x.wmstat ||| 0x8000 })))
    ∧ (x.wmstat.getLsbD 0 = false →
      exec (.l2sPwayWrite d w) s = .next (s.setDie d ({ x with pway := w &&& 0xFFFF }.startWalk
        (decide (w &&& 0xFFFF ≠ x.pway &&& 0xFFFF)) 0 true))
      ∧ (v < 128 → exec (.l2sVfwayWrite d v w) s = .next (s.setDie d ({ x with
          vfway := KMap.put x.vfway v (w &&& 0xFFFF) }.startWalk
            (decide (KMap.getD x.vfway v 0xFFFF &&& ~~~(w &&& 0xFFFF) ≠ 0)) v false))))
    ∧ (x.wmstat.getLsbD 0 = true →
        let u := (x.slices.map Prod.fst).foldl (fun u j => u.walkSlice d j) s
        ((u.die d).excluded = [] → exec (.wayWalkComplete d) s
          = .next (u.setDie d { u.die d with wmstat := (u.die d).wmstat &&& 0x8000 }))
        ∧ ((u.die d).excluded ≠ [] → (u.die d).excluded.length ≠ x.excluded.length → exec (.wayWalkComplete d) s = .next u))

end Sys2Proof.Statements

/-- R116, R150, R274, R278, R421, R276, R275, R416, R151, R152, R154, R253: cache slices serve, merge, fill, write back and
yield lines, add in order and change their way masks: `SliceRequestsComplete`, `MissesAreServedInOrder`, `SliceLinesComplete`,
`AdditionsComplete`, `SequenceTimeoutCompletes` and `WayMaskStepsComplete`. Model's choice: the victim way is an operand of
the event (log 24). -/
def Obligations.SliceStepsComplete : Prop :=
  Sys2Proof.Statements.SliceRequestsComplete ∧ Sys2Proof.Statements.MissesAreServedInOrder ∧
    Sys2Proof.Statements.SliceLinesComplete ∧ Sys2Proof.Statements.AdditionsComplete ∧
    Sys2Proof.Statements.SequenceTimeoutCompletes ∧ Sys2Proof.Statements.WayMaskStepsComplete

/-! ## Routers and die links (R149, R267-R273, R423, R424, R441) -/

namespace Sys2Proof.Statements

/-- R149, R266-R270: a flit with a good CRC follows its next turn: 1 to 3 to another router of the quadrant; 4 over the external
port, at a gateway onto its die link and at router 15 into the memory controller, which takes write-backs and nothing else; 0
to its endpoint, or at the gateway onto the path to another die. A list without V or with a reserved code, and a list that
ends at another router than the endpoint's, drops the packet with an event (on a die with a link out of service, where a route
can have more turns than a list holds, the flit takes the rest of its route there: the model's choice, log 38); at a router
that is no gateway to the die any more the flit takes a fresh route. A packet at its injection port sets off when its route
allows. A bad CRC makes the link resend the flit, counted for that flit. -/
def RouterFlitsComplete : Prop :=
  ∀ (s : State) (d id : Nat) (f : Flit), (s.die d).flits.find? (fun f => decide (f.id = id)) = some f →
    let x := s.die d
    let l := x.link f.via
    let t := f.turns.toNat % 8
    l.down = false → x.failed f.via = false → f.crc = flitCrc f →
      (∀ e, e ≠ 0#16 →
        exec (.routerFlit d id e) s = .next (((s.setDie d (x.setRLink f.via (l.resent 1 s.clk.time))).putFlit d f
          { f with resends := f.resends + 1 }).noteCorrection (srcRouter d f.router)))
      ∧ ((f.waits = true → ∀ v, s.startPacket d f = some v → exec (.routerFlit d id 0) s = .next v)
         ∧ (f.waits = false →
            (f.turns.getLsbD 15 = false ∨ 4 < t → exec (.routerFlit d id 0) s = .next (s.dropFlit d f))
            ∧ (f.turns.getLsbD 15 = true →
                (1 ≤ t → t ≤ 3 → exec (.routerFlit d id 0) s = .next (s.moveFlit d f (3 + t)))
                ∧ (t = 4 → f.router % 4 ≠ 3 → exec (.routerFlit d id 0) s = .next (s.moveFlit d f 7))
                ∧ (t = 4 → f.router % 4 = 3 → f.router ≠ 15 → exec (.routerFlit d id 0) s
                    = .next ((s.setDie d { x with flits := x.flits.erase f }).linkSend d (gatewayDie d f.router) f f.stamp))
                ∧ (t = 4 → f.router = 15 →
                    (∀ a w, f.msg = .write a w → exec (.routerFlit d id 0) s
                      = .next (s.setDie d { x with flits := x.flits.erase f }))
                    ∧ ((∀ a w, f.msg ≠ .write a w) → exec (.routerFlit d id 0) s = .next (s.dropFlit d f)))
                ∧ (t = 0 → x.behind f = false →
                    (f.dstDie = d → f.dstRouter = f.router → ∀ v, s.deliverFlit d f = some v →
                      exec (.routerFlit d id 0) s = .next v)
                    ∧ (f.dstDie = d → f.dstRouter ≠ f.router → x.anyDown = false →
                        exec (.routerFlit d id 0) s = .next (s.dropFlit d f))
                    ∧ (f.dstDie = d → f.dstRouter ≠ f.router → x.anyDown = true →
                        exec (.routerFlit d id 0) s = .next (s.putFlit d f (s.onward d f)))
                    ∧ (f.dstDie ≠ d → f.router ≠ gatewayRouter d (s.nextHop d f.dstDie) → exec (.routerFlit d id 0) s
                        = .next (s.putFlit d f (s.fresh d f)))
                    ∧ (f.dstDie ≠ d → f.router = gatewayRouter d (s.nextHop d f.dstDie) → ∀ v, s.crossGateway d f = some v →
                        exec (.routerFlit d id 0) s = .next v)))))

/-- R149: the first held message of its source whose counts have all been received and applied is delivered, the larger of each
count taken first; a die whose count has moved on since its last message on a path sends a beacon with it. -/
def CrossDieStepsComplete : Prop :=
  ∀ (s : State) (d e : Nat) (h : Held),
    let x := s.die d
    (x.heldMsgs.find? (fun h => x.mayRelease d h) = some h →
      exec (.crossDieReceive d) s = .next ((s.setDie d { x with heldMsgs := x.heldMsgs.erase h }).enter d h.flit))
    ∧ (d < 5 → e < 5 → d ≠ e → x.ownCount d e ≠ getAt x.sent e 0 →
      let n := x.ownCount d e
      exec (.beacon d e) s = .next ((s.setDie d { x with
        sent := setAt x.sent e (countMax (getAt x.sent e 0) n), sentAt := setAt x.sentAt e s.clk.fabric }).linkSend d e (beaconFlit d e n) (setAt x.vec d n)))

end Sys2Proof.Statements

/-- R149, R266, R267, R268, R269, R270: flits follow their turns; held messages wait for their counts: `RouterFlitsComplete`
and `CrossDieStepsComplete`. Model's choices: the order of a packet's words (log 17) and when congestion is read (log 18). -/
def Obligations.FlitsAndCrossDieStepsComplete : Prop :=
  Sys2Proof.Statements.RouterFlitsComplete ∧ Sys2Proof.Statements.CrossDieStepsComplete

namespace Sys2Proof.Statements

/-- R272, R273: the receiver decodes a flit of good CRC and the next sequence number with its table, the oldest update applied
once 64 wait, and hands it on, a word that decodes wrong showing in the flit's own CRC; a bad CRC asks for a replay, another
number is passed over. An acknowledgement frees what the receiver has delivered; a negative one, or 512 clocks without any,
sends every unacknowledged flit again. -/
def DieLinkStepsComplete : Prop :=
  ∀ (s : State) (link : Nat) (dir : Bool) (l : LinkDir), s.linkDir link dir = some l →
    let p := 2 * link + (if dir then 1 else 0)
    (∀ (c : CFlit) (rest : List CFlit) (e : W32), l.wire = c :: rest →
      (c.crc ^^^ e ≠ linkCrc c.seq c.syms →
        exec (.dieLinkFlitReceive link dir e) s = .next (s.setLink p { l with wire := rest, nak := true }))
      ∧ (c.crc ^^^ e = linkCrc c.seq c.syms →
          (c.seq ≠ l.recvSeq % 256 → exec (.dieLinkFlitReceive link dir e) s = .next (s.setLink p { l with wire := rest }))
          ∧ (c.seq = l.recvSeq % 256 →
              let t := applyOldest l.recvTable l.recvPend
              let words := c.syms.map (decodeSym t.1)
              let crcOf := fun (ws : List W32) => BitVec.ofNat 16 (crc16 (ws.flatMap fun w => leBytes 4 w.toNat))
              let u := s.setLink p { l with
                wire := rest, recvTable := t.1, recvPend := t.2 ++ [c.syms], recvSeq := l.recvSeq + 1 }
              exec (.dieLinkFlitReceive link dir e) s = .next (u.arriveDie l.dst l.src
                { c.flit with crc := c.flit.crc ^^^ crcOf c.words ^^^ crcOf words } c.stamp)
              ∧ (words = c.words →
                  exec (.dieLinkFlitReceive link dir e) s = .next (u.arriveDie l.dst l.src c.flit c.stamp)))))
    ∧ (l.ackable ≠ 0 → exec (.dieLinkAck link dir) s = .next (s.setLink p
        ({ l with replay := l.replay.drop l.ackable, lastAck := s.clk.fabric, resends := 0 }.pump)))
    ∧ (l.nak = true → exec (.dieLinkNak link dir) s = .next (s.replay link dir l))
    ∧ (l.replay ≠ [] → l.lastAck + 512 ≤ s.clk.fabric → exec (.dieLinkReplayTimeout link dir) s = .next (s.replay link dir l))

/-- R423, R441: a router link that has resent one flit 16 times goes down with an event: a core's port takes the core
out of service, a slice's makes the die lost, any other sends its traffic another way, the flits it held from the router that
sent them; more than 1,000 resends in a millisecond are a notice, of the die link's end where the port is one; a link out of
service is retrained once its die's packets have drained. -/
def LinkFailuresComplete : Prop :=
  ∀ (s : State) (d r p : Nat),
    let x := s.die d
    let l := x.link (8 * r + p)
    let down := (s.setDie d (x.setRLink (8 * r + p) { l with down := true })).raise (srcRouter d r)
      { Event.blank with code := codeLinkDown, cls := 1, block := 3, die := d, unit := r }
    (d < 4 → r < 16 → l.down = false → (∃ f ∈ x.flits, f.via = 8 * r + p ∧ 16 ≤ f.resends) →
      (p < 3 → exec (.linkDown d r p) s
        = .next ((down.setDie d { down.die d with flits := (down.die d).flits.filter fun f => decide (f.via ≠ 8 * r + p) }).loseCore
            (48 * d + 12 * (r / 4) + 3 * (r % 4) + p)))
      ∧ (p = 3 → exec (.linkDown d r p) s = .next (down.loseDie d))
      ∧ (4 ≤ p → p < 7 ∨ (p = 7 ∧ r % 4 ≠ 3) → exec (.linkDown d r p) s
          = .next ((down.setDie d { down.die d with flits := (down.die d).flits.map fun f =>
              if f.via = 8 * r + p then { f with router := r, via := f.src, resends := 0 } else f }).reroute d)))
    ∧ (l.down = false → 1000 < l.winCount →
        let src := s.portSource d r p
        exec (.linkRetry d r p) s
          = .next ((s.setDie d (x.setRLink (8 * r + p) { l with winFrom := s.clk.time, winCount := 0 })).raise src
              { Event.blank with
                code := codeLinkRetry, cls := 4, block := if src < 300 then 4 else 3, die := d
                unit := if src < 300 then (src - 260) / 2 else r }))
    ∧ (4 ≤ p → l.down = true → x.flits = [] → exec (.linkRetrain false d r p) s
        = .next (s.setDie d { x with links := KMap.del x.links (8 * r + p) }))

/-- R424, R441: a die link of which a direction has sent again 16 times goes down in both directions, its ends reset, with a
LINK_DOWN event. The flits that each receiver has not delivered, and those that wait behind them, go over the new path in
order, ahead of newer ones, with a beacon behind them; a compute die that no path reaches any more is lost. Retraining puts
both directions back into service once the packets of both dies have drained. -/
def DieLinkOutOfServiceCompletes : Prop :=
  ∀ (s : State) (n r p : Nat) (a b : LinkDir), s.dlinks[2 * n]? = some a → s.dlinks[2 * n + 1]? = some b →
    (a.down = false → 16 ≤ a.resends ∨ 16 ≤ b.resends →
      let cut := fun (l : LinkDir) => { LinkDir.reset l.src l.dst with down := true }
      let told := ((s.setLink (2 * n) (cut a)).setLink (2 * n + 1) (cut b)).raise (srcLink n 0)
        { Event.blank with code := codeLinkDown, cls := 1, block := 4, die := a.src, unit := n }
      let moved := fun (u : State) (l : LinkDir) =>
        let v := ((l.replay.drop l.ackable).map (fun c => (c.flit, c.stamp)) ++ l.queue).foldl
          (fun v f => v.linkSend l.src f.1.dstDie f.1 f.2) u
        if v.nextHop l.src l.dst = l.dst then v else v.sendBeacon l.src l.dst
      let u := moved (moved told a) b
      let lost := [a.src, a.dst].filter fun d => decide (d < 4) && u.cutOff d && !(u.die d).lost
      exec (.dieLinkDown n) s = .next (lost.foldl (fun v d => v.loseDie d) u)
        ∧ (told.dlinks[2 * n]? = some (cut a) ∧ told.dlinks[2 * n + 1]? = some (cut b))
        ∧ (∀ q, q = 2 * n ∨ q = 2 * n + 1 → ∃ l, u.dlinks[q]? = some l ∧ l.down = true)
        ∧ told.eva = (s.raise (srcLink n 0)
            { Event.blank with code := codeLinkDown, cls := 1, block := 4, die := a.src, unit := n }).eva)
    ∧ (a.down = true → (s.die a.src).lost = false → (s.die a.dst).lost = false → (s.die a.src).flits = [] →
        (s.die a.dst).flits = [] → exec (.linkRetrain true n r p) s
          = .next ((s.setLink (2 * n) (LinkDir.reset a.src a.dst)).setLink (2 * n + 1) (LinkDir.reset b.src b.dst)))

end Sys2Proof.Statements

/-- R272, R273, R423, R441, R424: die links decode, acknowledge and replay; worn links go down with what they carry:
`DieLinkStepsComplete`, `LinkFailuresComplete` and `DieLinkOutOfServiceCompletes`. Model's choices: initial value and order of
the CRC-32 (log 11); link errors are a free choice (log 38); traffic in transit through the intermediate die goes from link to
link (log 17). -/
def Obligations.LinkStepsComplete : Prop :=
  Sys2Proof.Statements.DieLinkStepsComplete ∧ Sys2Proof.Statements.LinkFailuresComplete ∧
    Sys2Proof.Statements.DieLinkOutOfServiceCompletes

/-! ## Events, firmware and the host (R28-R34, R158, R334, R352-R365, R375-R384, R408, R410, R416-R420, R444-R456) -/

namespace Sys2Proof.Statements

/-- R158, R376, R378: the arbiter takes the first event of the next input that holds one and gives it the next number: a
completion learns it, a record waits for firmware. A unit's corrections are reported at most once each millisecond. -/
def ArbiterStepsComplete : Prop :=
  ∀ (s : State),
    (∀ (i : Nat) (e : Event) (t : List Event), s.eva.nextInput = some i → KMap.getD s.eva.inputs i [] = e :: t →
      ∃ u, exec .eventStamp s = .next u ∧ u.eva.seq = s.eva.seq + 1
        ∧ (∀ q n, e.kind = .completion q n → u.eva.stamped = s.eva.stamped ∧ u.eva.ptr = i
            ∧ KMap.getD u.eva.inputs i [] = t
            ∧ u.dist.completions = s.dist.completions.map fun (c : Completion) =>
                if c.queue = q && c.index = n && c.evseq.isNone then { c with evseq := some s.eva.seq } else c)
        ∧ (e.kind = .record → e.launch = none → u.eva.stamped = s.eva.stamped ++ [{ evseq := s.eva.seq, ev := e }]
            ∧ u.eva.ptr = i ∧ KMap.getD u.eva.inputs i [] = t))
    ∧ ∀ unit, KMap.getD s.eva.corrections unit 0 ≠ 0 →
        (∀ t, KMap.get? s.eva.reported unit = some t → t + 1000000 ≤ s.clk.time) →
        exec (.correctedReport unit) s = .next { s with eva := { (s.eva.push unit
          [correctedEvent unit (KMap.getD s.eva.corrections unit 0)]) with
            corrections := KMap.del s.eva.corrections unit, reported := KMap.put s.eva.reported unit s.clk.time } }

/-- R375, R377, R380, R381: firmware writes the oldest stamped event's record into the host's ring where it is enabled and has
room, else counts it as lost; it writes the notice of the virtual function that the record names, and sends the message of
the record's kind where one was written. -/
def ErrorRecordsComplete : Prop :=
  ∀ (s : State) (x : Stamped) (t : List Stamped), s.eva.stamped = x :: t → s.booted = true →
    (s.fwRuns 3 = true ∨ s.fwRuns s.activeFw = true) →
    let s1 := { s with eva := { s.eva with stamped := t } }
    let a := s1.writeRecord x
    let b := a.1.writeNotice x s.fwc.lostCount
    exec .errorRecord s = .next (if (a.2 || b.2) && recordMessage x.ev then
      { b.1 with fwc := { b.1.fwc with msix := b.1.fwc.msix ++ [8 * (x.ev.vf % 128)] } } else b.1)

/-- R446-R450: the active scheduler's heartbeat; a heartbeat later than HBMS milliseconds is the handover to the stand-in where
one is ready (STATE is 1, the failed core is in reset, no command is accepted and no completion written), whose first heartbeat
ends it, and else halts acceptance for good. An uncorrectable error in the active scheduler's memory does the same, unless its
handover path cannot run, which is a free choice: then it waits for the heartbeat to be found late. The failed core comes back
as the stand-in once its reload has been checked. -/
def SchedulerRecoveryCompletes : Prop :=
  ∀ (s : State),
    let f := s.activeFw
    let late := s.fwc.lastBeat + max 1 (bits s.fwc.sched.toNat 23 16) * 1000000 ≤ s.clk.time
    (s.booted = true → s.fwRuns f = true →
      exec .heartbeat s = .next { s with fwc := { s.fwc with lastBeat := s.clk.time } })
    ∧ (s.booted = true → s.fwRuns f = false → s.schedState = 1 → s.fwRuns (1 - f) = true →
        exec .heartbeat s = .next s.takeover)
    ∧ (s.booted = true → (s.fwRuns f = true ∨ getAt s.fwc.cores f .halted = .stuck) → s.fwRuns 2 = true → late →
        (s.schedState = 0 → s.fwRuns (1 - f) = true → exec .heartbeatTimeout s = .next s.handover)
        ∧ (s.schedState ≠ 0 ∨ s.fwRuns (1 - f) = false → exec .heartbeatTimeout s
            = .next ((s.setFw f .halted).raise (srcFw f) (fwEvent f codeUncorrected 1))))
    ∧ (s.handover.schedState = 1 ∧ s.handover.schedulerUp = false ∧ s.handover.activeFw = f
        ∧ (f < s.fwc.cores.length → getAt s.handover.fwc.cores f .halted = .inReset))
    ∧ (s.schedState = 2 → getAt s.fwc.cores (1 - f) .halted = .inReset → s.fwRuns 3 = true →
        exec (.standinReload true) s
            = .next ((s.setFw (1 - f) .running).setSched (bits s.fwc.sched.toNat 31 24) 0 f)
        ∧ exec (.standinReload false) s = .next (s.setFw (1 - f) .halted))
    ∧ ∀ n, n < 4 → s.booted = true → s.fwRuns n = true →
        let told := s.raise (srcFw n) { Event.blank with code := codeUncorrected, cls := 1, block := 17, die := 4, unit := n }
        (n = f → exec (.firmwareMemoryError n) s = .next (
          let (c, u) := told.choice 2
          if c = 0 then (if u.schedState = 0 && u.fwRuns (1 - u.activeFw) then u.handover else u.setFw u.activeFw .halted)
          else u.setFw u.activeFw .stuck))
        ∧ (n ≠ f → n < 2 → exec (.firmwareMemoryError n) s
          = .next ((told.setFw n (if s.schedState = 1 then .halted else .inReset)).setSched (bits s.fwc.sched.toNat 31 24) 2 f))
        ∧ (n ≠ f → n = 2 → exec (.firmwareMemoryError n) s = .next (told.setFw n .halted))
        ∧ (n ≠ f → n = 3 → exec (.firmwareMemoryError n) s
          = .next { (told.setFw n .halted) with clk := { s.clk with arithMhz := 1800, fabMhz := 1200 } })

end Sys2Proof.Statements

/-- R158, R376, R378, R375, R377, R380, R381, R446, R447, R448, R449, R450: events are numbered and recorded; the scheduler
recovers: `ArbiterStepsComplete`, `ErrorRecordsComplete` and `SchedulerRecoveryCompletes`. -/
def Obligations.EventsAndRecoveryComplete : Prop :=
  Sys2Proof.Statements.ArbiterStepsComplete ∧ Sys2Proof.Statements.ErrorRecordsComplete ∧
    Sys2Proof.Statements.SchedulerRecoveryCompletes

namespace Sys2Proof.Statements

/-- R382-R384: an operation on a core whose STATUS is 3 is ignored, and one on a slot without a group changes nothing more. A stop
marks a running group, which is held from the end of the clock; a step hands each entry of a stopped group, or the one named,
one issue and stops the group again; a resume lets a stopped group issue. An entry that goes on passes the `BKPT` at which it
stopped. -/
def DebuggerStepsComplete : Prop :=
  ∀ (s : State) (c slot frag : Nat) (gent : Bool),
    let t := s.dbgSlot c slot
    let u := s.setCore c { s.core c with
      dbg := ((s.core c).dbg &&& 0xFE00FFFF) ||| BitVec.ofNat 32 (frag % 256 * 2 ^ 17 + (if gent then 2 ^ 16 else 0)) }
    let one := fun (y : EntId) => decide (y = if gent then .own else .frag (frag % 256))
    ((s.core c).dbgStatus = 3 →
      exec (.debugStop c slot) s = .next s ∧ exec (.debugResume c slot) s = .next s
      ∧ exec (.debugStepGroup c slot) s = .next s ∧ exec (.debugStepEntry c slot gent frag) s = .next s)
    ∧ ((s.core c).dbgStatus ≠ 3 →
        exec (.debugStepEntry c slot gent frag) s = .next (u.stepEntries c slot one)
        ∧ ((t.core c).group? slot = none → exec (.debugStop c slot) s = .next t ∧ exec (.debugResume c slot) s = .next t
            ∧ exec (.debugStepGroup c slot) s = .next t)
        ∧ ∀ g, (t.core c).group? slot = some g →
          (g.dbg = .running → exec (.debugStop c slot) s = .next (t.setGroup c slot { g with dbg := .stopPending }))
          ∧ (g.dbg ≠ .running → exec (.debugStop c slot) s = .next t)
          ∧ (g.dbg = .stopped →
              let g' := { g.pastBkpt (fun _ => true) with dbg := .stepping }
              exec (.debugResume c slot) s = .next (t.setGroup c slot { g.pastBkpt (fun _ => true) with dbg := .running })
              ∧ exec (.debugStepGroup c slot) s = .next { t.setGroup c slot g' with
                  agenda := (g'.entryOrder.map fun id => .entry c slot id) ++ .stepEnd c slot :: t.agenda })
          ∧ (g.dbg ≠ .stopped → exec (.debugResume c slot) s = .next t ∧ exec (.debugStepGroup c slot) s = .next t))

/-- R277, R455: a write to a register that the part has goes through: firmware's to the mask registers under R277 and to any
other as its bits allow, the hypervisor's and a tenant's to what they may write and no further. No tenant's write arrives at a
register that only firmware writes. -/
def RegisterWritesComplete : Prop :=
  ∀ (s : State) (reg : MmioReg) (w : W64), regExists reg = true →
    exec (.registerWrite reg w .hypervisor) s = .next (s.hvWrite reg w)
    ∧ (∀ v, firmwareOnly reg = false → exec (.registerWrite reg w (.tenant v)) s = .next (s.tenantWrite v reg w))
    ∧ (∀ v, firmwareOnly reg = true → exec (.registerWrite reg w (.tenant v)) s = .refused (.notEnabled "REGISTER_WRITE"))
    ∧ ((∀ d, reg ≠ .l2sPway d) → (∀ d v, reg ≠ .l2sVfway d v) →
        exec (.registerWrite reg w .firmware) s = .next (s.fwWrite reg w))
    ∧ (∀ d, reg = .l2sPway d → exec (.registerWrite reg w .firmware) s = exec (.l2sPwayWrite d (w.setWidth 32)) s)
    ∧ (∀ d v, reg = .l2sVfway d v → exec (.registerWrite reg w .firmware) s = exec (.l2sVfwayWrite d v (w.setWidth 32)) s)

/-- R52, R67, R271, R279, R306, R338, R358, R361, R377, R381, R420, R422, R437, R439, R444, R447, R455: what those writes do. A
read-write field takes its bits and a reserved one stays 0; a bit that is cleared by writing 1 keeps its value under a 0; a
read-only register is unchanged by everyone. The hypervisor changes FWC_ERRCFG, HEAD of FWC_ERRIDX, FWC_KILL and the
doorbells of queue group 127, and nothing else; a tenant changes no register that only firmware writes, and none of another
virtual function. -/
def RegisterFieldsTakeWrites : Prop :=
  ∀ (s : State) (w : W64),
    let lo : W32 := w.setWidth 32
    let after := fun (reg : MmioReg) => (s.fwWrite reg w).regValue reg
    let z := fun (x : W32) => (x.setWidth 64 : W64)
    (∀ d, after (.l2sSeqto d) = z (lo &&& 0x00FFFFFF) ∧ after (.fabCtl d) = z (lo &&& 0x0000FF01)
      ∧ after (.memcScrub d) = z (lo &&& 0xFFFF00F1)
      ∧ after (.l2sWmstat d) = z ((s.die d).wmstat &&& ~~~(lo &&& 0x8000)))
    ∧ (∀ c, after (.eseCtl c) = z (lo &&& 0x0000FFFF))
    ∧ (∀ n, after (.distKick n) = z (KMap.getD s.dist.kick n 0 &&& ~~~lo))
    ∧ after .distPto = z (lo &&& 0x00FFFFFF)
    ∧ (∀ v, after (.fwcHpol v) = z (lo &&& 0x1F) ∧ after (.distNbase v) = w &&& 0x007FFFFFFFFFFFE0
      ∧ after (.distNctl v) = z ((lo &&& 0xFFFF001F) ||| ((s.vf v).nctl &&& 0x8000 &&& ~~~lo)))
    ∧ after .siftCtl = z (lo &&& 0xFF007F01)
    ∧ after .fwcSched = z ((s.fwc.sched &&& 0xFF00000D) ||| (lo &&& 0x00FF0000))
    ∧ (lo.getLsbD 4 = true → (s.fwWrite .fwcSched w).fwc.lastBeat = s.clk.time)
    ∧ (s.fwWrite .selRctl w).sel.rctl = lo &&& 0x0000FF00
    ∧ (∀ h, h < 4 → s.sel.heads.length = 4 → after (.selFrdy h) = z lo
      ∧ after (.scanStat h) = z ((lo &&& 0xFFFF0000) ||| ((s.head h).stat &&& ~~~(lo &&& 7) &&& 7)))
    ∧ (∀ reg ∈ [MmioReg.fwcPkgid, .fwcErrcfg, .fwcErridx, .fwcKill], s.fwWrite reg w = s)
    ∧ (∀ v, s.fwWrite (.distNstat v) w = s ∧ s.fwWrite (.selFrtn v) w = s)
    ∧ (s.hvWrite .fwcErrcfg w).regValue .fwcErrcfg = w &&& 0x007FFFFFFFFFF0F1
    ∧ (s.hvWrite .fwcErridx w).regValue .fwcErridx = (s.fwc.erridx &&& 0xFFFFFFFF00000000) ||| (w &&& 0xFFFFFFFF)
    ∧ (w.getLsbD 0 = false →
        (s.hvWrite .fwcKill w).regValue .fwcKill = (w &&& 0x0000FFFFFFE00000) ||| (s.fwc.kill &&& 2))
    ∧ (∀ reg, reg ≠ .fwcErrcfg → reg ≠ .fwcErridx → reg ≠ .fwcKill → (∀ k, reg ≠ .distDbell 127 k) → s.hvWrite reg w = s)
    ∧ (∀ v reg, firmwareOnly reg = true → s.tenantWrite v reg w = s)
    ∧ (∀ v x k, x ≠ v → s.tenantWrite v (.distDbell x k) w = s ∧ s.tenantWrite v (.distNbase x) w = s
        ∧ s.tenantWrite v (.distNctl x) w = s)
    ∧ ∀ v x, s.tenantWrite v (.distNstat x) w = s ∧ s.tenantWrite v .fwcPkgid w = s ∧ s.tenantWrite v (.selFrtn x) w = s

/-- R408: the stage-2 fault that reached firmware first is answered, unless its page is being merged or moved: if an earlier one
has mended the page, or it is resolved, the entries that wait for the page go on; else it is declined, and
those of its cause trap at their next issue. -/
def Stage2FaultsResolve : Prop :=
  ∀ (s : State) (h : S2Hold) (t : List S2Hold), s.fwc.holds = h :: t → s.inWindow h.vf (h.ia / 65536) = false →
    let s1 := { s with fwc := { s.fwc with holds := t } }
    (s1.settled2 h.vf h.ia h.cause = true →
      exec .stage2FaultResolve s = .next (s1.wakeHeld h.vf (h.ia / 65536) none))
    ∧ (s1.settled2 h.vf h.ia h.cause = false →
        (∀ u, s1.resolve2 h.vf h.ia h.cause h.die = some u →
          exec .stage2FaultResolve s = .next (u.wakeHeld h.vf (h.ia / 65536) none))
        ∧ (s1.resolve2 h.vf h.ia h.cause h.die = none →
          exec .stage2FaultResolve s = .next (s1.wakeHeld h.vf (h.ia / 65536) (some h.cause))))

end Sys2Proof.Statements

/-- R382, R383, R384, R277, R455, R52, R67, R271, R279, R306, R338, R358: debugger steps, register writes by their fields and
stage-2 resolution complete: `DebuggerStepsComplete`, `RegisterWritesComplete`, `RegisterFieldsTakeWrites` and
`Stage2FaultsResolve`. -/
def Obligations.DebuggerAndRegisterStepsComplete : Prop :=
  Sys2Proof.Statements.DebuggerStepsComplete ∧ Sys2Proof.Statements.RegisterWritesComplete ∧
    Sys2Proof.Statements.RegisterFieldsTakeWrites ∧ Sys2Proof.Statements.Stage2FaultsResolve

namespace Sys2Proof.Statements

/-- R334, R355-R357, R456: firmware's answers to the hypervisor: a queue within R334 is made with read index 0; a configuration
within R27, R356 and R357 is written, the domains that it gains cleared; a virtual function is made with a fresh key; its
destruction kills its work and, once it has none, erases its frames' key and drops its translations; its address ranges are
described; a domain whose cores are empty is cleared and given away; a frame's owner byte changes where nobody concerned has work. What a rule forbids is answered as refused. -/
def HypervisorRequestsComplete : Prop :=
  ∀ (s : State), s.booted = true →
    let refused := s.reply .refused
    (∀ q base logn, q < 1024 → base % 32 = 0 → 4 ≤ logn → logn ≤ 16 → KMap.get? s.dist.queues q = none →
      exec (.createQueue q base logn) s
        = .next (s.setQueue q { base := base, logn := logn, r := 0, widx := 0, waiting := none, blocked := false }))
    ∧ (∀ q base logn, 1024 ≤ q ∨ base % 32 ≠ 0 ∨ logn < 4 ∨ 16 < logn → exec (.createQueue q base logn) s = .next refused)
    ∧ (∀ v cfg, v < 127 →
        let new := { s.vf v with cfg := cfg }
        (vfCfgOk cfg = true → new.valid = (s.vf v).valid → s.domainClash v new = false →
          sharesFit (KMap.put s.vfs v new) (bits s.sel.bwres.toNat 3 0) = true →
          let gained := (List.range 12).filter fun k => new.ownsDomain k && !(s.vf v).ownsDomain k
          let u := gained.foldl (fun u k => u.giveDomain k v) s
          exec (.vfConfigWrite v cfg) s = .next (u.setVf v { u.vf v with cfg := cfg }))
        ∧ (vfCfgOk cfg = false → exec (.vfConfigWrite v cfg) s = .next refused))
    ∧ (∀ v r1 r2, v < 127 → s.fwRuns 2 = true → (s.vf v).valid = false →
        exec (.vfCreate v r1 r2) s = .next { (s.setVf v { Vf.reset with
          cfg := { VfCfgWords.zero with w00 := 0x8000000000000000 }, root1 := some r1, root2 := some r2
          key := some s.fwc.nextKey }) with
          fwc := { s.fwc with nextKey := s.fwc.nextKey + 1 }
          cores := s.cores.map fun c => (c.1, if c.2.lastVf = some v then { c.2 with bankWrites := 0 } else c.2) })
    ∧ (∀ v, v < 127 → (s.vf v).valid = true →
        (s.sel.running = true ∧ s.sel.killed = true ∧ s.load.vf = v → s.groupsOf v ≠ []) →
        let k := s.killVf v 3
        (k.vfBusy v = true → exec (.vfDestroy v) s = .next k)
        ∧ (k.vfBusy v = false → exec (.vfDestroy v) s = .next ((({ k with
          noise := k.noise ++ k.framesOf v
          fwc := { k.fwc with
            holds := k.fwc.holds.filter fun h => decide (h.vf ≠ v)
            merged := k.fwc.merged.filter fun m => decide (m.1 ≠ v) } }).setVf v Vf.reset).dropTlb fun t => decide (t.vf = v))))
    ∧ (∀ v rs allow pages, v < 127 → rs.length ≤ 64 → (s.vf v).valid = true →
        (allow.all (s.mayAllow v) = false → exec (.iaRanges v rs allow pages) s = .next refused)
        ∧ (allow.all (s.mayAllow v) = true →
            let u := s.reclaim v
            exec (.iaRanges v rs allow pages) s = .next (u.setVf v { u.vf v with
              ranges := rs
              allowance := allow.eraseDups.filter fun f => !(u.vf v).taken.any fun t => decide (t.1 = f)
              mmio := pages })))
    ∧ (∀ k v, k < 12 → v < 127 → (s.vf v).valid = true → (s.die (k / 3)).lost = false →
        let freed := s.vfs.map fun (e : Nat × Vf) => (e.1, e.2.setDomain k false)
        sharesFit (KMap.put freed v ((s.vf v).setDomain k true)) (bits s.sel.bwres.toNat 3 0) = true →
        (s.vf v).ownsDomain k = false → (∀ c ∈ domainCores k, (s.core c).groups = []) →
        let u := (domainCores k).foldl (fun u c => u.assign c v) { s with vfs := freed }
        exec (.domainMove k v) s = .next (u.setVf v ((u.vf v).setDomain k true)))
    ∧ ∀ f (owner : Byte) nk, populated (65536 * f) = true → s.fwRuns 2 = true → s.ownerOf f ≠ 0xFF → owner ≠ 0xFF →
        ((s.vf ((s.ownerOf f).toNat % 128)).valid && s.vfBusy ((s.ownerOf f).toNat % 128)) = false →
        ((s.vf (owner.toNat % 128)).valid && s.vfBusy (owner.toNat % 128)) = false →
        (nk = true → (s.vf (owner.toNat % 128)).valid = true) →
        ∃ t, exec (.frameOwnerChange f owner nk) s = .next t ∧ t.ownerOf f = owner

/-- R362, R364: a plug-in of at most 256 KiB is loaded and answered; its decision, where nothing is selected for the core yet,
selects the candidate that it names, and a call beyond 100,000 instructions, one that traps, as an access that PMP refuses
does, and one that names no candidate leave the choice to R342; what it may do changes its own data alone; an attestation report holds the nonce, the digests of the image, the plug-ins and the configuration,
the package and their signature, or is refused where the security core does not run. -/
def PluginsAndAttestationComplete : Prop :=
  ∀ (s : State),
    (∀ id code, s.booted = true → code.length ≤ 262144 → exec (.pluginLoad id code) s
      = .next ({ s with fwc := { s.fwc with
          plugins := (s.fwc.plugins.filter fun (p : Plugin) => decide (p.id ≠ id)) ++ [({ id := id, code := code, data := [] } : Plugin)] } }.reply (.pluginLoaded id)))
    ∧ (∀ id c p, s.fwc.plugins.find? (fun p => decide (p.id = id)) = some p → KMap.get? s.dist.chosen c = none →
        getAt s.fwc.modes s.activeFw .machine = .supervisor →
        let byRule := fun (u : State) => match u.select c with
          | (t, some x) => t.choose c x
          | (t, none) => t
        (∀ n count, count ≤ 100000 →
          (∀ x, (s.allCands c).2[n]? = some x → exec (.pluginCall id c (.decision n count)) s = .next ((s.allCands c).1.choose c x))
          ∧ ((s.allCands c).2[n]? = none → exec (.pluginCall id c (.decision n count)) s = .next (byRule s)))
        ∧ (∀ n count, 100000 < count → exec (.pluginCall id c (.decision n count)) s = .next (byRule s))
        ∧ exec (.pluginCall id c .trapped) s = .next (byRule s)
        ∧ ∀ acts n count,
          let u := s.setPlugin (p.run acts).1
          ((p.run acts).2 = true → count ≤ 100000 → exec (.pluginCall id c (.ran acts n count)) s = .next (u.selectDecided c n))
          ∧ ((p.run acts).2 = false ∨ 100000 < count → exec (.pluginCall id c (.ran acts n count)) s = .next (byRule u)))
    ∧ (∀ (p : Plugin) (a : PluginAct) (rest : List PluginAct),
        (p.allows a = true → p.run (a :: rest) = (p.act a).run rest) ∧ (p.allows a = false → p.run (a :: rest) = (p, false)))
    ∧ ∀ v nonce, s.booted = true →
        let ps := s.fwc.plugins.map fun p => sha512 p.code
        let cfg := sha512 (cfgBytes (s.vf v).cfg)
        exec (.attestationReport v nonce) s = .next (if s.fwRuns 2 then
          { s with frees := s.frees + 1 }.reply (.attestation nonce s.fwc.imageDigest ps cfg s.fwc.pkgid
            (ecdsaSign Config.identityKey (Config.signNonce s.frees)
              (sha512 (reportBytes nonce s.fwc.imageDigest ps cfg s.fwc.pkgid))))
          else s.reply .refused)

end Sys2Proof.Statements

/-- R334, R355, R356, R357, R456, R27, R362, R364, R342: firmware answers the hypervisor, plug-ins and attestation:
`HypervisorRequestsComplete` and `PluginsAndAttestationComplete`. Model's choices: VF create sets VALID, firmware takes table
frames from the allowance, how a plug-in call ends is an operand, and the algorithms are the public standards' (log 14, 36,
41). -/
def Obligations.FirmwareRequestsComplete : Prop :=
  Sys2Proof.Statements.HypervisorRequestsComplete ∧ Sys2Proof.Statements.PluginsAndAttestationComplete

namespace Sys2Proof.Statements

/-- R23, R24, R31-R34, R363: boot checks the image and, where it is good, starts the four cores with its sections, fills FWC_PKGID
and scrubs memory, and else holds the part; a die at 105 °C stops the clocks with an event; they restart with Selham's units
reloaded and the host's accesses done a second or more later, or stay stopped; one power step moves the arithmetic clock by
100 MHz. -/
def BootAndThermalStepsComplete : Prop :=
  ∀ (s : State),
    (∀ image signature dies (dev : Byte), s.booted = false → s.fwc.securityOk = true →
      ∃ t, exec (.boot image signature dies dev) s = .next t
        ∧ (imageGood image signature = false → t.booted = false ∧ t.fwc.securityOk = false
            ∧ t.fwc.cores = [.inReset, .inReset, .inReset, .inReset])
        ∧ (imageGood image signature = true → t.booted = true ∧ t.mem = []
            ∧ t.fwc.sections = image.sections ∧ t.fwc.cores = [.running, .running, .running, .running]
            ∧ t.fwc.pkgid = BitVec.ofNat 32 (0x96020000 + dies.toNat * 2 ^ 11 + dev.toNat)))
    ∧ (∀ up, s.booted = true → s.fwRuns 3 = true → s.clk.thermal = .running →
        (if up then s.clk.arithMhz < 3600 else 100 < s.clk.arithMhz) →
        let m := if up then s.clk.arithMhz + 100 else s.clk.arithMhz - 100
        exec (.powerLimitStep up) s = .next { s with clk := { s.clk with arithMhz := m, fabMhz := 2400 * m / 3600 / 100 * 100 } })
    ∧ (∀ d, d < 5 → s.booted = true → s.clk.thermal = .running → s.fwRuns 3 = true →
        exec (.thermalStop d) s = .next ({ s with clk := { s.clk with thermal := .stopped, stopTime := s.clk.time } }.raise (srcFw 3)
          { Event.blank with code := codeThermal, cls := 1, block := 17, die := d, unit := 3 }))
    ∧ (∀ d, d < 5 → s.clk.thermal = .stopped → s.fwRuns 3 = true →
        exec (.thermalHold d) s = .next ({ s with clk := { s.clk with thermal := .held } }.raise (srcFw 3)
          { Event.blank with code := codeThermal, cls := 1, block := 17, die := d, unit := 3 }))
    ∧ (s.clk.thermal = .stopped → s.fwRuns 3 = true → s.clk.stopTime + 1000000000 ≤ s.clk.time →
        s.clk.time ≤ s.clk.stopTime + 11000000000 →
        exec .thermalRestart s = .next (s.clk.hostWaits.foldl State.hostDo ({ s with clk := { s.clk with
          thermal := .running, arithMhz := 3000, fabMhz := 2000, hostWaits := [] } }.reloadSelham)))

/-- R32, R335, R352-R354, R358, R455: an access of the host or of a peer to memory is done while the clocks run and waits while
they do not, until its timeout: then it is answered with nothing and an event. A read of frames that it may not reach gives
all ones, with an event. An access through a BAR reads a register, or writes the words of it that it covers whole as the
hypervisor or the tenant; configuration space is read, an absent capability is answered as such, the security core sets the keys
of IDE, and an access to a peer's memory leaves on its port. A snoop of a
line that the part caches is answered with the line, which is then clean or gone, and of any other with a miss. -/
def HostAccessesComplete : Prop :=
  ∀ (s : State),
    (∀ port uio wr range off data, s.booted = true → port < 2 → range < 4 → off + data.length ≤ 0x1200000000 →
      let a : HostAccess := { port := port, uio := uio, write := wr, space := .hdm range, offset := off, data := data }
      exec (.hostMemAccess port uio wr (.hdm range) off data) s = .next (if s.clk.thermal = .running then s.hostDo a
        else { s with clk := { s.clk with hostWaits := s.clk.hostWaits ++ [a] } }))
    ∧ (∀ reg off data, s.booted = true → regExists reg = true →
        let read := { s with clk := { s.clk with
          hostOut := s.clk.hostOut ++ [HostMsg.data 0 (((leBytes 8 (s.regValue reg).toNat).drop off).take data.length)] } }
        exec (.hostMemAccess 0 false false (.pfBar reg) off data) s = .next read
        ∧ (∀ value, coverWords (s.regValue reg) (wideReg reg) off data = some value →
            exec (.hostMemAccess 0 false true (.pfBar reg) off data) s = .next (s.hvWrite reg value))
        ∧ (coverWords (s.regValue reg) (wideReg reg) off data = none →
            exec (.hostMemAccess 0 false true (.pfBar reg) off data) s = .next s)
        ∧ ∀ v, inVfBar v reg = true → exec (.hostMemAccess 0 false false (.vfBar v reg) off data) s = .next read
          ∧ ∀ value, coverWords (s.regValue reg) (wideReg reg) off data = some value →
            exec (.hostMemAccess 0 false true (.vfBar v reg) off data) s = .next (s.tenantWrite v reg value))
    ∧ (∀ (cur x : W64) (y : W32), coverWords cur true 0 (leBytes 8 x.toNat) = some x
        ∧ coverWords cur true 0 (leBytes 4 y.toNat) = some (hi32 cur ++ y)
        ∧ coverWords cur true 4 (leBytes 4 y.toNat) = some (y ++ lo32 cur)
        ∧ coverWords cur false 0 (leBytes 4 y.toNat) = some (0#32 ++ y)
        ∧ coverWords cur false 4 (leBytes 4 y.toNat) = none)
    ∧ (∀ (off : Nat) (data : List Byte) (v : Nat), s.booted = true → off + data.length ≤ 4096 →
        exec (.hostMemAccess 0 false false (.config (some v)) off data) s = .next (if v < 128 then s.sendHost (.data 0
            ((List.range data.length).map fun i => Config.configByte (v + 1) (off + i) s.clk.config))
          else s.sendHost (.absentCapability 0)))
    ∧ (∀ port uio wr off data, s.booted = true → port < 2 →
        exec (.hostMemAccess port uio wr .absent off data) s = .next (s.sendHost (.absentCapability port)))
    ∧ (∀ p off data, s.booted = true → p < 3 → s.fwRuns 2 = true →
        exec (.hostMemAccess 0 false true (.ideKey p) off data) s = .next { s with
          clk := { s.clk with ideKeys := KMap.put s.clk.ideKeys p s.fwc.nextKey }, fwc := { s.fwc with nextKey := s.fwc.nextKey + 1 } })
    ∧ (∀ port wr range off data, s.booted = true → port < 2 → range < 4 →
        exec (.hostMemAccess port true wr (.peer range) off data) s = .next (s.sendHost (.peerAccess port wr range off data)))
    ∧ (∀ a t range, s.clk.hostWaits = a :: t → a.space = .hdm range → s.clk.thermal ≠ .running → exec .hostAccessTimeout s
        = .next ({ s with clk := { s.clk with hostWaits := t, hostOut := s.clk.hostOut ++ [HostMsg.data a.port []] } }.raise (srcPort a.port)
            { Event.blank with
              code := codeHostDenied, cls := 1, block := 22, die := 4, unit := a.port
              addr := BitVec.ofNat 64 (range * 2 ^ 40 + a.offset) }))
    ∧ (∀ addr inv, s.booted = true →
        ((s.clk.hostLines.find? fun l => decide (l.addr = addr / 64)) = none → exec (.hostSnoop addr inv) s
          = .next { s with clk := { s.clk with hostOut := s.clk.hostOut ++ [HostMsg.snoopMiss addr] } })
        ∧ ∀ l, (s.clk.hostLines.find? fun l => decide (l.addr = addr / 64)) = some l →
            let keep := s.clk.hostLines.filter fun x => decide (x.addr ≠ l.addr)
            exec (.hostSnoop addr inv) s = .next { s with clk := { s.clk with
              hostOut := s.clk.hostOut ++ [HostMsg.snoopHit addr l.bytes l.dirty]
              hostLines := if inv then keep else keep ++ [{ l with dirty := false }] } })
    ∧ ∀ (a : HostAccess) range, a.space = .hdm range → a.write = false → a.data ≠ [] →
        a.offset / 65536 = (a.offset + a.data.length - 1) / 65536 →
        let f := (range * 2 ^ 40 + a.offset) / 65536
        (s.hostMay a.uio f = true →
          (s.hostDo a).mem = s.mem ∧ (s.hostDo a).clk.hostOut = s.clk.hostOut
            ++ [HostMsg.data a.port ((List.range a.data.length).map fun i => s.byte (range * 2 ^ 40 + a.offset + i))])
        ∧ (s.hostMay a.uio f = false →
          (s.hostDo a).mem = s.mem ∧ (s.hostDo a).clk.hostOut = s.clk.hostOut ++ [HostMsg.data a.port (List.replicate a.data.length 0xFF#8)])

end Sys2Proof.Statements

/-- R23, R24, R31, R32, R33, R34, R363, R335, R352, R353, R354, R358: boot, thermal stops and host accesses complete:
`BootAndThermalStepsComplete` and `HostAccessesComplete`. Model's choices: the fabric clock of an arithmetic clock and the 1 s
in which the clocks restart (log 36), no step below 100 MHz (log 40), the image's header (log 9) and what a line of host
memory holds (log 37). -/
def Obligations.BootThermalAndHostComplete : Prop :=
  Sys2Proof.Statements.BootAndThermalStepsComplete ∧ Sys2Proof.Statements.HostAccessesComplete

/-- R104, R361, R365, R410, R416, R420: the sifter opens a merge of two pages that it may merge, their entries without W, writes
their frames back, and ends it in one copy-on-write frame, or gives it up where a store waits or the frames have come to
differ; a check of a place leaves it clean, counts a corrected error of its frame within one pass, and marks what is
uncorrectable, with an event where that calls for one; a frame with RETIRE corrections is written back and moved to a spare one,
whose owner and mappings the spare then has, or stays where it is pinned, its errors reported by its controller. -/
def Obligations.MemoryCareCompletes : Prop :=
  ∀ (s : State),
    (∀ ia1 ia2 root a1 a2,
      let v := bits s.fwc.sift.toNat 14 8
      let e1 := s.readNat a1 8
      let e2 := s.readNat a2 8
      s.booted = true → s.clk.thermal = .running → s.fwc.window = none →
      bit s.fwc.sift.toNat 0 = true → (s.vf v).hpol.getLsbD 3 = true →
      (s.vf v).root2 = some root → s.leafAddr2 root ia1 = some a1 → s.leafAddr2 root ia2 = some a2 →
      s.maySift v ia1 ia2 a1 a2 = true →
      exec (.sifterMerge ia1 ia2) s = .next (s.openWindow
        { merge := true, ia1 := ia1, ia2 := ia2, frame := 0, spare := 0
          entries := [(v, ia1 / 65536, a1, e1), (v, ia2 / 65536, a2, e2)] } [frameOf e1 / 65536, frameOf e2 / 65536]))
    ∧ (∀ (w : MoveWindow) v p1 a1 e1 v2 p2 a2 e2, s.booted = true → s.clk.thermal = .running →
        s.fwc.window = some w → w.merge = true → w.entries = [(v, p1, a1, e1), (v2, p2, a2, e2)] →
        let waits := s.fwc.holds.any fun h => decide (h.vf = v) && (decide (h.ia / 65536 = p1) || decide (h.ia / 65536 = p2))
        let alike := s.frameCells (frameOf e1 / 65536) = s.frameCells (frameOf e2 / 65536)
        let frames := [frameOf e1 / 65536, frameOf e2 / 65536]
        (frames.any s.frameDirty = true → frames.any s.mayClean = true →
          exec (.sifterMerge w.ia1 w.ia2) s = .next (frames.foldl State.cleanFrame s))
        ∧ (frames.any s.frameDirty = false →
          (waits = false → alike → exec (.sifterMerge w.ia1 w.ia2) s = .next (s.endMerge v w p1 p2 e1 e2 a1 a2))
          ∧ (waits = true ∨ ¬ alike → exec (.sifterMerge w.ia1 w.ia2) s = .next (s.abandonMerge w))))
    ∧ (∀ p src, s.scrubSource p = some src → s.clk.thermal = .running →
        exec (.patrolScrub p .clean) s = .next s
        ∧ (s.findable p .corrected = true → exec (.patrolScrub p .corrected) s = .next ((s.dropPlace p).countCorrected src p))
        ∧ (s.findable p .uncorrectable = true →
            ((s.markPlace p).2 = false → exec (.patrolScrub p .uncorrectable) s = .next (s.markPlace p).1)
            ∧ ((s.markPlace p).2 = true → ∃ e, e.code = scrubCode p ∧ e.cls = 1 ∧ e.addr = scrubAddr p
                ∧ exec (.patrolScrub p .uncorrectable) s = .next ((s.markPlace p).1.raise src e))))
    ∧ (∀ d f, let pass := s.scrubPass d
        let x := KMap.getD s.fwc.corrected f (pass, 0)
        let now := KMap.getD (s.countFrame d f).fwc.corrected f (0, 0)
        (x.1 = pass → now = (pass, x.2 + 1))
        ∧ (x.1 ≠ pass → s.retireLimit d = 0 ∨ x.2 < s.retireLimit d → now = (pass, 1)))
    ∧ (∀ f spare, s.booted = true → s.clk.thermal = .running → s.fwc.window = none →
        let limit := s.retireLimit (homeDie (65536 * f))
        limit ≠ 0 → limit ≤ (KMap.getD s.fwc.corrected f (0, 0)).2 →
        let t := { s with fwc := { s.fwc with corrected := KMap.del s.fwc.corrected f } }
        (s.ownerOf f = 0xFF ∨ s.pinnedFrame f = true → exec (.frameRetirement f spare) s = .next t)
        ∧ (s.ownerOf f ≠ 0xFF → s.pinnedFrame f = false → populated (65536 * spare) = true → s.withheld (65536 * spare) = false →
            KMap.get? s.fwc.owners spare = none → spare ≠ f →
            exec (.frameRetirement f spare) s = .next (t.openWindow
              { merge := false, ia1 := 0, ia2 := 0, frame := f, spare := spare
                entries := (t.vfs.map Prod.fst).flatMap fun v => t.mapsOf v f } [f])))
    ∧ ∀ w : MoveWindow, s.booted = true → s.clk.thermal = .running → s.fwc.window = some w → w.merge = false → w.spare ≠ w.frame →
        (s.frameDirty w.frame = true → s.mayClean w.frame = true →
          exec (.frameRetirement w.frame w.spare) s = .next (s.cleanFrame w.frame))
        ∧ (s.frameDirty w.frame = false → exec (.frameRetirement w.frame w.spare) s = .next (s.endRetirement w)
          ∧ (s.endRetirement w).ownerOf w.frame = 0xFF ∧ (s.endRetirement w).ownerOf w.spare = s.ownerOf w.frame)

/-! ## Steps, words and reset -/

/-- A step runs the word of an input that has come, or of the agent whose turn it is: an input goes before every agent; with no
input waiting, the clocks running and the agent at the head of the agenda, `step` is `exec` of the instruction that the agent's
fetch gives, in the state in which the agent has the turn. For an entry, whose word at the PC lies in executable memory and
decodes to a well-formed instruction, that instruction is theirs, with the literal word at the PC plus 8 where it has one (R162,
R385). The word is the one in memory, its eight bytes there, where no store has replaced it since a launch was accepted (R163).
While the clocks are stopped no agent has a turn (R32). -/
def Obligations.StepRunsDecoded : Prop :=
  ∀ (s : State), s.fwc.securityOk = true →
    (∀ i t, s.nextInput = some (i, t) → step s = idleUnless t (exec i t))
    ∧ (∀ i rest, s.clk.thermal = .running → s.inbox = i :: rest → s.nextInput = some (i, { s with inbox := rest }))
    ∧ (s.clk.thermal ≠ .running → s.nextInput = none → step s = s.goOn)
    ∧ (∀ (l pa : Nat), (∀ o ∈ s.oldCode, o.word ≠ pa / 8) →
        s.codeWord l pa = (s.word pa, s) ∧ wordBytes (s.word pa) = s.bytes pa 8)
    ∧ ∀ (a : Agent) (rest : List Agent), s.clk.thermal = .running → s.inbox = [] → s.agenda = a :: rest →
      let t := { s with agenda := rest }
      (∀ i u, t.handOut a = none → t.fetch a = .run i u → step s = exec i u)
      ∧ ∀ (c slot : Nat) (id : EntId) (g : Group) (e : Entry) (i : Instr), a = .entry c slot id →
          (t.core c).group? slot = some g → g.entry? id = some e → t.mayIssue c slot g e = true → WellFormed i →
          let u := t.setCore c ((t.core c).setEntry slot e.issuing)
          ∀ pa, u.fetchPa c g.vf e.pc.toNat = .ok pa →
            let w := (u.noteXlate c g.vf e.pc.toNat .ex).codeWord g.launch pa
            (hasLiteral w.1 = false → decode .compute (wordBytes w.1) = .ok (i, []) →
              step s = exec i { w.2 with turn := some (.entry c slot id) })
            ∧ ∀ pb, hasLiteral w.1 = true → w.2.fetchPa c g.vf (e.pc + 8).toNat = .ok pb →
                let x := (w.2.noteXlate c g.vf (e.pc + 8).toNat .ex).codeWord g.launch pb
                decode .compute (wordBytes w.1 ++ wordBytes x.1) = .ok (i, []) →
                step s = exec i { x.2 with turn := some (.entry c slot id) }

/-- R160-R174, R245, R246, R314, R323, R336: words written out from the spec's encodings decode to the instructions that they
stand for, one or two of each stream. -/
def Obligations.WordsDecodeAsTheSpecSays : Prop :=
  let g : Guard := { stall := 3, pn := true, pred := 5 }
  let v3 : V3 := { g := g, d := 1, a := 2, b := 3, c := 4, lit := false, bi := true, ty := 0, rm := 0, na := false, nb := false
                   nc := false, aa := false, func := 0, literal := 0 }
  decode .compute [0x00, 0x40, 0x04, 0x03, 0x02, 0x01, 0x3D, 0x00] = .ok (.iadd v3, [])
  ∧ decode .compute [0x02, 0x80, 0x00, 0x00, 0x02, 0x01, 0x07, 0x26, 0xEF, 0xBE, 0xAD, 0xDE, 0, 0, 0, 0]
      = .ok (.bilv { v3 with g := ⟨0, false, 7⟩, b := 0, c := 0, lit := true, bi := false, func := 2, literal := 0xDEADBEEF }, [])
  ∧ decode .compute [0xFC, 0xFF, 0x54, 0x03, 0x02, 0x01, 0x07, 0xB0]
      = .ok (.ld { g := ⟨0, false, 7⟩, d := 1, a := 2, b := 3, scope := 2, ord := 2, size := 4, imm16 := 0xFFFC }, [])
  ∧ decode .compute [0xF8, 0xFF, 0xFF, 0xFF, 0, 0, 0x00, 0x41]
      = .ok (.bra { g := ⟨0, false, 0⟩, z := 0, a := 0, off := 0xFFFFFFF8 }, [])
  ∧ decode .engine [0x05, 0xC0] = .ok (.loop 5, [])
  ∧ decode .engine [0x34, 0x12] = .ok (.lit 0x1234, [])
  ∧ (∃ i, decode .cluster [0x10, 0x00, 0xC5, 0x1F, 0x0C, 0x04, 0x81, 0x80] = .ok (.cluIadd i, []) ∧ i.s = true ∧ i.p = false
      ∧ i.d = 1 ∧ i.a = 2 ∧ i.b = 3 ∧ i.c = 3 ∧ i.gn = true ∧ i.gp = 15 ∧ i.fn = 5 ∧ i.imm = 16)
  ∧ (∃ o, decode .selFetch [0x40, 0, 0, 0, 0x03, 0x02, 0, 0x15, 0, 0, 0x01, 0, 0, 0, 0, 0xFE] = .ok (.fetch o, []) ∧ o.tk = true
      ∧ o.k = 2 ∧ o.lso = 1 ∧ o.lenm = 3 ∧ o.atClk = 0 ∧ o.lstride = 64 ∧ o.roff = 0x7F ∧ o.ia = 0x10000)
  ∧ decode .compute [0, 0, 0, 0, 0, 0, 0, 0x0D] = .ok (.unassignedOpcode 0x0D00000000000000, [])
  ∧ decode .cluster [0, 0, 0, 0, 0, 0, 0, 0x07] = .error .unassignedClusterOpcode

/-- R160-R174, R245, R246, R309, R323, R336: decode and encode agree: the bytes that a well-formed instruction of any word stream
encodes to decode to that instruction, every field at every value, and leave what follows alone. -/
def Obligations.DecodeOfEncode : Prop :=
  ∀ (i : Instr) (st : Stream) (bs rest : List Byte), WellFormed i → encode i = some (st, bs) → decode st (bs ++ rest) = .ok (i, rest)

/-- The state after reset: memory is in canonical form and no agent has the turn, nothing is resident, and the registers
whose reset values the spec gives hold them (R23, R33, R52, R67, R86, R87, R271, R279, R307, R308, R338, R358, R361, R377,
R381, R382, R420, R422, R437, R439, R444, R447). -/
def Obligations.ResetIsSound : Prop :=
  let s := State.reset
  s.Sound ∧ s.clk.compute = 0 ∧ s.clk.arithMhz = 3600 ∧ s.clk.fabMhz = 2400 ∧ s.fwc.pkgid = 0x9602F830
    ∧ (∀ c, (s.core c).eseCtl = 0x400 ∧ (s.core c).dbg = 0 ∧ (s.core c).groups = [] ∧ (s.core c).frames = [])
    ∧ (∀ c q, q < 4 → ((s.core c).quarter q).sched = 0x10040)
    ∧ (∀ d, (s.die d).pway = 0 ∧ (s.die d).wmstat = 0 ∧ (s.die d).seqto = 0x10000 ∧ (s.die d).fabCtl = 0x3001
        ∧ (s.die d).memcScrub = 0x180041)
    ∧ (∀ d v, KMap.getD (s.die d).vfway v 0xFFFF = 0xFFFF)
    ∧ (∀ v, (s.vf v).valid = false ∧ (s.vf v).hpol = 0)
    ∧ s.dist.queues = [] ∧ s.dist.launches = [] ∧ (∀ n, KMap.getD s.dist.kick n 0 = 0) ∧ s.dist.pto = 0x2710
    ∧ s.fwc.errcfg = 0 ∧ s.fwc.erridx = 0 ∧ s.fwc.kill = 0 ∧ s.fwc.sched = 0xA0000 ∧ s.fwc.sift = 0x10000000
    ∧ s.sel.bwres = 0 ∧ s.sel.rctl = 0x800 ∧ (∀ h, h < 4 → (s.selHead h).frdy = 0 ∧ (s.selHead h).frtn = 0 ∧ (s.selHead h).stat = 0)

/-! ## Traps (R369-R374) -/

namespace Sys2Proof.Statements

/-- R69, R225, R369, R371, R372, R374: a trap of an entry outside a handler, of a launch with a trap vector, goes to the vector
with the trap frame of the entry's slot: the pending results of the group are in place, waits for its monitors are over, the
trap's cause, the PC at the trap, the four information registers, the resume PC and the predicates are saved, and the entry
is in a handler there. TINFO2 is the index of the task that runs, all ones where none does; TINFO3 holds the lanes of the cause,
whether an adopted task runs, the adoption depth and the slot, with bits [19:9] zero. No other entry of the group may issue from
then on. Memory is as it was. Where handlers hold every slot of its quarter, such an entry does not issue. -/
def TrapEntrySaves : Prop :=
  ∀ (s : State) (c slot : Nat) (id : EntId) (t : Trap) (len : Nat) (g : Group) (e : Entry),
    (s.core c).group? slot = some g → g.entry? id = some e → e.handler = none → (s.launch g.launch).hdr.trapVec ≠ 0 →
    let u := s.takeTrap c slot id t len
    let k := ((s.core c).settleAll slot).wakeGroup slot
    SameMem s u ∧ (∀ d, d ≠ c → u.core d = s.core d)
    ∧ (k.ensurePlace slot id s.clk.compute = none → u = s)
    ∧ ∀ k' p, k.ensurePlace slot id s.clk.compute = some (k', p) →
      let i := 8 * quarterOf slot + p
      ∃ g' e' ts, (u.core c).group? slot = some g' ∧ g'.entry? id = some e' ∧ e'.handler = some i
        ∧ e'.pc = BitVec.ofNat 64 (s.launch g.launch).hdr.trapVec ∧ e'.mask = e.mask ∧ e'.frame = e.frame
        ∧ KMap.get? (u.core c).traps i = some ts
        ∧ ts.slot = slot ∧ ts.ent = id ∧ ts.tcause = BitVec.ofNat 32 t.cause.code ∧ ts.tpc = e.pc ∧ ts.tinfo0 = t.i0
        ∧ ts.tinfo1 = (if t.stage2 then t.i1 ||| 0x00800000 else t.i1) ∧ ts.resume = resumePc t.cause e.pc len
        ∧ ts.tinfo2 = (match runningTask k g e with
          | some h => BitVec.ofNat 32 (handleIndex h)
          | none => 0xFFFFFFFF)
        ∧ (slot < 512 → e.adepth + (if e.adopting.isSome then 1 else 0) < 8 →
            bits ts.tinfo3.toNat 31 24 = t.fmask.toNat ∧ bits ts.tinfo3.toNat 23 23 = (if inAdopted k e then 1 else 0)
            ∧ bits ts.tinfo3.toNat 22 20 = e.adepth + (if e.adopting.isSome then 1 else 0)
            ∧ bits ts.tinfo3.toNat 19 9 = 0 ∧ bits ts.tinfo3.toNat 8 0 = slot)
        ∧ (∀ f, f.id ≠ id → u.mayIssue c slot g' f = false)
        ∧ (∀ gs, k.group? slot = some gs → ts.pred = gs.preds)
        ∧ (∀ r, (u.core c).readLoc (.trap i r) = 0)
        ∧ (∀ l, (∀ r, l ≠ .trap i r) → (u.core c).readLoc l = k.readLoc l)
        ∧ (∀ j, j ≠ i → KMap.get? (u.core c).traps j = KMap.get? (s.core c).traps j)

/-- R373, R375: a trap of an entry in a handler, or of a launch without a trap vector, is fatal: its class 2 event goes to the
arbiter first, with the cause and information of the first trap. A first trap ends the group's waits for a monitor (R225). -/
def FatalTrapsReport : Prop :=
  ∀ (s : State) (c slot : Nat) (id : EntId) (t : Trap) (len : Nat) (g : Group) (e : Entry),
    (s.core c).group? slot = some g → g.entry? id = some e →
    (e.handler = none → (s.launch g.launch).hdr.trapVec = 0 →
      let u := s.raise (srcCore c) (fatalEvent c slot (s.core c) g e t.cause.code t.i0
        (if t.stage2 then t.i1 ||| 0x00800000 else t.i1) false t.va)
      s.takeTrap c slot id t len = (u.setCore c ((u.core c).wakeGroup slot)).fatalEnd c slot e)
    ∧ ∀ i ts, e.handler = some i → KMap.get? (s.core c).traps i = some ts →
        s.takeTrap c slot id t len = (s.raise (srcCore c)
          (fatalEvent c slot (s.core c) g e (bits ts.tcause.toNat 7 0) ts.tinfo0 ts.tinfo1 true ts.va)).fatalEnd c slot e

end Sys2Proof.Statements

/-- R69, R225, R369, R371, R372, R374, R373, R375: a trap saves the state and enters the handler, or is fatal and reported:
`TrapEntrySaves` and `FatalTrapsReport`. -/
def Obligations.TrapsEnterOrEnd : Prop :=
  Sys2Proof.Statements.TrapEntrySaves ∧ Sys2Proof.Statements.FatalTrapsReport

/-- R372: the return from a trap puts the entry at the resume PC with the predicates of the trap, outside the handler; its trap
frame is discarded, and no register of a frame changes but by the results that were pending. -/
def Obligations.TrapReturnRestores : Prop :=
  ∀ (s : State) (c slot i : Nat) (e : Entry) (g : Group) (ts : TrapState),
    let k := (s.core c).settleAll slot
    e.handler = some i → k.group? slot = some g → (∃ e0, g.entry? e.id = some e0) → KMap.get? k.traps i = some ts →
    let u := s.returnFromTrap c slot e
    SameMem s u ∧ (∀ d, d ≠ c → u.core d = s.core d)
    ∧ (∃ g' e', (u.core c).group? slot = some g' ∧ g'.preds = ts.pred ∧ g'.entry? e.id = some e' ∧ e'.pc = ts.resume
        ∧ e'.handler = none ∧ e'.mask = e.mask ∧ e'.frame = e.frame)
    ∧ KMap.get? (u.core c).traps i = none
    ∧ ∀ l, (∀ r, l ≠ .trap i r) → (u.core c).readLoc l = k.readLoc l

/-! ## Results and frames (R54-R56) -/

/-- R54: a fixed-latency result is in its register from its latency on and not before: settled at an earlier clock, no register
has changed; settled at a later one, the destination has taken the lanes of the mask and no other register has changed. -/
def Obligations.FixedResultsLandAfterTheirLatency : Prop :=
  ∀ (s : State) (x : Iss) (sp : Spec) (lat f : Nat) (m : Mask) (v : Reg) (l : RegLoc) (g : Group) (now : Nat),
    (s.core x.c).group? x.slot = some g → g.pend = [] → locOf (s.core x.c) x.e f = some l → (s.core x.c).holds l →
    let k := s.core x.c
    let u := ((s.afterFixed x sp lat [(f, m, v)] []).core x.c).settle x.slot fun p => decide (p.ready ≤ now)
    (now < x.now + lat → ∀ r, u.readLoc r = k.readLoc r)
    ∧ (x.now + lat ≤ now → u.readLoc l = mergeReg m (k.readLoc l) v ∧ ∀ r, r ≠ l → u.readLoc r = k.readLoc r)

/-- The frame of every word with a fixed-latency or a plain variable-latency result: nothing of the machine changes but the
issuing entry's PC, timing and wait, its group's results in flight or the core's outstanding ones, and its virtual function's
issue count; its turn is over. In particular no register, no predicate, no byte of memory, no other entry, group, core or virtual
function changes by it; what a pending older result brings, it has brought when the word issues (R54, R56). -/
def Obligations.ResultsChangeNothingElse : Prop :=
  ∀ (s s1 : State) (x : Iss) (sp : Spec) (lat : Nat) (ws : List (Nat × Mask × Reg)) (ps : List (Nat × Mask × Mask))
    (vs : List (Nat × Reg)), s.issuer sp.g = some (s1, x) →
    (∃ k, k = (s.core x.c).settle x.slot (fun p => decide (p.ready ≤ s.clk.compute)) ∧ s1 = s.setCore x.c k)
    ∧ ((s1.afterFixed x sp lat ws ps).core x.c).outs = (s1.core x.c).outs
    ∧ ((s1.afterFixed x sp lat ws ps).core x.c).nextId = (s1.core x.c).nextId
    ∧ (∀ g, ((s1.afterLater x sp vs).core x.c).group? x.slot = some g → g.pend = x.g.pend)
    ∧ ∀ t, t = s1.afterFixed x sp lat ws ps ∨ t = s1.afterLater x sp vs →
      let k := s1.core x.c
      let u := t.core x.c
      t = { s with cores := t.cores, vfs := t.vfs, turn := none }
      ∧ (∀ c, c ≠ x.c → t.core c = s.core c) ∧ (∀ v, v ≠ x.v → t.vf v = s.vf v)
      ∧ t.vf x.v = { s.vf x.v with perf := setAt (s.vf x.v).perf 0 (getAt (s.vf x.v).perf 0 0 + 1) }
      ∧ u = { k with groups := u.groups, outs := u.outs, nextId := u.nextId }
      ∧ (∀ l, u.readLoc l = k.readLoc l) ∧ (∀ slot, slot ≠ x.slot → u.group? slot = k.group? slot)
      ∧ (∃ g, u.group? x.slot = some g ∧ g = { x.g with entries := g.entries, pend := g.pend }
          ∧ g.entries = (x.g.setEntry { x.e with
              pc := x.e.pc + BitVec.ofNat 64 sp.len, nextIssue := x.now + 1 + sp.g.stall.toNat, lastIssue := x.now, wait := .none
              retried := false }).entries
          ∧ ∃ ns, g.pend = x.g.pend ++ ns)
      ∧ ∃ os, u.outs = k.outs ++ os

/-- R385, R138 (the memory that every word leaves): a step in which an entry issues keeps memory in canonical form, whatever the
word: a result, a store, an atomic, a trap, a park, the end of its task, group or launch. -/
def Obligations.EntryStepsKeepMemoryCanonical : Prop :=
  ∀ (s t : State) (c slot : Nat) (id : EntId) (rest : List Agent), Memory.wf s.mem = true → s.inbox = [] →
    s.clk.thermal = .running → s.agenda = .entry c slot id :: rest → step s = .next t → Memory.wf t.mem = true

/-- R88 (the memory that the steps keep): every step keeps memory in canonical form: a word of any agent, a completion, a drain, a copy, a write-back, a host write, a
record of a command, an event or a move of a frame, an input or a tick of a clock. -/
def Obligations.EveryStepKeepsMemoryCanonical : Prop :=
  ∀ (s t : State), Memory.wf s.mem = true → step s = .next t → Memory.wf t.mem = true

/-! ## The checks of words and lanes (R218, R385) -/

namespace Sys2Proof.Statements

/-- What comes before the checks of a word whose turn it is: a word that no handler may run is ILLEGAL_OPCODE in one, with the
word; one with a busy register or with atomics of its entry that wait for their line waits for these results (R55, R150, R370,
R385). -/
def HeldBeforeChecks (i : Instr) (sp : Spec) : Prop :=
  ∀ s s1 x, s.issuer sp.g = some (s1, x) → x.claimed = none →
    let legal := sp.inHandler = true ∨ x.e.handler = none
    let ranges := sp.dsts ++ sp.srcs ++ sp.args
    let atoms := x.k.atomsOf x.slot x.e.id
    (¬legal → exec i s = .next (s1.afterTrap x sp (trapPlain .illegalOpcode (lo32 sp.word) (hi32 sp.word) x.act)))
    ∧ (legal → anyBusy x.k x.e ranges = true →
        exec i s = .next (s1.afterWait x (busyOuts x.k x.e sp.dsts (sp.srcs ++ sp.args))))
    ∧ (legal → anyBusy x.k x.e ranges = false → atoms ≠ [] → exec i s = .next (s1.afterWait x (.busyReg atoms [])))

/-- R55, R161, R218, R385, R386: words of every family are checked in the same order: a word no handler may run, then busy
registers, then a reserved field, a register outside the frame, a source in the shadow of a pending result, and, only where
Active() has a lane, the scope and a poisoned source. A word whose guard is off in every lane that passes the checks does nothing
and the PC passes it. -/
def IssueChecksInOrder : Prop :=
  (∀ o : V3, ∀ w ∈ [(Instr.iadd o, intSpec o (.iadd o) uses2 [0, 1, 4, 5, 6, 7] [0]),
      (.imadw o, intSpec o (.imadw o) { d := .two, a := .one, b := .one, c := .two } [0, 1] [0]),
      (.shl o, intSpec o (.shl o) usesShift [0, 1, 2, 3] [0]),
      (.icmp o, intSpec o (.icmp o) { uses2 with d := .pred, c := .pred } [0, 1, 2, 3, 4, 5, 6, 7] [0, 1, 2, 3, 4, 5]),
      (.prmt o, fltSpec o (.prmt o) { d := .one, a := .one, b := .one, c := .one } [0, 1] [0] modsNone),
      (.tex o, texSpec o), (.texg o, texgSpec o)],
    HeldBeforeChecks w.1 w.2 ∧ ChecksInOrder w.1 w.2)
  ∧ (∀ o : MF, ∀ w ∈ [(Instr.ld o, loadSpec (.ld o) o [2]), (.ldc o, loadSpec (.ldc o) o []), (.st o, stSpec o),
      (.atom o, atomSpec o), (.cas o, casSpec o), (.red o, redSpec o)],
    HeldBeforeChecks w.1 w.2 ∧ ChecksInOrder w.1 w.2)
  ∧ (∀ o : XF, ∀ w ∈ [(Instr.stx o, stxSpec o), (.ldb o, ldbSpec o), (.stb o, stbSpec o)],
    HeldBeforeChecks w.1 w.2 ∧ ChecksInOrder w.1 w.2)
  ∧ (∀ o : SF, ∀ w ∈ [(Instr.nop o, plainSpec (.nop o) o true false), (.ret o, plainSpec (.ret o) o false true),
      (.bari o, barSpec o (.bari o) false false true), (.barw o, barSpec o (.barw o) false true false),
      (.rwfl o, ringSpec o (.rwfl o) true false false false), (.ores o, resSpec o (.ores o) true)],
    HeldBeforeChecks w.1 w.2 ∧ ChecksInOrder w.1 w.2)
  ∧ ∀ o : JF, let w := (Instr.bra o, { instr := .bra o, g := o.g, fields := decide (o.z = 0#8) && decide (o.a = 0#8) : Spec })
    HeldBeforeChecks w.1 w.2 ∧ ChecksInOrder w.1 w.2

/-- Where `bad` holds of the failure of a lane's address `at_`, the word traps with the cause, VA and page of the lowest such lane,
and FMASK names every lane that fails so with the same cause (R387). -/
def LowestTraps (i : Instr) (sp : Spec) (s s1 : State) (x : Iss) (at_ : Nat → Nat) (bad : Nat → Option (Cause × Bool × Nat)) : Prop :=
  ∀ l c st2 ia, l ∈ lanesOf x.act → bad l = some (c, st2, ia) → (∀ j ∈ lanesOf x.act, j < l → bad j = none) →
    exec i s = .next (s1.afterTrap x sp { trapVa c (at_ l) (maskOf fun j =>
      x.act.getLsbD j && ((bad j).any fun b => decide (b.1 = c))) with stage2 := st2, ia := ia })

/-- Steps 5 and 6 of R218 for a word whose active lanes access the addresses `at_`: a lane whose address is no multiple of `n`
traps MISALIGNED before any is translated; then a lane that stage 2 refuses, and then one that stage 1 or a register page
refuses, traps with its cause. `fails` says whether a register page refuses the access. -/
def LanesTrap (i : Instr) (sp : Spec) (n : Nat) (acc : Acc) (fails : MmioPage → Nat → Bool) (at_ : Iss → Nat → Nat) : Prop :=
  ∀ s s1 x, Issues s sp s1 x →
    let a := at_ x
    let aligned := ∀ l ∈ lanesOf x.act, a l % n = 0
    let refused := fun (st2 : Bool) (l : Nat) => match s1.xlate (s1.tlbOf x.c) x.v (a l) acc with
      | .bad c b ia => if b = st2 then some (c, st2, ia) else none
      | .mmio p off => if !st2 && fails p off then some (.permission, st2, 0) else none
      | .mem _ _ => none
    LowestTraps i sp s s1 x a (fun l => if a l % n = 0 then none else some (.misaligned, false, 0))
    ∧ (aligned → LowestTraps i sp s s1 x a (refused true))
    ∧ (aligned → (∀ l ∈ lanesOf x.act, refused true l = none) → LowestTraps i sp s s1 x a (refused false))

/-- R218, R371, R387: a load, store or atomic of which a lane's address is misaligned, untranslated or refused traps, and
no lane takes effect. -/
def LaneAccessesTrap : Prop :=
  (∀ o : MF,
    let n := szBytes o.size.toNat
    let at_ := fun (x : Iss) (l : Nat) => x.memAddr o l
    let pair := fun (x : Iss) (l : Nat) => (x.pair o.a.toNat l).toNat
    LanesTrap (.ld o) (loadSpec (.ld o) o [2]) n .rd (fun p off => mmioDenied p off n .rd) at_
    ∧ LanesTrap (.ldc o) (loadSpec (.ldc o) o []) n .rd (fun p off => mmioDenied p off n .rd) at_
    ∧ LanesTrap (.st o) (stSpec o) n .wr (fun p off => mmioDenied p off n .wr) at_
    ∧ LanesTrap (.atom o) (atomSpec o) n .wr (fun _ _ => true) pair
    ∧ LanesTrap (.cas o) (casSpec o) n .wr (fun _ _ => true) pair
    ∧ LanesTrap (.red o) (redSpec o) n .wr (fun _ _ => true) pair)
  ∧ ∀ o : XF,
    let n := szBytes o.size.toNat
    let at_ := fun (x : Iss) (l : Nat) => narrow ((x.pair o.a.toNat l).toNat + x.index o l * (o.scl.toNat + 1)) 64
    LanesTrap (.ldx o)
        { instr := .ldx o, g := o.g, dsts := [(o.d.toNat, szRegs o.size.toNat)], srcs := [(o.a.toNat, 2), (o.b.toNat, idxRegs o)]
          scope := o.scope.toNat, fields := gatherOk o o.d.toNat [2] && decide (o.c = 0#8) } n .rd
        (fun p off => mmioDenied p off n .rd) at_
    ∧ LanesTrap (.stx o) (stxSpec o) n .wr (fun p off => mmioDenied p off n .wr) at_

end Sys2Proof.Statements

/-- R55, R161, R218, R385, R386, R371, R387: words of every family are checked in R385's order, and a lane that fails its
access traps: `IssueChecksInOrder` and `LaneAccessesTrap`. -/
def Obligations.IssueAndLaneChecksTrapInOrder : Prop :=
  Sys2Proof.Statements.IssueChecksInOrder ∧ Sys2Proof.Statements.LaneAccessesTrap
end

