-- ==== Sys2Proof/Laws/Issue.lean ====
section
/-! SUPPORT. What the issue stage does with a word that passes every check of R385, and that every result of an
issue is a next state. -/

namespace Sys2Proof.Machine

/-- A word that comes to step 3 of R385 does what its checks say. -/
theorem issue_of_checks {s : State} {sp : Spec} {s1 : State} {x : Iss} (h : AtChecks s sp s1 x)
    (body : Iss → State → Res) : issue sp body s = s1.checked x sp body := by
  obtain ⟨turn, unclaimed, allowed, free, single, whole⟩ := h
  have h1 : (!sp.inHandler && x.e.handler.isSome) = false := by
    rcases allowed with h | h <;> simp [h]
  have h2 : (sp.whole && decide (x.act ≠ 0#8) && decide (x.act ≠ x.e.mask)) = false := by
    cases hw : sp.whole
    · simp
    · rcases whole hw with h | h <;> simp [h]
  unfold issue
  simp only [turn, unclaimed, h1, free, single, h2, Bool.not_true, Bool.false_eq_true, if_false]

/-- A word that passes every check does its body, once. -/
theorem issue_of_issues {s : State} {sp : Spec} {s1 : State} {x : Iss} (h : Issues s sp s1 x)
    (body : Iss → State → Res) : issue sp body s = s1.finish x sp (body x s1) := by
  obtain ⟨checks, fields, ranges, early, visible, lanes, scope, clean⟩ := h
  have h3 : ((sp.early x).orElse fun _ => s1.shadowOf x sp) = none := by rw [early]; exact visible
  rw [issue_of_checks checks]
  unfold State.checked
  simp only [fields, ranges, h3, lanes, scope, clean, Bool.not_true, Bool.false_eq_true, if_false]

theorem finish_fixed (s : State) (x : Iss) (sp : Spec) (lat : Nat) (ws : List (Nat × Mask × Reg))
    (ps : List (Nat × Mask × Mask)) :
    s.finish x sp (.fixed lat ws ps) = .next (s.afterFixed x sp lat ws ps) := rfl

theorem finish_later (s : State) (x : Iss) (sp : Spec) (ws : List (Nat × Reg)) :
    s.finish x sp (.later ws) = .next (s.afterLater x sp ws) := rfl

theorem finish_done (s s' : State) (x : Iss) (sp : Spec) :
    s.finish x sp (.done s') = .next (s'.afterDone x sp) := rfl

theorem finish_moved (s s' : State) (x : Iss) (sp : Spec) :
    s.finish x sp (.moved s') = .next (s'.afterMoved x sp) := rfl

theorem finish_trap (s : State) (x : Iss) (sp : Spec) (t : Trap) :
    s.finish x sp (.trap t) = .next (s.afterTrap x sp t) := rfl

/-- Every result of an issue is a next state: no compute word stops the machine. -/
theorem finish_next (s : State) (x : Iss) (sp : Spec) (r : Res) : ∃ t, s.finish x sp r = .next t := by
  cases r <;> exact ⟨_, rfl⟩

theorem checked_next (s : State) (x : Iss) (sp : Spec) (body : Iss → State → Res) :
    ∃ t, s.checked x sp body = .next t := by
  unfold State.checked
  simp only
  split
  · exact finish_next ..
  · split
    · exact finish_next ..
    · generalize ((sp.early x).orElse fun _ => s.shadowOf x sp) = o
      cases o
      · simp only
        split
        · exact finish_next ..
        · split
          · exact finish_next ..
          · cases poisonRead x sp.srcs <;> exact finish_next ..
      · exact finish_next ..

/-- With an entry's turn at hand, an issue gives a next state, whatever the word and its checks. -/
theorem issue_next (sp : Spec) (body : Iss → State → Res) (s : State) (h : (s.issuer sp.g).isSome) :
    ∃ t, issue sp body s = .next t := by
  unfold issue
  cases hi : s.issuer sp.g with
  | none => simp [hi] at h
  | some p =>
    obtain ⟨s1, x⟩ := p
    simp only
    cases x.claimed with
    | some h => exact ⟨_, rfl⟩
    | none =>
      simp only
      split
      · exact finish_next ..
      · split
        · exact finish_next ..
        · split
          · exact finish_next ..
          · split
            · split <;> exact finish_next ..
            · exact checked_next ..

end Sys2Proof.Machine
end

