-- ==== Sys2Proof/Laws/KMap.lean ====
section
/-! SUPPORT. Sparse tables: what a key reads after a write or a removal, and that both keep the keys rising. -/

namespace Sys2Proof.Machine

variable {α : Type}

@[simp] theorem KMap.get?_nil (k : Nat) : KMap.get? ([] : KMap α) k = none := rfl

theorem KMap.get?_cons (k' : Nat) (v : α) (t : KMap α) (k : Nat) :
    KMap.get? ((k', v) :: t) k = if k' = k then some v else KMap.get? t k := rfl

@[simp] theorem KMap.get?_put_self (m : KMap α) (k : Nat) (v : α) : KMap.get? (KMap.put m k v) k = some v := by
  induction m with
  | nil => simp [KMap.put, KMap.get?]
  | cons e t ih =>
    obtain ⟨k', v'⟩ := e
    unfold KMap.put
    split
    · simp [KMap.get?]
    · split
      · simp [KMap.get?]
      · rename_i h; simp [KMap.get?, h, ih]

theorem KMap.get?_put_ne (m : KMap α) {k j : Nat} (v : α) (h : j ≠ k) : KMap.get? (KMap.put m k v) j = KMap.get? m j := by
  induction m with
  | nil => simp [KMap.put, KMap.get?, Ne.symm h]
  | cons e t ih =>
    obtain ⟨k', v'⟩ := e
    unfold KMap.put
    split
    · simp [KMap.get?, Ne.symm h]
    · split
      · rename_i h2; subst h2; simp [KMap.get?, Ne.symm h]
      · simp [KMap.get?, ih]

@[simp] theorem KMap.getD_put_self (m : KMap α) (k : Nat) (v d : α) : KMap.getD (KMap.put m k v) k d = v := by
  simp [KMap.getD]

theorem KMap.getD_put_ne (m : KMap α) {k j : Nat} (v d : α) (h : j ≠ k) :
    KMap.getD (KMap.put m k v) j d = KMap.getD m j d := by simp [KMap.getD, KMap.get?_put_ne m v h]

@[simp] theorem KMap.get?_del_self (m : KMap α) (k : Nat) : KMap.get? (KMap.del m k) k = none := by
  induction m with
  | nil => rfl
  | cons e t ih =>
    obtain ⟨k', v'⟩ := e
    unfold KMap.del
    split
    · exact ih
    · rename_i h; simp [KMap.get?, h, ih]

theorem KMap.get?_del_ne (m : KMap α) {k j : Nat} (h : j ≠ k) : KMap.get? (KMap.del m k) j = KMap.get? m j := by
  induction m with
  | nil => rfl
  | cons e t ih =>
    obtain ⟨k', v'⟩ := e
    unfold KMap.del
    split
    · rename_i h2; subst h2; simp [KMap.get?, Ne.symm h, ih]
    · simp [KMap.get?, ih]

variable [DecidableEq α]

@[simp] theorem KMap.getD_putD_self (m : KMap α) (k : Nat) (v d : α) : KMap.getD (KMap.putD m k v d) k d = v := by
  unfold KMap.putD
  split
  · rename_i h; subst h; simp [KMap.getD]
  · simp

theorem KMap.getD_putD_ne (m : KMap α) {k j : Nat} (v d d' : α) (h : j ≠ k) :
    KMap.getD (KMap.putD m k v d) j d' = KMap.getD m j d' := by
  unfold KMap.putD
  split
  · simp [KMap.getD, KMap.get?_del_ne m h]
  · exact KMap.getD_put_ne m v d' h

omit [DecidableEq α] in
theorem KMap.risingFrom_weaken {lo lo' : Nat} (m : KMap α) (h : lo' ≤ lo) (hm : KMap.risingFrom lo m = true) :
    KMap.risingFrom lo' m = true := by
  cases m with
  | nil => rfl
  | cons e t =>
    simp only [KMap.risingFrom, Bool.and_eq_true, decide_eq_true_eq] at hm ⊢
    exact ⟨Nat.le_trans h hm.1, hm.2⟩

omit [DecidableEq α] in
theorem KMap.risingFrom_put (m : KMap α) (k : Nat) (v : α) :
    ∀ lo, lo ≤ k → KMap.risingFrom lo m = true → KMap.risingFrom lo (KMap.put m k v) = true := by
  induction m with
  | nil => intro lo h _; simp [KMap.put, KMap.risingFrom, h]
  | cons e t ih =>
    obtain ⟨k', v'⟩ := e
    intro lo h hm
    simp only [KMap.risingFrom, Bool.and_eq_true, decide_eq_true_eq] at hm
    unfold KMap.put
    split
    · rename_i hk
      simp only [KMap.risingFrom, Bool.and_eq_true, decide_eq_true_eq]
      exact ⟨h, hk, hm.2⟩
    · split
      · rename_i hk; subst hk
        simp only [KMap.risingFrom, Bool.and_eq_true, decide_eq_true_eq]
        exact ⟨h, hm.2⟩
      · rename_i h1 h2
        simp only [KMap.risingFrom, Bool.and_eq_true, decide_eq_true_eq]
        exact ⟨hm.1, ih (k' + 1) (by omega) hm.2⟩

omit [DecidableEq α] in
theorem KMap.risingFrom_filter (m : KMap α) (p : Nat × α → Bool) :
    ∀ lo, KMap.risingFrom lo m = true → KMap.risingFrom lo (m.filter p) = true := by
  induction m with
  | nil => intro lo _; rfl
  | cons e t ih =>
    obtain ⟨k', v'⟩ := e
    intro lo hm
    simp only [KMap.risingFrom, Bool.and_eq_true, decide_eq_true_eq] at hm
    rw [List.filter_cons]
    split
    · simp only [KMap.risingFrom, Bool.and_eq_true, decide_eq_true_eq]
      exact ⟨hm.1, ih _ hm.2⟩
    · exact KMap.risingFrom_weaken _ (by omega) (ih _ hm.2)

omit [DecidableEq α] in
theorem KMap.del_eq_filter (m : KMap α) (k : Nat) : KMap.del m k = m.filter fun e => decide (e.1 ≠ k) := by
  induction m with
  | nil => rfl
  | cons e t ih =>
    obtain ⟨k', v'⟩ := e
    unfold KMap.del
    rw [List.filter_cons, ih]
    by_cases h : k' = k <;> simp [h]

omit [DecidableEq α] in
theorem KMap.mem_put {m : KMap α} {k : Nat} {v : α} {e : Nat × α} (h : e ∈ KMap.put m k v) : e = (k, v) ∨ e ∈ m := by
  induction m with
  | nil => simpa [KMap.put] using h
  | cons x t ih =>
    obtain ⟨k', v'⟩ := x
    unfold KMap.put at h
    split at h
    · simpa using h
    · split at h
      · rcases List.mem_cons.mp h with h | h
        · exact .inl h
        · exact .inr (List.mem_cons_of_mem _ h)
      · rcases List.mem_cons.mp h with h | h
        · exact .inr (h ▸ List.mem_cons_self)
        · rcases ih h with h | h
          · exact .inl h
          · exact .inr (List.mem_cons_of_mem _ h)

/-- The canonical form is kept by a filter, and by a write. -/
theorem KMap.canon_filter (m : KMap α) (d : α) (p : Nat × α → Bool) (h : KMap.canon m d = true) :
    KMap.canon (m.filter p) d = true := by
  unfold KMap.canon at h ⊢
  rw [Bool.and_eq_true] at h ⊢
  refine ⟨KMap.risingFrom_filter m p 0 h.1, ?_⟩
  rw [List.all_eq_true] at h ⊢
  intro e he
  exact h.2 e ((List.mem_filter.mp he).1)

theorem KMap.canon_putD (m : KMap α) (k : Nat) (v d : α) (h : KMap.canon m d = true) :
    KMap.canon (KMap.putD m k v d) d = true := by
  unfold KMap.putD
  split
  · rw [KMap.del_eq_filter]; exact KMap.canon_filter m d _ h
  · rename_i hv
    unfold KMap.canon at h ⊢
    rw [Bool.and_eq_true] at h ⊢
    refine ⟨KMap.risingFrom_put m k v 0 (Nat.zero_le _) h.1, ?_⟩
    rw [List.all_eq_true] at h ⊢
    intro e he
    rcases KMap.mem_put he with he | he
    · subst he; simpa using hv
    · exact h.2 e he

end Sys2Proof.Machine
end

