-- ==== Sys2Proof/Laws/Memory.lean ====
section
/-! SUPPORT. Memory: a byte reads what was last written to it, a write leaves every other byte alone, and every
operation on memory keeps its canonical form. -/

namespace Sys2Proof.Machine

@[simp] theorem Memory.byte_setByte_self (m : List Host.Cell) (a : Nat) (v : Byte) :
    Memory.byte (Memory.setByte m a v) a = v := KMap.getD_putD_self ..

theorem Memory.byte_setByte_ne (m : List Host.Cell) {a b : Nat} (v : Byte) (h : b ≠ a) :
    Memory.byte (Memory.setByte m a v) b = Memory.byte m b := KMap.getD_putD_ne _ _ _ _ h

theorem Memory.byte_write_out (bs : List Byte) : ∀ (m : List Host.Cell) (a b : Nat), b < a ∨ a + bs.length ≤ b →
    Memory.byte (Memory.write m a bs) b = Memory.byte m b := by
  induction bs with
  | nil => intro m a b _; rfl
  | cons v t ih =>
    intro m a b h
    simp only [List.length_cons] at h
    rw [Memory.write, ih _ _ _ (by omega), Memory.byte_setByte_ne _ _ (by omega)]

theorem Memory.byte_write_in (bs : List Byte) : ∀ (m : List Host.Cell) (a i : Nat) (h : i < bs.length),
    Memory.byte (Memory.write m a bs) (a + i) = bs[i] := by
  induction bs with
  | nil => intro m a i h; exact absurd h (Nat.not_lt_zero _)
  | cons v t ih =>
    intro m a i h
    rw [Memory.write]
    cases i with
    | zero => rw [Memory.byte_write_out _ _ _ _ (by omega)]; simp
    | succ j =>
      rw [show a + (j + 1) = a + 1 + j by omega, ih _ _ _ (by simpa using h)]
      rfl

theorem Memory.setByte_wf (m : List Host.Cell) (a : Nat) (v : Byte) (h : Memory.wf m = true) :
    Memory.wf (Memory.setByte m a v) = true := KMap.canon_putD _ _ _ _ h

theorem Memory.write_wf (bs : List Byte) : ∀ (m : List Host.Cell) (a : Nat), Memory.wf m = true →
    Memory.wf (Memory.write m a bs) = true := by
  induction bs with
  | nil => intro m a h; exact h
  | cons v t ih => intro m a h; exact ih _ _ (Memory.setByte_wf m a v h)

theorem Memory.filter_wf (m : List Host.Cell) (p : Host.Cell → Bool) (h : Memory.wf m = true) :
    Memory.wf (m.filter p) = true := KMap.canon_filter _ _ _ h

theorem Memory.nil_wf : Memory.wf [] = true := rfl

theorem State.poke_wf (s : State) (a : Nat) (bs : List Byte) (h : Memory.wf s.mem = true) :
    Memory.wf (s.poke a bs).mem = true := Memory.write_wf _ _ _ h

theorem State.foldl_poke_wf (ws : List (Nat × List Byte)) : ∀ (s : State), Memory.wf s.mem = true →
    Memory.wf (ws.foldl (fun a w => a.poke w.1 w.2) s).mem = true := by
  induction ws with
  | nil => intro s h; exact h
  | cons w t ih => intro s h; exact ih _ (State.poke_wf s w.1 w.2 h)

theorem State.raise_mem (s : State) (src : Nat) (e : Event) : (s.raise src e).mem = s.mem := rfl

theorem State.storesLost_mem (s : State) (pa : Nat) : (s.storesLost pa).mem = s.mem := rfl

theorem State.foldl_poke_mem (ws : List (Nat × List Byte)) : ∀ s : State,
    (ws.foldl (fun a w => a.poke w.1 w.2) s).mem = ws.foldl (fun m w => Memory.write m w.1 w.2) s.mem := by
  induction ws with
  | nil => intro s; rfl
  | cons w t ih => intro s; exact ih _

theorem State.noteOld_mem (s : State) (ws : List (Nat × List Byte)) : (s.noteOld ws).mem = s.mem := by
  unfold State.noteOld; split <;> rfl

theorem State.backInvalidate_mem (s : State) (ws : List (Nat × List Byte)) : (s.backInvalidate ws).mem = s.mem := by
  unfold State.backInvalidate; split <;> rfl

/-- A group of stores writes the memory that is not lost, in list order, and touches memory in no other way. -/
theorem State.storeAll_mem (s : State) (ws : List (Nat × List Byte)) :
    (s.storeAll ws).mem = ((ws.filter fun w => !s.lostHome w.1).foldl (fun a w => a.poke w.1 w.2) s).mem := by
  unfold State.storeAll
  simp only [State.wakeMonitors]
  cases (ws.find? fun w => s.lostHome w.1) with
  | none => simp only [State.backInvalidate_mem]; split <;> simp only [State.foldl_poke_mem, State.noteOld_mem]
  | some w =>
    simp only [State.backInvalidate_mem]
    split <;> simp only [State.foldl_poke_mem, State.noteOld_mem] <;> rfl

/-- A group of stores keeps the canonical form. -/
theorem State.storeAll_wf (s : State) (ws : List (Nat × List Byte)) (h : Memory.wf s.mem = true) :
    Memory.wf (s.storeAll ws).mem = true := by
  rw [State.storeAll_mem]; exact State.foldl_poke_wf _ _ h

theorem State.foldl_poke_byte (ws : List (Nat × List Byte)) : ∀ (s : State) (b : Nat),
    (∀ w ∈ ws, b < w.1 ∨ w.1 + w.2.length ≤ b) →
    Memory.byte (ws.foldl (fun a w => a.poke w.1 w.2) s).mem b = Memory.byte s.mem b := by
  induction ws with
  | nil => intro s b _; rfl
  | cons w t ih =>
    intro s b h
    rw [List.foldl_cons, ih _ _ fun w' hw => h w' (List.mem_cons_of_mem _ hw)]
    exact Memory.byte_write_out _ _ _ _ (h w List.mem_cons_self)

/-- A group of stores leaves every byte alone that none of them covers. -/
theorem State.storeAll_byte (s : State) (ws : List (Nat × List Byte)) (b : Nat)
    (h : ∀ w ∈ ws, b < w.1 ∨ w.1 + w.2.length ≤ b) :
    Memory.byte (s.storeAll ws).mem b = Memory.byte s.mem b := by
  rw [State.storeAll_mem]
  exact State.foldl_poke_byte _ s b fun w hw => h w (List.mem_filter.mp hw).1

/-- A frame set to zero, a frame copied, and a frame under another key keep the canonical form. -/
theorem State.zeroFrame_wf (s : State) (f : Nat) (h : Memory.wf s.mem = true) : Memory.wf (s.zeroFrame f).mem = true :=
  Memory.filter_wf _ _ h

theorem State.copyFrame_wf (s : State) (a b : Nat) (h : Memory.wf s.mem = true) : Memory.wf (s.copyFrame a b).mem = true := by
  unfold State.copyFrame
  generalize (s.mem.filter fun c => decide (c.1 / 65536 = a)) = l
  have h0 := State.zeroFrame_wf s b h
  revert h0
  generalize s.zeroFrame b = t
  induction l generalizing t with
  | nil => intro h0; exact h0
  | cons c l ih => intro h0; exact ih _ (Memory.setByte_wf _ _ _ h0)

theorem Memory.foldl_setByte_wf (l : List Nat) (ad : Nat → Nat) (va : Nat → Byte) : ∀ m : List Host.Cell, Memory.wf m = true →
    Memory.wf (l.foldl (fun m i => Memory.setByte m (ad i) (va i)) m) = true := by
  induction l with
  | nil => intro m h; exact h
  | cons i l ih => intro m h; exact ih _ (Memory.setByte_wf _ _ _ h)

theorem Memory.foldl_write_wf (l : List Nat) (ad : Nat → Nat) (bs : List Host.Cell → Nat → List Byte) :
    ∀ m : List Host.Cell, Memory.wf m = true → Memory.wf (l.foldl (fun m g => Memory.write m (ad g) (bs m g)) m) = true := by
  induction l with
  | nil => intro m h; exact h
  | cons i l ih => intro m h; exact ih _ (Memory.write_wf _ _ _ h)

theorem State.rekeyFrame_wf (s : State) (f : Nat) (old new : Option Nat) (h : Memory.wf s.mem = true) :
    Memory.wf (s.rekeyFrame f old new).mem = true := by
  unfold State.rekeyFrame
  split
  · exact h
  · simp only
    generalize List.range 256 = l
    exact Memory.foldl_write_wf l (fun g => 65536 * f + 256 * g) (fun m g => rekeyGranule old new ((65536 * f + 256 * g) / 256)
      (l.map fun i => Memory.byte m (65536 * f + 256 * g + i))) _ h

end Sys2Proof.Machine
end

