-- ==== Sys2Proof/Laws/Canonical.lean ====
section
/-! SUPPORT. The issue stage keeps the canonical form of memory: whatever a word's checks, its traps, the end of a task or
of a group and firmware's page tables write, memory stays sorted with no entry that an unlisted address reads as. -/

namespace Sys2Proof.Machine

/-- Memory in canonical form stays so. -/
structure Keeps (s t : State) : Prop where
  wf : Memory.wf s.mem = true → Memory.wf t.mem = true

theorem Keeps.refl (s : State) : Keeps s s := ⟨id⟩
theorem Keeps.trans {a b c : State} (h : Keeps a b) (h' : Keeps b c) : Keeps a c := ⟨fun x => h'.wf (h.wf x)⟩
theorem Keeps.of_eq {s t : State} (h : t.mem = s.mem) : Keeps s t := ⟨fun x => by rw [h]; exact x⟩

theorem Keeps.pre {s u t : State} (h : Keeps u t) (he : u.mem = s.mem) : Keeps s t := (Keeps.of_eq he).trans h

theorem Keeps.foldl {β : Type} (f : State → β → State) (hf : ∀ s b, Keeps s (f s b)) (l : List β) : ∀ s, Keeps s (l.foldl f s) := by
  induction l with
  | nil => intro s; exact Keeps.refl s
  | cons b t ih => intro s; exact (hf s b).trans (ih _)

/-! ## Writes of firmware and of agents -/

theorem State.poke64_keeps (s : State) (a x : Nat) : Keeps s (s.poke64 a x) := ⟨State.poke_wf s a _⟩
theorem State.storeAll_keeps (s : State) (ws : List (Nat × List Byte)) : Keeps s (s.storeAll ws) := ⟨State.storeAll_wf s ws⟩
theorem State.dropFault_keeps (s : State) (v va ia : Nat) (st : Bool) : Keeps s (s.dropFault v va ia st) := Keeps.of_eq rfl

theorem State.reclaim_keeps (s : State) (v : Nat) : Keeps s (s.reclaim v) := Keeps.of_eq rfl

theorem State.takeFrame_keeps {s : State} {v d : Nat} {page : Option Nat} {f : Nat} {t : State}
    (h : s.takeFrame v d page = some (f, t)) : Keeps s t := by
  unfold State.takeFrame at h
  simp only at h
  split at h
  · cases h
  · cases h; exact ⟨State.zeroFrame_wf _ _⟩

theorem State.takeTable_keeps {s : State} {v d f : Nat} {t : State} (h : s.takeTable v d = some (f, t)) : Keeps s t := by
  unfold State.takeTable at h
  cases hx : s.takeFrame v d none with
  | none => rw [hx] at h; cases h
  | some p =>
    rw [hx] at h; cases h
    exact (State.takeFrame_keeps (t := p.2) hx).trans (Keeps.of_eq rfl)

theorem State.ensurePtr_keeps {s : State} {v d a : Nat} {t : State} (h : s.ensurePtr v d a = some t) : Keeps s t := by
  unfold State.ensurePtr at h
  split at h
  · cases h; exact Keeps.refl s
  · cases hx : s.takeTable v d with
    | none => rw [hx] at h; cases h
    | some p =>
      rw [hx] at h; cases h
      exact (State.takeTable_keeps (t := p.2) hx).trans (State.poke64_keeps ..)

theorem State.ensureTables_keeps {s : State} {v d ia a : Nat} {t : State} (h : s.ensureTables v d ia = some (a, t)) :
    Keeps s t := by
  unfold State.ensureTables at h
  have hroot : ∀ r u, (match (s.vf v).root2 with
      | some r => some (r, s)
      | none =>
        match s.takeTable v d with
        | none => none
        | some (f, s) => some (f * 65536, s.setVf v { s.vf v with root2 := some (f * 65536) })) = some (r, u) → Keeps s u := by
    intro r u hu
    split at hu
    · cases hu; exact Keeps.refl s
    · split at hu
      · cases hu
      · rename_i f s' hx; cases hu; exact (State.takeTable_keeps hx).trans (Keeps.of_eq rfl)
  simp only at h
  split at h
  · cases h
  · rename_i r u hu
    split at h
    · cases h
    · rename_i s1 h1
      split at h
      · cases h
      · rename_i s2 h2
        cases h
        exact ((hroot _ _ hu).trans (State.ensurePtr_keeps h1)).trans (State.ensurePtr_keeps h2)

theorem State.copyFrame_keeps (s : State) (a b : Nat) : Keeps s (s.copyFrame a b) := ⟨State.copyFrame_wf s a b⟩

theorem State.pokes_keeps {α : Type} (l : List α) (a x : α → Nat) (s : State) :
    Keeps s (l.foldl (fun s e => s.poke64 (a e) (x e)) s) :=
  Keeps.foldl _ (fun _ _ => State.poke64_keeps ..) _ _

theorem State.abandonMerge_keeps (s : State) (w : MoveWindow) : Keeps s (s.abandonMerge w) :=
  (State.pokes_keeps w.entries (fun e => e.2.2.1) (fun e => e.2.2.2) s).trans (Keeps.of_eq rfl)

theorem State.endRetirement_keeps (s : State) (w : MoveWindow) : Keeps s (s.endRetirement w) :=
  ((State.copyFrame_keeps s w.frame w.spare).trans
    (State.pokes_keeps w.entries (fun e => e.2.2.1) (fun e => w.spare * 65536 + bits e.2.2.2 15 0) _)).trans (Keeps.of_eq rfl)

theorem State.closeWindow_keeps (s : State) : Keeps s s.closeWindow := by
  unfold State.closeWindow
  split
  · exact Keeps.refl s
  · split
    · exact State.abandonMerge_keeps ..
    · exact State.endRetirement_keeps ..

theorem State.resolve2_keeps {s : State} {v ia d : Nat} {cause : Cause} {t : State} (h : s.resolve2 v ia cause d = some t) :
    Keeps s t := by
  unfold State.resolve2 at h
  split at h
  · cases h; exact State.closeWindow_keeps s
  split at h
  · split at h
    · cases h
    · split at h
      · cases h
      · split at h
        · cases h
        · rename_i h1
          split at h
          · cases h
          · rename_i h2
            cases h
            exact ((State.takeFrame_keeps h1).trans (State.ensureTables_keeps h2)).trans (State.poke64_keeps ..)
  · split at h
    · split at h
      · cases h
      · split at h
        · cases h
        · simp only at h
          split at h
          · cases h
          · rename_i h1
            cases h
            have hd : ∀ u : State, Keeps u ((u.dropTlb fun t => decide (t.vf = v) && t.stage2).perfAdd v 7 1) :=
              fun _ => Keeps.of_eq rfl
            have hm : ∀ (u : State) (m : List (Nat × Nat × Nat)), Keeps u { u with fwc := { u.fwc with merged := m } } :=
              fun _ _ => Keeps.of_eq rfl
            have hc : ∀ (u : State) (a b c d : Nat) (m : List (Nat × Nat × Nat)),
                Keeps u { (u.copyFrame a b).poke64 c d with fwc := { ((u.copyFrame a b).poke64 c d).fwc with merged := m } } :=
              fun u a b c d m => ((State.copyFrame_keeps u a b).trans (State.poke64_keeps _ c d)).trans (hm _ m)
            refine (State.takeFrame_keeps h1).trans (Keeps.trans ?_ (hd _))
            split
            · split
              · exact (hc ..).trans (State.poke64_keeps ..)
              · exact hc ..
            · exact hc ..
    · cases h

theorem State.answerHold_keeps (s : State) : Keeps s s.answerHold := by
  unfold State.answerHold
  split
  · exact Keeps.refl s
  · simp only
    split
    · exact Keeps.of_eq rfl
    · split
      · rename_i h1; exact Keeps.pre (s := s) ((State.resolve2_keeps h1).trans (Keeps.of_eq rfl)) rfl
      · exact Keeps.of_eq rfl

theorem State.answerAll_keeps (n : Nat) : ∀ s : State, Keeps s (State.answerAll n s) := by
  induction n with
  | zero => intro s; exact Keeps.refl s
  | succ n ih => intro s; exact (State.answerHold_keeps s).trans (ih _)

theorem State.faultIn_keeps {s : State} {v ia d : Nat} {cause : Cause} {t : State} (h : s.faultIn v ia cause d = some t) :
    Keeps s t := by
  unfold State.faultIn at h
  simp only at h
  split at h
  · cases h; exact State.answerAll_keeps _ s
  · exact (State.answerAll_keeps _ s).trans (State.resolve2_keeps h)

theorem State.agentAddrFuel_keeps (n : Nat) : ∀ (s : State) (d v va : Nat) (acc : Acc),
    Keeps s (State.agentAddrFuel n s d v va acc).1 := by
  induction n with
  | zero => intro s d v va acc; exact Keeps.refl s
  | succ n ih =>
    intro s d v va acc
    unfold State.agentAddrFuel
    split
    · exact Keeps.refl s
    · exact Keeps.refl s
    · simp only
      split
      · exact State.dropFault_keeps ..
      · split
        · exact State.dropFault_keeps ..
        · rename_i h
          exact (State.dropFault_keeps ..).trans ((State.faultIn_keeps h).trans (ih ..))

theorem State.agentAddr_keeps (s : State) (d v va : Nat) (acc : Acc) : Keeps s (s.agentAddr d v va acc).1 :=
  State.agentAddrFuel_keeps ..

theorem State.agentRead_keeps (s : State) (d v va : Nat) : Keeps s (s.agentRead d v va).1 := by
  have h := State.agentAddr_keeps s d v va .rd
  unfold State.agentRead
  split
  · rename_i h1; rw [h1] at h; exact h
  · rename_i h1; rw [h1] at h; split <;> exact h

theorem State.agentReads_keeps (n : Nat) : ∀ (s : State) (d v va : Nat), Keeps s (State.agentReads n s d v va).1 := by
  induction n with
  | zero => intro s d v va; exact Keeps.refl s
  | succ n ih =>
    intro s d v va
    have h := State.agentRead_keeps s d v va
    unfold State.agentReads
    split
    · rename_i h1; rw [h1] at h; exact h
    · rename_i s1 w h1
      rw [h1] at h
      have h2 := ih s1 d v (va + 8)
      split <;> (rename_i h3; rw [h3] at h2; exact h.trans h2)

theorem State.agentWrite_keeps (s : State) (d v va : Nat) (x : W64) : Keeps s (s.agentWrite d v va x).1 := by
  have h := State.agentAddr_keeps s d v va .wr
  unfold State.agentWrite
  split
  · rename_i h1; rw [h1] at h; exact h
  · rename_i h1; rw [h1] at h; exact h.trans (State.storeAll_keeps ..)

theorem State.agentWrites_keeps (xs : List W64) : ∀ (s : State) (d v va : Nat), Keeps s (State.agentWrites s d v va xs).1 := by
  induction xs with
  | nil => intro s d v va; exact Keeps.refl s
  | cons x t ih =>
    intro s d v va
    have h := State.agentWrite_keeps s d v va x
    unfold State.agentWrites
    split
    · rename_i h1; rw [h1] at h; exact h
    · rename_i h1; rw [h1] at h; exact h.trans (ih ..)

/-! ## Tasks and groups that end -/

theorem State.ownerRec_keeps (s : State) (c v : Nat) (h : W64) : Keeps s (s.ownerRec c v h).1 := by
  have hr := State.agentReads_keeps 8 s (c / 48) v (s.taskVa v h)
  unfold State.ownerRec
  split
  · exact Keeps.refl s
  · split
    · rename_i h1; rw [h1] at hr; exact hr.trans (Keeps.of_eq rfl)
    · rename_i h1; rw [h1] at hr; simp only; split <;> exact hr

theorem State.swapCtl_keeps (s : State) (c v : Nat) (h : W64) (ctl : Nat) : Keeps s (s.swapCtl c v h ctl).1 := by
  have hw := State.agentWrite_keeps s (c / 48) v (s.taskVa v h + 8) (BitVec.ofNat 64 ctl)
  unfold State.swapCtl
  simp only
  split <;> (rename_i h1; rw [h1] at hw)
  · exact hw.trans (Keeps.of_eq rfl)
  · exact hw

theorem State.setCtl_keeps (s : State) (c v : Nat) (h : W64) (ctl : Nat) : Keeps s (s.setCtl c v h ctl) :=
  State.swapCtl_keeps s c v h ctl

theorem State.endFuture_keeps (s : State) (c v : Nat) (h : W64) (f : Nat) (value : W64) : Keeps s (s.endFuture c v h f value) := by
  have hr := State.agentRead_keeps s (c / 48) v (futVa h + 8)
  unfold State.endFuture
  simp only
  split
  · exact Keeps.refl s
  · split
    · rename_i h1; rw [h1] at hr; exact hr.trans (Keeps.of_eq rfl)
    · rename_i s1 w h1
      rw [h1] at hr
      refine hr.trans ?_
      split
      · exact Keeps.refl _
      · split
        · exact Keeps.of_eq rfl
        · split
          · exact Keeps.refl _
          · have hw := State.agentWrites_keeps [value, BitVec.ofNat 64 (putBits w.toNat 1 0 f), 0] s1 (c / 48) v (futVa h)
            split <;> (rename_i h2; rw [h2] at hw)
            · exact hw.trans (Keeps.of_eq rfl)
            · exact hw

theorem State.failTask_keeps (s : State) (c v : Nat) (h : W64) : Keeps s (s.failTask c v h) := by
  have ho := State.ownerRec_keeps s c v h
  unfold State.failTask
  split <;> (rename_i h1; rw [h1] at ho)
  · exact ho
  · exact ho.trans ((State.setCtl_keeps ..).trans (State.endFuture_keeps ..))

theorem State.finishTask_keeps (s : State) (c v : Nat) (h value : W64) : Keeps s (s.finishTask c v h value) := by
  have ho := State.ownerRec_keeps s c v h
  unfold State.finishTask
  split
  · rename_i h1; rw [h1] at ho; exact ho
  · rename_i s1 ws h1
    rw [h1] at ho
    simp only
    have hr := State.agentRead_keeps (s1.endFuture c v (getAt ws 2 0) 1 value) (c / 48) v
      ((s1.endFuture c v (getAt ws 2 0) 1 value).taskVa v h + 8)
    refine Keeps.trans ho (Keeps.trans (State.endFuture_keeps s1 c v (getAt ws 2 0) 1 value) ?_)
    split <;> (rename_i h2; rw [h2] at hr)
    · exact hr.trans (Keeps.of_eq rfl)
    · split
      · exact hr
      · exact hr.trans (State.setCtl_keeps ..)

theorem State.endCommand_keeps (s : State) (q i st cause field : Nat) (info done : W64) :
    Keeps s (s.endCommand q i st cause field info done) := Keeps.of_eq rfl

theorem State.settlePreempts_keeps (s : State) (l : Nat) : Keeps s (s.settlePreempts l) := by
  unfold State.settlePreempts
  simp only
  split
  · exact Keeps.refl s
  · exact Keeps.pre (Keeps.foldl _ (fun _ _ => State.endCommand_keeps ..) _ _) rfl

theorem State.settleLaunch_keeps (s : State) (l : Nat) : Keeps s (s.settleLaunch l) := by
  unfold State.settleLaunch
  split
  · exact Keeps.refl s
  · split
    · exact Keeps.refl s
    · simp only
      split <;> exact Keeps.of_eq rfl

theorem State.endWorkgroup_keeps (s : State) (c n : Nat) : Keeps s (s.endWorkgroup c n) := by
  unfold State.endWorkgroup
  simp only
  split
  · exact Keeps.refl s
  · split
    · exact Keeps.refl s
    · split
      · exact Keeps.pre (State.settlePreempts_keeps ..) rfl
      · exact Keeps.pre ((State.settlePreempts_keeps ..).trans (State.settleLaunch_keeps ..)) rfl

theorem State.writeBackTqc_keeps (s : State) (d : Nat) (e : TqcEnt) : Keeps s (s.writeBackTqc d e) := by
  unfold State.writeBackTqc
  simp only
  split
  · exact Keeps.refl s
  · have hw := State.agentWrites_keeps (e.words.drop 8) s d e.vf ((s.vf e.vf).tqBase + 128 * e.queue + 0x40)
    split <;> (rename_i h1; rw [h1] at hw)
    · exact hw
    · exact hw.trans (Keeps.of_eq rfl)

theorem State.dropTqc_keeps (s : State) (d v : Nat) : Keeps s (s.dropTqc d v) := by
  unfold State.dropTqc
  simp only
  split
  · exact Keeps.refl s
  · exact (Keeps.foldl (fun s e => s.writeBackTqc d e) (fun _ _ => State.writeBackTqc_keeps ..) _ s).trans (Keeps.of_eq rfl)

theorem State.dropGroup_keeps (s : State) (c slot : Nat) : Keeps s (s.dropGroup c slot) := by
  unfold State.dropGroup
  simp only
  split
  · exact Keeps.refl s
  · exact Keeps.pre ((State.endWorkgroup_keeps ..).trans (State.dropTqc_keeps ..)) rfl

theorem State.endGroup_keeps (s : State) (c slot : Nat) : Keeps s (s.endGroup c slot) := by
  unfold State.endGroup
  simp only
  split
  · exact Keeps.refl s
  · rename_i g _
    refine Keeps.trans (Keeps.foldl (fun s h => s.failTask c g.vf h) (fun _ _ => State.failTask_keeps ..) ((s.core c).adoptedTasks g) s) ?_
    refine Keeps.trans ?_ (State.dropGroup_keeps ..)
    split
    · exact Keeps.refl _
    · split
      · exact State.failTask_keeps ..
      · exact State.finishTask_keeps ..

theorem State.forceEnd_keeps (s : State) (c slot : Nat) : Keeps s (s.forceEnd c slot) := by
  unfold State.forceEnd
  simp only
  split
  · exact Keeps.refl s
  · exact Keeps.pre (State.endGroup_keeps ..) rfl

theorem State.loseGroup_keeps (s : State) (c slot : Nat) (e : Entry) (cause : Cause) : Keeps s (s.loseGroup c slot e cause) := by
  unfold State.loseGroup
  simp only
  split
  · exact Keeps.refl s
  · exact Keeps.pre (State.forceEnd_keeps ..) rfl

theorem State.leaveAdoption_keeps (s : State) (c slot : Nat) (e : Entry) : Keeps s (s.leaveAdoption c slot e) := by
  unfold State.leaveAdoption
  simp only
  split
  · split
    · exact State.loseGroup_keeps ..
    · exact Keeps.of_eq rfl
  · exact Keeps.refl s

theorem State.fatalEnd_keeps (s : State) (c slot : Nat) (e : Entry) : Keeps s (s.fatalEnd c slot e) := by
  unfold State.fatalEnd
  simp only
  have h0 : ∀ k : Core, Keeps s (s.setCore c k) := fun _ => Keeps.of_eq rfl
  split
  · exact (h0 _).trans ((State.failTask_keeps ..).trans (Keeps.of_eq rfl))
  · exact (h0 _).trans ((State.failTask_keeps ..).trans ((State.leaveAdoption_keeps ..).trans (Keeps.of_eq rfl)))
  · exact (h0 _).trans (State.forceEnd_keeps ..)

theorem State.fatalGroup_keeps (s : State) (c slot : Nat) (e : Option Entry) (cause : Cause) (i0 i1 : W32) :
    Keeps s (s.fatalGroup c slot e cause i0 i1) := by
  unfold State.fatalGroup
  simp only
  split
  · exact Keeps.refl s
  · split
    · exact State.forceEnd_keeps ..
    · exact Keeps.pre (State.fatalEnd_keeps ..) rfl

theorem State.waitAlloc_keeps (s : State) (c slot : Nat) (e : Entry) (n : Nat) : Keeps s (s.waitAlloc c slot e n) := Keeps.of_eq rfl

theorem State.freePark_keeps (s : State) (d v : Nat) (h : W64) : Keeps s (s.freePark d v h) := by
  unfold State.freePark
  split
  · exact Keeps.refl s
  · rename_i r _
    have hw := State.agentWrite_keeps s d v r.off 0
    simp only
    split <;> (rename_i h1; rw [h1] at hw; exact hw.trans (Keeps.of_eq rfl))

theorem State.placeAdopted_keeps (s : State) (c slot : Nat) (e : Entry) (h : W64) : Keeps s (s.placeAdopted c slot e h) := by
  unfold State.placeAdopted
  simp only
  split
  · exact Keeps.refl s
  · rename_i g _
    have ho := State.ownerRec_keeps s c g.vf h
    split
    · rename_i h1; rw [h1] at ho; exact ho.trans (Keeps.of_eq rfl)
    · rename_i s1 ws h1
      rw [h1] at ho
      refine ho.trans ?_
      split
      · split
        · exact State.waitAlloc_keeps ..
        · split
          · exact State.waitAlloc_keeps ..
          · exact Keeps.pre ((State.freePark_keeps ..).trans (Keeps.of_eq rfl)) rfl
      · split
        · exact State.waitAlloc_keeps ..
        · split
          · exact Keeps.of_eq rfl
          · exact State.waitAlloc_keeps ..

/-! ## Traps and waits -/

theorem State.takeTrap_keeps (s : State) (c slot : Nat) (id : EntId) (t : Trap) (len : Nat) : Keeps s (s.takeTrap c slot id t len) := by
  unfold State.takeTrap
  simp only
  split
  · exact Keeps.refl s
  · split
    · exact Keeps.refl s
    · split
      · exact Keeps.pre (State.fatalEnd_keeps ..) rfl
      · split
        · exact Keeps.pre (State.fatalEnd_keeps ..) rfl
        · split
          · exact Keeps.refl s
          · exact Keeps.of_eq rfl

theorem State.holdStage2_keeps (s : State) (c slot : Nat) (e : Entry) (v ia : Nat) (cause : Cause) :
    Keeps s (s.holdStage2 c slot e v ia cause) := by
  unfold State.holdStage2
  simp only
  split <;> exact Keeps.of_eq rfl

theorem State.deliver_keeps (s : State) (x : Iss) (t : Trap) (len : Nat) : Keeps s (s.deliver x t len) := by
  unfold State.deliver
  simp only
  have key : ∀ u : State, u.mem = s.mem → Keeps s (if t.stage2 && decide (x.e.wait ≠ .declined (t.ia / 65536))
      then u.holdStage2 x.c x.slot x.e x.v t.ia t.cause else u.takeTrap x.c x.slot x.e.id t len) := by
    intro u hm
    split
    · exact Keeps.pre (State.holdStage2_keeps ..) hm
    · exact Keeps.pre (State.takeTrap_keeps ..) hm
  exact key _ (by split <;> rfl)

theorem State.swapPlace_keeps {s t : State} {c q p : Nat} {i : Bool} {ok : Group → Bool} (h : s.swapPlace c q p i ok = some t) : Keeps s t := by
  unfold State.swapPlace at h
  simp only at h
  split at h
  · cases h
  · split at h
    · cases h
    · cases h; exact Keeps.of_eq rfl

theorem State.meetWait_keeps (s : State) (c slot : Nat) (id : EntId) (i : Bool) : Keeps s (s.meetWait c slot id i) := by
  unfold State.meetWait
  simp only
  split
  · exact Keeps.refl s
  · split
    · exact Keeps.refl s
    · split
      · exact Keeps.refl s
      · split
        · rename_i h; exact State.swapPlace_keeps h
        · split
          · exact Keeps.of_eq rfl
          · exact Keeps.refl s

theorem State.advance_keeps (s : State) (x : Iss) (st len : Nat) : Keeps s (s.advance x st len) :=
  Keeps.of_eq (by unfold State.advance; simp only; split <;> rfl)

theorem State.stamp_keeps (s : State) (x : Iss) (st : Nat) : Keeps s (s.stamp x st) :=
  Keeps.of_eq (by unfold State.stamp; simp only; split <;> rfl)

/-! ## Every result of an issue -/

/-- The states that a result carries. -/
def Res.Keeps (s : State) : Res → Prop
  | .done t => Machine.Keeps s t
  | .moved t => Machine.Keeps s t
  | .wait t _ => Machine.Keeps s t
  | _ => True

theorem Res.keeps_trap (s : State) (t : Trap) : (Res.trap t).Keeps s := trivial
theorem Res.keeps_done {s t : State} (h : Machine.Keeps s t) : (Res.done t).Keeps s := h
theorem Res.keeps_moved {s t : State} (h : Machine.Keeps s t) : (Res.moved t).Keeps s := h
theorem Res.keeps_wait {s t : State} {w : Wait} (h : Machine.Keeps s t) : (Res.wait t w).Keeps s := h
theorem State.setCore_keeps (s : State) (c : Nat) (k : Core) : Keeps s (s.setCore c k) := Keeps.of_eq rfl

theorem finish_keeps {s t : State} {x : Iss} {sp : Spec} {r : Res} (hr : r.Keeps s) (h : s.finish x sp r = .next t) : Keeps s t := by
  cases r <;> cases h
  · exact (State.deliver_keeps ..).trans (Keeps.of_eq rfl)
  · exact Keeps.pre ((State.advance_keeps ..).trans (Keeps.of_eq rfl)) rfl
  · exact Keeps.pre ((State.advance_keeps ..).trans (Keeps.of_eq rfl)) rfl
  · exact Keeps.trans hr ((State.advance_keeps ..).trans (Keeps.of_eq rfl))
  · exact Keeps.trans hr ((State.stamp_keeps ..).trans (Keeps.pre ((State.meetWait_keeps ..).trans (Keeps.of_eq rfl)) rfl))
  · exact Keeps.trans hr (Keeps.pre ((State.meetWait_keeps ..).trans (Keeps.of_eq rfl)) rfl)

theorem issuer_keeps {s t : State} {g : Guard} {x : Iss} (h : s.issuer g = some (t, x)) : Keeps s t := by
  unfold State.issuer at h
  split at h
  · simp only at h
    split at h
    · cases h
    · split at h
      · cases h
      · cases h; exact Keeps.of_eq rfl
  · cases h

/-- A word whose body keeps memory canonical does so whatever the checks find. -/
theorem issue_keeps {sp : Spec} {body : Iss → State → Res} {s t : State} (hb : ∀ x s, (body x s).Keeps s)
    (h : issue sp body s = .next t) : Keeps s t := by
  unfold issue at h
  split at h
  · cases h
  · rename_i s1 x hi
    refine (issuer_keeps hi).trans ?_
    split at h
    · cases h
      exact (State.placeAdopted_keeps ..).trans ((State.meetWait_keeps ..).trans (Keeps.of_eq rfl))
    · split at h
      · exact finish_keeps (Res.keeps_trap ..) h
      · split at h
        · exact finish_keeps (Res.keeps_wait (Keeps.refl s1)) h
        · split at h
          · exact finish_keeps (Res.keeps_wait (Keeps.refl s1)) h
          · split at h
            · split at h
              · exact finish_keeps (Res.keeps_moved (State.setCore_keeps ..)) h
              · exact finish_keeps (Res.keeps_trap ..) h
            · unfold State.checked at h
              simp only at h
              split at h
              · exact finish_keeps (Res.keeps_trap ..) h
              · split at h
                · exact finish_keeps (Res.keeps_trap ..) h
                · split at h
                  · exact finish_keeps (Res.keeps_trap ..) h
                  · split at h
                    · exact finish_keeps (Res.keeps_done (Keeps.refl s1)) h
                    · split at h
                      · exact finish_keeps (Res.keeps_trap ..) h
                      · split at h
                        · exact finish_keeps (Res.keeps_trap ..) h
                        · exact finish_keeps (hb _ _) h

end Sys2Proof.Machine
end

