-- ==== Sys2Proof/Laws/Frames.lean ====
section
/-! SUPPORT. What the shared operations of an issue leave alone: memory, and the noise of erased frames. -/

namespace Sys2Proof.Machine

theorem SameMem.refl (s : State) : SameMem s s := ⟨rfl, rfl⟩

theorem SameMem.trans {a b c : State} (h : SameMem a b) (h' : SameMem b c) : SameMem a c :=
  ⟨h'.1.trans h.1, h'.2.trans h.2⟩

theorem SameMem.byte {s t : State} (h : SameMem s t) (a : Nat) : t.byte a = s.byte a := by
  unfold State.byte; rw [h.1, h.2]

theorem SameMem.wf {s t : State} (h : SameMem s t) (hw : Memory.wf s.mem = true) : Memory.wf t.mem = true := by
  rw [h.1]; exact hw

theorem State.setCore_same (s : State) (c : Nat) (k : Core) : SameMem s (s.setCore c k) := ⟨rfl, rfl⟩
theorem State.setDie_same (s : State) (d : Nat) (k : Die) : SameMem s (s.setDie d k) := ⟨rfl, rfl⟩
theorem State.setVf_same (s : State) (v : Nat) (x : Vf) : SameMem s (s.setVf v x) := ⟨rfl, rfl⟩
theorem State.choice_same (s : State) (n : Nat) : SameMem s (s.choice n).2 := ⟨rfl, rfl⟩
theorem State.raise_same (s : State) (src : Nat) (e : Event) : SameMem s (s.raise src e) := ⟨rfl, rfl⟩
theorem State.perfAdd_same (s : State) (v k n : Nat) : SameMem s (s.perfAdd v k n) := ⟨rfl, rfl⟩
theorem State.endTurn_same (s : State) : SameMem s s.endTurn := ⟨rfl, rfl⟩
theorem State.ended_same (s : State) (x : Iss) : SameMem s (s.ended x) := ⟨rfl, rfl⟩

theorem State.advance_same (s : State) (x : Iss) (stall len : Nat) : SameMem s (s.advance x stall len) := by
  unfold State.advance
  simp only
  split <;> exact ⟨rfl, rfl⟩

theorem State.afterDone_same (s : State) (x : Iss) (sp : Spec) : SameMem s (s.afterDone x sp) :=
  (State.advance_same s x _ _).trans (State.ended_same _ x)

theorem State.noteXlate_same (s : State) (c v va : Nat) (acc : Acc) : SameMem s (s.noteXlate c v va acc) := by
  unfold State.noteXlate
  simp only
  split <;> exact ⟨rfl, rfl⟩

theorem State.noteAll_same (s : State) (x : Iss) (vas : List Nat) (acc : Acc) : SameMem s (s.noteAll x vas acc) := by
  unfold State.noteAll
  generalize ((vas.map fun a => a / 65536).eraseDups) = l
  induction l generalizing s with
  | nil => exact SameMem.refl s
  | cons p t ih => exact (State.noteXlate_same ..).trans (ih _)

theorem State.inject_same (s : State) (d src dd dr dp ch : Nat) (m : Msg) : SameMem s (s.inject d src dd dr dp ch m) := by
  unfold State.inject
  simp only
  split <;> (repeat' split) <;> exact ⟨rfl, rfl⟩

theorem State.sendReq_same (s : State) (c v : Nat) (k : ReqKind) (l : Nat) (p : Bool) (o : Option Nat) :
    SameMem s (s.sendReq c v k l p o) := State.inject_same ..

theorem State.sendReqs_same (s : State) (c v : Nat) (k : ReqKind) (o : Option Nat) (ls : List (Nat × Bool)) :
    SameMem s (s.sendReqs c v k o ls) := by
  unfold State.sendReqs
  induction ls generalizing s with
  | nil => exact SameMem.refl s
  | cons l t ih => exact (State.sendReq_same ..).trans (ih _)

theorem State.fillL1_same (s : State) (c line : Nat) (tag : Option (Nat × Nat)) : SameMem s (s.fillL1 c line tag) := by
  unfold State.fillL1
  simp only
  split <;> exact ⟨rfl, rfl⟩

theorem State.dropL1_same (s : State) (c line : Nat) : SameMem s (s.dropL1 c line) := ⟨rfl, rfl⟩

theorem State.loadLine_same (s : State) (c line : Nat) (tag : Option (Nat × Nat)) : SameMem s (s.loadLine c line tag).1 := by
  unfold State.loadLine
  split
  · simp only
    split
    · exact State.choice_same s 2
    · exact (State.choice_same s 2).trans (State.fillL1_same ..)
  · exact State.fillL1_same ..

theorem State.loadReqs_same (s : State) (x : Iss) (tag : Option (Nat × Nat)) (ls : List (Nat × Bool)) (id : Nat) :
    SameMem s (s.loadReqs x tag ls id).1 := by
  unfold State.loadReqs
  generalize 0 = n
  induction ls generalizing s n with
  | nil => exact SameMem.refl s
  | cons l t ih =>
    have h := State.loadLine_same s x.c l.1 tag
    rw [List.foldl_cons]
    simp only
    split
    · exact (h.trans (State.sendReq_same ..)).trans (ih _ _)
    · exact h.trans (ih _ _)

theorem State.addResult_same (s : State) (x : Iss) (d : Nat) (vals : List Reg) (po : Mask) (vas : List W64) (r : Nat)
    (load : Bool) (la : List (W32 × Nat)) : SameMem s (s.addResult x d vals po vas r load la) := ⟨rfl, rfl⟩

/-- A check that every lane passes gives every lane's result. -/
theorem overLanes_ok {α : Type} (ls : List Nat) (f : Nat → Except Trap α) (g : Nat → α) (h : ∀ l ∈ ls, f l = .ok (g l)) :
    overLanes ls f = .ok (ls.map fun l => (l, g l)) := by
  have h1 : (ls.map fun l => (l, f l)) = ls.map fun l => (l, .ok (g l)) :=
    List.map_congr_left fun l hl => by rw [h l hl]
  unfold overLanes
  simp only [h1, List.filterMap_map, Function.comp_def]
  have h2 : ∀ l : List Nat, List.filterMap (fun _ => (none : Option (Nat × Trap))) l = [] := fun l =>
    List.filterMap_eq_nil_iff.mpr fun _ _ => rfl
  rw [h2]
  exact congrArg Except.ok (congrFun (List.filterMap_eq_map (f := fun l => (l, g l))) ls)

/-- Stores change no noise, and only the bytes that they cover. -/
theorem State.storesLost_same (s : State) (pa : Nat) : SameMem s (s.storesLost pa) := ⟨rfl, rfl⟩

theorem State.foldl_poke_noise (ws : List (Nat × List Byte)) : ∀ s : State,
    (ws.foldl (fun a w => a.poke w.1 w.2) s).noise = s.noise := by
  induction ws with
  | nil => intro s; rfl
  | cons w t ih => intro s; exact ih _

theorem State.noteOld_noise (s : State) (ws : List (Nat × List Byte)) : (s.noteOld ws).noise = s.noise := by
  unfold State.noteOld; split <;> rfl

theorem State.backInvalidate_noise (s : State) (ws : List (Nat × List Byte)) : (s.backInvalidate ws).noise = s.noise := by
  unfold State.backInvalidate; split <;> rfl

theorem State.storeAll_noise (s : State) (ws : List (Nat × List Byte)) : (s.storeAll ws).noise = s.noise := by
  unfold State.storeAll
  simp only [State.wakeMonitors]
  cases (ws.find? fun w => s.lostHome w.1) with
  | none => simp only [State.backInvalidate_noise]; split <;> simp only [State.foldl_poke_noise, State.noteOld_noise]
  | some w =>
    simp only [State.backInvalidate_noise]
    split <;> simp only [State.foldl_poke_noise, State.noteOld_noise] <;> rfl

theorem State.storeAll_reads (s : State) (ws : List (Nat × List Byte)) (b : Nat)
    (h : ∀ w ∈ ws, b < w.1 ∨ w.1 + w.2.length ≤ b) : (s.storeAll ws).byte b = s.byte b := by
  unfold State.byte
  rw [State.storeAll_noise, State.storeAll_byte s ws b h]

/-! ## Register pages -/

theorem State.ringDoorbell_same (s : State) (v k : Nat) (w : W32) : SameMem s (s.ringDoorbell v k w) := by
  unfold State.ringDoorbell; simp only; split <;> exact ⟨rfl, rfl⟩

theorem State.writeNotify_same (s : State) (v off : Nat) (w : W32) : SameMem s (s.writeNotify v off w) := by
  unfold State.writeNotify; simp only; split <;> exact ⟨rfl, rfl⟩

theorem State.writePose_same (s : State) (off : Nat) (w : W32) : SameMem s (s.writePose off w) := by
  unfold State.writePose State.stagePose State.commitPose
  simp only
  (repeat' split) <;> exact ⟨rfl, rfl⟩

theorem State.mmioWrite_same {s t : State} {p : MmioPage} {off : Nat} {w : W32} (h : s.mmioWrite p off w = .ok t) :
    SameMem s t := by
  unfold State.mmioWrite at h
  split at h
  · cases h; exact SameMem.refl s
  · split at h
    · cases h
    · cases h
      split
      · exact State.ringDoorbell_same ..
      · exact State.writeNotify_same ..
      · exact State.writeNotify_same ..
      · exact ⟨rfl, rfl⟩
      · exact State.writePose_same ..
      · exact SameMem.refl s

/-- A store to a register page leaves memory alone. -/
theorem State.mmioStore_same {s t : State} {p : MmioPage} {off : Nat} {bs : List Byte} (h : s.mmioStore p off bs = .ok t) :
    SameMem s t := by
  unfold State.mmioStore at h
  split at h
  · cases h
  · split at h
    · cases h; exact SameMem.refl s
    · have key : ∀ (l : List Nat) (f : State → Nat → Except Cause State), (∀ u i u', f u i = .ok u' → SameMem u u') →
          ∀ a : Except Cause State, (∀ u, a = .ok u → SameMem s u) → ∀ t, l.foldl (fun a i => match a with
            | .error c => .error c
            | .ok s => f s i) a = .ok t → SameMem s t := by
        intro l f hf
        induction l with
        | nil => intro a ha t h; exact ha t h
        | cons i l ih =>
          intro a ha t h
          rw [List.foldl_cons] at h
          refine ih _ (fun u hu => ?_) t h
          cases a with
          | error c => cases hu
          | ok v => exact (ha v rfl).trans (hf v i u hu)
      exact key _ (fun s i => s.mmioWrite p (off + 4 * i) (BitVec.ofNat 32 (leNat ((bs.drop (4 * i)).take 4))))
        (fun _ _ _ h => State.mmioWrite_same h) _ (fun u hu => by cases hu; exact SameMem.refl s) _ h

/-- The stores of lanes whose places lie in memory, and no more of memory. -/
theorem State.storePlaces_same (s : State) (ps : List (Nat × Reach)) (data : Nat → List Byte) :
    SameMem (s.storeAll (ps.filterMap fun p => match p.2 with
      | .mem pa _ => some (pa, data p.1)
      | .mmio _ _ => none)) (s.storePlaces ps data) := by
  unfold State.storePlaces
  simp only
  generalize s.storeAll _ = u
  induction ps generalizing u with
  | nil => exact SameMem.refl u
  | cons p t ih =>
    rw [List.foldl_cons]
    refine SameMem.trans ?_ (ih _)
    split
    · exact SameMem.refl u
    · split
      · rename_i h; exact State.mmioStore_same h
      · exact SameMem.refl u

end Sys2Proof.Machine
end

