-- ==== Sys2Proof/Laws/CanonicalOps.lean ====
section
/-! SUPPORT. The shared operations of the compute words keep the canonical form of memory: stores, register pages, codec
lines, parks, waits and the ends of entries. -/

namespace Sys2Proof.Machine

theorem Keeps.of_same {s t : State} (h : SameMem s t) : Keeps s t := Keeps.of_eq h.1

theorem State.jump_keeps (s : State) (x : Iss) (pc : W64) : Keeps s (s.jump x pc) := Keeps.of_eq rfl
theorem State.leaveTo_keeps (s : State) (x : Iss) (k : Core) (f : Nat) (t : Option Nat) (pc : W64) : Keeps s (s.leaveTo x k f t pc) := by
  unfold State.leaveTo; simp only; split <;> exact Keeps.of_eq rfl
theorem State.branch_keeps (s : State) (x : Iss) (st : Nat) (m : Mask) (a b : W64) : (s.branch x st m a b).Keeps s := by
  unfold State.branch; simp only; split
  · exact (Keeps.of_eq rfl : Keeps s (s.setCore _ _))
  · trivial

theorem State.arriveBar_keeps {s t : State} {c w b n : Nat} (h : s.arriveBar c w b n = some t) : Keeps s t := by
  unfold State.arriveBar at h
  simp only at h
  split at h
  · cases h
  · split at h
    · cases h
    · cases h; exact Keeps.of_eq rfl

theorem State.copyArrive_keeps (s : State) (c v w b : Nat) : Keeps s (s.copyArrive c v w b) := by
  unfold State.copyArrive
  split
  · exact Keeps.refl s
  · split
    · rename_i h; exact State.arriveBar_keeps h
    · exact Keeps.of_eq rfl

/-! ## Register pages -/

theorem State.ringDoorbell_keeps (s : State) (v k : Nat) (w : W32) : Keeps s (s.ringDoorbell v k w) := by
  unfold State.ringDoorbell; simp only; split <;> exact Keeps.of_eq rfl
theorem State.stagePose_keeps (s : State) (a i : Nat) (w : W32) : Keeps s (s.stagePose a i w) := by
  unfold State.stagePose; simp only; split <;> exact Keeps.of_eq rfl
theorem State.commitPose_keeps (s : State) (a : Nat) : Keeps s (s.commitPose a) := by
  unfold State.commitPose; split <;> exact Keeps.of_eq rfl
theorem State.writePose_keeps (s : State) (o : Nat) (w : W32) : Keeps s (s.writePose o w) := by
  unfold State.writePose; simp only; split
  · exact (State.stagePose_keeps ..).trans (State.commitPose_keeps ..)
  · exact State.stagePose_keeps ..
theorem State.writeNotify_keeps (s : State) (v o : Nat) (w : W32) : Keeps s (s.writeNotify v o w) := by
  unfold State.writeNotify; simp only; split <;> exact Keeps.of_eq rfl
theorem State.mmioWrite_keeps {s t : State} {p : MmioPage} {o : Nat} {w : W32} (h : s.mmioWrite p o w = .ok t) : Keeps s t := by
  unfold State.mmioWrite at h
  split at h
  · cases h; exact Keeps.refl s
  · split at h
    · cases h
    · cases h
      split
      · exact State.ringDoorbell_keeps ..
      · exact State.writeNotify_keeps ..
      · exact State.writeNotify_keeps ..
      · exact Keeps.of_eq rfl
      · exact State.writePose_keeps ..
      · exact Keeps.refl s

theorem State.mmioStore_keeps {s t : State} {p : MmioPage} {o : Nat} {bs : List Byte} (h : s.mmioStore p o bs = .ok t) :
    Keeps s t := by
  unfold State.mmioStore at h
  split at h
  · cases h
  split at h
  · cases h; exact Keeps.refl s
  · have key : ∀ (l : List Nat) (a : Except Cause State), (∀ u, a = .ok u → Keeps s u) → ∀ u, l.foldl
        (fun a i => match a with
          | .error c => .error c
          | .ok s => s.mmioWrite p (o + 4 * i) (BitVec.ofNat 32 (leNat ((bs.drop (4 * i)).take 4)))) a = .ok u → Keeps s u := by
      intro l
      induction l with
      | nil => intro a ha u hu; exact ha u hu
      | cons i l ih =>
        intro a ha u hu
        refine ih _ (fun v hv => ?_) u hu
        cases a with
        | error c => cases hv
        | ok s1 => exact (ha s1 rfl).trans (State.mmioWrite_keeps hv)
    exact key _ _ (fun u hu => by cases hu; exact Keeps.refl s) t h

theorem State.storePlaces_keeps (s : State) (ps : List (Nat × Reach)) (data : Nat → List Byte) : Keeps s (s.storePlaces ps data) := by
  unfold State.storePlaces
  refine (State.storeAll_keeps ..).trans (Keeps.foldl _ (fun u p => ?_) _ _)
  split
  · exact Keeps.refl u
  · split
    · rename_i h; exact State.mmioStore_keeps h
    · exact Keeps.refl u

/-! ## Codec lines and shared objects -/

theorem State.countRegion_keeps (s : State) (x : Iss) (pa : Nat) (ns : List EncNote) : Keeps s (s.countRegion x pa ns) :=
  (State.storeAll_keeps ..).trans (Keeps.of_same (State.sendReq_same ..))
theorem State.latchAll_keeps (s : State) (x : Iss) (rs : List Brec) : Keeps s (s.latchAll x rs) := Keeps.of_eq rfl

theorem State.storeLine_keeps (s : State) (x : Iss) (ls : LineStore) : Keeps s (s.storeLine x ls) := by
  unfold State.storeLine
  simp only
  split
  · exact Keeps.of_eq rfl
  · exact (((State.storeAll_keeps ..).trans (Keeps.of_same (State.dropL1_same ..))).trans
      (Keeps.of_same (State.sendReq_same ..))).trans (Keeps.foldl _ (fun _ _ => State.countRegion_keeps ..) _ _)

/-! ## Atomics -/

theorem State.doLane_keeps (s : State) (c : Nat) (a : AtomLane) : Keeps s (s.doLane c a) := by
  unfold State.doLane
  simp only
  split
  · exact Keeps.pre (State.storeAll_keeps ..) rfl
  · split <;> exact Keeps.of_eq rfl

theorem State.askLine_keeps (s : State) (c : Nat) (a : AtomLane) : Keeps s (s.askLine c a) :=
  Keeps.pre (Keeps.of_same (State.sendReq_same ..)) rfl

theorem State.runLanes_keeps (c line : Nat) (ls : List AtomLane) : ∀ s : State, Keeps s (s.runLanes c line ls) := by
  induction ls with
  | nil => intro s; exact Keeps.refl s
  | cons a t ih =>
    intro s
    unfold State.runLanes
    split
    · exact State.askLine_keeps ..
    · split
      · exact State.askLine_keeps ..
      · exact (State.doLane_keeps s c a).trans (Keeps.pre (ih _) rfl)

theorem State.startLine_keeps (s : State) (c line : Nat) (ls : List AtomLane) : Keeps s (s.startLine c line ls) := by
  unfold State.startLine
  split
  · exact Keeps.refl s
  · split
    · exact Keeps.pre (Keeps.of_same (State.sendReq_same ..)) rfl
    · simp only
      split
      · exact Keeps.pre (State.runLanes_keeps ..) rfl
      · exact Keeps.of_eq rfl

theorem State.startAtoms_keeps (s : State) (c : Nat) (ls : List AtomLane) : Keeps s (s.startAtoms c ls) :=
  Keeps.foldl _ (fun _ _ => State.startLine_keeps ..) _ _

theorem State.objectWrite_keeps (s : State) (x : Iss) (pa : Nat) (ws : List W64) : Keeps s (s.objectWrite x pa ws) :=
  (State.storeAll_keeps ..).trans (Keeps.of_same (State.sendReq_same ..))

theorem State.setRing_keeps (s : State) (h i : Nat) (r : Ring) : Keeps s (s.setRing h i r) := Keeps.of_eq rfl
theorem State.claimSlot_keeps (s : State) (x : Iss) (d h i : Nat) (r : Ring) : Keeps s (s.claimSlot x d h i r) := Keeps.of_eq rfl
theorem State.givePred_keeps (s : State) (x : Iss) (p : Nat) (v : Mask) : Keeps s (s.givePred x p v) :=
  Keeps.of_eq rfl
theorem State.stopGroup_keeps (s : State) (c slot : Nat) (b : Option (EntId × W64)) : Keeps s (s.stopGroup c slot b) := by
  unfold State.stopGroup; simp only; split <;> exact Keeps.of_eq rfl
theorem State.returnFromTrap_keeps (s : State) (c slot : Nat) (e : Entry) : Keeps s (s.returnFromTrap c slot e) := by
  unfold State.returnFromTrap; simp only; split
  · split <;> exact Keeps.of_eq rfl
  · exact Keeps.refl s

theorem State.ringRegs_keeps (s : State) (x : Iss) (rs : List (Nat × Nat)) (b : Bool) (k : Unit → Res) (h : (k ()).Keeps s) :
    (s.ringRegs x rs b k).Keeps s := by
  unfold State.ringRegs
  split
  · trivial
  · split
    · exact Keeps.refl s
    · split
      · trivial
      · split
        · trivial
        · exact h

/-! ## Entries that end, wait or park -/

theorem State.endIfEmpty_keeps (s : State) (c slot : Nat) : Keeps s (s.endIfEmpty c slot) := by
  unfold State.endIfEmpty
  split
  · split
    · exact State.endGroup_keeps ..
    · exact Keeps.refl s
  · exact Keeps.refl s

theorem State.exitEntry_keeps (s : State) (c slot : Nat) (e : Entry) (l : Mask) : Keeps s (s.exitEntry c slot e l) := by
  unfold State.exitEntry
  simp only
  split
  · exact Keeps.refl s
  · exact Keeps.pre ((Keeps.foldl _ (fun _ _ => State.failTask_keeps ..) _ _).trans (State.endIfEmpty_keeps ..)) rfl

theorem State.writeSpill_keeps (s : State) (c v : Nat) (h : LaunchHdr) (tag : W64) (fs : List (Nat × Frame)) (n : Nat) (k : SpillKind) :
    Keeps s (s.writeSpill c v h tag fs n k).1 := by
  unfold State.writeSpill
  simp only
  split
  · exact Keeps.refl s
  · rename_i va _
    have hw : Keeps s (s.agentBytes (c / 48) v va (recordBytes tag fs)).1 := State.agentWrites_keeps ..
    split <;> (rename_i h1; rw [h1] at hw)
    · exact hw
    · exact hw.trans (Keeps.of_eq rfl)

theorem State.parkFrames_keeps (s : State) (c : Nat) (g : Group) (es : List Entry) (h : W64) (root : Nat) (w : Wait) :
    Keeps s (s.parkFrames c g es h root w).1 := by
  unfold State.parkFrames; exact State.writeSpill_keeps ..

theorem State.markParked_keeps (s : State) (c v : Nat) (h : W64) (va : Nat) : Keeps s (s.markParked c v h va) := by
  have ho := State.ownerRec_keeps s c v h
  unfold State.markParked
  split
  · rename_i h1; rw [h1] at ho; exact ho
  · rename_i s1 ws h1
    rw [h1] at ho
    simp only
    have hw : ∀ r, s1.agentWrite (c / 48) v (s1.taskVa v h + 0x18) (BitVec.ofNat 64 va) = r → Keeps s1 r.1 := fun r hr => by
      rw [← hr]; exact State.agentWrite_keeps ..
    refine Keeps.trans ho (Keeps.trans ?_ (State.setCtl_keeps ..))
    split
    · rename_i h2; exact (hw _ h2).trans (Keeps.of_eq rfl)
    · rename_i h2; exact hw _ h2

theorem State.parkDead_keeps (s : State) (d v : Nat) (h : W64) (va : Nat) : Keeps s (s.parkDead d v h va).1 := by
  have hr := State.agentRead_keeps s d v va
  unfold State.parkDead
  split
  · rename_i h1; rw [h1] at hr; exact hr
  · rename_i s1 w h1
    rw [h1] at hr
    refine Keeps.trans hr ?_
    split
    · rename_i r _
      split
      · have h2 := State.agentReads_keeps (r.size / 8) s1 d v r.off
        split <;> (rename_i h3; rw [h3] at h2; exact h2)
      · exact Keeps.of_eq rfl
    · exact Keeps.of_eq rfl

/-- Frames parked, and the record's address noted in the task. -/
theorem State.parked_keeps {s u : State} {c : Nat} {g : Group} {es : List Entry} {h : W64} {root va : Nat} {w : Wait}
    (hp : s.parkFrames c g es h root w = (u, some va)) : Keeps s (u.markParked c g.vf h va) := by
  have h0 := State.parkFrames_keeps s c g es h root w
  rw [hp] at h0
  exact Keeps.trans h0 (State.markParked_keeps ..)

theorem State.waitOrPark_keeps (s : State) (c slot : Nat) (e : Entry) (w : Wait) : Keeps s (s.waitOrPark c slot e w) := by
  have hw : ∀ w, Keeps s (s.waitHere c slot e w) := fun _ => Keeps.of_eq rfl
  have hc : ∀ k, Keeps s (s.setCore c k) := fun _ => Keeps.of_eq rfl
  have key : ∀ (k1 : Core) (g0 g : Group) (es : List Entry) (root : Nat) (ad : Option (Nat × Hdr)) (B C D : Bool) (w2 : Wait),
      Keeps s (if B then s.waitHere c slot e w
        else if C then s.fatalGroup c slot (some e) .dataUncorrectable 0 0
        else if D then s.waitHere c slot e w2
        else
          match ad, g0.task with
          | some (_, h), _ =>
            match (s.setCore c k1).parkFrames c g es h.pad root w with
            | (_, none) => s.waitHere c slot e w
            | (s, some va) =>
              ((s.markParked c g.vf h.pad va).setCore c (((s.markParked c g.vf h.pad va).core c).dropEntries slot (es.drop 1) (s.markParked c g.vf h.pad va).clk.compute)).leaveAdoption c slot e
          | none, some h =>
            match (s.setCore c k1).parkFrames c g es h root w with
            | (_, none) => s.waitHere c slot e w
            | (s, some va) => (s.markParked c g.vf h va).dropGroup c slot
          | none, none => s.waitHere c slot e w) := by
    intro k1 g0 g es root ad B C D w2
    split
    · exact hw _
    split
    · exact State.fatalGroup_keeps ..
    split
    · exact hw _
    · split
      · split
        · exact hw _
        · rename_i hp
          exact (hc _).trans ((State.parked_keeps hp).trans (Keeps.pre (State.leaveAdoption_keeps ..) rfl))
      · split
        · exact hw _
        · rename_i hp
          exact (hc _).trans ((State.parked_keeps hp).trans (State.dropGroup_keeps ..))
      · exact hw _
  unfold State.waitOrPark
  dsimp only
  cases (s.core c).group? slot with
  | none => exact Keeps.refl s
  | some g0 => exact key ..

theorem State.adoptOrWait_keeps (s : State) (c slot : Nat) (e : Entry) (o : W64) (f : Bool) (w : Wait) :
    Keeps s (s.adoptOrWait c slot e o f w) := by
  unfold State.adoptOrWait
  cases (s.core c).group? slot with
  | none => exact Keeps.refl s
  | some g =>
    have hend : ∀ u : State, Keeps u (if f && !e.retried then u.setCore c ((u.core c).setEntry slot { e with retried := true })
        else u.waitOrPark c slot e w) := by
      intro u
      split
      · exact Keeps.of_eq rfl
      · exact State.waitOrPark_keeps ..
    have hclaim : ∀ u : State, Keeps u ((u.setCore c ((u.core c).setWg g.wg { (u.core c).wg g.wg with idem := false })).placeAdopted
        c slot e o) := fun u => Keeps.pre (State.placeAdopted_keeps ..) rfl
    have ho := State.ownerRec_keeps s c g.vf o
    simp only
    split
    · exact State.waitOrPark_keeps ..
    · split
      · exact (State.dropFault_keeps ..).trans (State.holdStage2_keeps ..)
      · split
        · rename_i h1
          rw [h1] at ho
          exact ho.trans (State.waitOrPark_keeps ..)
        · rename_i s1 ws h1
          rw [h1] at ho
          refine Keeps.trans ho ?_
          have hs := State.swapCtl_keeps s1 c g.vf o (ctlRun (getAt ws 1 0).toNat c slot true)
          split
          · exact State.waitOrPark_keeps ..
          · split
            · exact hend s1
            · split
              · split
                · rename_i h2
                  rw [h2] at hs
                  exact Keeps.trans hs (State.waitOrPark_keeps ..)
                · rename_i s2 h2
                  rw [h2] at hs
                  refine Keeps.trans hs ?_
                  split
                  · exact hclaim _
                  · have hp := State.parkDead_keeps s2 (c / 48) g.vf o (bits (getAt ws 3 0).toNat 54 0)
                    split <;> (rename_i h3; rw [h3] at hp)
                    · exact Keeps.trans hp (hclaim _)
                    · exact Keeps.trans hp ((State.failTask_keeps _ c g.vf o).trans (Keeps.pre (hend _) rfl))
              · exact State.waitOrPark_keeps ..

end Sys2Proof.Machine
end

