-- ==== Sys2Proof/Laws/Atomics.lean ====
section
/-! SUPPORT. What a group of stores leaves alone beside memory, and what the lanes of an atomic do where the core's L1 owns
their lines (R150, R223, R224). -/

namespace Sys2Proof.Machine

/-! ## Stores leave everything but memory, poison, monitors and the host's lines alone -/

theorem State.foldl_poke_dies (ws : List (Nat × List Byte)) : ∀ s : State,
    (ws.foldl (fun a w => a.poke w.1 w.2) s).dies = s.dies ∧ (ws.foldl (fun a w => a.poke w.1 w.2) s).cores = s.cores
      ∧ (ws.foldl (fun a w => a.poke w.1 w.2) s).l1own = s.l1own ∧ (ws.foldl (fun a w => a.poke w.1 w.2) s).poison = s.poison := by
  induction ws with
  | nil => intro s; exact ⟨rfl, rfl, rfl, rfl⟩
  | cons w t ih => intro s; exact ih _

theorem State.noteOld_rest (s : State) (ws : List (Nat × List Byte)) :
    (s.noteOld ws).dies = s.dies ∧ (s.noteOld ws).cores = s.cores ∧ (s.noteOld ws).l1own = s.l1own
      ∧ (s.noteOld ws).poison = s.poison := by
  unfold State.noteOld; split <;> exact ⟨rfl, rfl, rfl, rfl⟩

theorem State.backInvalidate_rest (s : State) (ws : List (Nat × List Byte)) :
    (s.backInvalidate ws).dies = s.dies ∧ (s.backInvalidate ws).cores = s.cores ∧ (s.backInvalidate ws).l1own = s.l1own
      ∧ (s.backInvalidate ws).poison = s.poison := by
  unfold State.backInvalidate; split <;> exact ⟨rfl, rfl, rfl, rfl⟩

/-- A group of stores changes no die and no ownership of a line, wakes the monitors of its lines, and poisons nothing. -/
theorem State.storeAll_rest (s : State) (ws : List (Nat × List Byte)) :
    (s.storeAll ws).dies = s.dies ∧ (s.storeAll ws).l1own = s.l1own ∧ (∀ l ∈ (s.storeAll ws).poison, l ∈ s.poison)
      ∧ ∃ ls, (s.storeAll ws).cores = s.cores.map fun e => (e.1, { e.2 with quarters := e.2.quarters.map fun q => q.wake ls }) := by
  have key : ∀ u : State, u.dies = s.dies → u.l1own = s.l1own → u.poison = s.poison → u.cores = s.cores →
      ∀ ws : List (Nat × List Byte), let s1 := ws.foldl (fun a w => a.poke w.1 w.2) (u.noteOld ws)
        let s2 := if u.poison.isEmpty then s1 else { s1 with poison := s1.poison.filter fun l => !(wholeLines ws).contains l }
        let t := (s2.backInvalidate ws).wakeMonitors (ws.map fun w => lineOf w.1)
        t.dies = s.dies ∧ t.l1own = s.l1own ∧ (∀ l ∈ t.poison, l ∈ s.poison)
          ∧ ∃ ls, t.cores = s.cores.map fun e => (e.1, { e.2 with quarters := e.2.quarters.map fun q => q.wake ls }) := by
    intro u h1 h2 h3 h4 ws s1 s2 t
    obtain ⟨a1, a2, a3, a4⟩ := State.foldl_poke_dies ws (u.noteOld ws)
    obtain ⟨b1, b2, b3, b4⟩ := State.noteOld_rest u ws
    obtain ⟨c1, c2, c3, c4⟩ := State.backInvalidate_rest s2 ws
    have hs : s2.dies = u.dies ∧ s2.cores = u.cores ∧ s2.l1own = u.l1own ∧ ∀ l ∈ s2.poison, l ∈ u.poison := by
      by_cases he : u.poison.isEmpty = true
      · have : s2 = s1 := if_pos he
        rw [this]
        exact ⟨a1.trans b1, a2.trans b2, a3.trans b3, fun l hl => by rw [a4, b4] at hl; exact hl⟩
      · have : s2 = { s1 with poison := s1.poison.filter fun l => !(wholeLines ws).contains l } := if_neg he
        rw [this]
        exact ⟨a1.trans b1, a2.trans b2, a3.trans b3, fun l hl => by
          have := (List.mem_filter.mp hl).1; rw [a4, b4] at this; exact this⟩
    refine ⟨c1.trans (hs.1.trans h1), c3.trans (hs.2.2.1.trans h2), fun l hl => ?_, ⟨ws.map fun w => lineOf w.1, ?_⟩⟩
    · have h : l ∈ (s2.backInvalidate ws).poison := hl
      rw [c4] at h
      rw [← h3]; exact hs.2.2.2 l h
    · show (s2.backInvalidate ws).cores.map _ = _
      rw [c2, hs.2.1, h4]
  unfold State.storeAll
  cases (ws.find? fun w => s.lostHome w.1) with
  | none => exact key s rfl rfl rfl rfl _
  | some w => exact key (s.storesLost w.1) rfl rfl rfl rfl _

theorem State.lostHome_of_dies {s t : State} (h : t.dies = s.dies) (pa : Nat) : t.lostHome pa = s.lostHome pa := by
  unfold State.lostHome; rw [h]

theorem State.storeAll_poisoned {s : State} {ws : List (Nat × List Byte)} {pa : Nat} (h : s.poisoned pa = false) :
    (s.storeAll ws).poisoned pa = false := by
  obtain ⟨h1, -, h3, -⟩ := State.storeAll_rest s ws
  unfold State.poisoned at *
  rw [State.lostHome_of_dies h1]
  simp only [Bool.or_eq_false_iff] at *
  refine ⟨?_, h.2⟩
  by_contra hc
  have hm : lineOf pa ∈ (s.storeAll ws).poison := by simpa using hc
  have := h3 _ hm
  simp [this] at h

theorem KMap.getD_mapVal {α : Type} (m : KMap α) (f : α → α) (k : Nat) (d : α) (hd : f d = d) :
    KMap.getD (m.map fun e => (e.1, f e.2)) k d = f (KMap.getD m k d) := by
  unfold KMap.getD
  induction m with
  | nil => exact hd.symm
  | cons e t ih =>
    obtain ⟨i, v⟩ := e
    simp only [List.map_cons, KMap.get?_cons]
    split
    · rfl
    · exact ih

theorem Core.reset_wake (ls : List Nat) : { Core.reset with quarters := Core.reset.quarters.map fun q => q.wake ls } = Core.reset :=
  rfl

/-- A core after stores, but for the monitors of its quarters. -/
theorem State.storeAll_core (s : State) (ws : List (Nat × List Byte)) (c : Nat) :
    ∃ ls, (s.storeAll ws).core c = { s.core c with quarters := (s.core c).quarters.map fun q => q.wake ls } := by
  obtain ⟨-, -, -, ls, h⟩ := State.storeAll_rest s ws
  refine ⟨ls, ?_⟩
  unfold State.core
  rw [h]
  exact KMap.getD_mapVal s.cores (fun k => { k with quarters := k.quarters.map fun q => q.wake ls }) c Core.reset
    (Core.reset_wake ls)

theorem State.storeAll_atoms (s : State) (ws : List (Nat × List Byte)) (c : Nat) : ((s.storeAll ws).core c).atoms = (s.core c).atoms := by
  obtain ⟨ls, h⟩ := State.storeAll_core s ws c; rw [h]

theorem State.storeAll_outs (s : State) (ws : List (Nat × List Byte)) (c : Nat) : ((s.storeAll ws).core c).outs = (s.core c).outs := by
  obtain ⟨ls, h⟩ := State.storeAll_core s ws c; rw [h]

/-! ## Two states with one memory -/

/-- The same memory, and the same dies lost. -/
structure SameHomes (s t : State) : Prop where
  mem : SameMem s t
  lost : ∀ pa, t.lostHome pa = s.lostHome pa

theorem SameHomes.refl (s : State) : SameHomes s s := ⟨SameMem.refl s, fun _ => rfl⟩
theorem SameHomes.trans {a b c : State} (h : SameHomes a b) (h' : SameHomes b c) : SameHomes a c :=
  ⟨h.mem.trans h'.mem, fun pa => (h'.lost pa).trans (h.lost pa)⟩
theorem SameHomes.of_eq {s t : State} (h : SameMem s t) (hd : t.dies = s.dies) : SameHomes s t := ⟨h, State.lostHome_of_dies hd⟩

theorem SameHomes.readNat {s t : State} (h : SameHomes s t) (a n : Nat) : t.readNat a n = s.readNat a n := by
  unfold State.readNat State.bytes
  congr 1
  exact List.map_congr_left fun i _ => h.mem.byte _

/-- The same stores leave the same memory. -/
theorem SameHomes.storeAll {s t : State} (h : SameHomes s t) (ws : List (Nat × List Byte)) :
    SameHomes (s.storeAll ws) (t.storeAll ws) := by
  refine ⟨⟨?_, ?_⟩, fun pa => ?_⟩
  · rw [State.storeAll_mem, State.storeAll_mem, State.foldl_poke_mem, State.foldl_poke_mem, h.mem.1]
    congr 1
    exact List.filter_congr fun w _ => by rw [h.lost]
  · rw [State.storeAll_noise, State.storeAll_noise, h.mem.2]
  · rw [State.lostHome_of_dies (State.storeAll_rest t ws).1, State.lostHome_of_dies (State.storeAll_rest s ws).1, h.lost]

/-! ## One lane of an atomic -/

/-- One lane's atomic on a good line. -/
theorem State.doLane_good {s : State} {c : Nat} {a : AtomLane} (h : s.poisoned a.pa = false) :
    s.doLane c a = (s.setCore c (if a.returns then ({ s.core c with atoms := (s.core c).atoms.erase a } : Core).putOld a
      (s.readNat a.pa a.size) false else { s.core c with atoms := (s.core c).atoms.erase a })).storeAll
        [(a.pa, leBytes a.size (a.fn.apply (s.readNat a.pa a.size)))] := by
  unfold State.doLane
  simp only [h, Bool.not_false, if_true]

theorem State.doLane_mem {s : State} {c : Nat} {a : AtomLane} (h : s.poisoned a.pa = false) :
    SameHomes (s.storeAll [(a.pa, leBytes a.size (a.fn.apply (s.readNat a.pa a.size)))]) (s.doLane c a) := by
  rw [State.doLane_good h]
  exact (SameHomes.of_eq (State.setCore_same ..) rfl).storeAll _

theorem Core.putOld_atoms (k : Core) (a : AtomLane) (old : Nat) (bad : Bool) : (k.putOld a old bad).atoms = k.atoms := rfl

theorem State.doLane_rest {s : State} {c : Nat} {a : AtomLane} (h : s.poisoned a.pa = false) :
    (s.doLane c a).dies = s.dies ∧ (s.doLane c a).l1own = s.l1own ∧ (∀ pa, s.poisoned pa = false → (s.doLane c a).poisoned pa = false)
      ∧ ((s.doLane c a).core c).atoms = (s.core c).atoms.erase a := by
  rw [State.doLane_good h]
  refine ⟨(State.storeAll_rest ..).1, (State.storeAll_rest ..).2.1, fun pa hp => State.storeAll_poisoned hp, ?_⟩
  rw [State.storeAll_atoms]
  unfold State.core State.setCore
  rw [KMap.getD_put_self]
  split <;> rfl

/-! ## The lanes of a line -/

/-- The L1 owns the line, and no other core has asked for it. -/
def State.ownsFree (s : State) (c line : Nat) : Prop := ∃ left, 16 < left ∧ KMap.get? s.l1own line = some (c, left)

theorem State.runLanes_owned (c line : Nat) (ls : List AtomLane) : ∀ s : State, s.ownsFree c line →
    (∀ a ∈ ls, s.poisoned a.pa = false) → s.runLanes c line ls = ls.foldl (fun s a => s.doLane c a) s := by
  induction ls with
  | nil => intro s _ _; rfl
  | cons a t ih =>
    intro s ho hp
    obtain ⟨left, hl, hg⟩ := ho
    have ha := hp a List.mem_cons_self
    have hr := State.doLane_rest (c := c) ha
    unfold State.runLanes
    simp only [hg, ne_eq, not_true, if_false, if_pos hl]
    rw [List.foldl_cons]
    exact ih _ ⟨left, hl, by rw [hr.2.1]; exact hg⟩ fun b hb => hr.2.2.1 _ (hp b (List.mem_cons_of_mem _ hb))

/-- What a run of lanes on good lines leaves alone. -/
theorem State.foldl_doLane_rest (c : Nat) (ls : List AtomLane) : ∀ s : State, (∀ a ∈ ls, s.poisoned a.pa = false) →
    let t := ls.foldl (fun s a => s.doLane c a) s
    t.dies = s.dies ∧ t.l1own = s.l1own ∧ (∀ pa, s.poisoned pa = false → t.poisoned pa = false)
      ∧ ∀ a ∈ (t.core c).atoms, a ∈ (s.core c).atoms := by
  induction ls with
  | nil => intro s _; exact ⟨rfl, rfl, fun _ h => h, fun _ h => h⟩
  | cons a t ih =>
    intro s hp
    obtain ⟨h1, h2, h3, h4⟩ := State.doLane_rest (c := c) (hp a List.mem_cons_self)
    obtain ⟨g1, g2, g3, g4⟩ := ih (s.doLane c a) fun b hb => h3 _ (hp b (List.mem_cons_of_mem _ hb))
    refine ⟨g1.trans h1, g2.trans h2, fun pa h => g3 pa (h3 pa h), fun b hb => ?_⟩
    have := g4 b hb
    rw [h4] at this
    exact List.mem_of_mem_erase this

/-- The memory that a run of lanes on good lines leaves. -/
theorem State.foldl_doLane_mem (c : Nat) (ls : List AtomLane) : ∀ s t : State, SameHomes s t → (∀ a ∈ ls, t.poisoned a.pa = false) →
    SameHomes (ls.foldl (fun s a => s.storeAll [(a.pa, leBytes a.size (a.fn.apply (s.readNat a.pa a.size)))]) s)
      (ls.foldl (fun s a => s.doLane c a) t) := by
  induction ls with
  | nil => intro s t h _; exact h
  | cons a l ih =>
    intro s t h hp
    have ha := hp a List.mem_cons_self
    refine ih _ _ ?_ fun b hb => (State.doLane_rest ha).2.2.1 _ (hp b (List.mem_cons_of_mem _ hb))
    show SameHomes (s.storeAll [(a.pa, leBytes a.size (a.fn.apply (s.readNat a.pa a.size)))]) (t.doLane c a)
    rw [← h.readNat]
    exact (h.storeAll _).trans (State.doLane_mem ha)

/-- The new values of a run of lanes, each stored with what it finds. -/
def State.storeLanes (s : State) (lanes : List AtomLane) : State :=
  lanes.foldl (fun s a => s.storeAll [(a.pa, leBytes a.size (a.fn.apply (s.readNat a.pa a.size)))]) s

theorem Core.atomsAt_nil {k : Core} {line : Nat} :
    k.atomsAt line = [] ↔ ∀ a ∈ k.atoms, ¬ (lineOf a.pa = line ∧ a.bypass = false) := by
  unfold Core.atomsAt
  simp only [List.filter_eq_nil_iff, Bool.and_eq_true, decide_eq_true_eq, Bool.not_eq_true']

theorem State.bypasses_of_dies {s t : State} (h : t.dies = s.dies) (a : AtomLane) : t.bypasses a = s.bypasses a := by
  unfold State.bypasses State.die; rw [h]

/-- The lanes of one line start where the core's L1 owns it free, no atomic of the core waits there, and it is good: they are all
done. -/
theorem State.startLine_owned {s : State} {c line : Nat} {lanes : List AtomLane} (ho : s.ownsFree c line)
    (he : (s.core c).atomsAt line = []) (hl : ∀ a ∈ lanes, lineOf a.pa = line)
    (hp : ∀ a ∈ lanes, s.poisoned a.pa = false ∧ s.bypasses a = false) :
    let t := s.startLine c line lanes
    SameHomes (s.storeLanes lanes) t ∧ t.dies = s.dies ∧ t.l1own = s.l1own
      ∧ (∀ pa, s.poisoned pa = false → t.poisoned pa = false)
      ∧ ∀ a ∈ (t.core c).atoms, a ∈ (s.core c).atoms ∨ lineOf a.pa = line := by
  cases lanes with
  | nil => exact ⟨SameHomes.refl s, rfl, rfl, fun _ h => h, fun _ h => .inl h⟩
  | cons a l =>
    have hq := fun b hb => (hp b hb).1
    unfold State.startLine
    simp only [List.head?_cons, (hp a List.mem_cons_self).2, he, List.isEmpty_nil, if_true, Bool.false_eq_true, if_false]
    generalize hu : s.setCore c { s.core c with atoms := (s.core c).atoms ++ a :: l } = u
    have hd : u.dies = s.dies := by rw [← hu]; rfl
    have hw : u.l1own = s.l1own := by rw [← hu]; rfl
    have hz : ∀ pa, s.poisoned pa = false → u.poisoned pa = false := fun pa h => by rw [← hu]; exact h
    have hc : (u.core c).atoms = (s.core c).atoms ++ a :: l := by
      rw [← hu]; unfold State.core State.setCore; rw [KMap.getD_put_self]
    have hr := State.runLanes_owned c line (a :: l) u (by unfold State.ownsFree; rw [hw]; exact ho) fun b hb => hz _ (hq b hb)
    obtain ⟨g1, g2, g3, g4⟩ := State.foldl_doLane_rest c (a :: l) u fun b hb => hz _ (hq b hb)
    rw [hr]
    refine ⟨State.foldl_doLane_mem c (a :: l) s u ?_ fun b hb => hz _ (hq b hb), g1.trans hd, g2.trans hw,
      fun pa h => g3 pa (hz pa h), fun b hb => ?_⟩
    · rw [← hu]; exact SameHomes.of_eq (State.setCore_same ..) rfl
    · have hm := g4 b hb
      rw [hc] at hm
      rcases List.mem_append.mp hm with h | h
      · exact .inl h
      · exact .inr (hl b h)

/-- The lanes of an atomic, line by line, start where the core's L1 owns every line free, no atomic of the core waits for one, and
all are good: they are all done. -/
theorem State.startLines_owned (c : Nat) (lanes : List AtomLane) (ls : List Nat) : ∀ s u : State, ls.Nodup → SameHomes u s →
    (∀ l ∈ ls, s.ownsFree c l ∧ (s.core c).atomsAt l = []) →
    (∀ a ∈ lanes, s.poisoned a.pa = false ∧ s.bypasses a = false) →
    SameHomes (ls.foldl (fun s l => s.storeLanes (lanes.filter fun a => decide (lineOf a.pa = l))) u)
      (ls.foldl (fun s l => s.startLine c l (lanes.filter fun a => decide (lineOf a.pa = l))) s) := by
  induction ls with
  | nil => intro s u _ h _ _; exact h
  | cons l t ih =>
    intro s u hn h ho hp
    obtain ⟨hl, hn⟩ := List.nodup_cons.mp hn
    obtain ⟨o1, e1⟩ := ho l List.mem_cons_self
    obtain ⟨g0, g1, g2, g3, g4⟩ := State.startLine_owned (lanes := lanes.filter fun a => decide (lineOf a.pa = l)) o1 e1
      (fun a ha => by simpa using (List.mem_filter.mp ha).2) (fun a ha => hp a (List.mem_filter.mp ha).1)
    refine ih _ _ hn ?_ (fun l' hl' => ?_) fun a ha => ⟨g3 _ (hp a ha).1, ?_⟩
    · refine SameHomes.trans ?_ g0
      have key : ∀ (w : List AtomLane) (u s : State), SameHomes u s → SameHomes (u.storeLanes w) (s.storeLanes w) := by
        intro w
        induction w with
        | nil => intro u s h; exact h
        | cons a w ihw =>
          intro u s h
          refine ihw _ _ ?_
          show SameHomes (u.storeAll [(a.pa, leBytes a.size (a.fn.apply (u.readNat a.pa a.size)))]) _
          rw [← h.readNat]
          exact h.storeAll _
      exact key _ _ _ h
    · obtain ⟨o2, e2⟩ := ho l' (List.mem_cons_of_mem _ hl')
      refine ⟨by unfold State.ownsFree; rw [g2]; exact o2, Core.atomsAt_nil.mpr fun a ha hc => ?_⟩
      rcases g4 a ha with h1 | h1
      · exact Core.atomsAt_nil.mp e2 a h1 hc
      · exact hl (h1 ▸ hc.1 ▸ hl')
    · rw [State.bypasses_of_dies g1]; exact (hp a ha).2

/-! ## Bytes that no lane covers -/

theorem leBytes_length (n : Nat) : ∀ v : Nat, (leBytes n v).length = n := by
  induction n with
  | zero => intro v; rfl
  | succ n ih => intro v; simp only [leBytes, List.length_cons, ih]

theorem State.doLane_byte (s : State) (c : Nat) (b : AtomLane) (a : Nat) (h : a < b.pa ∨ b.pa + b.size ≤ a) :
    (s.doLane c b).byte a = s.byte a := by
  unfold State.doLane
  simp only
  split
  · refine (State.storeAll_reads _ _ _ fun w hw => ?_).trans rfl
    simp only [List.mem_singleton] at hw
    subst hw
    simpa only [leBytes_length] using h
  · split <;> rfl

theorem State.askLine_same (s : State) (c : Nat) (b : AtomLane) : SameMem s (s.askLine c b) :=
  (State.setCore_same ..).trans (State.sendReq_same ..)

theorem State.runLanes_byte (c line a : Nat) (ls : List AtomLane) : ∀ s : State,
    (∀ b ∈ ls, a < b.pa ∨ b.pa + b.size ≤ a) → (s.runLanes c line ls).byte a = s.byte a := by
  induction ls with
  | nil => intro s _; rfl
  | cons b t ih =>
    intro s h
    unfold State.runLanes
    split
    · exact (State.askLine_same ..).byte a
    · split
      · exact (State.askLine_same ..).byte a
      · refine (ih _ fun b hb => h b (List.mem_cons_of_mem _ hb)).trans ?_
        exact State.doLane_byte s c b a (h b List.mem_cons_self)

theorem State.startLine_byte (s : State) (c line a : Nat) (ls : List AtomLane) (h : ∀ b ∈ ls, a < b.pa ∨ b.pa + b.size ≤ a) :
    (s.startLine c line ls).byte a = s.byte a := by
  unfold State.startLine
  split
  · rfl
  · split
    · exact ((State.setCore_same ..).trans (State.sendReq_same ..)).byte a
    · simp only
      split
      · exact (State.runLanes_byte c line a ls _ h).trans rfl
      · rfl

/-- An atomic that starts writes no byte but those of its lanes. -/
theorem State.startAtoms_byte (s : State) (c a : Nat) (lanes : List AtomLane) (h : ∀ b ∈ lanes, a < b.pa ∨ b.pa + b.size ≤ a) :
    (s.startAtoms c lanes).byte a = s.byte a := by
  unfold State.startAtoms
  generalize ((lanes.map fun a => lineOf a.pa).eraseDups) = ls
  induction ls generalizing s with
  | nil => rfl
  | cons l t ih =>
    rw [List.foldl_cons, ih]
    exact State.startLine_byte s c l a _ fun b hb => h b (List.mem_filter.mp hb).1

theorem nodup_eraseDups {α : Type} [DecidableEq α] (n : Nat) : ∀ l : List α, l.length ≤ n → l.eraseDups.Nodup := by
  induction n with
  | zero => intro l h; rw [List.length_eq_zero_iff.mp (Nat.le_zero.mp h)]; exact List.nodup_nil
  | succ n ih =>
    intro l h
    cases l with
    | nil => exact List.nodup_nil
    | cons a t =>
      rw [List.eraseDups_cons]
      refine List.nodup_cons.mpr ⟨fun hm => ?_, ih _ ?_⟩
      · have := List.mem_eraseDups.mp hm
        simp at this
      · have := List.length_filter_le (fun b => !b == a) t
        simp only [List.length_cons] at h
        omega

/-! ## What pending results leave alone -/

theorem Core.updFrame_atoms (k : Core) (f : Nat) (u : Frame → Frame) : (k.updFrame f u).atoms = k.atoms := by
  unfold Core.updFrame; split <;> rfl

theorem Core.writeLoc_atoms (k : Core) (l : RegLoc) (m : Mask) (v : Reg) : (k.writeLoc l m v).atoms = k.atoms := by
  cases l <;> simp [Core.writeLoc, Core.updFrame_atoms]

theorem Core.applyPend_atoms (k : Core) (slot : Nat) (p : Pend) : (k.applyPend slot p).atoms = k.atoms := by
  unfold Core.applyPend
  split
  · exact Core.writeLoc_atoms ..
  · split <;> rfl

theorem Core.settle_atoms (k : Core) (slot : Nat) (sel : Pend → Bool) : (k.settle slot sel).atoms = k.atoms := by
  unfold Core.settle
  split
  · rfl
  · split
    · rfl
    · have key : ∀ (l : List Pend) (k : Core), (l.foldl (fun a p => a.applyPend slot p) k).atoms = k.atoms := by
        intro l
        induction l with
        | nil => intro k; rfl
        | cons p t ih => intro k; rw [List.foldl_cons, ih, Core.applyPend_atoms]
      exact (key _ _).trans rfl

theorem State.addResult_atoms (s : State) (x : Iss) (d : Nat) (vals : List Reg) (po : Mask) (vas : List W64) (r : Nat)
    (load : Bool) (la : List (W32 × Nat)) : ((s.addResult x d vals po vas r load la).core x.c).atoms = (s.core x.c).atoms := by
  unfold State.addResult State.core State.setCore
  simp only [KMap.getD_put_self, Core.addOut]

/-- What noting translations leaves alone beside memory. -/
structure SameBut (c : Nat) (s t : State) : Prop where
  homes : SameHomes s t
  poison : t.poison = s.poison
  own : t.l1own = s.l1own
  atoms : (t.core c).atoms = (s.core c).atoms
  next : (t.core c).nextId = (s.core c).nextId
  ways : ∀ a, t.bypasses a = s.bypasses a

theorem SameBut.refl (c : Nat) (s : State) : SameBut c s s := ⟨SameHomes.refl s, rfl, rfl, rfl, rfl, fun _ => rfl⟩
theorem SameBut.trans {c : Nat} {a b d : State} (h : SameBut c a b) (h' : SameBut c b d) : SameBut c a d :=
  ⟨h.homes.trans h'.homes, h'.poison.trans h.poison, h'.own.trans h.own, h'.atoms.trans h.atoms, h'.next.trans h.next,
    fun a => (h'.ways a).trans (h.ways a)⟩
theorem SameBut.poisoned {c : Nat} {s t : State} (h : SameBut c s t) (pa : Nat) : t.poisoned pa = s.poisoned pa := by
  unfold State.poisoned; rw [h.poison, h.homes.lost]

theorem State.noteXlate_but (s : State) (c v va : Nat) (acc : Acc) : SameBut c s (s.noteXlate c v va acc) := by
  refine ⟨⟨State.noteXlate_same .., fun pa => ?_⟩, ?_, ?_, ?_, ?_, fun a => ?_⟩
  · unfold State.noteXlate State.lostHome
    simp only
    split
    · rfl
    · simp only
      by_cases h : homeDie pa = c / 48
      · rw [h, KMap.get?_put_self]
        unfold KMap.getD
        cases KMap.get? s.dies (c / 48) <;> rfl
      · rw [KMap.get?_put_ne _ _ h]
  · unfold State.noteXlate; simp only; split <;> rfl
  · unfold State.noteXlate; simp only; split <;> rfl
  · unfold State.noteXlate State.core; simp only; split
    · rfl
    · simp only [KMap.getD_put_self]
  · unfold State.noteXlate State.core; simp only; split
    · rfl
    · simp only [KMap.getD_put_self]
  · have h : ((s.noteXlate c v va acc).die (homeDie a.pa)).pway = (s.die (homeDie a.pa)).pway
        ∧ ((s.noteXlate c v va acc).die (homeDie a.pa)).vfway = (s.die (homeDie a.pa)).vfway := by
      unfold State.noteXlate
      simp only
      split
      · exact ⟨rfl, rfl⟩
      · unfold State.die
        simp only
        by_cases h : homeDie a.pa = c / 48
        · rw [h, KMap.getD_put_self]; exact ⟨rfl, rfl⟩
        · rw [KMap.getD_put_ne _ _ _ h]; exact ⟨rfl, rfl⟩
    unfold State.bypasses Die.ways
    rw [h.1, h.2]

theorem State.noteAll_but (s : State) (x : Iss) (vas : List Nat) (acc : Acc) : SameBut x.c s (s.noteAll x vas acc) := by
  unfold State.noteAll
  generalize ((vas.map fun a => a / 65536).eraseDups) = l
  induction l generalizing s with
  | nil => exact SameBut.refl ..
  | cons p t ih => exact (State.noteXlate_but ..).trans (ih _)

end Sys2Proof.Machine
end

