-- ==== Sys2Proof/Laws/Encoding.lean ====
section
/-! SUPPORT. The bytes of a word read back as the word, and the fields of each format read back as they were put. -/

namespace Sys2Proof

theorem takeBytes_leBytes (n : Nat) : ∀ (x : Nat) (rest : List Byte),
    takeBytes n (Machine.leBytes n x ++ rest) = some (x % 256 ^ n, rest) := by
  induction n with
  | zero => intro x rest; simp [takeBytes, Machine.leBytes, Nat.mod_one]
  | succ n ih =>
    intro x rest
    rw [Machine.leBytes, List.cons_append, takeBytes, ih, BitVec.toNat_ofNat]
    simp only
    rw [show x % 256 ^ (n + 1) = x % (256 * 256 ^ n) by rw [Nat.pow_succ, Nat.mul_comm], Nat.mod_mul]

theorem takeBytes_word (w : W64) (rest : List Byte) : takeBytes 8 (wordBytes w ++ rest) = some (w.toNat, rest) := by
  have h : w.toNat % 256 ^ 8 = w.toNat := Nat.mod_eq_of_lt w.isLt
  rw [wordBytes, takeBytes_leBytes, h]

theorem takeBytes_engine (w : BitVec 16) (rest : List Byte) : takeBytes 2 (engineBytes w ++ rest) = some (w.toNat, rest) := by
  have h : w.toNat % 256 ^ 2 = w.toNat := Nat.mod_eq_of_lt w.isLt
  rw [engineBytes, takeBytes_leBytes, h]

theorem putHead_getLsbD (opc : BitVec 8) (g : Guard) (i : Nat) :
    (putHead opc g).getLsbD i = if i < 3 then g.pred.getLsbD i else if i - 3 < 1 then (BitVec.ofBool g.pn).getLsbD (i - 3)
      else if i - 3 - 1 < 4 then g.stall.getLsbD (i - 3 - 1) else opc.getLsbD (i - 3 - 1 - 4) := by
  change @BitVec.getLsbD (13 + 3) (_ ++ g.pred) i = _
  simp only [BitVec.getLsbD_append]

theorem ofBool_getLsbD (b : Bool) (i : Nat) (h : i = 0) : (BitVec.ofBool b).getLsbD i = b := by subst h; cases b <;> rfl

theorem putV3_getLsbD (opc : BitVec 8) (o : V3) (i : Nat) :
    (putV3 opc o).getLsbD i = if i < 3 then o.func.getLsbD i else if i - 3 < 1 then (BitVec.ofBool o.aa).getLsbD (i - 3) else if i - 3 - 1 < 1 then (BitVec.ofBool o.nc).getLsbD (i - 3 - 1) else if i - 3 - 1 - 1 < 1 then (BitVec.ofBool o.nb).getLsbD (i - 3 - 1 - 1) else if i - 3 - 1 - 1 - 1 < 1 then (BitVec.ofBool o.na).getLsbD (i - 3 - 1 - 1 - 1) else if i - 3 - 1 - 1 - 1 - 1 < 3 then o.rm.getLsbD (i - 3 - 1 - 1 - 1 - 1) else if i - 3 - 1 - 1 - 1 - 1 - 3 < 4 then o.ty.getLsbD (i - 3 - 1 - 1 - 1 - 1 - 3) else if i - 3 - 1 - 1 - 1 - 1 - 3 - 4 < 1 then (BitVec.ofBool o.bi).getLsbD (i - 3 - 1 - 1 - 1 - 1 - 3 - 4) else if i - 3 - 1 - 1 - 1 - 1 - 3 - 4 - 1 < 1 then (BitVec.ofBool o.lit).getLsbD (i - 3 - 1 - 1 - 1 - 1 - 3 - 4 - 1) else if i - 3 - 1 - 1 - 1 - 1 - 3 - 4 - 1 - 1 < 8 then o.c.getLsbD (i - 3 - 1 - 1 - 1 - 1 - 3 - 4 - 1 - 1) else if i - 3 - 1 - 1 - 1 - 1 - 3 - 4 - 1 - 1 - 8 < 8 then o.b.getLsbD (i - 3 - 1 - 1 - 1 - 1 - 3 - 4 - 1 - 1 - 8) else if i - 3 - 1 - 1 - 1 - 1 - 3 - 4 - 1 - 1 - 8 - 8 < 8 then o.a.getLsbD (i - 3 - 1 - 1 - 1 - 1 - 3 - 4 - 1 - 1 - 8 - 8) else if i - 3 - 1 - 1 - 1 - 1 - 3 - 4 - 1 - 1 - 8 - 8 - 8 < 8 then o.d.getLsbD (i - 3 - 1 - 1 - 1 - 1 - 3 - 4 - 1 - 1 - 8 - 8 - 8) else (putHead opc o.g).getLsbD (i - 3 - 1 - 1 - 1 - 1 - 3 - 4 - 1 - 1 - 8 - 8 - 8 - 8) := by
  change @BitVec.getLsbD (61 + 3) (_ ++ o.func) i = _
  simp only [BitVec.getLsbD_append]

theorem opcOf_putV3 (opc : BitVec 8) (o : V3) : opcOf (putV3 opc o) = opc := by
  apply BitVec.eq_of_getLsbD_eq
  intro i hi
  rw [opcOf, BitVec.getLsbD_extractLsb', putV3_getLsbD, decide_eq_true hi, Bool.true_and]
  repeat first | rw [if_neg (by omega)] | rw [if_pos (by omega)]
  rw [putHead_getLsbD]
  repeat first | rw [if_neg (by omega)] | rw [if_pos (by omega)]
  congr 1; omega

theorem getGuard_putV3 (opc : BitVec 8) (o : V3) : getGuard (putV3 opc o) = o.g := by
  rw [getGuard, putV3_getLsbD]
  show Guard.mk _ _ _ = Guard.mk o.g.stall o.g.pn o.g.pred
  congr 1
  all_goals first
    | (apply BitVec.eq_of_getLsbD_eq; intro i hi
       rw [BitVec.getLsbD_extractLsb', putV3_getLsbD, decide_eq_true hi, Bool.true_and])
    | skip
  all_goals repeat first | rw [if_neg (by omega)] | rw [if_pos (by omega)]
  all_goals rw [putHead_getLsbD]
  all_goals repeat first | rw [if_neg (by omega)] | rw [if_pos (by omega)]
  all_goals first | (exact ofBool_getLsbD _ _ (by omega)) | (congr 1; omega)

theorem getV3_putV3 (opc : BitVec 8) (o : V3) (l : W64) : getV3 (putV3 opc o) l = { o with literal := l } := by
  rw [getV3, getGuard_putV3]
  show V3.mk _ _ _ _ _ _ _ _ _ _ _ _ _ _ _ = V3.mk o.g o.d o.a o.b o.c o.lit o.bi o.ty o.rm o.na o.nb o.nc o.aa o.func l
  congr 1
  all_goals first
    | rw [putV3_getLsbD]
    | (apply BitVec.eq_of_getLsbD_eq; intro i hi
       rw [BitVec.getLsbD_extractLsb', putV3_getLsbD, decide_eq_true hi, Bool.true_and])
  all_goals repeat first | rw [if_neg (by omega)] | rw [if_pos (by omega)]
  all_goals first | (exact ofBool_getLsbD _ _ (by omega)) | (congr 1; omega)

theorem putVI_getLsbD (opc : BitVec 8) (o : VI) (i : Nat) :
    (putVI opc o).getLsbD i = if i < 16 then o.imm16.getLsbD i else if i - 16 < 8 then o.imm8.getLsbD (i - 16) else if i - 16 - 8 < 8 then o.b.getLsbD (i - 16 - 8) else if i - 16 - 8 - 8 < 8 then o.a.getLsbD (i - 16 - 8 - 8) else if i - 16 - 8 - 8 - 8 < 8 then o.d.getLsbD (i - 16 - 8 - 8 - 8) else (putHead opc o.g).getLsbD (i - 16 - 8 - 8 - 8 - 8) := by
  change @BitVec.getLsbD (48 + 16) (_ ++ o.imm16) i = _
  simp only [BitVec.getLsbD_append]

theorem opcOf_putVI (opc : BitVec 8) (o : VI) : opcOf (putVI opc o) = opc := by
  apply BitVec.eq_of_getLsbD_eq
  intro i hi
  rw [opcOf, BitVec.getLsbD_extractLsb', putVI_getLsbD, decide_eq_true hi, Bool.true_and]
  repeat first | rw [if_neg (by omega)] | rw [if_pos (by omega)]
  rw [putHead_getLsbD]
  repeat first | rw [if_neg (by omega)] | rw [if_pos (by omega)]
  congr 1; omega

theorem getGuard_putVI (opc : BitVec 8) (o : VI) : getGuard (putVI opc o) = o.g := by
  rw [getGuard, putVI_getLsbD]
  show Guard.mk _ _ _ = Guard.mk o.g.stall o.g.pn o.g.pred
  congr 1
  all_goals first
    | (apply BitVec.eq_of_getLsbD_eq; intro i hi
       rw [BitVec.getLsbD_extractLsb', putVI_getLsbD, decide_eq_true hi, Bool.true_and])
    | skip
  all_goals repeat first | rw [if_neg (by omega)] | rw [if_pos (by omega)]
  all_goals rw [putHead_getLsbD]
  all_goals repeat first | rw [if_neg (by omega)] | rw [if_pos (by omega)]
  all_goals first | (exact ofBool_getLsbD _ _ (by omega)) | (congr 1; omega)

theorem getVI_putVI (opc : BitVec 8) (o : VI) (l : W64) : getVI (putVI opc o) l = { o with literal := l } := by
  rw [getVI, getGuard_putVI]
  show VI.mk _ _ _ _ _ _ _ = VI.mk o.g o.d o.a o.b o.imm8 o.imm16 l
  congr 1
  all_goals first
    | rw [putVI_getLsbD]
    | (apply BitVec.eq_of_getLsbD_eq; intro i hi
       rw [BitVec.getLsbD_extractLsb', putVI_getLsbD, decide_eq_true hi, Bool.true_and])
  all_goals repeat first | rw [if_neg (by omega)] | rw [if_pos (by omega)]
  all_goals first | (exact ofBool_getLsbD _ _ (by omega)) | (congr 1; omega)

theorem putMF_getLsbD (opc : BitVec 8) (o : MF) (i : Nat) :
    (putMF opc o).getLsbD i = if i < 16 then o.imm16.getLsbD i else if i - 16 < 3 then o.size.getLsbD (i - 16) else if i - 16 - 3 < 2 then o.ord.getLsbD (i - 16 - 3) else if i - 16 - 3 - 2 < 3 then o.scope.getLsbD (i - 16 - 3 - 2) else if i - 16 - 3 - 2 - 3 < 8 then o.b.getLsbD (i - 16 - 3 - 2 - 3) else if i - 16 - 3 - 2 - 3 - 8 < 8 then o.a.getLsbD (i - 16 - 3 - 2 - 3 - 8) else if i - 16 - 3 - 2 - 3 - 8 - 8 < 8 then o.d.getLsbD (i - 16 - 3 - 2 - 3 - 8 - 8) else (putHead opc o.g).getLsbD (i - 16 - 3 - 2 - 3 - 8 - 8 - 8) := by
  change @BitVec.getLsbD (48 + 16) (_ ++ o.imm16) i = _
  simp only [BitVec.getLsbD_append]

theorem opcOf_putMF (opc : BitVec 8) (o : MF) : opcOf (putMF opc o) = opc := by
  apply BitVec.eq_of_getLsbD_eq
  intro i hi
  rw [opcOf, BitVec.getLsbD_extractLsb', putMF_getLsbD, decide_eq_true hi, Bool.true_and]
  repeat first | rw [if_neg (by omega)] | rw [if_pos (by omega)]
  rw [putHead_getLsbD]
  repeat first | rw [if_neg (by omega)] | rw [if_pos (by omega)]
  congr 1; omega

theorem getGuard_putMF (opc : BitVec 8) (o : MF) : getGuard (putMF opc o) = o.g := by
  rw [getGuard, putMF_getLsbD]
  show Guard.mk _ _ _ = Guard.mk o.g.stall o.g.pn o.g.pred
  congr 1
  all_goals first
    | (apply BitVec.eq_of_getLsbD_eq; intro i hi
       rw [BitVec.getLsbD_extractLsb', putMF_getLsbD, decide_eq_true hi, Bool.true_and])
    | skip
  all_goals repeat first | rw [if_neg (by omega)] | rw [if_pos (by omega)]
  all_goals rw [putHead_getLsbD]
  all_goals repeat first | rw [if_neg (by omega)] | rw [if_pos (by omega)]
  all_goals first | (exact ofBool_getLsbD _ _ (by omega)) | (congr 1; omega)

theorem getMF_putMF (opc : BitVec 8) (o : MF) : getMF (putMF opc o) = o := by
  rw [getMF, getGuard_putMF]
  show MF.mk _ _ _ _ _ _ _ _ = MF.mk o.g o.d o.a o.b o.scope o.ord o.size o.imm16
  congr 1
  all_goals first
    | rw [putMF_getLsbD]
    | (apply BitVec.eq_of_getLsbD_eq; intro i hi
       rw [BitVec.getLsbD_extractLsb', putMF_getLsbD, decide_eq_true hi, Bool.true_and])
  all_goals repeat first | rw [if_neg (by omega)] | rw [if_pos (by omega)]
  all_goals first | (exact ofBool_getLsbD _ _ (by omega)) | (congr 1; omega)

theorem putXF_getLsbD (opc : BitVec 8) (o : XF) (i : Nat) :
    (putXF opc o).getLsbD i = if i < 1 then (BitVec.ofBool o.rsv).getLsbD i else if i - 1 < 2 then o.ord.getLsbD (i - 1) else if i - 1 - 2 < 3 then o.scope.getLsbD (i - 1 - 2) else if i - 1 - 2 - 3 < 3 then o.size.getLsbD (i - 1 - 2 - 3) else if i - 1 - 2 - 3 - 3 < 4 then o.scl.getLsbD (i - 1 - 2 - 3 - 3) else if i - 1 - 2 - 3 - 3 - 4 < 1 then (BitVec.ofBool o.isg).getLsbD (i - 1 - 2 - 3 - 3 - 4) else if i - 1 - 2 - 3 - 3 - 4 - 1 < 2 then o.iw.getLsbD (i - 1 - 2 - 3 - 3 - 4 - 1) else if i - 1 - 2 - 3 - 3 - 4 - 1 - 2 < 8 then o.c.getLsbD (i - 1 - 2 - 3 - 3 - 4 - 1 - 2) else if i - 1 - 2 - 3 - 3 - 4 - 1 - 2 - 8 < 8 then o.b.getLsbD (i - 1 - 2 - 3 - 3 - 4 - 1 - 2 - 8) else if i - 1 - 2 - 3 - 3 - 4 - 1 - 2 - 8 - 8 < 8 then o.a.getLsbD (i - 1 - 2 - 3 - 3 - 4 - 1 - 2 - 8 - 8) else if i - 1 - 2 - 3 - 3 - 4 - 1 - 2 - 8 - 8 - 8 < 8 then o.d.getLsbD (i - 1 - 2 - 3 - 3 - 4 - 1 - 2 - 8 - 8 - 8) else (putHead opc o.g).getLsbD (i - 1 - 2 - 3 - 3 - 4 - 1 - 2 - 8 - 8 - 8 - 8) := by
  change @BitVec.getLsbD (63 + 1) (_ ++ BitVec.ofBool o.rsv) i = _
  simp only [BitVec.getLsbD_append]

theorem opcOf_putXF (opc : BitVec 8) (o : XF) : opcOf (putXF opc o) = opc := by
  apply BitVec.eq_of_getLsbD_eq
  intro i hi
  rw [opcOf, BitVec.getLsbD_extractLsb', putXF_getLsbD, decide_eq_true hi, Bool.true_and]
  repeat first | rw [if_neg (by omega)] | rw [if_pos (by omega)]
  rw [putHead_getLsbD]
  repeat first | rw [if_neg (by omega)] | rw [if_pos (by omega)]
  congr 1; omega

theorem getGuard_putXF (opc : BitVec 8) (o : XF) : getGuard (putXF opc o) = o.g := by
  rw [getGuard, putXF_getLsbD]
  show Guard.mk _ _ _ = Guard.mk o.g.stall o.g.pn o.g.pred
  congr 1
  all_goals first
    | (apply BitVec.eq_of_getLsbD_eq; intro i hi
       rw [BitVec.getLsbD_extractLsb', putXF_getLsbD, decide_eq_true hi, Bool.true_and])
    | skip
  all_goals repeat first | rw [if_neg (by omega)] | rw [if_pos (by omega)]
  all_goals rw [putHead_getLsbD]
  all_goals repeat first | rw [if_neg (by omega)] | rw [if_pos (by omega)]
  all_goals first | (exact ofBool_getLsbD _ _ (by omega)) | (congr 1; omega)

theorem getXF_putXF (opc : BitVec 8) (o : XF) : getXF (putXF opc o) = o := by
  rw [getXF, getGuard_putXF]
  show XF.mk _ _ _ _ _ _ _ _ _ _ _ _ = XF.mk o.g o.d o.a o.b o.c o.iw o.isg o.scl o.size o.scope o.ord o.rsv
  congr 1
  all_goals first
    | rw [putXF_getLsbD]
    | (apply BitVec.eq_of_getLsbD_eq; intro i hi
       rw [BitVec.getLsbD_extractLsb', putXF_getLsbD, decide_eq_true hi, Bool.true_and])
  all_goals repeat first | rw [if_neg (by omega)] | rw [if_pos (by omega)]
  all_goals first | (exact ofBool_getLsbD _ _ (by omega)) | (congr 1; omega)

theorem putJF_getLsbD (opc : BitVec 8) (o : JF) (i : Nat) :
    (putJF opc o).getLsbD i = if i < 32 then o.off.getLsbD i else if i - 32 < 8 then o.a.getLsbD (i - 32) else if i - 32 - 8 < 8 then o.z.getLsbD (i - 32 - 8) else (putHead opc o.g).getLsbD (i - 32 - 8 - 8) := by
  change @BitVec.getLsbD (32 + 32) (_ ++ o.off) i = _
  simp only [BitVec.getLsbD_append]

theorem opcOf_putJF (opc : BitVec 8) (o : JF) : opcOf (putJF opc o) = opc := by
  apply BitVec.eq_of_getLsbD_eq
  intro i hi
  rw [opcOf, BitVec.getLsbD_extractLsb', putJF_getLsbD, decide_eq_true hi, Bool.true_and]
  repeat first | rw [if_neg (by omega)] | rw [if_pos (by omega)]
  rw [putHead_getLsbD]
  repeat first | rw [if_neg (by omega)] | rw [if_pos (by omega)]
  congr 1; omega

theorem getGuard_putJF (opc : BitVec 8) (o : JF) : getGuard (putJF opc o) = o.g := by
  rw [getGuard, putJF_getLsbD]
  show Guard.mk _ _ _ = Guard.mk o.g.stall o.g.pn o.g.pred
  congr 1
  all_goals first
    | (apply BitVec.eq_of_getLsbD_eq; intro i hi
       rw [BitVec.getLsbD_extractLsb', putJF_getLsbD, decide_eq_true hi, Bool.true_and])
    | skip
  all_goals repeat first | rw [if_neg (by omega)] | rw [if_pos (by omega)]
  all_goals rw [putHead_getLsbD]
  all_goals repeat first | rw [if_neg (by omega)] | rw [if_pos (by omega)]
  all_goals first | (exact ofBool_getLsbD _ _ (by omega)) | (congr 1; omega)

theorem getJF_putJF (opc : BitVec 8) (o : JF) : getJF (putJF opc o) = o := by
  rw [getJF, getGuard_putJF]
  show JF.mk _ _ _ _ = JF.mk o.g o.z o.a o.off
  congr 1
  all_goals first
    | rw [putJF_getLsbD]
    | (apply BitVec.eq_of_getLsbD_eq; intro i hi
       rw [BitVec.getLsbD_extractLsb', putJF_getLsbD, decide_eq_true hi, Bool.true_and])
  all_goals repeat first | rw [if_neg (by omega)] | rw [if_pos (by omega)]
  all_goals first | (exact ofBool_getLsbD _ _ (by omega)) | (congr 1; omega)

theorem putCF_getLsbD (opc : BitVec 8) (o : CF) (i : Nat) :
    (putCF opc o).getLsbD i = if i < 10 then o.rsv.getLsbD i else if i - 10 < 1 then (BitVec.ofBool o.lp).getLsbD (i - 10) else if i - 10 - 1 < 5 then o.fsize.getLsbD (i - 10 - 1) else if i - 10 - 1 - 5 < 8 then o.res.getLsbD (i - 10 - 1 - 5) else if i - 10 - 1 - 5 - 8 < 8 then o.args.getLsbD (i - 10 - 1 - 5 - 8) else if i - 10 - 1 - 5 - 8 - 8 < 8 then o.a.getLsbD (i - 10 - 1 - 5 - 8 - 8) else if i - 10 - 1 - 5 - 8 - 8 - 8 < 8 then o.vbase.getLsbD (i - 10 - 1 - 5 - 8 - 8 - 8) else (putHead opc o.g).getLsbD (i - 10 - 1 - 5 - 8 - 8 - 8 - 8) := by
  change @BitVec.getLsbD (54 + 10) (_ ++ o.rsv) i = _
  simp only [BitVec.getLsbD_append]

theorem opcOf_putCF (opc : BitVec 8) (o : CF) : opcOf (putCF opc o) = opc := by
  apply BitVec.eq_of_getLsbD_eq
  intro i hi
  rw [opcOf, BitVec.getLsbD_extractLsb', putCF_getLsbD, decide_eq_true hi, Bool.true_and]
  repeat first | rw [if_neg (by omega)] | rw [if_pos (by omega)]
  rw [putHead_getLsbD]
  repeat first | rw [if_neg (by omega)] | rw [if_pos (by omega)]
  congr 1; omega

theorem getGuard_putCF (opc : BitVec 8) (o : CF) : getGuard (putCF opc o) = o.g := by
  rw [getGuard, putCF_getLsbD]
  show Guard.mk _ _ _ = Guard.mk o.g.stall o.g.pn o.g.pred
  congr 1
  all_goals first
    | (apply BitVec.eq_of_getLsbD_eq; intro i hi
       rw [BitVec.getLsbD_extractLsb', putCF_getLsbD, decide_eq_true hi, Bool.true_and])
    | skip
  all_goals repeat first | rw [if_neg (by omega)] | rw [if_pos (by omega)]
  all_goals rw [putHead_getLsbD]
  all_goals repeat first | rw [if_neg (by omega)] | rw [if_pos (by omega)]
  all_goals first | (exact ofBool_getLsbD _ _ (by omega)) | (congr 1; omega)

theorem getCF_putCF (opc : BitVec 8) (o : CF) (l : W64) : getCF (putCF opc o) l = { o with literal := l } := by
  rw [getCF, getGuard_putCF]
  show CF.mk _ _ _ _ _ _ _ _ _ = CF.mk o.g o.vbase o.a o.args o.res o.fsize o.lp o.rsv l
  congr 1
  all_goals first
    | rw [putCF_getLsbD]
    | (apply BitVec.eq_of_getLsbD_eq; intro i hi
       rw [BitVec.getLsbD_extractLsb', putCF_getLsbD, decide_eq_true hi, Bool.true_and])
  all_goals repeat first | rw [if_neg (by omega)] | rw [if_pos (by omega)]
  all_goals first | (exact ofBool_getLsbD _ _ (by omega)) | (congr 1; omega)

theorem putSF_getLsbD (opc : BitVec 8) (o : SF) (i : Nat) :
    (putSF opc o).getLsbD i = if i < 16 then o.ctrl.getLsbD i else if i - 16 < 8 then o.c.getLsbD (i - 16) else if i - 16 - 8 < 8 then o.b.getLsbD (i - 16 - 8) else if i - 16 - 8 - 8 < 8 then o.a.getLsbD (i - 16 - 8 - 8) else if i - 16 - 8 - 8 - 8 < 8 then o.d.getLsbD (i - 16 - 8 - 8 - 8) else (putHead opc o.g).getLsbD (i - 16 - 8 - 8 - 8 - 8) := by
  change @BitVec.getLsbD (48 + 16) (_ ++ o.ctrl) i = _
  simp only [BitVec.getLsbD_append]

theorem opcOf_putSF (opc : BitVec 8) (o : SF) : opcOf (putSF opc o) = opc := by
  apply BitVec.eq_of_getLsbD_eq
  intro i hi
  rw [opcOf, BitVec.getLsbD_extractLsb', putSF_getLsbD, decide_eq_true hi, Bool.true_and]
  repeat first | rw [if_neg (by omega)] | rw [if_pos (by omega)]
  rw [putHead_getLsbD]
  repeat first | rw [if_neg (by omega)] | rw [if_pos (by omega)]
  congr 1; omega

theorem getGuard_putSF (opc : BitVec 8) (o : SF) : getGuard (putSF opc o) = o.g := by
  rw [getGuard, putSF_getLsbD]
  show Guard.mk _ _ _ = Guard.mk o.g.stall o.g.pn o.g.pred
  congr 1
  all_goals first
    | (apply BitVec.eq_of_getLsbD_eq; intro i hi
       rw [BitVec.getLsbD_extractLsb', putSF_getLsbD, decide_eq_true hi, Bool.true_and])
    | skip
  all_goals repeat first | rw [if_neg (by omega)] | rw [if_pos (by omega)]
  all_goals rw [putHead_getLsbD]
  all_goals repeat first | rw [if_neg (by omega)] | rw [if_pos (by omega)]
  all_goals first | (exact ofBool_getLsbD _ _ (by omega)) | (congr 1; omega)

theorem getSF_putSF (opc : BitVec 8) (o : SF) : getSF (putSF opc o) = o := by
  rw [getSF, getGuard_putSF]
  show SF.mk _ _ _ _ _ _ = SF.mk o.g o.d o.a o.b o.c o.ctrl
  congr 1
  all_goals first
    | rw [putSF_getLsbD]
    | (apply BitVec.eq_of_getLsbD_eq; intro i hi
       rw [BitVec.getLsbD_extractLsb', putSF_getLsbD, decide_eq_true hi, Bool.true_and])
  all_goals repeat first | rw [if_neg (by omega)] | rw [if_pos (by omega)]
  all_goals first | (exact ofBool_getLsbD _ _ (by omega)) | (congr 1; omega)

end Sys2Proof
end

