-- ==== Sys2Proof/Laws/PerInstr.lean ====
section
/-! SUPPORT. One lemma per constructor: the words that an instruction encodes to have the length that its stream gives them. -/

namespace Sys2Proof.Laws.EncodedLength

open Sys2Proof

/-- The lengths in bytes of an instruction of a stream: a compute word of 64 bits, with a literal of 64 bits or without (R160,
R162), an engine word of 16 bits (R245), a cluster word of 64 (R309), a fetch or store engine word of 128 (R323), a command of
32 bytes (R335). -/
def lengths (st : Stream) : List Nat :=
  match st with
  | .compute => [8, 16]
  | .engine => [2]
  | .cluster => [8]
  | .selFetch => [16]
  | .selStore => [16]
  | .command => [32]

/-- The family's statement about an instruction. -/
def Statement (i : Instr) : Prop := ∀ st bs, encode i = some (st, bs) → bs.length ∈ lengths st

theorem of_none {i : Instr} (h : encode i = none) : Statement i := by
  intro st bs e
  rw [h] at e
  exact absurd e (by simp)

theorem of_bytes {i : Instr} {st : Stream} {bs : List Byte} (h : encode i = some (st, bs)) (l : bs.length ∈ lengths st) :
    Statement i := by
  intro st' bs' e
  rw [h] at e
  cases e
  exact l

theorem leBytes_length : ∀ n x : Nat, (Machine.leBytes n x).length = n
  | 0, _ => rfl
  | n + 1, x => by rw [Machine.leBytes, List.length_cons, leBytes_length n]

theorem wordBytes_length (w : W64) : (wordBytes w).length = 8 := leBytes_length 8 _

theorem compute_length (w : W64) (lit : Bool) (l : W64) : (computeBytes w lit l).length ∈ lengths .compute := by
  cases lit <;> simp [computeBytes, wordBytes_length, lengths]

theorem engine_length (w : BitVec 16) : (engineBytes w).length ∈ lengths .engine := by
  rw [engineBytes, leBytes_length]
  exact List.mem_singleton.mpr rfl

theorem cluster_length (w : W64) : (wordBytes w).length ∈ lengths .cluster := by
  rw [wordBytes_length]
  exact List.mem_singleton.mpr rfl

theorem pair_length (a b : W64) : (wordBytes a ++ wordBytes b).length = 16 := by
  rw [List.length_append, wordBytes_length, wordBytes_length]

theorem fetch_length (a b : W64) : (wordBytes a ++ wordBytes b).length ∈ lengths .selFetch := by
  rw [pair_length]
  exact List.mem_singleton.mpr rfl

theorem store_length (a b : W64) : (wordBytes a ++ wordBytes b).length ∈ lengths .selStore := by
  rw [pair_length]
  exact List.mem_singleton.mpr rfl

theorem command_length (op : BitVec 8) (c : Cmd) : (commandBytes op c).length ∈ lengths .command := by
  simp [commandBytes, wordBytes_length, lengths]

theorem iadd x0 : Statement (.iadd x0) := of_bytes rfl (compute_length _ _ _)
theorem isub x0 : Statement (.isub x0) := of_bytes rfl (compute_length _ _ _)
theorem iadds x0 : Statement (.iadds x0) := of_bytes rfl (compute_length _ _ _)
theorem iadd64 x0 : Statement (.iadd64 x0) := of_bytes rfl (compute_length _ _ _)
theorem isub64 x0 : Statement (.isub64 x0) := of_bytes rfl (compute_length _ _ _)
theorem imul x0 : Statement (.imul x0) := of_bytes rfl (compute_length _ _ _)
theorem imulh x0 : Statement (.imulh x0) := of_bytes rfl (compute_length _ _ _)
theorem imad x0 : Statement (.imad x0) := of_bytes rfl (compute_length _ _ _)
theorem imadw x0 : Statement (.imadw x0) := of_bytes rfl (compute_length _ _ _)
theorem imin x0 : Statement (.imin x0) := of_bytes rfl (compute_length _ _ _)
theorem imax x0 : Statement (.imax x0) := of_bytes rfl (compute_length _ _ _)
theorem iabs x0 : Statement (.iabs x0) := of_bytes rfl (compute_length _ _ _)
theorem ineg x0 : Statement (.ineg x0) := of_bytes rfl (compute_length _ _ _)
theorem and x0 : Statement (.and x0) := of_bytes rfl (compute_length _ _ _)
theorem or x0 : Statement (.or x0) := of_bytes rfl (compute_length _ _ _)
theorem xor x0 : Statement (.xor x0) := of_bytes rfl (compute_length _ _ _)
theorem andn x0 : Statement (.andn x0) := of_bytes rfl (compute_length _ _ _)
theorem not x0 : Statement (.not x0) := of_bytes rfl (compute_length _ _ _)
theorem shl x0 : Statement (.shl x0) := of_bytes rfl (compute_length _ _ _)
theorem shr x0 : Statement (.shr x0) := of_bytes rfl (compute_length _ _ _)
theorem sar x0 : Statement (.sar x0) := of_bytes rfl (compute_length _ _ _)
theorem rot x0 : Statement (.rot x0) := of_bytes rfl (compute_length _ _ _)
theorem fnl x0 : Statement (.fnl x0) := of_bytes rfl (compute_length _ _ _)
theorem bfx x0 : Statement (.bfx x0) := of_bytes rfl (compute_length _ _ _)
theorem bfi x0 : Statement (.bfi x0) := of_bytes rfl (compute_length _ _ _)
theorem popc x0 : Statement (.popc x0) := of_bytes rfl (compute_length _ _ _)
theorem clz x0 : Statement (.clz x0) := of_bytes rfl (compute_length _ _ _)
theorem ctz x0 : Statement (.ctz x0) := of_bytes rfl (compute_length _ _ _)
theorem brev x0 : Statement (.brev x0) := of_bytes rfl (compute_length _ _ _)
theorem bilv x0 : Statement (.bilv x0) := of_bytes rfl (compute_length _ _ _)
theorem bdil x0 : Statement (.bdil x0) := of_bytes rfl (compute_length _ _ _)
theorem isel x0 : Statement (.isel x0) := of_bytes rfl (compute_length _ _ _)
theorem icmp x0 : Statement (.icmp x0) := of_bytes rfl (compute_length _ _ _)
theorem lea x0 : Statement (.lea x0) := of_bytes rfl (compute_length _ _ _)
theorem mov x0 : Statement (.mov x0) := of_bytes rfl (compute_length _ _ _)
theorem movi x0 : Statement (.movi x0) := of_bytes rfl (compute_length _ _ _)
theorem movl x0 : Statement (.movl x0) := of_bytes rfl (compute_length _ _ _)
theorem sreg x0 : Statement (.sreg x0) := of_bytes rfl (compute_length _ _ _)
theorem setp x0 : Statement (.setp x0) := of_bytes rfl (compute_length _ _ _)
theorem nop x0 : Statement (.nop x0) := of_bytes rfl (compute_length _ _ _)
theorem bra x0 : Statement (.bra x0) := of_bytes rfl (compute_length _ _ _)
theorem brx x0 : Statement (.brx x0) := of_bytes rfl (compute_length _ _ _)
theorem rcvt x0 : Statement (.rcvt x0) := of_bytes rfl (compute_length _ _ _)
theorem rcvm x0 : Statement (.rcvm x0) := of_bytes rfl (compute_length _ _ _)
theorem call x0 : Statement (.call x0) := of_bytes rfl (compute_length _ _ _)
theorem callx x0 : Statement (.callx x0) := of_bytes rfl (compute_length _ _ _)
theorem ret x0 : Statement (.ret x0) := of_bytes rfl (compute_length _ _ _)
theorem unwind x0 : Statement (.unwind x0) := of_bytes rfl (compute_length _ _ _)
theorem exit x0 : Statement (.exit x0) := of_bytes rfl (compute_length _ _ _)
theorem yield x0 : Statement (.yield x0) := of_bytes rfl (compute_length _ _ _)
theorem idmc x0 : Statement (.idmc x0) := of_bytes rfl (compute_length _ _ _)
theorem lead x0 : Statement (.lead x0) := of_bytes rfl (compute_length _ _ _)
theorem fadd x0 : Statement (.fadd x0) := of_bytes rfl (compute_length _ _ _)
theorem fsub x0 : Statement (.fsub x0) := of_bytes rfl (compute_length _ _ _)
theorem fmul x0 : Statement (.fmul x0) := of_bytes rfl (compute_length _ _ _)
theorem ffma x0 : Statement (.ffma x0) := of_bytes rfl (compute_length _ _ _)
theorem fmin x0 : Statement (.fmin x0) := of_bytes rfl (compute_length _ _ _)
theorem fmax x0 : Statement (.fmax x0) := of_bytes rfl (compute_length _ _ _)
theorem fcmp x0 : Statement (.fcmp x0) := of_bytes rfl (compute_length _ _ _)
theorem fsel x0 : Statement (.fsel x0) := of_bytes rfl (compute_length _ _ _)
theorem frnd x0 : Statement (.frnd x0) := of_bytes rfl (compute_length _ _ _)
theorem fdot2 x0 : Statement (.fdot2 x0) := of_bytes rfl (compute_length _ _ _)
theorem frcp x0 : Statement (.frcp x0) := of_bytes rfl (compute_length _ _ _)
theorem frsq x0 : Statement (.frsq x0) := of_bytes rfl (compute_length _ _ _)
theorem fsqrt x0 : Statement (.fsqrt x0) := of_bytes rfl (compute_length _ _ _)
theorem fexp2 x0 : Statement (.fexp2 x0) := of_bytes rfl (compute_length _ _ _)
theorem flog2 x0 : Statement (.flog2 x0) := of_bytes rfl (compute_length _ _ _)
theorem fsin x0 : Statement (.fsin x0) := of_bytes rfl (compute_length _ _ _)
theorem fcos x0 : Statement (.fcos x0) := of_bytes rfl (compute_length _ _ _)
theorem fcvt x0 : Statement (.fcvt x0) := of_bytes rfl (compute_length _ _ _)
theorem cvtn x0 : Statement (.cvtn x0) := of_bytes rfl (compute_length _ _ _)
theorem fsplit3 x0 : Statement (.fsplit3 x0) := of_bytes rfl (compute_length _ _ _)
theorem hadd2 x0 : Statement (.hadd2 x0) := of_bytes rfl (compute_length _ _ _)
theorem hmul2 x0 : Statement (.hmul2 x0) := of_bytes rfl (compute_length _ _ _)
theorem hfma2 x0 : Statement (.hfma2 x0) := of_bytes rfl (compute_length _ _ _)
theorem shfl x0 : Statement (.shfl x0) := of_bytes rfl (compute_length _ _ _)
theorem vote x0 : Statement (.vote x0) := of_bytes rfl (compute_length _ _ _)
theorem redl x0 : Statement (.redl x0) := of_bytes rfl (compute_length _ _ _)
theorem prmt x0 : Statement (.prmt x0) := of_bytes rfl (compute_length _ _ _)
theorem matchLanes x0 : Statement (.matchLanes x0) := of_bytes rfl (compute_length _ _ _)
theorem tex x0 : Statement (.tex x0) := of_bytes rfl (compute_length _ _ _)
theorem texg x0 : Statement (.texg x0) := of_bytes rfl (compute_length _ _ _)
theorem edge x0 : Statement (.edge x0) := of_bytes rfl (compute_length _ _ _)
theorem viewx x0 : Statement (.viewx x0) := of_bytes rfl (compute_length _ _ _)
theorem packc x0 : Statement (.packc x0) := of_bytes rfl (compute_length _ _ _)
theorem ld x0 : Statement (.ld x0) := of_bytes rfl (compute_length _ _ _)
theorem st x0 : Statement (.st x0) := of_bytes rfl (compute_length _ _ _)
theorem lds x0 : Statement (.lds x0) := of_bytes rfl (compute_length _ _ _)
theorem sts x0 : Statement (.sts x0) := of_bytes rfl (compute_length _ _ _)
theorem ldb x0 : Statement (.ldb x0) := of_bytes rfl (compute_length _ _ _)
theorem stb x0 : Statement (.stb x0) := of_bytes rfl (compute_length _ _ _)
theorem ldx x0 : Statement (.ldx x0) := of_bytes rfl (compute_length _ _ _)
theorem stx x0 : Statement (.stx x0) := of_bytes rfl (compute_length _ _ _)
theorem ldc x0 : Statement (.ldc x0) := of_bytes rfl (compute_length _ _ _)
theorem prf x0 : Statement (.prf x0) := of_bytes rfl (compute_length _ _ _)
theorem atom x0 : Statement (.atom x0) := of_bytes rfl (compute_length _ _ _)
theorem red x0 : Statement (.red x0) := of_bytes rfl (compute_length _ _ _)
theorem cas x0 : Statement (.cas x0) := of_bytes rfl (compute_length _ _ _)
theorem fence x0 : Statement (.fence x0) := of_bytes rfl (compute_length _ _ _)
theorem waita x0 : Statement (.waita x0) := of_bytes rfl (compute_length _ _ _)
theorem copyt x0 : Statement (.copyt x0) := of_bytes rfl (compute_length _ _ _)
theorem copy16 x0 : Statement (.copy16 x0) := of_bytes rfl (compute_length _ _ _)
theorem cwait x0 : Statement (.cwait x0) := of_bytes rfl (compute_length _ _ _)
theorem cwmk x0 : Statement (.cwmk x0) := of_bytes rfl (compute_length _ _ _)
theorem bari x0 : Statement (.bari x0) := of_bytes rfl (compute_length _ _ _)
theorem bara x0 : Statement (.bara x0) := of_bytes rfl (compute_length _ _ _)
theorem barw x0 : Statement (.barw x0) := of_bytes rfl (compute_length _ _ _)
theorem bars x0 : Statement (.bars x0) := of_bytes rfl (compute_length _ _ _)
theorem barp x0 : Statement (.barp x0) := of_bytes rfl (compute_length _ _ _)
theorem rini x0 : Statement (.rini x0) := of_bytes rfl (compute_length _ _ _)
theorem rclm x0 : Statement (.rclm x0) := of_bytes rfl (compute_length _ _ _)
theorem rpub x0 : Statement (.rpub x0) := of_bytes rfl (compute_length _ _ _)
theorem rwfl x0 : Statement (.rwfl x0) := of_bytes rfl (compute_length _ _ _)
theorem rrel x0 : Statement (.rrel x0) := of_bytes rfl (compute_length _ _ _)
theorem rwfr x0 : Statement (.rwfr x0) := of_bytes rfl (compute_length _ _ _)
theorem fnew x0 : Statement (.fnew x0) := of_bytes rfl (compute_length _ _ _)
theorem fset x0 : Statement (.fset x0) := of_bytes rfl (compute_length _ _ _)
theorem fwait x0 : Statement (.fwait x0) := of_bytes rfl (compute_length _ _ _)
theorem tspn x0 : Statement (.tspn x0) := of_bytes rfl (compute_length _ _ _)
theorem tend x0 : Statement (.tend x0) := of_bytes rfl (compute_length _ _ _)
theorem lkaq x0 : Statement (.lkaq x0) := of_bytes rfl (compute_length _ _ _)
theorem lkrl x0 : Statement (.lkrl x0) := of_bytes rfl (compute_length _ _ _)
theorem ores x0 : Statement (.ores x0) := of_bytes rfl (compute_length _ _ _)
theorem orel x0 : Statement (.orel x0) := of_bytes rfl (compute_length _ _ _)
theorem mseq x0 : Statement (.mseq x0) := of_bytes rfl (compute_length _ _ _)
theorem trap x0 : Statement (.trap x0) := of_bytes rfl (compute_length _ _ _)
theorem bkpt x0 : Statement (.bkpt x0) := of_bytes rfl (compute_length _ _ _)
theorem rdc x0 : Statement (.rdc x0) := of_bytes rfl (compute_length _ _ _)
theorem wrc x0 : Statement (.wrc x0) := of_bytes rfl (compute_length _ _ _)
theorem rett x0 : Statement (.rett x0) := of_bytes rfl (compute_length _ _ _)
theorem perfRd x0 : Statement (.perfRd x0) := of_bytes rfl (compute_length _ _ _)
theorem perfMark x0 : Statement (.perfMark x0) := of_bytes rfl (compute_length _ _ _)
theorem timeSliceSwap x0 x1 x2 : Statement (.timeSliceSwap x0 x1 x2) := of_none rfl
theorem loadComplete x0 x1 : Statement (.loadComplete x0 x1) := of_none rfl
theorem frameAllocation x0 : Statement (.frameAllocation x0) := of_none rfl
theorem eseSpill x0 : Statement (.eseSpill x0) := of_none rfl
theorem eseRefill x0 x1 : Statement (.eseRefill x0 x1) := of_none rfl
theorem workgroupBind x0 : Statement (.workgroupBind x0) := of_none rfl
theorem taskStart x0 x1 x2 : Statement (.taskStart x0 x1 x2) := of_none rfl
theorem taskRequeue x0 x1 : Statement (.taskRequeue x0 x1) := of_none rfl
theorem copyComplete x0 x1 : Statement (.copyComplete x0 x1) := of_none rfl
theorem copy16Complete x0 x1 : Statement (.copy16Complete x0 x1) := of_none rfl
theorem engineOpEnded x0 x1 : Statement (.engineOpEnded x0 x1) := of_none rfl
theorem matrixOpComplete x0 : Statement (.matrixOpComplete x0) := of_none rfl
theorem lit x0 : Statement (.lit x0) := of_bytes rfl (engine_length _)
theorem engineNop x0 : Statement (.engineNop x0) := of_bytes rfl (engine_length _)
theorem ext x0 : Statement (.ext x0) := of_bytes rfl (engine_length _)
theorem dup x0 : Statement (.dup x0) := of_bytes rfl (engine_length _)
theorem drop x0 : Statement (.drop x0) := of_bytes rfl (engine_length _)
theorem swap x0 : Statement (.swap x0) := of_bytes rfl (engine_length _)
theorem overWord x0 : Statement (.overWord x0) := of_bytes rfl (engine_length _)
theorem add x0 : Statement (.add x0) := of_bytes rfl (engine_length _)
theorem addi x0 : Statement (.addi x0) := of_bytes rfl (engine_length _)
theorem shape x0 : Statement (.shape x0) := of_bytes rfl (engine_length _)
theorem mma x0 : Statement (.mma x0) := of_bytes rfl (engine_length _)
theorem mmaz x0 : Statement (.mmaz x0) := of_bytes rfl (engine_length _)
theorem drain x0 : Statement (.drain x0) := of_bytes rfl (engine_length _)
theorem drainadd x0 : Statement (.drainadd x0) := of_bytes rfl (engine_length _)
theorem drainaddo x0 : Statement (.drainaddo x0) := of_bytes rfl (engine_length _)
theorem arrive x0 : Statement (.arrive x0) := of_bytes rfl (engine_length _)
theorem waitb x0 : Statement (.waitb x0) := of_bytes rfl (engine_length _)
theorem loop x0 : Statement (.loop x0) := of_bytes rfl (engine_length _)
theorem halt x0 : Statement (.halt x0) := of_bytes rfl (engine_length _)
theorem dmma x0 : Statement (.dmma x0) := of_bytes rfl (engine_length _)
theorem dmmaz x0 : Statement (.dmmaz x0) := of_bytes rfl (engine_length _)
theorem dout x0 : Statement (.dout x0) := of_bytes rfl (engine_length _)
theorem dwt x0 : Statement (.dwt x0) := of_bytes rfl (engine_length _)
theorem dline x0 : Statement (.dline x0) := of_bytes rfl (engine_length _)
theorem cluNop x0 : Statement (.cluNop x0) := of_bytes rfl (cluster_length _)
theorem cluIadd x0 : Statement (.cluIadd x0) := of_bytes rfl (cluster_length _)
theorem cluIsub x0 : Statement (.cluIsub x0) := of_bytes rfl (cluster_length _)
theorem cluAnd x0 : Statement (.cluAnd x0) := of_bytes rfl (cluster_length _)
theorem cluOr x0 : Statement (.cluOr x0) := of_bytes rfl (cluster_length _)
theorem cluXor x0 : Statement (.cluXor x0) := of_bytes rfl (cluster_length _)
theorem cluShl x0 : Statement (.cluShl x0) := of_bytes rfl (cluster_length _)
theorem cluShr x0 : Statement (.cluShr x0) := of_bytes rfl (cluster_length _)
theorem cluSar x0 : Statement (.cluSar x0) := of_bytes rfl (cluster_length _)
theorem cluImin x0 : Statement (.cluImin x0) := of_bytes rfl (cluster_length _)
theorem cluImax x0 : Statement (.cluImax x0) := of_bytes rfl (cluster_length _)
theorem cluIcmp x0 : Statement (.cluIcmp x0) := of_bytes rfl (cluster_length _)
theorem cluXsel x0 : Statement (.cluXsel x0) := of_bytes rfl (cluster_length _)
theorem cluMov x0 : Statement (.cluMov x0) := of_bytes rfl (cluster_length _)
theorem cluBr x0 : Statement (.cluBr x0) := of_bytes rfl (cluster_length _)
theorem cluLoopr x0 : Statement (.cluLoopr x0) := of_bytes rfl (cluster_length _)
theorem cluSetlc x0 : Statement (.cluSetlc x0) := of_bytes rfl (cluster_length _)
theorem cluEndl x0 : Statement (.cluEndl x0) := of_bytes rfl (cluster_length _)
theorem cluGset x0 : Statement (.cluGset x0) := of_bytes rfl (cluster_length _)
theorem cluGlut x0 : Statement (.cluGlut x0) := of_bytes rfl (cluster_length _)
theorem cluKpop x0 : Statement (.cluKpop x0) := of_bytes rfl (cluster_length _)
theorem cluKpush x0 : Statement (.cluKpush x0) := of_bytes rfl (cluster_length _)
theorem cluQlen x0 : Statement (.cluQlen x0) := of_bytes rfl (cluster_length _)
theorem cluFadd x0 : Statement (.cluFadd x0) := of_bytes rfl (cluster_length _)
theorem cluFmul x0 : Statement (.cluFmul x0) := of_bytes rfl (cluster_length _)
theorem cluFfma x0 : Statement (.cluFfma x0) := of_bytes rfl (cluster_length _)
theorem cluFmin x0 : Statement (.cluFmin x0) := of_bytes rfl (cluster_length _)
theorem cluFmax x0 : Statement (.cluFmax x0) := of_bytes rfl (cluster_length _)
theorem cluFcmp x0 : Statement (.cluFcmp x0) := of_bytes rfl (cluster_length _)
theorem cluFcvt x0 : Statement (.cluFcvt x0) := of_bytes rfl (cluster_length _)
theorem cluShuf x0 : Statement (.cluShuf x0) := of_bytes rfl (cluster_length _)
theorem cluLerp x0 : Statement (.cluLerp x0) := of_bytes rfl (cluster_length _)
theorem cluWarp x0 : Statement (.cluWarp x0) := of_bytes rfl (cluster_length _)
theorem cluPose x0 : Statement (.cluPose x0) := of_bytes rfl (cluster_length _)
theorem cluSdrv x0 : Statement (.cluSdrv x0) := of_bytes rfl (cluster_length _)
theorem cluPack x0 : Statement (.cluPack x0) := of_bytes rfl (cluster_length _)
theorem cluLcpy x0 : Statement (.cluLcpy x0) := of_bytes rfl (cluster_length _)
theorem cluLdl x0 : Statement (.cluLdl x0) := of_bytes rfl (cluster_length _)
theorem cluStl x0 : Statement (.cluStl x0) := of_bytes rfl (cluster_length _)
theorem fetch x0 : Statement (.fetch x0) := of_bytes rfl (fetch_length _ _)
theorem store x0 : Statement (.store x0) := of_bytes rfl (store_length _ _)
theorem emit x0 : Statement (.emit x0) := of_bytes rfl (store_length _ _)
theorem fetchRunComplete x0 : Statement (.fetchRunComplete x0) := of_none rfl
theorem lineCopyStart x0 : Statement (.lineCopyStart x0) := of_none rfl
theorem lineScheduleStart x0 : Statement (.lineScheduleStart x0) := of_none rfl
theorem scanOutLine x0 : Statement (.scanOutLine x0) := of_none rfl
theorem reelRead x0 : Statement (.reelRead x0) := of_none rfl
theorem frameReturn x0 : Statement (.frameReturn x0) := of_none rfl
theorem selhamLaunchEnd : Statement .selhamLaunchEnd := of_none rfl
theorem lineCoreReload x0 : Statement (.lineCoreReload x0) := of_none rfl
theorem dmeRestart : Statement .dmeRestart := of_none rfl
theorem poseCommit x0 x1 : Statement (.poseCommit x0 x1) := of_none rfl
theorem launch x0 : Statement (.launch x0) := of_bytes rfl (command_length _ _)
theorem selham x0 : Statement (.selham x0) := of_bytes rfl (command_length _ _)
theorem prio x0 : Statement (.prio x0) := of_bytes rfl (command_length _ _)
theorem preempt x0 : Statement (.preempt x0) := of_bytes rfl (command_length _ _)
theorem resume x0 : Statement (.resume x0) := of_bytes rfl (command_length _ _)
theorem waitCmd x0 : Statement (.waitCmd x0) := of_bytes rfl (command_length _ _)
theorem tlbinv x0 : Statement (.tlbinv x0) := of_bytes rfl (command_length _ _)
theorem workgroupSave x0 x1 : Statement (.workgroupSave x0 x1) := of_none rfl
theorem preemptTimeout x0 : Statement (.preemptTimeout x0) := of_none rfl
theorem launchCompletion x0 x1 : Statement (.launchCompletion x0 x1) := of_none rfl
theorem doorbell x0 x1 x2 : Statement (.doorbell x0 x1 x2) := of_none rfl
theorem contextKill x0 x1 : Statement (.contextKill x0 x1) := of_none rfl
theorem killAll x0 : Statement (.killAll x0) := of_none rfl
theorem heartbeat : Statement .heartbeat := of_none rfl
theorem heartbeatTimeout : Statement .heartbeatTimeout := of_none rfl
theorem standinReload x0 : Statement (.standinReload x0) := of_none rfl
theorem firmwareMemoryError x0 : Statement (.firmwareMemoryError x0) := of_none rfl
theorem debugStop x0 x1 : Statement (.debugStop x0 x1) := of_none rfl
theorem debugStepGroup x0 x1 : Statement (.debugStepGroup x0 x1) := of_none rfl
theorem debugStepEntry x0 x1 x2 x3 : Statement (.debugStepEntry x0 x1 x2 x3) := of_none rfl
theorem debugResume x0 x1 : Statement (.debugResume x0 x1) := of_none rfl
theorem l2sPwayWrite x0 x1 : Statement (.l2sPwayWrite x0 x1) := of_none rfl
theorem l2sVfwayWrite x0 x1 x2 : Statement (.l2sVfwayWrite x0 x1 x2) := of_none rfl
theorem wayWalkComplete x0 : Statement (.wayWalkComplete x0) := of_none rfl
theorem registerWrite x0 x1 x2 : Statement (.registerWrite x0 x1 x2) := of_none rfl
theorem createQueue x0 x1 x2 : Statement (.createQueue x0 x1 x2) := of_none rfl
theorem vfConfigWrite x0 x1 : Statement (.vfConfigWrite x0 x1) := of_none rfl
theorem vfCreate x0 x1 x2 : Statement (.vfCreate x0 x1 x2) := of_none rfl
theorem vfDestroy x0 : Statement (.vfDestroy x0) := of_none rfl
theorem domainMove x0 x1 : Statement (.domainMove x0 x1) := of_none rfl
theorem iaRanges x0 x1 x2 x3 : Statement (.iaRanges x0 x1 x2 x3) := of_none rfl
theorem attestationReport x0 x1 : Statement (.attestationReport x0 x1) := of_none rfl
theorem pluginLoad x0 x1 : Statement (.pluginLoad x0 x1) := of_none rfl
theorem pluginCall x0 x1 x2 : Statement (.pluginCall x0 x1 x2) := of_none rfl
theorem boot x0 x1 x2 x3 : Statement (.boot x0 x1 x2 x3) := of_none rfl
theorem thermalStop x0 : Statement (.thermalStop x0) := of_none rfl
theorem thermalRestart : Statement .thermalRestart := of_none rfl
theorem thermalHold x0 : Statement (.thermalHold x0) := of_none rfl
theorem hostAccessTimeout : Statement .hostAccessTimeout := of_none rfl
theorem hostMemAccess x0 x1 x2 x3 x4 x5 : Statement (.hostMemAccess x0 x1 x2 x3 x4 x5) := of_none rfl
theorem hostSnoop x0 x1 : Statement (.hostSnoop x0 x1) := of_none rfl
theorem stage2FaultResolve : Statement .stage2FaultResolve := of_none rfl
theorem sifterMerge x0 x1 : Statement (.sifterMerge x0 x1) := of_none rfl
theorem patrolScrub x0 x1 : Statement (.patrolScrub x0 x1) := of_none rfl
theorem frameRetirement x0 x1 : Statement (.frameRetirement x0 x1) := of_none rfl
theorem sliceRequest x0 x1 : Statement (.sliceRequest x0 x1) := of_none rfl
theorem sideQueueRetry x0 x1 : Statement (.sideQueueRetry x0 x1) := of_none rfl
theorem lineFill x0 x1 x2 x3 : Statement (.lineFill x0 x1 x2 x3) := of_none rfl
theorem writeBackComplete x0 x1 : Statement (.writeBackComplete x0 x1) := of_none rfl
theorem lineYield x0 : Statement (.lineYield x0) := of_none rfl
theorem drainAddArrive x0 x1 : Statement (.drainAddArrive x0 x1) := of_none rfl
theorem orderedContribution x0 x1 : Statement (.orderedContribution x0 x1) := of_none rfl
theorem sequenceTimeout x0 x1 x2 : Statement (.sequenceTimeout x0 x1 x2) := of_none rfl
theorem routerFlit x0 x1 x2 : Statement (.routerFlit x0 x1 x2) := of_none rfl
theorem linkDown x0 x1 x2 : Statement (.linkDown x0 x1 x2) := of_none rfl
theorem linkRetry x0 x1 x2 : Statement (.linkRetry x0 x1 x2) := of_none rfl
theorem dieLinkFlitReceive x0 x1 x2 : Statement (.dieLinkFlitReceive x0 x1 x2) := of_none rfl
theorem dieLinkAck x0 x1 : Statement (.dieLinkAck x0 x1) := of_none rfl
theorem dieLinkNak x0 x1 : Statement (.dieLinkNak x0 x1) := of_none rfl
theorem dieLinkReplayTimeout x0 x1 : Statement (.dieLinkReplayTimeout x0 x1) := of_none rfl
theorem dieLinkDown x0 : Statement (.dieLinkDown x0) := of_none rfl
theorem crossDieReceive x0 : Statement (.crossDieReceive x0) := of_none rfl
theorem beacon x0 x1 : Statement (.beacon x0 x1) := of_none rfl
theorem eventStamp : Statement .eventStamp := of_none rfl
theorem errorRecord : Statement .errorRecord := of_none rfl
theorem correctedReport x0 : Statement (.correctedReport x0) := of_none rfl
theorem swapthrExpiry x0 x1 x2 : Statement (.swapthrExpiry x0 x1 x2) := of_none rfl
theorem powerLimitStep x0 : Statement (.powerLimitStep x0) := of_none rfl
theorem linkRetrain x0 x1 x2 x3 : Statement (.linkRetrain x0 x1 x2 x3) := of_none rfl
theorem frameOwnerChange x0 x1 x2 : Statement (.frameOwnerChange x0 x1 x2) := of_none rfl
theorem unassignedOpcode x0 : Statement (.unassignedOpcode x0) := of_bytes rfl (List.mem_cons.mpr (Or.inl (wordBytes_length _)))
theorem unassignedEngineWord x0 : Statement (.unassignedEngineWord x0) := of_bytes rfl (engine_length _)

end Sys2Proof.Laws.EncodedLength
end

