-- ==== Sys2Proof/Laws/Registers.lean ====
section
/-! SUPPORT. Reading a register after a write to one, and what writes to registers leave alone. -/

namespace Sys2Proof.Machine

theorem Core.updFrame_frames (k : Core) (f : Nat) (x : Frame) (u : Frame → Frame) (h : KMap.get? k.frames f = some x) :
    k.updFrame f u = { k with frames := KMap.put k.frames f (u x) } := by
  unfold Core.updFrame; rw [h]

theorem Core.readLoc_frame (k : Core) (f r : Nat) (x : Frame) (h : KMap.get? k.frames f = some x) :
    k.readLoc (.frame f r) = KMap.getD x.regs r 0 := by
  simp only [Core.readLoc, Core.frame?, h]

theorem Core.readLoc_writeLoc_self (k : Core) (l : RegLoc) (m : Mask) (v : Reg) (h : k.holds l) :
    (k.writeLoc l m v).readLoc l = mergeReg m (k.readLoc l) v := by
  cases l with
  | frame f r =>
    obtain ⟨x, hx⟩ := Option.isSome_iff_exists.mp h
    simp only [Core.writeLoc, Core.updFrame, hx]
    rw [Core.readLoc_frame _ f r _ (KMap.get?_put_self ..)]
    simp
  | trap i r =>
    show KMap.getD (KMap.getD _ i []) r 0 = _
    simp [Core.writeLoc]

theorem Core.readLoc_writeLoc_ne (k : Core) (l l' : RegLoc) (m : Mask) (v : Reg) (h : k.holds l) (hn : l' ≠ l) :
    (k.writeLoc l m v).readLoc l' = k.readLoc l' := by
  cases l with
  | frame f r =>
    obtain ⟨x, hx⟩ := Option.isSome_iff_exists.mp h
    simp only [Core.writeLoc, Core.updFrame, hx]
    cases l' with
    | trap i q => rfl
    | frame g q =>
      by_cases hg : g = f
      · subst hg
        have hq : q ≠ r := fun e => hn (by rw [e])
        rw [Core.readLoc_frame _ g q _ (KMap.get?_put_self ..), Core.readLoc_frame _ g q x hx]
        exact KMap.getD_putD_ne _ _ _ _ hq
      · simp only [Core.readLoc, Core.frame?, KMap.get?_put_ne _ _ hg]
  | trap i r =>
    cases l' with
    | frame g q => rfl
    | trap j q =>
      show KMap.getD (KMap.getD (KMap.put k.trapRegs i _) j []) q 0 = KMap.getD (KMap.getD k.trapRegs j []) q 0
      by_cases hj : j = i
      · subst hj
        have hq : q ≠ r := fun e => hn (by rw [e])
        rw [KMap.getD_put_self, KMap.getD_putD_ne _ _ _ _ hq]
      · rw [KMap.getD_put_ne _ _ _ hj]

theorem Core.holds_writeLoc (k : Core) (l l' : RegLoc) (m : Mask) (v : Reg) (h : k.holds l) (h' : k.holds l') :
    (k.writeLoc l m v).holds l' := by
  cases l' with
  | trap i q => trivial
  | frame g q =>
    cases l with
    | trap i r => exact h'
    | frame f r =>
      obtain ⟨x, hx⟩ := Option.isSome_iff_exists.mp h
      simp only [Core.writeLoc, Core.updFrame, hx]
      show (KMap.get? (KMap.put k.frames f _) g).isSome = true
      by_cases hg : g = f
      · subst hg; simp
      · rw [KMap.get?_put_ne _ _ hg]; exact h'

theorem Core.readLoc_markPoison (k : Core) (l l' : RegLoc) (m : Mask) (h : k.holds l) :
    (k.markPoison l m).readLoc l' = k.readLoc l' := by
  unfold Core.markPoison
  split
  · rfl
  · cases l with
    | trap i r => cases l' <;> rfl
    | frame f r =>
      obtain ⟨x, hx⟩ := Option.isSome_iff_exists.mp h
      simp only
      rw [Core.updFrame_frames _ f x _ hx]
      cases l' with
      | trap i q => rfl
      | frame g q =>
        by_cases hg : g = f
        · subst hg
          rw [Core.readLoc_frame _ g q _ (KMap.get?_put_self ..), Core.readLoc_frame _ g q x hx]
        · simp only [Core.readLoc, Core.frame?, KMap.get?_put_ne _ _ hg]

theorem Core.updFrame_outs (k : Core) (f : Nat) (u : Frame → Frame) : (k.updFrame f u).outs = k.outs := by
  unfold Core.updFrame; split <;> rfl

theorem Core.writeLoc_outs (k : Core) (l : RegLoc) (m : Mask) (v : Reg) : (k.writeLoc l m v).outs = k.outs := by
  cases l <;> simp [Core.writeLoc, Core.updFrame_outs]

theorem Core.markPoison_outs (k : Core) (l : RegLoc) (m : Mask) : (k.markPoison l m).outs = k.outs := by
  unfold Core.markPoison
  split
  · rfl
  · cases l <;> simp [Core.updFrame_outs]

theorem Core.arrive_outs (k : Core) (d : OutDest) : (k.arrive d).outs = k.outs := by
  simp [Core.arrive, Core.markPoison_outs, Core.writeLoc_outs]

/-- A destination that arrives: the register takes the lanes of the mask. -/
theorem Core.readLoc_arrive_self (k : Core) (d : OutDest) (h : k.holds d.loc) :
    (k.arrive d).readLoc d.loc = mergeReg d.mask (k.readLoc d.loc) d.val := by
  unfold Core.arrive
  rw [Core.readLoc_markPoison _ _ _ _ (Core.holds_writeLoc _ _ _ _ _ h h), Core.readLoc_writeLoc_self _ _ _ _ h]

theorem Core.readLoc_arrive_ne (k : Core) (d : OutDest) (l : RegLoc) (h : k.holds d.loc) (hn : l ≠ d.loc) :
    (k.arrive d).readLoc l = k.readLoc l := by
  unfold Core.arrive
  rw [Core.readLoc_markPoison _ _ _ _ (Core.holds_writeLoc _ _ _ _ _ h h), Core.readLoc_writeLoc_ne _ _ _ _ _ h hn]

theorem Core.landOut_outs (k : Core) (o : Out) : (k.landOut o).outs = k.outs.filter fun x => decide (x.id ≠ o.id) := by
  have h : ∀ (ds : List OutDest) (k : Core), (ds.foldl Core.arrive k).outs = k.outs := by
    intro ds
    induction ds with
    | nil => intro k; rfl
    | cons d t ih => intro k; exact (ih _).trans (Core.arrive_outs k d)
  have hu : ∀ (rs : List (W32 × Nat)) (k : Core), (k.unlatchAll rs).outs = k.outs := by
    intro rs
    induction rs with
    | nil => intro k; rfl
    | cons r t ih => intro k; exact ih _
  unfold Core.landOut
  rw [hu]
  unfold Core.notePoison
  simp only
  split
  · simp only [h]
  · split <;> simp only [h]

theorem Core.holds_markPoison (k : Core) (l l' : RegLoc) (m : Mask) (h' : k.holds l') : (k.markPoison l m).holds l' := by
  cases l' with
  | trap i q => trivial
  | frame g q =>
    unfold Core.markPoison
    split
    · exact h'
    · cases l with
      | trap i r => exact h'
      | frame f r =>
        simp only [Core.updFrame]
        cases hx : KMap.get? k.frames f with
        | none => exact h'
        | some x =>
          show (KMap.get? (KMap.put k.frames f _) g).isSome = true
          by_cases hg : g = f
          · subst hg; simp
          · rw [KMap.get?_put_ne _ _ hg]; exact h'

theorem Core.holds_arrive (k : Core) (d : OutDest) (l : RegLoc) (h : k.holds d.loc) (h' : k.holds l) : (k.arrive d).holds l :=
  Core.holds_markPoison _ _ _ _ (Core.holds_writeLoc _ _ _ _ _ h h')

/-- Several destinations that arrive leave every other register alone. -/
theorem Core.readLoc_arrives_ne (ds : List OutDest) : ∀ (k : Core) (l : RegLoc), (∀ d ∈ ds, k.holds d.loc) →
    l ∉ ds.map OutDest.loc → (ds.foldl Core.arrive k).readLoc l = k.readLoc l := by
  induction ds with
  | nil => intro k l _ _; rfl
  | cons d t ih =>
    intro k l hh hl
    simp only [List.map_cons, List.mem_cons, not_or] at hl
    have hd := hh d (.head _)
    exact (ih _ l (fun e he => Core.holds_arrive _ _ _ hd (hh e (.tail _ he))) hl.2).trans
      (Core.readLoc_arrive_ne _ _ _ hd hl.1)

/-- Each of several different destinations takes the lanes of its mask. -/
theorem Core.readLoc_arrives_mem (ds : List OutDest) : ∀ (k : Core) (d : OutDest), (∀ d ∈ ds, k.holds d.loc) →
    (ds.map OutDest.loc).Nodup → d ∈ ds →
    (ds.foldl Core.arrive k).readLoc d.loc = mergeReg d.mask (k.readLoc d.loc) d.val := by
  induction ds with
  | nil => intro k d _ _ hm; cases hm
  | cons a t ih =>
    intro k d hh hn hm
    rw [List.map_cons, List.nodup_cons] at hn
    have ha := hh a (.head _)
    have hh' : ∀ e ∈ t, (k.arrive a).holds e.loc := fun e he => Core.holds_arrive _ _ _ ha (hh e (.tail _ he))
    rcases List.mem_cons.mp hm with rfl | hm
    · exact (Core.readLoc_arrives_ne t _ _ hh' hn.1).trans (Core.readLoc_arrive_self _ _ ha)
    · have hne : d.loc ≠ a.loc := fun e => hn.1 (e ▸ List.mem_map_of_mem hm)
      exact (ih _ d hh' hn.2 hm).trans (by rw [Core.readLoc_arrive_ne _ _ _ ha hne])

theorem Core.unlatchAll_readLoc (k : Core) (rs : List (W32 × Nat)) (l : RegLoc) : (k.unlatchAll rs).readLoc l = k.readLoc l := by
  induction rs generalizing k with
  | nil => rfl
  | cons r t ih => exact (ih _).trans (by cases l <;> rfl)

theorem Core.notePoison_readLoc (k : Core) (ds : List OutDest) (l : RegLoc) : (k.notePoison ds).readLoc l = k.readLoc l := by
  unfold Core.notePoison
  simp only
  split
  · rfl
  · split <;> cases l <;> rfl

/-- A result that lands writes its destinations and no other register. -/
theorem Core.readLoc_landOut (k : Core) (o : Out) (l : RegLoc) :
    (k.landOut o).readLoc l
      = (o.dests.foldl Core.arrive { k with outs := k.outs.filter fun x => decide (x.id ≠ o.id) }).readLoc l := by
  unfold Core.landOut
  rw [Core.unlatchAll_readLoc, Core.notePoison_readLoc]

end Sys2Proof.Machine
end

