-- ==== Sys2Proof/Laws/Settle.lean ====
section
/-! SUPPORT. Pending results that take effect: what the core and the group keep, and reads of an entry or a core just
written. -/

namespace Sys2Proof.Machine

@[simp] theorem State.core_setCore_self (s : State) (c : Nat) (k : Core) : (s.setCore c k).core c = k := KMap.getD_put_self ..
theorem State.core_setCore_ne (s : State) {c d : Nat} (k : Core) (h : d ≠ c) : (s.setCore c k).core d = s.core d :=
  KMap.getD_put_ne _ _ _ h

@[simp] theorem Core.group?_setGroup_self (k : Core) (slot : Nat) (g : Group) : (k.setGroup slot g).group? slot = some g :=
  KMap.get?_put_self ..
theorem Core.group?_setGroup_ne (k : Core) {slot j : Nat} (g : Group) (h : j ≠ slot) :
    (k.setGroup slot g).group? j = k.group? j := KMap.get?_put_ne _ _ h

theorem Core.readLoc_setGroup (k : Core) (slot : Nat) (g : Group) (l : RegLoc) : (k.setGroup slot g).readLoc l = k.readLoc l := by
  cases l <;> rfl

theorem Core.readLoc_setEntry (k : Core) (slot : Nat) (e : Entry) (l : RegLoc) : (k.setEntry slot e).readLoc l = k.readLoc l := by
  unfold Core.setEntry; split <;> cases l <;> rfl

theorem Group.entry?_setEntry (g : Group) (e e0 : Entry) (h : g.entry? e.id = some e0) : (g.setEntry e).entry? e.id = some e := by
  unfold Group.entry? Group.setEntry at *
  simp only
  generalize g.entries = l at *
  induction l with
  | nil => simp at h
  | cons a t ih =>
    simp only [List.find?_cons, List.map_cons] at h ⊢
    by_cases ha : a.id = e.id
    · simp [ha]
    · simp only [if_neg ha, decide_eq_false ha] at h ⊢; exact ih h

theorem Group.entry?_id (g : Group) {id : EntId} {e : Entry} (h : g.entry? id = some e) : e.id = id := by
  simpa using List.find?_some h

theorem Core.updFrame_groups (k : Core) (f : Nat) (u : Frame → Frame) : (k.updFrame f u).groups = k.groups := by
  unfold Core.updFrame; split <;> rfl

theorem Core.writeLoc_groups (k : Core) (l : RegLoc) (m : Mask) (v : Reg) : (k.writeLoc l m v).groups = k.groups := by
  cases l <;> simp [Core.writeLoc, Core.updFrame_groups]

theorem Core.updFrame_traps (k : Core) (f : Nat) (u : Frame → Frame) : (k.updFrame f u).traps = k.traps := by
  unfold Core.updFrame; split <;> rfl

theorem Core.writeLoc_traps (k : Core) (l : RegLoc) (m : Mask) (v : Reg) : (k.writeLoc l m v).traps = k.traps := by
  cases l <;> simp [Core.writeLoc, Core.updFrame_traps]

theorem Core.updFrame_quarters (k : Core) (f : Nat) (u : Frame → Frame) : (k.updFrame f u).quarters = k.quarters := by
  unfold Core.updFrame; split <;> rfl

theorem Core.writeLoc_quarters (k : Core) (l : RegLoc) (m : Mask) (v : Reg) : (k.writeLoc l m v).quarters = k.quarters := by
  cases l <;> simp [Core.writeLoc, Core.updFrame_quarters]

theorem Core.updFrame_wgs (k : Core) (f : Nat) (u : Frame → Frame) : (k.updFrame f u).wgs = k.wgs := by
  unfold Core.updFrame; split <;> rfl

theorem Core.writeLoc_wgs (k : Core) (l : RegLoc) (m : Mask) (v : Reg) : (k.writeLoc l m v).wgs = k.wgs := by
  cases l <;> simp [Core.writeLoc, Core.updFrame_wgs]

/-- The part of a core that results cannot touch, and a group but for its predicates and pending results. -/
def Group.sameBut (g h : Group) : Prop := h = { g with preds := h.preds, pend := h.pend }

/-- Core `k'` is `k` but for registers, predicates and pending results of the group in `slot`. -/
structure Core.Settled (slot : Nat) (k k' : Core) : Prop where
  traps : k'.traps = k.traps
  wgs : k'.wgs = k.wgs
  outs : k'.outs = k.outs
  quarters : k'.quarters = k.quarters
  group : ∀ g, k.group? slot = some g → ∃ h, k'.group? slot = some h ∧ g.sameBut h
  gone : k.group? slot = none → k'.group? slot = none

theorem Core.Settled.refl (slot : Nat) (k : Core) : Core.Settled slot k k := ⟨rfl, rfl, rfl, rfl, fun g h => ⟨g, h, rfl⟩, id⟩

theorem Core.Settled.trans {slot : Nat} {a b c : Core} (h : Core.Settled slot a b) (h' : Core.Settled slot b c) :
    Core.Settled slot a c := by
  refine ⟨h'.traps.trans h.traps, h'.wgs.trans h.wgs, h'.outs.trans h.outs, h'.quarters.trans h.quarters, fun g hg => ?_,
    fun hg => h'.gone (h.gone hg)⟩
  obtain ⟨g1, h1, e1⟩ := h.group g hg
  obtain ⟨g2, h2, e2⟩ := h'.group g1 h1
  exact ⟨g2, h2, by unfold Group.sameBut at *; rw [e2, e1]⟩

theorem Core.settled_setPend (k : Core) (slot : Nat) (g : Group) (h : k.group? slot = some g) (ps : List Pend) (w : W64) :
    Core.Settled slot k (k.setGroup slot { g with pend := ps, preds := w }) := by
  refine ⟨rfl, rfl, rfl, rfl, fun g' h' => ?_, fun h' => ?_⟩
  · rw [h] at h'; cases h'; exact ⟨_, Core.group?_setGroup_self .., rfl⟩
  · rw [h] at h'; cases h'

theorem Core.settled_writeLoc (k : Core) (slot : Nat) (l : RegLoc) (m : Mask) (v : Reg) :
    Core.Settled slot k (k.writeLoc l m v) := by
  have hg : (k.writeLoc l m v).groups = k.groups := Core.writeLoc_groups ..
  refine ⟨Core.writeLoc_traps .., Core.writeLoc_wgs .., Core.writeLoc_outs .., Core.writeLoc_quarters .., fun g h => ⟨g, ?_, rfl⟩,
    fun h => ?_⟩
  · unfold Core.group? at *; rw [hg]; exact h
  · unfold Core.group? at *; rw [hg]; exact h

theorem Core.settled_applyPend (k : Core) (slot : Nat) (p : Pend) : Core.Settled slot k (k.applyPend slot p) := by
  unfold Core.applyPend
  split
  · exact Core.settled_writeLoc ..
  · split
    · rename_i g hg
      unfold Group.setPred
      split
      · have := Core.settled_setPend k slot g hg g.pend g.preds
        exact this
      · exact Core.settled_setPend k slot g hg g.pend _
    · exact Core.Settled.refl ..

theorem Core.settled_foldl (slot : Nat) (ps : List Pend) : ∀ k : Core, Core.Settled slot k (ps.foldl (fun a p => a.applyPend slot p) k) := by
  induction ps with
  | nil => intro k; exact Core.Settled.refl ..
  | cons p t ih => intro k; exact (Core.settled_applyPend k slot p).trans (ih _)

/-- Results that take effect change registers, predicates and the group's pending results, and nothing else. -/
theorem Core.settled_settle (k : Core) (slot : Nat) (sel : Pend → Bool) : Core.Settled slot k (k.settle slot sel) := by
  unfold Core.settle
  cases hg : k.group? slot with
  | none => exact Core.Settled.refl ..
  | some g =>
    simp only
    split
    · exact Core.Settled.refl ..
    · exact (Core.settled_setPend k slot g hg _ g.preds).trans (Core.settled_foldl ..)

end Sys2Proof.Machine
end

