-- ==== Sys2Proof/Laws/State.lean ====
section
/-! SUPPORT. What each named update of the machine does to each field, true by definition, so that no proof unfolds a record
update. -/

namespace Sys2Proof.Machine

/-! ## Updates of the state -/

@[simp] theorem State.setCore_clk (s : State) (c : Nat) (k : Core) :
    (s.setCore c k).clk = s.clk := rfl
@[simp] theorem State.setCore_booted (s : State) (c : Nat) (k : Core) :
    (s.setCore c k).booted = s.booted := rfl
@[simp] theorem State.setCore_mem (s : State) (c : Nat) (k : Core) :
    (s.setCore c k).mem = s.mem := rfl
@[simp] theorem State.setCore_poison (s : State) (c : Nat) (k : Core) :
    (s.setCore c k).poison = s.poison := rfl
@[simp] theorem State.setCore_noise (s : State) (c : Nat) (k : Core) :
    (s.setCore c k).noise = s.noise := rfl
@[simp] theorem State.setCore_oldCode (s : State) (c : Nat) (k : Core) :
    (s.setCore c k).oldCode = s.oldCode := rfl
@[simp] theorem State.setCore_codecBusy (s : State) (c : Nat) (k : Core) :
    (s.setCore c k).codecBusy = s.codecBusy := rfl
@[simp] theorem State.setCore_l1own (s : State) (c : Nat) (k : Core) :
    (s.setCore c k).l1own = s.l1own := rfl
@[simp] theorem State.setCore_cores (s : State) (c : Nat) (k : Core) :
    (s.setCore c k).cores = KMap.put s.cores c k := rfl
@[simp] theorem State.setCore_dies (s : State) (c : Nat) (k : Core) :
    (s.setCore c k).dies = s.dies := rfl
@[simp] theorem State.setCore_dlinks (s : State) (c : Nat) (k : Core) :
    (s.setCore c k).dlinks = s.dlinks := rfl
@[simp] theorem State.setCore_vfs (s : State) (c : Nat) (k : Core) :
    (s.setCore c k).vfs = s.vfs := rfl
@[simp] theorem State.setCore_dist (s : State) (c : Nat) (k : Core) :
    (s.setCore c k).dist = s.dist := rfl
@[simp] theorem State.setCore_fwc (s : State) (c : Nat) (k : Core) :
    (s.setCore c k).fwc = s.fwc := rfl
@[simp] theorem State.setCore_eva (s : State) (c : Nat) (k : Core) :
    (s.setCore c k).eva = s.eva := rfl
@[simp] theorem State.setCore_sel (s : State) (c : Nat) (k : Core) :
    (s.setCore c k).sel = s.sel := rfl
@[simp] theorem State.setCore_inbox (s : State) (c : Nat) (k : Core) :
    (s.setCore c k).inbox = s.inbox := rfl
@[simp] theorem State.setCore_agenda (s : State) (c : Nat) (k : Core) :
    (s.setCore c k).agenda = s.agenda := rfl
@[simp] theorem State.setCore_turn (s : State) (c : Nat) (k : Core) :
    (s.setCore c k).turn = s.turn := rfl
@[simp] theorem State.setCore_choices (s : State) (c : Nat) (k : Core) :
    (s.setCore c k).choices = s.choices := rfl
@[simp] theorem State.setCore_frees (s : State) (c : Nat) (k : Core) :
    (s.setCore c k).frees = s.frees := rfl

@[simp] theorem State.setDie_clk (s : State) (d : Nat) (x : Die) :
    (s.setDie d x).clk = s.clk := rfl
@[simp] theorem State.setDie_booted (s : State) (d : Nat) (x : Die) :
    (s.setDie d x).booted = s.booted := rfl
@[simp] theorem State.setDie_mem (s : State) (d : Nat) (x : Die) :
    (s.setDie d x).mem = s.mem := rfl
@[simp] theorem State.setDie_poison (s : State) (d : Nat) (x : Die) :
    (s.setDie d x).poison = s.poison := rfl
@[simp] theorem State.setDie_noise (s : State) (d : Nat) (x : Die) :
    (s.setDie d x).noise = s.noise := rfl
@[simp] theorem State.setDie_oldCode (s : State) (d : Nat) (x : Die) :
    (s.setDie d x).oldCode = s.oldCode := rfl
@[simp] theorem State.setDie_codecBusy (s : State) (d : Nat) (x : Die) :
    (s.setDie d x).codecBusy = s.codecBusy := rfl
@[simp] theorem State.setDie_l1own (s : State) (d : Nat) (x : Die) :
    (s.setDie d x).l1own = s.l1own := rfl
@[simp] theorem State.setDie_cores (s : State) (d : Nat) (x : Die) :
    (s.setDie d x).cores = s.cores := rfl
@[simp] theorem State.setDie_dies (s : State) (d : Nat) (x : Die) :
    (s.setDie d x).dies = KMap.put s.dies d x := rfl
@[simp] theorem State.setDie_dlinks (s : State) (d : Nat) (x : Die) :
    (s.setDie d x).dlinks = s.dlinks := rfl
@[simp] theorem State.setDie_vfs (s : State) (d : Nat) (x : Die) :
    (s.setDie d x).vfs = s.vfs := rfl
@[simp] theorem State.setDie_dist (s : State) (d : Nat) (x : Die) :
    (s.setDie d x).dist = s.dist := rfl
@[simp] theorem State.setDie_fwc (s : State) (d : Nat) (x : Die) :
    (s.setDie d x).fwc = s.fwc := rfl
@[simp] theorem State.setDie_eva (s : State) (d : Nat) (x : Die) :
    (s.setDie d x).eva = s.eva := rfl
@[simp] theorem State.setDie_sel (s : State) (d : Nat) (x : Die) :
    (s.setDie d x).sel = s.sel := rfl
@[simp] theorem State.setDie_inbox (s : State) (d : Nat) (x : Die) :
    (s.setDie d x).inbox = s.inbox := rfl
@[simp] theorem State.setDie_agenda (s : State) (d : Nat) (x : Die) :
    (s.setDie d x).agenda = s.agenda := rfl
@[simp] theorem State.setDie_turn (s : State) (d : Nat) (x : Die) :
    (s.setDie d x).turn = s.turn := rfl
@[simp] theorem State.setDie_choices (s : State) (d : Nat) (x : Die) :
    (s.setDie d x).choices = s.choices := rfl
@[simp] theorem State.setDie_frees (s : State) (d : Nat) (x : Die) :
    (s.setDie d x).frees = s.frees := rfl

@[simp] theorem State.setVf_clk (s : State) (v : Nat) (x : Vf) :
    (s.setVf v x).clk = s.clk := rfl
@[simp] theorem State.setVf_booted (s : State) (v : Nat) (x : Vf) :
    (s.setVf v x).booted = s.booted := rfl
@[simp] theorem State.setVf_mem (s : State) (v : Nat) (x : Vf) :
    (s.setVf v x).mem = s.mem := rfl
@[simp] theorem State.setVf_poison (s : State) (v : Nat) (x : Vf) :
    (s.setVf v x).poison = s.poison := rfl
@[simp] theorem State.setVf_noise (s : State) (v : Nat) (x : Vf) :
    (s.setVf v x).noise = s.noise := rfl
@[simp] theorem State.setVf_oldCode (s : State) (v : Nat) (x : Vf) :
    (s.setVf v x).oldCode = s.oldCode := rfl
@[simp] theorem State.setVf_codecBusy (s : State) (v : Nat) (x : Vf) :
    (s.setVf v x).codecBusy = s.codecBusy := rfl
@[simp] theorem State.setVf_l1own (s : State) (v : Nat) (x : Vf) :
    (s.setVf v x).l1own = s.l1own := rfl
@[simp] theorem State.setVf_cores (s : State) (v : Nat) (x : Vf) :
    (s.setVf v x).cores = s.cores := rfl
@[simp] theorem State.setVf_dies (s : State) (v : Nat) (x : Vf) :
    (s.setVf v x).dies = s.dies := rfl
@[simp] theorem State.setVf_dlinks (s : State) (v : Nat) (x : Vf) :
    (s.setVf v x).dlinks = s.dlinks := rfl
@[simp] theorem State.setVf_vfs (s : State) (v : Nat) (x : Vf) :
    (s.setVf v x).vfs = KMap.put s.vfs v x := rfl
@[simp] theorem State.setVf_dist (s : State) (v : Nat) (x : Vf) :
    (s.setVf v x).dist = s.dist := rfl
@[simp] theorem State.setVf_fwc (s : State) (v : Nat) (x : Vf) :
    (s.setVf v x).fwc = s.fwc := rfl
@[simp] theorem State.setVf_eva (s : State) (v : Nat) (x : Vf) :
    (s.setVf v x).eva = s.eva := rfl
@[simp] theorem State.setVf_sel (s : State) (v : Nat) (x : Vf) :
    (s.setVf v x).sel = s.sel := rfl
@[simp] theorem State.setVf_inbox (s : State) (v : Nat) (x : Vf) :
    (s.setVf v x).inbox = s.inbox := rfl
@[simp] theorem State.setVf_agenda (s : State) (v : Nat) (x : Vf) :
    (s.setVf v x).agenda = s.agenda := rfl
@[simp] theorem State.setVf_turn (s : State) (v : Nat) (x : Vf) :
    (s.setVf v x).turn = s.turn := rfl
@[simp] theorem State.setVf_choices (s : State) (v : Nat) (x : Vf) :
    (s.setVf v x).choices = s.choices := rfl
@[simp] theorem State.setVf_frees (s : State) (v : Nat) (x : Vf) :
    (s.setVf v x).frees = s.frees := rfl

@[simp] theorem State.setGroup_clk (s : State) (c slot : Nat) (g : Group) :
    (s.setGroup c slot g).clk = s.clk := rfl
@[simp] theorem State.setGroup_booted (s : State) (c slot : Nat) (g : Group) :
    (s.setGroup c slot g).booted = s.booted := rfl
@[simp] theorem State.setGroup_mem (s : State) (c slot : Nat) (g : Group) :
    (s.setGroup c slot g).mem = s.mem := rfl
@[simp] theorem State.setGroup_poison (s : State) (c slot : Nat) (g : Group) :
    (s.setGroup c slot g).poison = s.poison := rfl
@[simp] theorem State.setGroup_noise (s : State) (c slot : Nat) (g : Group) :
    (s.setGroup c slot g).noise = s.noise := rfl
@[simp] theorem State.setGroup_oldCode (s : State) (c slot : Nat) (g : Group) :
    (s.setGroup c slot g).oldCode = s.oldCode := rfl
@[simp] theorem State.setGroup_codecBusy (s : State) (c slot : Nat) (g : Group) :
    (s.setGroup c slot g).codecBusy = s.codecBusy := rfl
@[simp] theorem State.setGroup_l1own (s : State) (c slot : Nat) (g : Group) :
    (s.setGroup c slot g).l1own = s.l1own := rfl
@[simp] theorem State.setGroup_cores (s : State) (c slot : Nat) (g : Group) :
    (s.setGroup c slot g).cores = KMap.put s.cores c ((s.core c).setGroup slot g) := rfl
@[simp] theorem State.setGroup_dies (s : State) (c slot : Nat) (g : Group) :
    (s.setGroup c slot g).dies = s.dies := rfl
@[simp] theorem State.setGroup_dlinks (s : State) (c slot : Nat) (g : Group) :
    (s.setGroup c slot g).dlinks = s.dlinks := rfl
@[simp] theorem State.setGroup_vfs (s : State) (c slot : Nat) (g : Group) :
    (s.setGroup c slot g).vfs = s.vfs := rfl
@[simp] theorem State.setGroup_dist (s : State) (c slot : Nat) (g : Group) :
    (s.setGroup c slot g).dist = s.dist := rfl
@[simp] theorem State.setGroup_fwc (s : State) (c slot : Nat) (g : Group) :
    (s.setGroup c slot g).fwc = s.fwc := rfl
@[simp] theorem State.setGroup_eva (s : State) (c slot : Nat) (g : Group) :
    (s.setGroup c slot g).eva = s.eva := rfl
@[simp] theorem State.setGroup_sel (s : State) (c slot : Nat) (g : Group) :
    (s.setGroup c slot g).sel = s.sel := rfl
@[simp] theorem State.setGroup_inbox (s : State) (c slot : Nat) (g : Group) :
    (s.setGroup c slot g).inbox = s.inbox := rfl
@[simp] theorem State.setGroup_agenda (s : State) (c slot : Nat) (g : Group) :
    (s.setGroup c slot g).agenda = s.agenda := rfl
@[simp] theorem State.setGroup_turn (s : State) (c slot : Nat) (g : Group) :
    (s.setGroup c slot g).turn = s.turn := rfl
@[simp] theorem State.setGroup_choices (s : State) (c slot : Nat) (g : Group) :
    (s.setGroup c slot g).choices = s.choices := rfl
@[simp] theorem State.setGroup_frees (s : State) (c slot : Nat) (g : Group) :
    (s.setGroup c slot g).frees = s.frees := rfl

@[simp] theorem State.setSlice_clk (s : State) (d j : Nat) (y : Slice) :
    (s.setSlice d j y).clk = s.clk := rfl
@[simp] theorem State.setSlice_booted (s : State) (d j : Nat) (y : Slice) :
    (s.setSlice d j y).booted = s.booted := rfl
@[simp] theorem State.setSlice_mem (s : State) (d j : Nat) (y : Slice) :
    (s.setSlice d j y).mem = s.mem := rfl
@[simp] theorem State.setSlice_poison (s : State) (d j : Nat) (y : Slice) :
    (s.setSlice d j y).poison = s.poison := rfl
@[simp] theorem State.setSlice_noise (s : State) (d j : Nat) (y : Slice) :
    (s.setSlice d j y).noise = s.noise := rfl
@[simp] theorem State.setSlice_oldCode (s : State) (d j : Nat) (y : Slice) :
    (s.setSlice d j y).oldCode = s.oldCode := rfl
@[simp] theorem State.setSlice_codecBusy (s : State) (d j : Nat) (y : Slice) :
    (s.setSlice d j y).codecBusy = s.codecBusy := rfl
@[simp] theorem State.setSlice_l1own (s : State) (d j : Nat) (y : Slice) :
    (s.setSlice d j y).l1own = s.l1own := rfl
@[simp] theorem State.setSlice_cores (s : State) (d j : Nat) (y : Slice) :
    (s.setSlice d j y).cores = s.cores := rfl
@[simp] theorem State.setSlice_dies (s : State) (d j : Nat) (y : Slice) :
    (s.setSlice d j y).dies = KMap.put s.dies d ((s.die d).setSlice j y) := rfl
@[simp] theorem State.setSlice_dlinks (s : State) (d j : Nat) (y : Slice) :
    (s.setSlice d j y).dlinks = s.dlinks := rfl
@[simp] theorem State.setSlice_vfs (s : State) (d j : Nat) (y : Slice) :
    (s.setSlice d j y).vfs = s.vfs := rfl
@[simp] theorem State.setSlice_dist (s : State) (d j : Nat) (y : Slice) :
    (s.setSlice d j y).dist = s.dist := rfl
@[simp] theorem State.setSlice_fwc (s : State) (d j : Nat) (y : Slice) :
    (s.setSlice d j y).fwc = s.fwc := rfl
@[simp] theorem State.setSlice_eva (s : State) (d j : Nat) (y : Slice) :
    (s.setSlice d j y).eva = s.eva := rfl
@[simp] theorem State.setSlice_sel (s : State) (d j : Nat) (y : Slice) :
    (s.setSlice d j y).sel = s.sel := rfl
@[simp] theorem State.setSlice_inbox (s : State) (d j : Nat) (y : Slice) :
    (s.setSlice d j y).inbox = s.inbox := rfl
@[simp] theorem State.setSlice_agenda (s : State) (d j : Nat) (y : Slice) :
    (s.setSlice d j y).agenda = s.agenda := rfl
@[simp] theorem State.setSlice_turn (s : State) (d j : Nat) (y : Slice) :
    (s.setSlice d j y).turn = s.turn := rfl
@[simp] theorem State.setSlice_choices (s : State) (d j : Nat) (y : Slice) :
    (s.setSlice d j y).choices = s.choices := rfl
@[simp] theorem State.setSlice_frees (s : State) (d j : Nat) (y : Slice) :
    (s.setSlice d j y).frees = s.frees := rfl

@[simp] theorem State.setLink_clk (s : State) (i : Nat) (l : LinkDir) :
    (s.setLink i l).clk = s.clk := rfl
@[simp] theorem State.setLink_booted (s : State) (i : Nat) (l : LinkDir) :
    (s.setLink i l).booted = s.booted := rfl
@[simp] theorem State.setLink_mem (s : State) (i : Nat) (l : LinkDir) :
    (s.setLink i l).mem = s.mem := rfl
@[simp] theorem State.setLink_poison (s : State) (i : Nat) (l : LinkDir) :
    (s.setLink i l).poison = s.poison := rfl
@[simp] theorem State.setLink_noise (s : State) (i : Nat) (l : LinkDir) :
    (s.setLink i l).noise = s.noise := rfl
@[simp] theorem State.setLink_oldCode (s : State) (i : Nat) (l : LinkDir) :
    (s.setLink i l).oldCode = s.oldCode := rfl
@[simp] theorem State.setLink_codecBusy (s : State) (i : Nat) (l : LinkDir) :
    (s.setLink i l).codecBusy = s.codecBusy := rfl
@[simp] theorem State.setLink_l1own (s : State) (i : Nat) (l : LinkDir) :
    (s.setLink i l).l1own = s.l1own := rfl
@[simp] theorem State.setLink_cores (s : State) (i : Nat) (l : LinkDir) :
    (s.setLink i l).cores = s.cores := rfl
@[simp] theorem State.setLink_dies (s : State) (i : Nat) (l : LinkDir) :
    (s.setLink i l).dies = s.dies := rfl
@[simp] theorem State.setLink_dlinks (s : State) (i : Nat) (l : LinkDir) :
    (s.setLink i l).dlinks = setAt s.dlinks i l := rfl
@[simp] theorem State.setLink_vfs (s : State) (i : Nat) (l : LinkDir) :
    (s.setLink i l).vfs = s.vfs := rfl
@[simp] theorem State.setLink_dist (s : State) (i : Nat) (l : LinkDir) :
    (s.setLink i l).dist = s.dist := rfl
@[simp] theorem State.setLink_fwc (s : State) (i : Nat) (l : LinkDir) :
    (s.setLink i l).fwc = s.fwc := rfl
@[simp] theorem State.setLink_eva (s : State) (i : Nat) (l : LinkDir) :
    (s.setLink i l).eva = s.eva := rfl
@[simp] theorem State.setLink_sel (s : State) (i : Nat) (l : LinkDir) :
    (s.setLink i l).sel = s.sel := rfl
@[simp] theorem State.setLink_inbox (s : State) (i : Nat) (l : LinkDir) :
    (s.setLink i l).inbox = s.inbox := rfl
@[simp] theorem State.setLink_agenda (s : State) (i : Nat) (l : LinkDir) :
    (s.setLink i l).agenda = s.agenda := rfl
@[simp] theorem State.setLink_turn (s : State) (i : Nat) (l : LinkDir) :
    (s.setLink i l).turn = s.turn := rfl
@[simp] theorem State.setLink_choices (s : State) (i : Nat) (l : LinkDir) :
    (s.setLink i l).choices = s.choices := rfl
@[simp] theorem State.setLink_frees (s : State) (i : Nat) (l : LinkDir) :
    (s.setLink i l).frees = s.frees := rfl

@[simp] theorem State.setLaunch_clk (s : State) (l : Nat) (x : Launch) :
    (s.setLaunch l x).clk = s.clk := rfl
@[simp] theorem State.setLaunch_booted (s : State) (l : Nat) (x : Launch) :
    (s.setLaunch l x).booted = s.booted := rfl
@[simp] theorem State.setLaunch_mem (s : State) (l : Nat) (x : Launch) :
    (s.setLaunch l x).mem = s.mem := rfl
@[simp] theorem State.setLaunch_poison (s : State) (l : Nat) (x : Launch) :
    (s.setLaunch l x).poison = s.poison := rfl
@[simp] theorem State.setLaunch_noise (s : State) (l : Nat) (x : Launch) :
    (s.setLaunch l x).noise = s.noise := rfl
@[simp] theorem State.setLaunch_oldCode (s : State) (l : Nat) (x : Launch) :
    (s.setLaunch l x).oldCode = s.oldCode := rfl
@[simp] theorem State.setLaunch_codecBusy (s : State) (l : Nat) (x : Launch) :
    (s.setLaunch l x).codecBusy = s.codecBusy := rfl
@[simp] theorem State.setLaunch_l1own (s : State) (l : Nat) (x : Launch) :
    (s.setLaunch l x).l1own = s.l1own := rfl
@[simp] theorem State.setLaunch_cores (s : State) (l : Nat) (x : Launch) :
    (s.setLaunch l x).cores = s.cores := rfl
@[simp] theorem State.setLaunch_dies (s : State) (l : Nat) (x : Launch) :
    (s.setLaunch l x).dies = s.dies := rfl
@[simp] theorem State.setLaunch_dlinks (s : State) (l : Nat) (x : Launch) :
    (s.setLaunch l x).dlinks = s.dlinks := rfl
@[simp] theorem State.setLaunch_vfs (s : State) (l : Nat) (x : Launch) :
    (s.setLaunch l x).vfs = s.vfs := rfl
@[simp] theorem State.setLaunch_dist (s : State) (l : Nat) (x : Launch) :
    (s.setLaunch l x).dist = { s.dist with launches := KMap.put s.dist.launches l x } := rfl
@[simp] theorem State.setLaunch_fwc (s : State) (l : Nat) (x : Launch) :
    (s.setLaunch l x).fwc = s.fwc := rfl
@[simp] theorem State.setLaunch_eva (s : State) (l : Nat) (x : Launch) :
    (s.setLaunch l x).eva = s.eva := rfl
@[simp] theorem State.setLaunch_sel (s : State) (l : Nat) (x : Launch) :
    (s.setLaunch l x).sel = s.sel := rfl
@[simp] theorem State.setLaunch_inbox (s : State) (l : Nat) (x : Launch) :
    (s.setLaunch l x).inbox = s.inbox := rfl
@[simp] theorem State.setLaunch_agenda (s : State) (l : Nat) (x : Launch) :
    (s.setLaunch l x).agenda = s.agenda := rfl
@[simp] theorem State.setLaunch_turn (s : State) (l : Nat) (x : Launch) :
    (s.setLaunch l x).turn = s.turn := rfl
@[simp] theorem State.setLaunch_choices (s : State) (l : Nat) (x : Launch) :
    (s.setLaunch l x).choices = s.choices := rfl
@[simp] theorem State.setLaunch_frees (s : State) (l : Nat) (x : Launch) :
    (s.setLaunch l x).frees = s.frees := rfl

@[simp] theorem State.setQueue_clk (s : State) (q : Nat) (x : CmdQueue) :
    (s.setQueue q x).clk = s.clk := rfl
@[simp] theorem State.setQueue_booted (s : State) (q : Nat) (x : CmdQueue) :
    (s.setQueue q x).booted = s.booted := rfl
@[simp] theorem State.setQueue_mem (s : State) (q : Nat) (x : CmdQueue) :
    (s.setQueue q x).mem = s.mem := rfl
@[simp] theorem State.setQueue_poison (s : State) (q : Nat) (x : CmdQueue) :
    (s.setQueue q x).poison = s.poison := rfl
@[simp] theorem State.setQueue_noise (s : State) (q : Nat) (x : CmdQueue) :
    (s.setQueue q x).noise = s.noise := rfl
@[simp] theorem State.setQueue_oldCode (s : State) (q : Nat) (x : CmdQueue) :
    (s.setQueue q x).oldCode = s.oldCode := rfl
@[simp] theorem State.setQueue_codecBusy (s : State) (q : Nat) (x : CmdQueue) :
    (s.setQueue q x).codecBusy = s.codecBusy := rfl
@[simp] theorem State.setQueue_l1own (s : State) (q : Nat) (x : CmdQueue) :
    (s.setQueue q x).l1own = s.l1own := rfl
@[simp] theorem State.setQueue_cores (s : State) (q : Nat) (x : CmdQueue) :
    (s.setQueue q x).cores = s.cores := rfl
@[simp] theorem State.setQueue_dies (s : State) (q : Nat) (x : CmdQueue) :
    (s.setQueue q x).dies = s.dies := rfl
@[simp] theorem State.setQueue_dlinks (s : State) (q : Nat) (x : CmdQueue) :
    (s.setQueue q x).dlinks = s.dlinks := rfl
@[simp] theorem State.setQueue_vfs (s : State) (q : Nat) (x : CmdQueue) :
    (s.setQueue q x).vfs = s.vfs := rfl
@[simp] theorem State.setQueue_dist (s : State) (q : Nat) (x : CmdQueue) :
    (s.setQueue q x).dist = { s.dist with queues := KMap.put s.dist.queues q x } := rfl
@[simp] theorem State.setQueue_fwc (s : State) (q : Nat) (x : CmdQueue) :
    (s.setQueue q x).fwc = s.fwc := rfl
@[simp] theorem State.setQueue_eva (s : State) (q : Nat) (x : CmdQueue) :
    (s.setQueue q x).eva = s.eva := rfl
@[simp] theorem State.setQueue_sel (s : State) (q : Nat) (x : CmdQueue) :
    (s.setQueue q x).sel = s.sel := rfl
@[simp] theorem State.setQueue_inbox (s : State) (q : Nat) (x : CmdQueue) :
    (s.setQueue q x).inbox = s.inbox := rfl
@[simp] theorem State.setQueue_agenda (s : State) (q : Nat) (x : CmdQueue) :
    (s.setQueue q x).agenda = s.agenda := rfl
@[simp] theorem State.setQueue_turn (s : State) (q : Nat) (x : CmdQueue) :
    (s.setQueue q x).turn = s.turn := rfl
@[simp] theorem State.setQueue_choices (s : State) (q : Nat) (x : CmdQueue) :
    (s.setQueue q x).choices = s.choices := rfl
@[simp] theorem State.setQueue_frees (s : State) (q : Nat) (x : CmdQueue) :
    (s.setQueue q x).frees = s.frees := rfl

@[simp] theorem State.setFw_clk (s : State) (f : Nat) (x : FwCore) :
    (s.setFw f x).clk = s.clk := rfl
@[simp] theorem State.setFw_booted (s : State) (f : Nat) (x : FwCore) :
    (s.setFw f x).booted = s.booted := rfl
@[simp] theorem State.setFw_mem (s : State) (f : Nat) (x : FwCore) :
    (s.setFw f x).mem = s.mem := rfl
@[simp] theorem State.setFw_poison (s : State) (f : Nat) (x : FwCore) :
    (s.setFw f x).poison = s.poison := rfl
@[simp] theorem State.setFw_noise (s : State) (f : Nat) (x : FwCore) :
    (s.setFw f x).noise = s.noise := rfl
@[simp] theorem State.setFw_oldCode (s : State) (f : Nat) (x : FwCore) :
    (s.setFw f x).oldCode = s.oldCode := rfl
@[simp] theorem State.setFw_codecBusy (s : State) (f : Nat) (x : FwCore) :
    (s.setFw f x).codecBusy = s.codecBusy := rfl
@[simp] theorem State.setFw_l1own (s : State) (f : Nat) (x : FwCore) :
    (s.setFw f x).l1own = s.l1own := rfl
@[simp] theorem State.setFw_cores (s : State) (f : Nat) (x : FwCore) :
    (s.setFw f x).cores = s.cores := rfl
@[simp] theorem State.setFw_dies (s : State) (f : Nat) (x : FwCore) :
    (s.setFw f x).dies = s.dies := rfl
@[simp] theorem State.setFw_dlinks (s : State) (f : Nat) (x : FwCore) :
    (s.setFw f x).dlinks = s.dlinks := rfl
@[simp] theorem State.setFw_vfs (s : State) (f : Nat) (x : FwCore) :
    (s.setFw f x).vfs = s.vfs := rfl
@[simp] theorem State.setFw_dist (s : State) (f : Nat) (x : FwCore) :
    (s.setFw f x).dist = s.dist := rfl
@[simp] theorem State.setFw_fwc (s : State) (f : Nat) (x : FwCore) :
    (s.setFw f x).fwc = { s.fwc with cores := setAt s.fwc.cores f x, modes := setAt s.fwc.modes f (if x = .running then .supervisor else .machine) } := rfl
@[simp] theorem State.setFw_eva (s : State) (f : Nat) (x : FwCore) :
    (s.setFw f x).eva = s.eva := rfl
@[simp] theorem State.setFw_sel (s : State) (f : Nat) (x : FwCore) :
    (s.setFw f x).sel = s.sel := rfl
@[simp] theorem State.setFw_inbox (s : State) (f : Nat) (x : FwCore) :
    (s.setFw f x).inbox = s.inbox := rfl
@[simp] theorem State.setFw_agenda (s : State) (f : Nat) (x : FwCore) :
    (s.setFw f x).agenda = s.agenda := rfl
@[simp] theorem State.setFw_turn (s : State) (f : Nat) (x : FwCore) :
    (s.setFw f x).turn = s.turn := rfl
@[simp] theorem State.setFw_choices (s : State) (f : Nat) (x : FwCore) :
    (s.setFw f x).choices = s.choices := rfl
@[simp] theorem State.setFw_frees (s : State) (f : Nat) (x : FwCore) :
    (s.setFw f x).frees = s.frees := rfl

@[simp] theorem State.setSel_clk (s : State) (x : Sel) :
    (s.setSel x).clk = s.clk := rfl
@[simp] theorem State.setSel_booted (s : State) (x : Sel) :
    (s.setSel x).booted = s.booted := rfl
@[simp] theorem State.setSel_mem (s : State) (x : Sel) :
    (s.setSel x).mem = s.mem := rfl
@[simp] theorem State.setSel_poison (s : State) (x : Sel) :
    (s.setSel x).poison = s.poison := rfl
@[simp] theorem State.setSel_noise (s : State) (x : Sel) :
    (s.setSel x).noise = s.noise := rfl
@[simp] theorem State.setSel_oldCode (s : State) (x : Sel) :
    (s.setSel x).oldCode = s.oldCode := rfl
@[simp] theorem State.setSel_codecBusy (s : State) (x : Sel) :
    (s.setSel x).codecBusy = s.codecBusy := rfl
@[simp] theorem State.setSel_l1own (s : State) (x : Sel) :
    (s.setSel x).l1own = s.l1own := rfl
@[simp] theorem State.setSel_cores (s : State) (x : Sel) :
    (s.setSel x).cores = s.cores := rfl
@[simp] theorem State.setSel_dies (s : State) (x : Sel) :
    (s.setSel x).dies = s.dies := rfl
@[simp] theorem State.setSel_dlinks (s : State) (x : Sel) :
    (s.setSel x).dlinks = s.dlinks := rfl
@[simp] theorem State.setSel_vfs (s : State) (x : Sel) :
    (s.setSel x).vfs = s.vfs := rfl
@[simp] theorem State.setSel_dist (s : State) (x : Sel) :
    (s.setSel x).dist = s.dist := rfl
@[simp] theorem State.setSel_fwc (s : State) (x : Sel) :
    (s.setSel x).fwc = s.fwc := rfl
@[simp] theorem State.setSel_eva (s : State) (x : Sel) :
    (s.setSel x).eva = s.eva := rfl
@[simp] theorem State.setSel_sel (s : State) (x : Sel) :
    (s.setSel x).sel = x := rfl
@[simp] theorem State.setSel_inbox (s : State) (x : Sel) :
    (s.setSel x).inbox = s.inbox := rfl
@[simp] theorem State.setSel_agenda (s : State) (x : Sel) :
    (s.setSel x).agenda = s.agenda := rfl
@[simp] theorem State.setSel_turn (s : State) (x : Sel) :
    (s.setSel x).turn = s.turn := rfl
@[simp] theorem State.setSel_choices (s : State) (x : Sel) :
    (s.setSel x).choices = s.choices := rfl
@[simp] theorem State.setSel_frees (s : State) (x : Sel) :
    (s.setSel x).frees = s.frees := rfl

@[simp] theorem State.setLcr_clk (s : State) (l : Nat) (x : Lcr) :
    (s.setLcr l x).clk = s.clk := rfl
@[simp] theorem State.setLcr_booted (s : State) (l : Nat) (x : Lcr) :
    (s.setLcr l x).booted = s.booted := rfl
@[simp] theorem State.setLcr_mem (s : State) (l : Nat) (x : Lcr) :
    (s.setLcr l x).mem = s.mem := rfl
@[simp] theorem State.setLcr_poison (s : State) (l : Nat) (x : Lcr) :
    (s.setLcr l x).poison = s.poison := rfl
@[simp] theorem State.setLcr_noise (s : State) (l : Nat) (x : Lcr) :
    (s.setLcr l x).noise = s.noise := rfl
@[simp] theorem State.setLcr_oldCode (s : State) (l : Nat) (x : Lcr) :
    (s.setLcr l x).oldCode = s.oldCode := rfl
@[simp] theorem State.setLcr_codecBusy (s : State) (l : Nat) (x : Lcr) :
    (s.setLcr l x).codecBusy = s.codecBusy := rfl
@[simp] theorem State.setLcr_l1own (s : State) (l : Nat) (x : Lcr) :
    (s.setLcr l x).l1own = s.l1own := rfl
@[simp] theorem State.setLcr_cores (s : State) (l : Nat) (x : Lcr) :
    (s.setLcr l x).cores = s.cores := rfl
@[simp] theorem State.setLcr_dies (s : State) (l : Nat) (x : Lcr) :
    (s.setLcr l x).dies = s.dies := rfl
@[simp] theorem State.setLcr_dlinks (s : State) (l : Nat) (x : Lcr) :
    (s.setLcr l x).dlinks = s.dlinks := rfl
@[simp] theorem State.setLcr_vfs (s : State) (l : Nat) (x : Lcr) :
    (s.setLcr l x).vfs = s.vfs := rfl
@[simp] theorem State.setLcr_dist (s : State) (l : Nat) (x : Lcr) :
    (s.setLcr l x).dist = s.dist := rfl
@[simp] theorem State.setLcr_fwc (s : State) (l : Nat) (x : Lcr) :
    (s.setLcr l x).fwc = s.fwc := rfl
@[simp] theorem State.setLcr_eva (s : State) (l : Nat) (x : Lcr) :
    (s.setLcr l x).eva = s.eva := rfl
@[simp] theorem State.setLcr_sel (s : State) (l : Nat) (x : Lcr) :
    (s.setLcr l x).sel = { s.sel with lcrs := KMap.put s.sel.lcrs l x } := rfl
@[simp] theorem State.setLcr_inbox (s : State) (l : Nat) (x : Lcr) :
    (s.setLcr l x).inbox = s.inbox := rfl
@[simp] theorem State.setLcr_agenda (s : State) (l : Nat) (x : Lcr) :
    (s.setLcr l x).agenda = s.agenda := rfl
@[simp] theorem State.setLcr_turn (s : State) (l : Nat) (x : Lcr) :
    (s.setLcr l x).turn = s.turn := rfl
@[simp] theorem State.setLcr_choices (s : State) (l : Nat) (x : Lcr) :
    (s.setLcr l x).choices = s.choices := rfl
@[simp] theorem State.setLcr_frees (s : State) (l : Nat) (x : Lcr) :
    (s.setLcr l x).frees = s.frees := rfl

@[simp] theorem State.setSelHead_clk (s : State) (h : Nat) (x : Head) :
    (s.setSelHead h x).clk = s.clk := rfl
@[simp] theorem State.setSelHead_booted (s : State) (h : Nat) (x : Head) :
    (s.setSelHead h x).booted = s.booted := rfl
@[simp] theorem State.setSelHead_mem (s : State) (h : Nat) (x : Head) :
    (s.setSelHead h x).mem = s.mem := rfl
@[simp] theorem State.setSelHead_poison (s : State) (h : Nat) (x : Head) :
    (s.setSelHead h x).poison = s.poison := rfl
@[simp] theorem State.setSelHead_noise (s : State) (h : Nat) (x : Head) :
    (s.setSelHead h x).noise = s.noise := rfl
@[simp] theorem State.setSelHead_oldCode (s : State) (h : Nat) (x : Head) :
    (s.setSelHead h x).oldCode = s.oldCode := rfl
@[simp] theorem State.setSelHead_codecBusy (s : State) (h : Nat) (x : Head) :
    (s.setSelHead h x).codecBusy = s.codecBusy := rfl
@[simp] theorem State.setSelHead_l1own (s : State) (h : Nat) (x : Head) :
    (s.setSelHead h x).l1own = s.l1own := rfl
@[simp] theorem State.setSelHead_cores (s : State) (h : Nat) (x : Head) :
    (s.setSelHead h x).cores = s.cores := rfl
@[simp] theorem State.setSelHead_dies (s : State) (h : Nat) (x : Head) :
    (s.setSelHead h x).dies = s.dies := rfl
@[simp] theorem State.setSelHead_dlinks (s : State) (h : Nat) (x : Head) :
    (s.setSelHead h x).dlinks = s.dlinks := rfl
@[simp] theorem State.setSelHead_vfs (s : State) (h : Nat) (x : Head) :
    (s.setSelHead h x).vfs = s.vfs := rfl
@[simp] theorem State.setSelHead_dist (s : State) (h : Nat) (x : Head) :
    (s.setSelHead h x).dist = s.dist := rfl
@[simp] theorem State.setSelHead_fwc (s : State) (h : Nat) (x : Head) :
    (s.setSelHead h x).fwc = s.fwc := rfl
@[simp] theorem State.setSelHead_eva (s : State) (h : Nat) (x : Head) :
    (s.setSelHead h x).eva = s.eva := rfl
@[simp] theorem State.setSelHead_sel (s : State) (h : Nat) (x : Head) :
    (s.setSelHead h x).sel = { s.sel with heads := setAt s.sel.heads h x } := rfl
@[simp] theorem State.setSelHead_inbox (s : State) (h : Nat) (x : Head) :
    (s.setSelHead h x).inbox = s.inbox := rfl
@[simp] theorem State.setSelHead_agenda (s : State) (h : Nat) (x : Head) :
    (s.setSelHead h x).agenda = s.agenda := rfl
@[simp] theorem State.setSelHead_turn (s : State) (h : Nat) (x : Head) :
    (s.setSelHead h x).turn = s.turn := rfl
@[simp] theorem State.setSelHead_choices (s : State) (h : Nat) (x : Head) :
    (s.setSelHead h x).choices = s.choices := rfl
@[simp] theorem State.setSelHead_frees (s : State) (h : Nat) (x : Head) :
    (s.setSelHead h x).frees = s.frees := rfl

@[simp] theorem State.poke_clk (s : State) (a : Nat) (bs : List Byte) :
    (s.poke a bs).clk = s.clk := rfl
@[simp] theorem State.poke_booted (s : State) (a : Nat) (bs : List Byte) :
    (s.poke a bs).booted = s.booted := rfl
@[simp] theorem State.poke_mem (s : State) (a : Nat) (bs : List Byte) :
    (s.poke a bs).mem = Memory.write s.mem a bs := rfl
@[simp] theorem State.poke_poison (s : State) (a : Nat) (bs : List Byte) :
    (s.poke a bs).poison = s.poison := rfl
@[simp] theorem State.poke_noise (s : State) (a : Nat) (bs : List Byte) :
    (s.poke a bs).noise = s.noise := rfl
@[simp] theorem State.poke_oldCode (s : State) (a : Nat) (bs : List Byte) :
    (s.poke a bs).oldCode = s.oldCode := rfl
@[simp] theorem State.poke_codecBusy (s : State) (a : Nat) (bs : List Byte) :
    (s.poke a bs).codecBusy = s.codecBusy := rfl
@[simp] theorem State.poke_l1own (s : State) (a : Nat) (bs : List Byte) :
    (s.poke a bs).l1own = s.l1own := rfl
@[simp] theorem State.poke_cores (s : State) (a : Nat) (bs : List Byte) :
    (s.poke a bs).cores = s.cores := rfl
@[simp] theorem State.poke_dies (s : State) (a : Nat) (bs : List Byte) :
    (s.poke a bs).dies = s.dies := rfl
@[simp] theorem State.poke_dlinks (s : State) (a : Nat) (bs : List Byte) :
    (s.poke a bs).dlinks = s.dlinks := rfl
@[simp] theorem State.poke_vfs (s : State) (a : Nat) (bs : List Byte) :
    (s.poke a bs).vfs = s.vfs := rfl
@[simp] theorem State.poke_dist (s : State) (a : Nat) (bs : List Byte) :
    (s.poke a bs).dist = s.dist := rfl
@[simp] theorem State.poke_fwc (s : State) (a : Nat) (bs : List Byte) :
    (s.poke a bs).fwc = s.fwc := rfl
@[simp] theorem State.poke_eva (s : State) (a : Nat) (bs : List Byte) :
    (s.poke a bs).eva = s.eva := rfl
@[simp] theorem State.poke_sel (s : State) (a : Nat) (bs : List Byte) :
    (s.poke a bs).sel = s.sel := rfl
@[simp] theorem State.poke_inbox (s : State) (a : Nat) (bs : List Byte) :
    (s.poke a bs).inbox = s.inbox := rfl
@[simp] theorem State.poke_agenda (s : State) (a : Nat) (bs : List Byte) :
    (s.poke a bs).agenda = s.agenda := rfl
@[simp] theorem State.poke_turn (s : State) (a : Nat) (bs : List Byte) :
    (s.poke a bs).turn = s.turn := rfl
@[simp] theorem State.poke_choices (s : State) (a : Nat) (bs : List Byte) :
    (s.poke a bs).choices = s.choices := rfl
@[simp] theorem State.poke_frees (s : State) (a : Nat) (bs : List Byte) :
    (s.poke a bs).frees = s.frees := rfl

@[simp] theorem State.endTurn_clk (s : State) :
    (s.endTurn).clk = s.clk := rfl
@[simp] theorem State.endTurn_booted (s : State) :
    (s.endTurn).booted = s.booted := rfl
@[simp] theorem State.endTurn_mem (s : State) :
    (s.endTurn).mem = s.mem := rfl
@[simp] theorem State.endTurn_poison (s : State) :
    (s.endTurn).poison = s.poison := rfl
@[simp] theorem State.endTurn_noise (s : State) :
    (s.endTurn).noise = s.noise := rfl
@[simp] theorem State.endTurn_oldCode (s : State) :
    (s.endTurn).oldCode = s.oldCode := rfl
@[simp] theorem State.endTurn_codecBusy (s : State) :
    (s.endTurn).codecBusy = s.codecBusy := rfl
@[simp] theorem State.endTurn_l1own (s : State) :
    (s.endTurn).l1own = s.l1own := rfl
@[simp] theorem State.endTurn_cores (s : State) :
    (s.endTurn).cores = s.cores := rfl
@[simp] theorem State.endTurn_dies (s : State) :
    (s.endTurn).dies = s.dies := rfl
@[simp] theorem State.endTurn_dlinks (s : State) :
    (s.endTurn).dlinks = s.dlinks := rfl
@[simp] theorem State.endTurn_vfs (s : State) :
    (s.endTurn).vfs = s.vfs := rfl
@[simp] theorem State.endTurn_dist (s : State) :
    (s.endTurn).dist = s.dist := rfl
@[simp] theorem State.endTurn_fwc (s : State) :
    (s.endTurn).fwc = s.fwc := rfl
@[simp] theorem State.endTurn_eva (s : State) :
    (s.endTurn).eva = s.eva := rfl
@[simp] theorem State.endTurn_sel (s : State) :
    (s.endTurn).sel = s.sel := rfl
@[simp] theorem State.endTurn_inbox (s : State) :
    (s.endTurn).inbox = s.inbox := rfl
@[simp] theorem State.endTurn_agenda (s : State) :
    (s.endTurn).agenda = s.agenda := rfl
@[simp] theorem State.endTurn_turn (s : State) :
    (s.endTurn).turn = none := rfl
@[simp] theorem State.endTurn_choices (s : State) :
    (s.endTurn).choices = s.choices := rfl
@[simp] theorem State.endTurn_frees (s : State) :
    (s.endTurn).frees = s.frees := rfl

@[simp] theorem State.raise_keeps_clk (s : State) (src : Nat) (e : Event) :
    (s.raise src e).clk = s.clk := rfl
@[simp] theorem State.raise_keeps_booted (s : State) (src : Nat) (e : Event) :
    (s.raise src e).booted = s.booted := rfl
@[simp] theorem State.raise_keeps_mem (s : State) (src : Nat) (e : Event) :
    (s.raise src e).mem = s.mem := rfl
@[simp] theorem State.raise_keeps_poison (s : State) (src : Nat) (e : Event) :
    (s.raise src e).poison = s.poison := rfl
@[simp] theorem State.raise_keeps_noise (s : State) (src : Nat) (e : Event) :
    (s.raise src e).noise = s.noise := rfl
@[simp] theorem State.raise_keeps_oldCode (s : State) (src : Nat) (e : Event) :
    (s.raise src e).oldCode = s.oldCode := rfl
@[simp] theorem State.raise_keeps_codecBusy (s : State) (src : Nat) (e : Event) :
    (s.raise src e).codecBusy = s.codecBusy := rfl
@[simp] theorem State.raise_keeps_l1own (s : State) (src : Nat) (e : Event) :
    (s.raise src e).l1own = s.l1own := rfl
@[simp] theorem State.raise_keeps_cores (s : State) (src : Nat) (e : Event) :
    (s.raise src e).cores = s.cores := rfl
@[simp] theorem State.raise_keeps_dies (s : State) (src : Nat) (e : Event) :
    (s.raise src e).dies = s.dies := rfl
@[simp] theorem State.raise_keeps_dlinks (s : State) (src : Nat) (e : Event) :
    (s.raise src e).dlinks = s.dlinks := rfl
@[simp] theorem State.raise_keeps_vfs (s : State) (src : Nat) (e : Event) :
    (s.raise src e).vfs = s.vfs := rfl
@[simp] theorem State.raise_keeps_dist (s : State) (src : Nat) (e : Event) :
    (s.raise src e).dist = s.dist := rfl
@[simp] theorem State.raise_keeps_fwc (s : State) (src : Nat) (e : Event) :
    (s.raise src e).fwc = s.fwc := rfl
@[simp] theorem State.raise_keeps_sel (s : State) (src : Nat) (e : Event) :
    (s.raise src e).sel = s.sel := rfl
@[simp] theorem State.raise_keeps_inbox (s : State) (src : Nat) (e : Event) :
    (s.raise src e).inbox = s.inbox := rfl
@[simp] theorem State.raise_keeps_agenda (s : State) (src : Nat) (e : Event) :
    (s.raise src e).agenda = s.agenda := rfl
@[simp] theorem State.raise_keeps_turn (s : State) (src : Nat) (e : Event) :
    (s.raise src e).turn = s.turn := rfl
@[simp] theorem State.raise_keeps_choices (s : State) (src : Nat) (e : Event) :
    (s.raise src e).choices = s.choices := rfl
@[simp] theorem State.raise_keeps_frees (s : State) (src : Nat) (e : Event) :
    (s.raise src e).frees = s.frees := rfl

@[simp] theorem State.perfAdd_keeps_clk (s : State) (v i n : Nat) :
    (s.perfAdd v i n).clk = s.clk := rfl
@[simp] theorem State.perfAdd_keeps_booted (s : State) (v i n : Nat) :
    (s.perfAdd v i n).booted = s.booted := rfl
@[simp] theorem State.perfAdd_keeps_mem (s : State) (v i n : Nat) :
    (s.perfAdd v i n).mem = s.mem := rfl
@[simp] theorem State.perfAdd_keeps_poison (s : State) (v i n : Nat) :
    (s.perfAdd v i n).poison = s.poison := rfl
@[simp] theorem State.perfAdd_keeps_noise (s : State) (v i n : Nat) :
    (s.perfAdd v i n).noise = s.noise := rfl
@[simp] theorem State.perfAdd_keeps_oldCode (s : State) (v i n : Nat) :
    (s.perfAdd v i n).oldCode = s.oldCode := rfl
@[simp] theorem State.perfAdd_keeps_codecBusy (s : State) (v i n : Nat) :
    (s.perfAdd v i n).codecBusy = s.codecBusy := rfl
@[simp] theorem State.perfAdd_keeps_l1own (s : State) (v i n : Nat) :
    (s.perfAdd v i n).l1own = s.l1own := rfl
@[simp] theorem State.perfAdd_keeps_cores (s : State) (v i n : Nat) :
    (s.perfAdd v i n).cores = s.cores := rfl
@[simp] theorem State.perfAdd_keeps_dies (s : State) (v i n : Nat) :
    (s.perfAdd v i n).dies = s.dies := rfl
@[simp] theorem State.perfAdd_keeps_dlinks (s : State) (v i n : Nat) :
    (s.perfAdd v i n).dlinks = s.dlinks := rfl
@[simp] theorem State.perfAdd_keeps_dist (s : State) (v i n : Nat) :
    (s.perfAdd v i n).dist = s.dist := rfl
@[simp] theorem State.perfAdd_keeps_fwc (s : State) (v i n : Nat) :
    (s.perfAdd v i n).fwc = s.fwc := rfl
@[simp] theorem State.perfAdd_keeps_eva (s : State) (v i n : Nat) :
    (s.perfAdd v i n).eva = s.eva := rfl
@[simp] theorem State.perfAdd_keeps_sel (s : State) (v i n : Nat) :
    (s.perfAdd v i n).sel = s.sel := rfl
@[simp] theorem State.perfAdd_keeps_inbox (s : State) (v i n : Nat) :
    (s.perfAdd v i n).inbox = s.inbox := rfl
@[simp] theorem State.perfAdd_keeps_agenda (s : State) (v i n : Nat) :
    (s.perfAdd v i n).agenda = s.agenda := rfl
@[simp] theorem State.perfAdd_keeps_turn (s : State) (v i n : Nat) :
    (s.perfAdd v i n).turn = s.turn := rfl
@[simp] theorem State.perfAdd_keeps_choices (s : State) (v i n : Nat) :
    (s.perfAdd v i n).choices = s.choices := rfl
@[simp] theorem State.perfAdd_keeps_frees (s : State) (v i n : Nat) :
    (s.perfAdd v i n).frees = s.frees := rfl

/-! ## Updates of a core -/

@[simp] theorem Core.setGroup_usable (k : Core) (slot : Nat) (g : Group) :
    (k.setGroup slot g).usable = k.usable := rfl
@[simp] theorem Core.setGroup_lastVf (k : Core) (slot : Nat) (g : Group) :
    (k.setGroup slot g).lastVf = k.lastVf := rfl
@[simp] theorem Core.setGroup_regsPart (k : Core) (slot : Nat) (g : Group) :
    (k.setGroup slot g).regsPart = k.regsPart := rfl
@[simp] theorem Core.setGroup_accsPart (k : Core) (slot : Nat) (g : Group) :
    (k.setGroup slot g).accsPart = k.accsPart := rfl
@[simp] theorem Core.setGroup_eseCtl (k : Core) (slot : Nat) (g : Group) :
    (k.setGroup slot g).eseCtl = k.eseCtl := rfl
@[simp] theorem Core.setGroup_dbg (k : Core) (slot : Nat) (g : Group) :
    (k.setGroup slot g).dbg = k.dbg := rfl
@[simp] theorem Core.setGroup_quarters (k : Core) (slot : Nat) (g : Group) :
    (k.setGroup slot g).quarters = k.quarters := rfl
@[simp] theorem Core.setGroup_groups (k : Core) (slot : Nat) (g : Group) :
    (k.setGroup slot g).groups = KMap.put k.groups slot g := rfl
@[simp] theorem Core.setGroup_wgs (k : Core) (slot : Nat) (g : Group) :
    (k.setGroup slot g).wgs = k.wgs := rfl
@[simp] theorem Core.setGroup_nextWg (k : Core) (slot : Nat) (g : Group) :
    (k.setGroup slot g).nextWg = k.nextWg := rfl
@[simp] theorem Core.setGroup_frames (k : Core) (slot : Nat) (g : Group) :
    (k.setGroup slot g).frames = k.frames := rfl
@[simp] theorem Core.setGroup_nextFrame (k : Core) (slot : Nat) (g : Group) :
    (k.setGroup slot g).nextFrame = k.nextFrame := rfl
@[simp] theorem Core.setGroup_allocs (k : Core) (slot : Nat) (g : Group) :
    (k.setGroup slot g).allocs = k.allocs := rfl
@[simp] theorem Core.setGroup_lastFree (k : Core) (slot : Nat) (g : Group) :
    (k.setGroup slot g).lastFree = k.lastFree := rfl
@[simp] theorem Core.setGroup_scratch (k : Core) (slot : Nat) (g : Group) :
    (k.setGroup slot g).scratch = k.scratch := rfl
@[simp] theorem Core.setGroup_bstore (k : Core) (slot : Nat) (g : Group) :
    (k.setGroup slot g).bstore = k.bstore := rfl
@[simp] theorem Core.setGroup_acc (k : Core) (slot : Nat) (g : Group) :
    (k.setGroup slot g).acc = k.acc := rfl
@[simp] theorem Core.setGroup_accPoison (k : Core) (slot : Nat) (g : Group) :
    (k.setGroup slot g).accPoison = k.accPoison := rfl
@[simp] theorem Core.setGroup_scratchPoison (k : Core) (slot : Nat) (g : Group) :
    (k.setGroup slot g).scratchPoison = k.scratchPoison := rfl
@[simp] theorem Core.setGroup_bstorePoison (k : Core) (slot : Nat) (g : Group) :
    (k.setGroup slot g).bstorePoison = k.bstorePoison := rfl
@[simp] theorem Core.setGroup_traps (k : Core) (slot : Nat) (g : Group) :
    (k.setGroup slot g).traps = k.traps := rfl
@[simp] theorem Core.setGroup_trapRegs (k : Core) (slot : Nat) (g : Group) :
    (k.setGroup slot g).trapRegs = k.trapRegs := rfl
@[simp] theorem Core.setGroup_trapPoison (k : Core) (slot : Nat) (g : Group) :
    (k.setGroup slot g).trapPoison = k.trapPoison := rfl
@[simp] theorem Core.setGroup_spills (k : Core) (slot : Nat) (g : Group) :
    (k.setGroup slot g).spills = k.spills := rfl
@[simp] theorem Core.setGroup_nextSpill (k : Core) (slot : Nat) (g : Group) :
    (k.setGroup slot g).nextSpill = k.nextSpill := rfl
@[simp] theorem Core.setGroup_chans (k : Core) (slot : Nat) (g : Group) :
    (k.setGroup slot g).chans = k.chans := rfl
@[simp] theorem Core.setGroup_copy16s (k : Core) (slot : Nat) (g : Group) :
    (k.setGroup slot g).copy16s = k.copy16s := rfl
@[simp] theorem Core.setGroup_rings (k : Core) (slot : Nat) (g : Group) :
    (k.setGroup slot g).rings = k.rings := rfl
@[simp] theorem Core.setGroup_ctxs (k : Core) (slot : Nat) (g : Group) :
    (k.setGroup slot g).ctxs = k.ctxs := rfl
@[simp] theorem Core.setGroup_seqPtr (k : Core) (slot : Nat) (g : Group) :
    (k.setGroup slot g).seqPtr = k.seqPtr := rfl
@[simp] theorem Core.setGroup_launchQ (k : Core) (slot : Nat) (g : Group) :
    (k.setGroup slot g).launchQ = k.launchQ := rfl
@[simp] theorem Core.setGroup_draining (k : Core) (slot : Nat) (g : Group) :
    (k.setGroup slot g).draining = k.draining := rfl
@[simp] theorem Core.setGroup_outs (k : Core) (slot : Nat) (g : Group) :
    (k.setGroup slot g).outs = k.outs := rfl
@[simp] theorem Core.setGroup_nextId (k : Core) (slot : Nat) (g : Group) :
    (k.setGroup slot g).nextId = k.nextId := rfl
@[simp] theorem Core.setGroup_poisonLoads (k : Core) (slot : Nat) (g : Group) :
    (k.setGroup slot g).poisonLoads = k.poisonLoads := rfl
@[simp] theorem Core.setGroup_bankWrites (k : Core) (slot : Nat) (g : Group) :
    (k.setGroup slot g).bankWrites = k.bankWrites := rfl
@[simp] theorem Core.setGroup_latched (k : Core) (slot : Nat) (g : Group) :
    (k.setGroup slot g).latched = k.latched := rfl
@[simp] theorem Core.setGroup_tlb (k : Core) (slot : Nat) (g : Group) :
    (k.setGroup slot g).tlb = k.tlb := rfl
@[simp] theorem Core.setGroup_l1 (k : Core) (slot : Nat) (g : Group) :
    (k.setGroup slot g).l1 = k.l1 := rfl
@[simp] theorem Core.setGroup_atoms (k : Core) (slot : Nat) (g : Group) :
    (k.setGroup slot g).atoms = k.atoms := rfl

@[simp] theorem Core.setQuarter_usable (k : Core) (q : Nat) (x : Quarter) :
    (k.setQuarter q x).usable = k.usable := rfl
@[simp] theorem Core.setQuarter_lastVf (k : Core) (q : Nat) (x : Quarter) :
    (k.setQuarter q x).lastVf = k.lastVf := rfl
@[simp] theorem Core.setQuarter_regsPart (k : Core) (q : Nat) (x : Quarter) :
    (k.setQuarter q x).regsPart = k.regsPart := rfl
@[simp] theorem Core.setQuarter_accsPart (k : Core) (q : Nat) (x : Quarter) :
    (k.setQuarter q x).accsPart = k.accsPart := rfl
@[simp] theorem Core.setQuarter_eseCtl (k : Core) (q : Nat) (x : Quarter) :
    (k.setQuarter q x).eseCtl = k.eseCtl := rfl
@[simp] theorem Core.setQuarter_dbg (k : Core) (q : Nat) (x : Quarter) :
    (k.setQuarter q x).dbg = k.dbg := rfl
@[simp] theorem Core.setQuarter_quarters (k : Core) (q : Nat) (x : Quarter) :
    (k.setQuarter q x).quarters = setAt k.quarters q x := rfl
@[simp] theorem Core.setQuarter_groups (k : Core) (q : Nat) (x : Quarter) :
    (k.setQuarter q x).groups = k.groups := rfl
@[simp] theorem Core.setQuarter_wgs (k : Core) (q : Nat) (x : Quarter) :
    (k.setQuarter q x).wgs = k.wgs := rfl
@[simp] theorem Core.setQuarter_nextWg (k : Core) (q : Nat) (x : Quarter) :
    (k.setQuarter q x).nextWg = k.nextWg := rfl
@[simp] theorem Core.setQuarter_frames (k : Core) (q : Nat) (x : Quarter) :
    (k.setQuarter q x).frames = k.frames := rfl
@[simp] theorem Core.setQuarter_nextFrame (k : Core) (q : Nat) (x : Quarter) :
    (k.setQuarter q x).nextFrame = k.nextFrame := rfl
@[simp] theorem Core.setQuarter_allocs (k : Core) (q : Nat) (x : Quarter) :
    (k.setQuarter q x).allocs = k.allocs := rfl
@[simp] theorem Core.setQuarter_lastFree (k : Core) (q : Nat) (x : Quarter) :
    (k.setQuarter q x).lastFree = k.lastFree := rfl
@[simp] theorem Core.setQuarter_scratch (k : Core) (q : Nat) (x : Quarter) :
    (k.setQuarter q x).scratch = k.scratch := rfl
@[simp] theorem Core.setQuarter_bstore (k : Core) (q : Nat) (x : Quarter) :
    (k.setQuarter q x).bstore = k.bstore := rfl
@[simp] theorem Core.setQuarter_acc (k : Core) (q : Nat) (x : Quarter) :
    (k.setQuarter q x).acc = k.acc := rfl
@[simp] theorem Core.setQuarter_accPoison (k : Core) (q : Nat) (x : Quarter) :
    (k.setQuarter q x).accPoison = k.accPoison := rfl
@[simp] theorem Core.setQuarter_scratchPoison (k : Core) (q : Nat) (x : Quarter) :
    (k.setQuarter q x).scratchPoison = k.scratchPoison := rfl
@[simp] theorem Core.setQuarter_bstorePoison (k : Core) (q : Nat) (x : Quarter) :
    (k.setQuarter q x).bstorePoison = k.bstorePoison := rfl
@[simp] theorem Core.setQuarter_traps (k : Core) (q : Nat) (x : Quarter) :
    (k.setQuarter q x).traps = k.traps := rfl
@[simp] theorem Core.setQuarter_trapRegs (k : Core) (q : Nat) (x : Quarter) :
    (k.setQuarter q x).trapRegs = k.trapRegs := rfl
@[simp] theorem Core.setQuarter_trapPoison (k : Core) (q : Nat) (x : Quarter) :
    (k.setQuarter q x).trapPoison = k.trapPoison := rfl
@[simp] theorem Core.setQuarter_spills (k : Core) (q : Nat) (x : Quarter) :
    (k.setQuarter q x).spills = k.spills := rfl
@[simp] theorem Core.setQuarter_nextSpill (k : Core) (q : Nat) (x : Quarter) :
    (k.setQuarter q x).nextSpill = k.nextSpill := rfl
@[simp] theorem Core.setQuarter_chans (k : Core) (q : Nat) (x : Quarter) :
    (k.setQuarter q x).chans = k.chans := rfl
@[simp] theorem Core.setQuarter_copy16s (k : Core) (q : Nat) (x : Quarter) :
    (k.setQuarter q x).copy16s = k.copy16s := rfl
@[simp] theorem Core.setQuarter_rings (k : Core) (q : Nat) (x : Quarter) :
    (k.setQuarter q x).rings = k.rings := rfl
@[simp] theorem Core.setQuarter_ctxs (k : Core) (q : Nat) (x : Quarter) :
    (k.setQuarter q x).ctxs = k.ctxs := rfl
@[simp] theorem Core.setQuarter_seqPtr (k : Core) (q : Nat) (x : Quarter) :
    (k.setQuarter q x).seqPtr = k.seqPtr := rfl
@[simp] theorem Core.setQuarter_launchQ (k : Core) (q : Nat) (x : Quarter) :
    (k.setQuarter q x).launchQ = k.launchQ := rfl
@[simp] theorem Core.setQuarter_draining (k : Core) (q : Nat) (x : Quarter) :
    (k.setQuarter q x).draining = k.draining := rfl
@[simp] theorem Core.setQuarter_outs (k : Core) (q : Nat) (x : Quarter) :
    (k.setQuarter q x).outs = k.outs := rfl
@[simp] theorem Core.setQuarter_nextId (k : Core) (q : Nat) (x : Quarter) :
    (k.setQuarter q x).nextId = k.nextId := rfl
@[simp] theorem Core.setQuarter_poisonLoads (k : Core) (q : Nat) (x : Quarter) :
    (k.setQuarter q x).poisonLoads = k.poisonLoads := rfl
@[simp] theorem Core.setQuarter_bankWrites (k : Core) (q : Nat) (x : Quarter) :
    (k.setQuarter q x).bankWrites = k.bankWrites := rfl
@[simp] theorem Core.setQuarter_latched (k : Core) (q : Nat) (x : Quarter) :
    (k.setQuarter q x).latched = k.latched := rfl
@[simp] theorem Core.setQuarter_tlb (k : Core) (q : Nat) (x : Quarter) :
    (k.setQuarter q x).tlb = k.tlb := rfl
@[simp] theorem Core.setQuarter_l1 (k : Core) (q : Nat) (x : Quarter) :
    (k.setQuarter q x).l1 = k.l1 := rfl
@[simp] theorem Core.setQuarter_atoms (k : Core) (q : Nat) (x : Quarter) :
    (k.setQuarter q x).atoms = k.atoms := rfl

@[simp] theorem Core.setWg_usable (k : Core) (n : Nat) (w : Workgroup) :
    (k.setWg n w).usable = k.usable := rfl
@[simp] theorem Core.setWg_lastVf (k : Core) (n : Nat) (w : Workgroup) :
    (k.setWg n w).lastVf = k.lastVf := rfl
@[simp] theorem Core.setWg_regsPart (k : Core) (n : Nat) (w : Workgroup) :
    (k.setWg n w).regsPart = k.regsPart := rfl
@[simp] theorem Core.setWg_accsPart (k : Core) (n : Nat) (w : Workgroup) :
    (k.setWg n w).accsPart = k.accsPart := rfl
@[simp] theorem Core.setWg_eseCtl (k : Core) (n : Nat) (w : Workgroup) :
    (k.setWg n w).eseCtl = k.eseCtl := rfl
@[simp] theorem Core.setWg_dbg (k : Core) (n : Nat) (w : Workgroup) :
    (k.setWg n w).dbg = k.dbg := rfl
@[simp] theorem Core.setWg_quarters (k : Core) (n : Nat) (w : Workgroup) :
    (k.setWg n w).quarters = k.quarters := rfl
@[simp] theorem Core.setWg_groups (k : Core) (n : Nat) (w : Workgroup) :
    (k.setWg n w).groups = k.groups := rfl
@[simp] theorem Core.setWg_wgs (k : Core) (n : Nat) (w : Workgroup) :
    (k.setWg n w).wgs = KMap.put k.wgs n w := rfl
@[simp] theorem Core.setWg_nextWg (k : Core) (n : Nat) (w : Workgroup) :
    (k.setWg n w).nextWg = k.nextWg := rfl
@[simp] theorem Core.setWg_frames (k : Core) (n : Nat) (w : Workgroup) :
    (k.setWg n w).frames = k.frames := rfl
@[simp] theorem Core.setWg_nextFrame (k : Core) (n : Nat) (w : Workgroup) :
    (k.setWg n w).nextFrame = k.nextFrame := rfl
@[simp] theorem Core.setWg_allocs (k : Core) (n : Nat) (w : Workgroup) :
    (k.setWg n w).allocs = k.allocs := rfl
@[simp] theorem Core.setWg_lastFree (k : Core) (n : Nat) (w : Workgroup) :
    (k.setWg n w).lastFree = k.lastFree := rfl
@[simp] theorem Core.setWg_scratch (k : Core) (n : Nat) (w : Workgroup) :
    (k.setWg n w).scratch = k.scratch := rfl
@[simp] theorem Core.setWg_bstore (k : Core) (n : Nat) (w : Workgroup) :
    (k.setWg n w).bstore = k.bstore := rfl
@[simp] theorem Core.setWg_acc (k : Core) (n : Nat) (w : Workgroup) :
    (k.setWg n w).acc = k.acc := rfl
@[simp] theorem Core.setWg_accPoison (k : Core) (n : Nat) (w : Workgroup) :
    (k.setWg n w).accPoison = k.accPoison := rfl
@[simp] theorem Core.setWg_scratchPoison (k : Core) (n : Nat) (w : Workgroup) :
    (k.setWg n w).scratchPoison = k.scratchPoison := rfl
@[simp] theorem Core.setWg_bstorePoison (k : Core) (n : Nat) (w : Workgroup) :
    (k.setWg n w).bstorePoison = k.bstorePoison := rfl
@[simp] theorem Core.setWg_traps (k : Core) (n : Nat) (w : Workgroup) :
    (k.setWg n w).traps = k.traps := rfl
@[simp] theorem Core.setWg_trapRegs (k : Core) (n : Nat) (w : Workgroup) :
    (k.setWg n w).trapRegs = k.trapRegs := rfl
@[simp] theorem Core.setWg_trapPoison (k : Core) (n : Nat) (w : Workgroup) :
    (k.setWg n w).trapPoison = k.trapPoison := rfl
@[simp] theorem Core.setWg_spills (k : Core) (n : Nat) (w : Workgroup) :
    (k.setWg n w).spills = k.spills := rfl
@[simp] theorem Core.setWg_nextSpill (k : Core) (n : Nat) (w : Workgroup) :
    (k.setWg n w).nextSpill = k.nextSpill := rfl
@[simp] theorem Core.setWg_chans (k : Core) (n : Nat) (w : Workgroup) :
    (k.setWg n w).chans = k.chans := rfl
@[simp] theorem Core.setWg_copy16s (k : Core) (n : Nat) (w : Workgroup) :
    (k.setWg n w).copy16s = k.copy16s := rfl
@[simp] theorem Core.setWg_rings (k : Core) (n : Nat) (w : Workgroup) :
    (k.setWg n w).rings = k.rings := rfl
@[simp] theorem Core.setWg_ctxs (k : Core) (n : Nat) (w : Workgroup) :
    (k.setWg n w).ctxs = k.ctxs := rfl
@[simp] theorem Core.setWg_seqPtr (k : Core) (n : Nat) (w : Workgroup) :
    (k.setWg n w).seqPtr = k.seqPtr := rfl
@[simp] theorem Core.setWg_launchQ (k : Core) (n : Nat) (w : Workgroup) :
    (k.setWg n w).launchQ = k.launchQ := rfl
@[simp] theorem Core.setWg_draining (k : Core) (n : Nat) (w : Workgroup) :
    (k.setWg n w).draining = k.draining := rfl
@[simp] theorem Core.setWg_outs (k : Core) (n : Nat) (w : Workgroup) :
    (k.setWg n w).outs = k.outs := rfl
@[simp] theorem Core.setWg_nextId (k : Core) (n : Nat) (w : Workgroup) :
    (k.setWg n w).nextId = k.nextId := rfl
@[simp] theorem Core.setWg_poisonLoads (k : Core) (n : Nat) (w : Workgroup) :
    (k.setWg n w).poisonLoads = k.poisonLoads := rfl
@[simp] theorem Core.setWg_bankWrites (k : Core) (n : Nat) (w : Workgroup) :
    (k.setWg n w).bankWrites = k.bankWrites := rfl
@[simp] theorem Core.setWg_latched (k : Core) (n : Nat) (w : Workgroup) :
    (k.setWg n w).latched = k.latched := rfl
@[simp] theorem Core.setWg_tlb (k : Core) (n : Nat) (w : Workgroup) :
    (k.setWg n w).tlb = k.tlb := rfl
@[simp] theorem Core.setWg_l1 (k : Core) (n : Nat) (w : Workgroup) :
    (k.setWg n w).l1 = k.l1 := rfl
@[simp] theorem Core.setWg_atoms (k : Core) (n : Nat) (w : Workgroup) :
    (k.setWg n w).atoms = k.atoms := rfl

@[simp] theorem Core.setChan_usable (k : Core) (ch : Nat) (x : CopyChan) :
    (k.setChan ch x).usable = k.usable := rfl
@[simp] theorem Core.setChan_lastVf (k : Core) (ch : Nat) (x : CopyChan) :
    (k.setChan ch x).lastVf = k.lastVf := rfl
@[simp] theorem Core.setChan_regsPart (k : Core) (ch : Nat) (x : CopyChan) :
    (k.setChan ch x).regsPart = k.regsPart := rfl
@[simp] theorem Core.setChan_accsPart (k : Core) (ch : Nat) (x : CopyChan) :
    (k.setChan ch x).accsPart = k.accsPart := rfl
@[simp] theorem Core.setChan_eseCtl (k : Core) (ch : Nat) (x : CopyChan) :
    (k.setChan ch x).eseCtl = k.eseCtl := rfl
@[simp] theorem Core.setChan_dbg (k : Core) (ch : Nat) (x : CopyChan) :
    (k.setChan ch x).dbg = k.dbg := rfl
@[simp] theorem Core.setChan_quarters (k : Core) (ch : Nat) (x : CopyChan) :
    (k.setChan ch x).quarters = k.quarters := rfl
@[simp] theorem Core.setChan_groups (k : Core) (ch : Nat) (x : CopyChan) :
    (k.setChan ch x).groups = k.groups := rfl
@[simp] theorem Core.setChan_wgs (k : Core) (ch : Nat) (x : CopyChan) :
    (k.setChan ch x).wgs = k.wgs := rfl
@[simp] theorem Core.setChan_nextWg (k : Core) (ch : Nat) (x : CopyChan) :
    (k.setChan ch x).nextWg = k.nextWg := rfl
@[simp] theorem Core.setChan_frames (k : Core) (ch : Nat) (x : CopyChan) :
    (k.setChan ch x).frames = k.frames := rfl
@[simp] theorem Core.setChan_nextFrame (k : Core) (ch : Nat) (x : CopyChan) :
    (k.setChan ch x).nextFrame = k.nextFrame := rfl
@[simp] theorem Core.setChan_allocs (k : Core) (ch : Nat) (x : CopyChan) :
    (k.setChan ch x).allocs = k.allocs := rfl
@[simp] theorem Core.setChan_lastFree (k : Core) (ch : Nat) (x : CopyChan) :
    (k.setChan ch x).lastFree = k.lastFree := rfl
@[simp] theorem Core.setChan_scratch (k : Core) (ch : Nat) (x : CopyChan) :
    (k.setChan ch x).scratch = k.scratch := rfl
@[simp] theorem Core.setChan_bstore (k : Core) (ch : Nat) (x : CopyChan) :
    (k.setChan ch x).bstore = k.bstore := rfl
@[simp] theorem Core.setChan_acc (k : Core) (ch : Nat) (x : CopyChan) :
    (k.setChan ch x).acc = k.acc := rfl
@[simp] theorem Core.setChan_accPoison (k : Core) (ch : Nat) (x : CopyChan) :
    (k.setChan ch x).accPoison = k.accPoison := rfl
@[simp] theorem Core.setChan_scratchPoison (k : Core) (ch : Nat) (x : CopyChan) :
    (k.setChan ch x).scratchPoison = k.scratchPoison := rfl
@[simp] theorem Core.setChan_bstorePoison (k : Core) (ch : Nat) (x : CopyChan) :
    (k.setChan ch x).bstorePoison = k.bstorePoison := rfl
@[simp] theorem Core.setChan_traps (k : Core) (ch : Nat) (x : CopyChan) :
    (k.setChan ch x).traps = k.traps := rfl
@[simp] theorem Core.setChan_trapRegs (k : Core) (ch : Nat) (x : CopyChan) :
    (k.setChan ch x).trapRegs = k.trapRegs := rfl
@[simp] theorem Core.setChan_trapPoison (k : Core) (ch : Nat) (x : CopyChan) :
    (k.setChan ch x).trapPoison = k.trapPoison := rfl
@[simp] theorem Core.setChan_spills (k : Core) (ch : Nat) (x : CopyChan) :
    (k.setChan ch x).spills = k.spills := rfl
@[simp] theorem Core.setChan_nextSpill (k : Core) (ch : Nat) (x : CopyChan) :
    (k.setChan ch x).nextSpill = k.nextSpill := rfl
@[simp] theorem Core.setChan_chans (k : Core) (ch : Nat) (x : CopyChan) :
    (k.setChan ch x).chans = KMap.put k.chans ch x := rfl
@[simp] theorem Core.setChan_copy16s (k : Core) (ch : Nat) (x : CopyChan) :
    (k.setChan ch x).copy16s = k.copy16s := rfl
@[simp] theorem Core.setChan_rings (k : Core) (ch : Nat) (x : CopyChan) :
    (k.setChan ch x).rings = k.rings := rfl
@[simp] theorem Core.setChan_ctxs (k : Core) (ch : Nat) (x : CopyChan) :
    (k.setChan ch x).ctxs = k.ctxs := rfl
@[simp] theorem Core.setChan_seqPtr (k : Core) (ch : Nat) (x : CopyChan) :
    (k.setChan ch x).seqPtr = k.seqPtr := rfl
@[simp] theorem Core.setChan_launchQ (k : Core) (ch : Nat) (x : CopyChan) :
    (k.setChan ch x).launchQ = k.launchQ := rfl
@[simp] theorem Core.setChan_draining (k : Core) (ch : Nat) (x : CopyChan) :
    (k.setChan ch x).draining = k.draining := rfl
@[simp] theorem Core.setChan_outs (k : Core) (ch : Nat) (x : CopyChan) :
    (k.setChan ch x).outs = k.outs := rfl
@[simp] theorem Core.setChan_nextId (k : Core) (ch : Nat) (x : CopyChan) :
    (k.setChan ch x).nextId = k.nextId := rfl
@[simp] theorem Core.setChan_poisonLoads (k : Core) (ch : Nat) (x : CopyChan) :
    (k.setChan ch x).poisonLoads = k.poisonLoads := rfl
@[simp] theorem Core.setChan_bankWrites (k : Core) (ch : Nat) (x : CopyChan) :
    (k.setChan ch x).bankWrites = k.bankWrites := rfl
@[simp] theorem Core.setChan_latched (k : Core) (ch : Nat) (x : CopyChan) :
    (k.setChan ch x).latched = k.latched := rfl
@[simp] theorem Core.setChan_tlb (k : Core) (ch : Nat) (x : CopyChan) :
    (k.setChan ch x).tlb = k.tlb := rfl
@[simp] theorem Core.setChan_l1 (k : Core) (ch : Nat) (x : CopyChan) :
    (k.setChan ch x).l1 = k.l1 := rfl
@[simp] theorem Core.setChan_atoms (k : Core) (ch : Nat) (x : CopyChan) :
    (k.setChan ch x).atoms = k.atoms := rfl

/-! ## Updates of a die -/

@[simp] theorem Die.setSlice_pway (x : Die) (j : Nat) (y : Slice) :
    (x.setSlice j y).pway = x.pway := rfl
@[simp] theorem Die.setSlice_vfway (x : Die) (j : Nat) (y : Slice) :
    (x.setSlice j y).vfway = x.vfway := rfl
@[simp] theorem Die.setSlice_wmstat (x : Die) (j : Nat) (y : Slice) :
    (x.setSlice j y).wmstat = x.wmstat := rfl
@[simp] theorem Die.setSlice_seqto (x : Die) (j : Nat) (y : Slice) :
    (x.setSlice j y).seqto = x.seqto := rfl
@[simp] theorem Die.setSlice_fabCtl (x : Die) (j : Nat) (y : Slice) :
    (x.setSlice j y).fabCtl = x.fabCtl := rfl
@[simp] theorem Die.setSlice_memcScrub (x : Die) (j : Nat) (y : Slice) :
    (x.setSlice j y).memcScrub = x.memcScrub := rfl
@[simp] theorem Die.setSlice_slices (x : Die) (j : Nat) (y : Slice) :
    (x.setSlice j y).slices = KMap.put x.slices j y := rfl
@[simp] theorem Die.setSlice_flits (x : Die) (j : Nat) (y : Slice) :
    (x.setSlice j y).flits = x.flits := rfl
@[simp] theorem Die.setSlice_links (x : Die) (j : Nat) (y : Slice) :
    (x.setSlice j y).links = x.links := rfl
@[simp] theorem Die.setSlice_tlb (x : Die) (j : Nat) (y : Slice) :
    (x.setSlice j y).tlb = x.tlb := rfl
@[simp] theorem Die.setSlice_vec (x : Die) (j : Nat) (y : Slice) :
    (x.setSlice j y).vec = x.vec := rfl
@[simp] theorem Die.setSlice_recv (x : Die) (j : Nat) (y : Slice) :
    (x.setSlice j y).recv = x.recv := rfl
@[simp] theorem Die.setSlice_sent (x : Die) (j : Nat) (y : Slice) :
    (x.setSlice j y).sent = x.sent := rfl
@[simp] theorem Die.setSlice_sentAt (x : Die) (j : Nat) (y : Slice) :
    (x.setSlice j y).sentAt = x.sentAt := rfl
@[simp] theorem Die.setSlice_unapplied (x : Die) (j : Nat) (y : Slice) :
    (x.setSlice j y).unapplied = x.unapplied := rfl
@[simp] theorem Die.setSlice_signals (x : Die) (j : Nat) (y : Slice) :
    (x.setSlice j y).signals = x.signals := rfl
@[simp] theorem Die.setSlice_heldMsgs (x : Die) (j : Nat) (y : Slice) :
    (x.setSlice j y).heldMsgs = x.heldMsgs := rfl
@[simp] theorem Die.setSlice_tqc (x : Die) (j : Nat) (y : Slice) :
    (x.setSlice j y).tqc = x.tqc := rfl
@[simp] theorem Die.setSlice_lost (x : Die) (j : Nat) (y : Slice) :
    (x.setSlice j y).lost = x.lost := rfl

@[simp] theorem Die.setRLink_pway (x : Die) (key : Nat) (l : RLink) :
    (x.setRLink key l).pway = x.pway := rfl
@[simp] theorem Die.setRLink_vfway (x : Die) (key : Nat) (l : RLink) :
    (x.setRLink key l).vfway = x.vfway := rfl
@[simp] theorem Die.setRLink_wmstat (x : Die) (key : Nat) (l : RLink) :
    (x.setRLink key l).wmstat = x.wmstat := rfl
@[simp] theorem Die.setRLink_seqto (x : Die) (key : Nat) (l : RLink) :
    (x.setRLink key l).seqto = x.seqto := rfl
@[simp] theorem Die.setRLink_fabCtl (x : Die) (key : Nat) (l : RLink) :
    (x.setRLink key l).fabCtl = x.fabCtl := rfl
@[simp] theorem Die.setRLink_memcScrub (x : Die) (key : Nat) (l : RLink) :
    (x.setRLink key l).memcScrub = x.memcScrub := rfl
@[simp] theorem Die.setRLink_slices (x : Die) (key : Nat) (l : RLink) :
    (x.setRLink key l).slices = x.slices := rfl
@[simp] theorem Die.setRLink_flits (x : Die) (key : Nat) (l : RLink) :
    (x.setRLink key l).flits = x.flits := rfl
@[simp] theorem Die.setRLink_links (x : Die) (key : Nat) (l : RLink) :
    (x.setRLink key l).links = KMap.put x.links key l := rfl
@[simp] theorem Die.setRLink_tlb (x : Die) (key : Nat) (l : RLink) :
    (x.setRLink key l).tlb = x.tlb := rfl
@[simp] theorem Die.setRLink_vec (x : Die) (key : Nat) (l : RLink) :
    (x.setRLink key l).vec = x.vec := rfl
@[simp] theorem Die.setRLink_recv (x : Die) (key : Nat) (l : RLink) :
    (x.setRLink key l).recv = x.recv := rfl
@[simp] theorem Die.setRLink_sent (x : Die) (key : Nat) (l : RLink) :
    (x.setRLink key l).sent = x.sent := rfl
@[simp] theorem Die.setRLink_sentAt (x : Die) (key : Nat) (l : RLink) :
    (x.setRLink key l).sentAt = x.sentAt := rfl
@[simp] theorem Die.setRLink_unapplied (x : Die) (key : Nat) (l : RLink) :
    (x.setRLink key l).unapplied = x.unapplied := rfl
@[simp] theorem Die.setRLink_signals (x : Die) (key : Nat) (l : RLink) :
    (x.setRLink key l).signals = x.signals := rfl
@[simp] theorem Die.setRLink_heldMsgs (x : Die) (key : Nat) (l : RLink) :
    (x.setRLink key l).heldMsgs = x.heldMsgs := rfl
@[simp] theorem Die.setRLink_tqc (x : Die) (key : Nat) (l : RLink) :
    (x.setRLink key l).tqc = x.tqc := rfl
@[simp] theorem Die.setRLink_lost (x : Die) (key : Nat) (l : RLink) :
    (x.setRLink key l).lost = x.lost := rfl

/-! ## Updates of a group -/

@[simp] theorem Group.setEntry_launch (g : Group) (e : Entry) :
    (g.setEntry e).launch = g.launch := rfl
@[simp] theorem Group.setEntry_wg (g : Group) (e : Entry) :
    (g.setEntry e).wg = g.wg := rfl
@[simp] theorem Group.setEntry_vf (g : Group) (e : Entry) :
    (g.setEntry e).vf = g.vf := rfl
@[simp] theorem Group.setEntry_wid (g : Group) (e : Entry) :
    (g.setEntry e).wid = g.wid := rfl
@[simp] theorem Group.setEntry_task (g : Group) (e : Entry) :
    (g.setEntry e).task = g.task := rfl
@[simp] theorem Group.setEntry_entries (g : Group) (e : Entry) :
    (g.setEntry e).entries = g.entries.map fun x => if x.id = e.id then e else x := rfl
@[simp] theorem Group.setEntry_items (g : Group) (e : Entry) :
    (g.setEntry e).items = g.items := rfl
@[simp] theorem Group.setEntry_nextItem (g : Group) (e : Entry) :
    (g.setEntry e).nextItem = g.nextItem := rfl
@[simp] theorem Group.setEntry_preds (g : Group) (e : Entry) :
    (g.setEntry e).preds = g.preds := rfl
@[simp] theorem Group.setEntry_pend (g : Group) (e : Entry) :
    (g.setEntry e).pend = g.pend := rfl
@[simp] theorem Group.setEntry_dbg (g : Group) (e : Entry) :
    (g.setEntry e).dbg = g.dbg := rfl
@[simp] theorem Group.setEntry_bkpt (g : Group) (e : Entry) :
    (g.setEntry e).bkpt = g.bkpt := rfl
@[simp] theorem Group.setEntry_spilled (g : Group) (e : Entry) :
    (g.setEntry e).spilled = g.spilled := rfl
@[simp] theorem Group.setEntry_forced (g : Group) (e : Entry) :
    (g.setEntry e).forced = g.forced := rfl
@[simp] theorem Group.setEntry_parking (g : Group) (e : Entry) :
    (g.setEntry e).parking = g.parking := rfl

end Sys2Proof.Machine
end

