-- ==== Sys2Proof/Tests/Slice0.lean ====
section
/-! SUPPORT. Tests: words written out from the spec's encodings (R160-R174, R245, R246, R309, R314, R323, R325, R336), one
ill-formed term for each check, the state after reset, and a few results that the spec works out. -/

-- One test after another: many that wait for the kernel at once take more threads than the sandbox has memory for.
set_option Elab.async false

namespace Sys2Proof.Tests

open Sys2Proof Sys2Proof.Machine

/-! ## Decoding: every opcode of the spec's tables, every field of its format

In each compute word [55:48] is 0x3D: STALL 3, PN 1, PRED 5 (R160), and D, A are 1 and 2. -/

def gd : Guard := { stall := 3, pn := true, pred := 5 }

/-- `P` holds for each of the list. -/
def All {α : Type} (P : α → Prop) : List α → Prop
  | [] => True
  | x :: t => P x ∧ All P t

/-- Each opcode of the list, in a word whose other bytes are `low`, decodes to the instruction beside it. -/
def Reads (st : Stream) (low : List Byte) (l : List (Byte × Instr)) : Prop :=
  All (fun p => decode st (low ++ [p.1]) = .ok (p.2, [])) l

/-- The modifier 0x69D5: BI, TYPE 10, RM 3, NA, NC, FUNC 5 (R165). -/
def v3 : V3 :=
  { g := gd, d := 1, a := 2, b := 3, c := 4, lit := false, bi := true, ty := 10, rm := 3, na := true, nb := false, nc := true
    aa := false, func := 5, literal := 0 }
def vi : VI := { g := gd, d := 1, a := 2, b := 3, imm8 := 4, imm16 := 0xBEEF, literal := 0 }
/-- The memory control 0xB4: SCOPE 5, ORD 2, SIZE 4 (R168). -/
def mf : MF := { g := gd, d := 1, a := 2, b := 3, scope := 5, ord := 2, size := 4, imm16 := 0x8010 }
/-- The gather control 0xAB1D: IW 2, ISG, SCL 5, SIZE 4, SCOPE 3, ORD 2, bit 0 (R170). -/
def xf : XF :=
  { g := gd, d := 1, a := 2, b := 3, c := 4, iw := 2, isg := true, scl := 5, size := 4, scope := 3, ord := 2, rsv := true }
def jf : JF := { g := gd, z := 1, a := 2, off := 0xFFFFFFF8 }
/-- The call control 0x3D55: FSIZE 7, LP, the reserved bits 0x155 (R171). -/
def cf : CF :=
  { g := gd, vbase := 1, a := 2, args := 3, res := 4, fsize := 7, lp := true, rsv := 0x155, literal := 0x1000000040 }
def sf : SF := { g := gd, d := 1, a := 2, b := 3, c := 4, ctrl := 0xA5C3 }

theorem test_decode_format_v3_1 : Reads .compute [0xD5, 0x69, 0x04, 0x03, 0x02, 0x01, 0x3D]
    [(0x00, .iadd v3), (0x01, .isub v3), (0x02, .iadds v3), (0x03, .iadd64 v3), (0x04, .isub64 v3),
     (0x05, .imul v3), (0x06, .imulh v3), (0x07, .imad v3), (0x08, .imadw v3), (0x09, .imin v3), (0x0A, .imax v3),
     (0x0B, .iabs v3), (0x0C, .ineg v3), (0x10, .and v3), (0x11, .or v3), (0x12, .xor v3), (0x13, .andn v3),
     (0x14, .not v3), (0x15, .shl v3), (0x16, .shr v3), (0x17, .sar v3), (0x18, .rot v3), (0x19, .fnl v3),
     (0x20, .bfx v3), (0x21, .bfi v3), (0x22, .popc v3)] := by
  repeat constructor

theorem test_decode_format_v3_2 : Reads .compute [0xD5, 0x69, 0x04, 0x03, 0x02, 0x01, 0x3D]
    [(0x23, .clz v3), (0x24, .ctz v3), (0x25, .brev v3), (0x26, .bilv v3), (0x27, .bdil v3), (0x30, .isel v3),
     (0x31, .icmp v3), (0x32, .lea v3), (0x33, .mov v3), (0x60, .fadd v3), (0x61, .fsub v3), (0x62, .fmul v3),
     (0x63, .ffma v3), (0x64, .fmin v3), (0x65, .fmax v3), (0x66, .fcmp v3), (0x67, .fsel v3), (0x68, .frnd v3),
     (0x69, .fdot2 v3), (0x70, .frcp v3), (0x71, .frsq v3), (0x72, .fsqrt v3), (0x73, .fexp2 v3),
     (0x74, .flog2 v3), (0x75, .fsin v3), (0x76, .fcos v3)] := by
  repeat constructor

theorem test_decode_format_v3_3 : Reads .compute [0xD5, 0x69, 0x04, 0x03, 0x02, 0x01, 0x3D]
    [(0x80, .fcvt v3), (0x81, .cvtn v3), (0x82, .fsplit3 v3), (0x90, .hadd2 v3), (0x91, .hmul2 v3),
     (0x92, .hfma2 v3), (0xA0, .shfl v3), (0xA1, .vote v3), (0xA2, .redl v3), (0xA3, .prmt v3),
     (0xA4, .matchLanes v3), (0xA8, .tex v3), (0xA9, .texg v3), (0xAA, .edge v3), (0xAB, .viewx v3),
     (0xAC, .packc v3)] := by
  repeat constructor

theorem test_decode_format_vi : Reads .compute [0xEF, 0xBE, 0x04, 0x03, 0x02, 0x01, 0x3D]
    [(0x34, .movi vi), (0x36, .sreg vi), (0x37, .setp vi)] := by
  repeat constructor

theorem test_decode_format_s_1 : Reads .compute [0xC3, 0xA5, 0x04, 0x03, 0x02, 0x01, 0x3D]
    [(0x40, .nop sf), (0x44, .rcvm sf), (0x47, .ret sf), (0x48, .unwind sf), (0x49, .exit sf), (0x4A, .yield sf),
     (0x4B, .idmc sf), (0x4C, .lead sf), (0xBD, .fence sf), (0xC0, .copyt sf), (0xC1, .copy16 sf),
     (0xC2, .cwait sf), (0xC3, .cwmk sf), (0xC8, .bari sf), (0xC9, .bara sf), (0xCA, .barw sf), (0xCB, .bars sf),
     (0xCC, .barp sf), (0xD0, .rini sf), (0xD1, .rclm sf), (0xD2, .rpub sf), (0xD3, .rwfl sf), (0xD4, .rrel sf),
     (0xD5, .rwfr sf), (0xD8, .fnew sf), (0xD9, .fset sf)] := by
  repeat constructor

theorem test_decode_format_s_2 : Reads .compute [0xC3, 0xA5, 0x04, 0x03, 0x02, 0x01, 0x3D]
    [(0xDA, .fwait sf), (0xDB, .tspn sf), (0xDC, .tend sf), (0xDD, .lkaq sf), (0xDE, .lkrl sf), (0xE0, .ores sf),
     (0xE1, .orel sf), (0xE2, .mseq sf), (0xF0, .trap sf), (0xF1, .bkpt sf), (0xF2, .rdc sf), (0xF3, .wrc sf),
     (0xF4, .rett sf)] := by
  repeat constructor

theorem test_decode_format_j : Reads .compute [0xF8, 0xFF, 0xFF, 0xFF, 0x02, 0x01, 0x3D]
    [(0x41, .bra jf), (0x42, .brx jf), (0x43, .rcvt jf)] := by
  repeat constructor

theorem test_decode_format_m : Reads .compute [0x10, 0x80, 0xB4, 0x03, 0x02, 0x01, 0x3D]
    [(0xB0, .ld mf), (0xB1, .st mf), (0xB2, .lds mf), (0xB3, .sts mf), (0xB8, .ldc mf), (0xB9, .prf mf),
     (0xBA, .atom mf), (0xBB, .red mf), (0xBC, .cas mf), (0xBE, .waita mf)] := by
  repeat constructor

theorem test_decode_format_x : Reads .compute [0x1D, 0xAB, 0x04, 0x03, 0x02, 0x01, 0x3D]
    [(0xB4, .ldb xf), (0xB5, .stb xf), (0xB6, .ldx xf), (0xB7, .stx xf)] := by
  repeat constructor

theorem test_decode_literals :
    decode .compute [0xD5, 0xA9, 0x04, 0x00, 0x02, 0x01, 0x3D, 0x00, 0xEF, 0xBE, 0xAD, 0xDE, 0, 0, 0, 0x80]
        = .ok (.iadd { v3 with lit := true, bi := false, b := 0, literal := 0x80000000DEADBEEF }, [])
    ∧ decode .compute [0xEF, 0xBE, 0x04, 0x03, 0x02, 0x01, 0x3D, 0x35, 1, 2, 3, 4, 5, 6, 7, 8]
        = .ok (.movl { vi with literal := 0x0807060504030201 }, [])
    ∧ decode .compute [0x55, 0x3D, 0x04, 0x03, 0x02, 0x01, 0x3D, 0x45, 0x40, 0, 0, 0, 0x10, 0, 0, 0] = .ok (.call cf, [])
    ∧ decode .compute [0x55, 0x3D, 0x04, 0x03, 0x02, 0x01, 0x3D, 0x46, 0x40, 0, 0, 0, 0x10, 0, 0, 0] = .ok (.callx cf, []) := by
  repeat constructor

/-- R236: C[0] tells the two instructions of `PERF` apart. R388: an opcode that no row assigns. -/
theorem test_decode_perf_and_unassigned :
    decode .compute [0xC3, 0xA5, 0x04, 0x03, 0x02, 0x01, 0x3D, 0xF5] = .ok (.perfRd sf, [])
    ∧ decode .compute [0xC3, 0xA5, 0x05, 0x03, 0x02, 0x01, 0x3D, 0xF5] = .ok (.perfMark { sf with c := 5 }, [])
    ∧ All (fun n => decode .compute (leBytes 8 (n * 2 ^ 56)) = .ok (.unassignedOpcode (BitVec.ofNat 64 (n * 2 ^ 56)), []))
      [0x0D, 0x0F, 0x1A, 0x1F, 0x28, 0x2F, 0x38, 0x3F, 0x4D, 0x5F, 0x6A, 0x6F, 0x77, 0x7F, 0x83, 0x8F, 0x93, 0x9F, 0xA5, 0xA7,
        0xAD, 0xAF, 0xBF, 0xC4, 0xC7, 0xCD, 0xCF, 0xD6, 0xD7, 0xDF, 0xE3, 0xEF, 0xF6, 0xFF] := by
  repeat constructor

/-- The spec's own worked words (R182, R204, R190, R191 and the tables of R236 and R160). -/
theorem test_decode_worked_words :
    (∃ o, decode .compute (leBytes 8 0x2607040506070001) = .ok (.bilv o, []) ∧ o.d = 4 ∧ o.a = 5 ∧ o.b = 6 ∧ o.c = 7 ∧ o.func = 1)
    ∧ (∃ o, decode .compute (leBytes 8 0x8007040600102080) = .ok (.fcvt o, []) ∧ o.ty = 8 ∧ o.rm = 1 ∧ o.c = 0x10)
    ∧ (∃ o, decode .compute (leBytes 8 0x41010000FFFFFFFD) = .ok (.bra o, []) ∧ o.g = ⟨0, false, 1⟩ ∧ o.off = 0xFFFFFFFD)
    ∧ (∃ o, decode .compute (leBytes 8 0xB007040800B40010) = .ok (.ld o, []) ∧ o.scope = 5 ∧ o.ord = 2 ∧ o.imm16 = 16)
    ∧ (∃ o, decode .compute (leBytes 8 0xCA07000300050000) = .ok (.barw o, []) ∧ o.a = 3 ∧ o.c = 5) := by
  exact ⟨⟨_, rfl, by decide⟩, ⟨_, rfl, by decide⟩, ⟨_, rfl, by decide⟩, ⟨_, rfl, by decide⟩, ⟨_, rfl, by decide⟩⟩

/-- R245, R246, R325: every OP with FIELD 0x2A5, a literal, and the OPs that no row assigns. -/
theorem test_decode_engine :
    All (fun p => decode .engine (leBytes 2 (p.1 + 0x2A5)) = .ok (p.2 0x2A5, []))
      [(0x8000, Instr.engineNop), (0x8400, Instr.ext), (0x8800, Instr.dup), (0x8C00, Instr.drop),
      (0x9000, Instr.swap), (0x9400, Instr.overWord), (0x9800, Instr.add), (0x9C00, Instr.addi), (0xA000, Instr.shape),
      (0xA400, Instr.mma), (0xA800, Instr.mmaz), (0xAC00, Instr.drain), (0xB000, Instr.drainadd),
      (0xB400, Instr.drainaddo), (0xB800, Instr.arrive), (0xBC00, Instr.waitb), (0xC000, Instr.loop),
      (0xC400, Instr.halt), (0xE000, Instr.dmma), (0xE400, Instr.dmmaz), (0xE800, Instr.dout), (0xEC00, Instr.dwt),
      (0xF000, Instr.dline)]
    ∧ decode .engine (leBytes 2 0x7FFE) = .ok (.lit 0x7FFE, [])
    ∧ All (fun w => decode .engine (leBytes 2 w) = .ok (.unassignedEngineWord (BitVec.ofNat 16 w), []))
      [0xC800, 0xDC00, 0xF400, 0xFC00] := by
  repeat constructor

/-- The fields of a cluster word 0x8001840E2569BEEF: S, D 1, A 0x42, B 3, C 0x44, GN, G 5, FN 0x29 (R309). -/
def cw : CW :=
  { s := true, p := false, d := 1, a := 0x42, b := 3, c := 0x44, gn := true, gp := 5, fn := 0x29, imm := 0xBEEF }

/-- R309, R314: every opcode, in [61:55]; a word with P in [62]; and an opcode that R314 does not list. -/
theorem test_decode_cluster :
    All (fun p => decode .cluster (leBytes 8 (0x8001840E2569BEEF + p.1 * 2 ^ 55)) = .ok (p.2 cw, []))
      [(0x00, Instr.cluNop), (0x01, Instr.cluIadd), (0x02, Instr.cluIsub), (0x03, Instr.cluAnd),
      (0x04, Instr.cluOr), (0x05, Instr.cluXor), (0x06, Instr.cluShl), (0x07, Instr.cluShr), (0x08, Instr.cluSar),
      (0x09, Instr.cluImin), (0x0A, Instr.cluImax), (0x0B, Instr.cluIcmp), (0x0C, Instr.cluXsel),
      (0x0D, Instr.cluMov), (0x10, Instr.cluBr), (0x11, Instr.cluLoopr), (0x12, Instr.cluSetlc),
      (0x13, Instr.cluEndl), (0x14, Instr.cluGset), (0x15, Instr.cluGlut), (0x16, Instr.cluKpop),
      (0x17, Instr.cluKpush), (0x18, Instr.cluQlen), (0x20, Instr.cluFadd), (0x21, Instr.cluFmul),
      (0x22, Instr.cluFfma), (0x23, Instr.cluFmin), (0x24, Instr.cluFmax), (0x25, Instr.cluFcmp),
      (0x26, Instr.cluFcvt), (0x30, Instr.cluShuf), (0x31, Instr.cluLerp), (0x32, Instr.cluWarp),
      (0x33, Instr.cluPose), (0x34, Instr.cluSdrv), (0x35, Instr.cluPack), (0x36, Instr.cluLcpy),
      (0x40, Instr.cluLdl), (0x41, Instr.cluStl)]
    ∧ decode .cluster (leBytes 8 (2 ^ 62 + 0x13 * 2 ^ 55)) = .ok (.cluEndl
        { s := false, p := true, d := 0, a := 0, b := 0, c := 0, gn := false, gp := 0, fn := 0, imm := 0 }, [])
    ∧ All (fun n => decode .cluster (leBytes 8 (n * 2 ^ 55)) = .error .unassignedClusterOpcode)
      [0x0E, 0x0F, 0x19, 0x1F, 0x27, 0x2F, 0x37, 0x3F, 0x42, 0x7F] := by
  repeat constructor

def ew : EW :=
  { k := 5, tk := true, lso := 0x1234, lenm := 0x155, atClk := 0x6789, lstride := 0xABCD, roff := 0x55, ia := 0x123456789ABCDE }

/-- R323: the words of the fetch and store streams, and what those streams refuse. -/
theorem test_decode_line_engines :
    decode .selFetch (leBytes 16 0xAA123456789ABCDE1B2469556789ABCD) = .ok (.fetch ew, [])
    ∧ decode .selStore (leBytes 16 0xAA123456789ABCDE1B2469556789ABCD) = .ok (.store ew, [])
    ∧ decode .selStore (leBytes 16 0xAA123456789ABCDE2B2469556789ABCD) = .ok (.emit ew, [])
    ∧ decode .selFetch (leBytes 16 0xAA123456789ABCDE2B2469556789ABCD) = .error .reservedEngineOp
    ∧ decode .selFetch (leBytes 16 0) = .error .endOfLine ∧ decode .selStore (leBytes 16 (3 * 2 ^ 60)) = .error .reservedEngineOp := by
  repeat constructor

def cmd : Cmd := { w0 := 0x100000000003, addr := 0x12340000, arg := 0x55, done := 0x2020 }

/-- R336: the commands, and a code that no row lists. -/
theorem test_decode_command :
    All (fun p => decode .command (leBytes 8 (0x10000000000300 + p.1) ++ leBytes 8 0x12340000 ++ leBytes 8 0x55 ++ leBytes 8 0x2020)
        = .ok (p.2 cmd, []))
      [(1, Instr.launch), (2, Instr.selham), (3, Instr.prio), (4, Instr.preempt), (5, Instr.resume), (6, Instr.waitCmd),
        (7, Instr.tlbinv)]
    ∧ decode .command (leBytes 32 8) = .error .unknownCommand ∧ decode .command (leBytes 31 1) = .error .short := by
  repeat constructor

/-! ## Ill-formed terms, one for each check -/

theorem test_ill_stray_literal : check (.iadd { v3 with literal := 1 }) = some .strayLiteral ∧ check (.movi { vi with literal := 1 }) = some .strayLiteral := by
  decide +kernel

theorem test_ill_assigned_opcode : check (.unassignedOpcode 0x4000000000000000) = some .assignedOpcode := by
  decide +kernel

theorem test_ill_assigned_engine_word : check (.unassignedEngineWord 0x8400) = some .assignedEngineWord := by
  decide +kernel

theorem test_ill_perf_bit : check (.perfRd { sf with c := 1 }) = some .perfBit := by
  decide +kernel

theorem test_ill_core_number : check (.loadComplete 192 0) = some .coreNumber := by
  decide +kernel

theorem test_ill_quarter_number : check (.timeSliceSwap 0 4 0) = some .quarterNumber := by
  decide +kernel

theorem test_ill_place_number : check (.timeSliceSwap 0 0 8) = some .placeNumber := by
  decide +kernel

theorem test_ill_group_slot : check (.eseRefill 0 512) = some .groupSlot := by
  decide +kernel

theorem test_ill_fragment_number : check (.debugStepEntry 0 0 false 256) = some .fragmentNumber := by
  decide +kernel

theorem test_ill_vf_number : check (.taskRequeue 128 0) = some .vfNumber := by
  decide +kernel

theorem test_ill_queue_number : check (.launchCompletion 1024 0) = some .queueNumber := by
  decide +kernel

theorem test_ill_channel_number : check (.copyComplete 0 16) = some .channelNumber := by
  decide +kernel

theorem test_ill_die_number : check (.wayWalkComplete 4) = some .dieNumber := by
  decide +kernel

theorem test_ill_slice_number : check (.sliceRequest 0 16) = some .sliceNumber := by
  decide +kernel

theorem test_ill_line_core_number : check (.lineCoreReload 16) = some .lineCoreNumber := by
  decide +kernel

theorem test_ill_head_number : check (.reelRead 4) = some .headNumber := by
  decide +kernel

theorem test_ill_pose_slot : check (.poseCommit 8 0) = some .poseSlot := by
  decide +kernel

theorem test_ill_firmware_core : check (.firmwareMemoryError 4) = some .firmwareCore := by
  decide +kernel

theorem test_ill_link_number : check (.dieLinkAck 8 false) = some .linkNumber := by
  decide +kernel

theorem test_ill_domain_number : check (.domainMove 12 0) = some .domainNumber := by
  decide +kernel

theorem test_ill_port_number : check (.hostMemAccess 2 false false (.hdm 0) 0 []) = some .portNumber := by
  decide +kernel

/-- A well-formed word and a step that names units the part has. -/
theorem test_well_formed : WellFormed (.iadd v3) ∧ WellFormed (.timeSliceSwap 191 3 7) ∧ WellFormed (.pluginCall 0 191 .trapped) := by
  decide +kernel

/-! ## The algorithms that R355, R363 and R364 name -/

/-- The digest of "abc" that FIPS 180-4 gives as its example. -/
theorem test_sha512_abc :
    sha512 [0x61, 0x62, 0x63] =
      0xDDAF35A193617ABACC417349AE20413112E6FA4E89A97EA20A9EEEE64B55D39A2192992A274FC1A836BA3C23A3FEEBBD454D4423643CE80E2A9AC94FA54CA49F := by
  decide +kernel

/-- The example of AES-256 in FIPS 197, appendix C.3. -/
theorem test_aes256 :
    let key := (List.range 32).map (BitVec.ofNat 8)
    aesEnc (aesKeys key) ((List.range 16).map fun i => BitVec.ofNat 8 (17 * i))
      = [0x8E, 0xA2, 0xB7, 0xCA, 0x51, 0x67, 0x45, 0xBF, 0xEA, 0xFC, 0x49, 0x90, 0x4B, 0x49, 0x60, 0x89] := by
  decide +kernel

/-- The order of P-521's base point, and a signature under the private key 1, which holds for its digest and no other. -/
theorem test_p521 :
    ((jOf p521Base).times 521 p521Order).z = 0 ∧ ecdsaOk p521Base 5 (ecdsaSign 1 3 5) = true
    ∧ ecdsaOk p521Base 6 (ecdsaSign 1 3 5) = false := by
  decide +kernel

end Sys2Proof.Tests
end

