-- ==== Sys2Proof/Tests/Witness.lean ====
section
/-! SUPPORT. What the witnesses of the statements' hypotheses rest on: one small machine, and the checks of R385 as a
function that a test can evaluate. -/

-- One test after another: many that wait for the kernel at once take more threads than the sandbox has memory for.
set_option Elab.async false

namespace Sys2Proof.Tests

open Sys2Proof Sys2Proof.Machine

/-- Every check of `Issues`, and `p` of the state with the ready results and the issue. -/
def passes (s : State) (sp : Spec) (p : State → Iss → Bool) : Bool :=
  match s.issuer sp.g with
  | none => false
  | some (s1, x) =>
    x.claimed.isNone && (sp.inHandler || x.e.handler.isNone) && !anyBusy x.k x.e (sp.dsts ++ sp.srcs ++ sp.args)
      && (x.k.atomsOf x.slot x.e.id).isEmpty && (!sp.whole || decide (x.act = x.e.mask)) && sp.fields && (badRange x.k x.e (sp.dsts ++ sp.srcs)).isNone
      && (sp.early x).isNone && (s1.shadowOf x sp).isNone && decide (x.act ≠ 0#8)
      && !s1.scopeDenied x.v sp.scope && (poisonRead x sp.srcs).isNone && p s1 x

/-- The word issues at `s` and `p` holds of its issue. -/
def Meets (s : State) (sp : Spec) (p : State → Iss → Bool) : Prop := ∃ s1 x, Issues s sp s1 x ∧ p s1 x = true

theorem meets_of_passes {s : State} {sp : Spec} {p : State → Iss → Bool} (h : passes s sp p = true) : Meets s sp p := by
  unfold passes at h
  split at h
  · exact absurd h (by decide)
  · rename_i s1 x hx
    simp only [Bool.and_eq_true, Bool.or_eq_true, Bool.not_eq_true', Option.isNone_iff_eq_none, decide_eq_true_eq] at h
    obtain ⟨⟨⟨⟨⟨⟨⟨⟨⟨⟨⟨⟨h1, h2⟩, h3⟩, h0⟩, h4⟩, h5⟩, h6⟩, h12⟩, h7⟩, h8⟩, h9⟩, h10⟩, h11⟩ := h
    exact ⟨s1, x, ⟨⟨hx, h1, h2, h3, h0, fun e => .inr (h4.resolve_left (by simp [e]))⟩, h5, h6, h12, h7, h8, h9, h10⟩, h11⟩

/-- Each word of the list issues at `s`. -/
def MeetsAll (s : State) (l : List Spec) : Prop := ∀ sp ∈ l, Meets s sp fun _ _ => true

theorem meetsAll_of_passes {s : State} {l : List Spec} (h : (l.all fun sp => passes s sp fun _ _ => true) = true) :
    MeetsAll s l := fun sp hs => meets_of_passes (List.all_eq_true.mp h sp hs)

/-- The word comes to its checks at `s`, and `p` holds of the issue. -/
def Comes (s : State) (sp : Spec) (p : State → Iss → Bool) : Prop := ∃ s1 x, AtChecks s sp s1 x ∧ p s1 x = true

/-- Every part of `AtChecks`, and `p`. -/
def comes (s : State) (sp : Spec) (p : State → Iss → Bool) : Bool :=
  match s.issuer sp.g with
  | none => false
  | some (s1, x) =>
    x.claimed.isNone && (sp.inHandler || x.e.handler.isNone) && !anyBusy x.k x.e (sp.dsts ++ sp.srcs ++ sp.args)
      && (x.k.atomsOf x.slot x.e.id).isEmpty && (!sp.whole || decide (x.act = 0#8) || decide (x.act = x.e.mask)) && p s1 x

theorem comes_of {s : State} {sp : Spec} {p : State → Iss → Bool} (h : comes s sp p = true) : Comes s sp p := by
  unfold comes at h
  split at h
  · exact absurd h (by decide)
  · rename_i s1 x hx
    simp only [Bool.and_eq_true, Bool.or_eq_true, Bool.not_eq_true', Option.isNone_iff_eq_none, decide_eq_true_eq] at h
    obtain ⟨⟨⟨⟨⟨h1, h2⟩, h3⟩, h4⟩, h5⟩, h6⟩ := h
    exact ⟨s1, x, ⟨hx, h1, h2, h3, h4, fun e => (h5.imp_left fun h => h.resolve_left (by simp [e]))⟩, h6⟩

/-- The check of R385 that the word fails first, or 7 where it passes all: 0 fields, 1 ranges, 2 its own early check, 3 a
shadow, 4 no lane, 5 the scope, 6 poison. -/
def failsAt (sp : Spec) (s : State) (x : Iss) : Nat :=
  if !sp.fields then 0
  else if (badRange x.k x.e (sp.dsts ++ sp.srcs)).isSome then 1
  else if (sp.early x).isSome then 2
  else if (s.shadowOf x sp).isSome then 3
  else if x.act = 0#8 then 4
  else if s.scopeDenied x.v sp.scope then 5
  else if (poisonRead x sp.srcs).isSome then 6
  else 7

/-! ## The machine of the witnesses -/

/-- No guard, no stall. -/
def g0 : Guard := { stall := 0, pn := false, pred := 7 }

/-- Lane 0 of a register. -/
def lane0 (n : Nat) : Reg := mkReg fun l => if l = 0 then BitVec.ofNat 32 n else 0

/-- Page 0 of virtual function 0 on frame 0 with every permission, in both stages. -/
def leaf0 (stage2 : Bool) : TlbEnt := { vf := 0, stage2 := stage2, page := 0, leaf := 0x1F }

/-- One entry of one group in a frame of 64 registers that hold `regs`, on core 0, whose turn it is. -/
def machine (regs : List (Nat × Reg)) : State :=
  let s := State.reset
  let e := { Entry.fresh 0x8000 0 0 with nextIssue := 0 }
  let k := { s.core 0 with
    groups := [(0, Group.fresh 0 0 0 0 none e)]
    frames := [(0, { slot := 0, base := 0, size := 64, regs := regs, poison := [], parent := none, hdr := none })]
    wgs := [(0, { Workgroup.blank with isTask := false, slots := [0], scratchLen := 16384, acc := [0] })], nextFrame := 1, nextWg := 1 }
  { (s.setCore 0 k) with
    booted := true, fwc := { s.fwc with cores := List.replicate 4 .running }, turn := some (.entry 0 0 .own)
    vfs := [(0, { Vf.reset with root1 := some 0, root2 := some 0 })]
    dies := KMap.put s.dies 0 { s.die 0 with tlb := [leaf0 false, leaf0 true] } }

/-- All registers 0. -/
def m0 : State := machine []

/-- After `i` from `s`, 100 clocks later, with the turn of the entry again. -/
def run (s : State) (i : Instr) : State :=
  match exec i s with
  | .next t => { t with turn := some (.entry 0 0 .own), clk := { t.clk with compute := t.clk.compute + 100 } }
  | _ => s

/-- The entry of group slot 0 with `f` done to it. -/
def withEntry (s : State) (f : Entry → Entry) : State :=
  match (s.core 0).group? 0 with
  | some g => s.setCore 0 ((s.core 0).setGroup 0 { g with entries := g.entries.map f })
  | none => s

/-- A format S word without guard or stall. -/
def sfOf (d a b c : BitVec 8) (ctrl : BitVec 16) : SF := { g := g0, d := d, a := a, b := b, c := c, ctrl := ctrl }

end Sys2Proof.Tests
end

