-- ==== Sys2Proof/Tests/WitnessArith.lean ====
section
/-! SUPPORT. Witnesses: a state and operands that meet the hypotheses of each statement about the integer, logic,
floating-point, lane and graphics words. -/

-- One test after another: many that wait for the kernel at once take more threads than the sandbox has memory for.
set_option Elab.async false

namespace Sys2Proof.Tests

open Sys2Proof Sys2Proof.Machine Sys2Proof.Statements

/-- v2 from v4, v6 and v8. -/
def o2 : V3 :=
  { g := g0, d := 2, a := 4, b := 6, c := 0, lit := false, bi := false, ty := 0, rm := 0, na := false, nb := false, nc := false
    aa := false, func := 0, literal := 0 }
def o1 : V3 := { o2 with b := 0 }
def o3 : V3 := { o2 with c := 8 }
def oi : VI := { g := g0, d := 2, a := 0, b := 0, imm8 := 0, imm16 := 0, literal := 0 }
def q2 : V3 := { o2 with ty := 2 }

theorem witness_integerArithmetic : MeetsAll m0
    [intSpec o2 (.iadd o2) uses2 [0, 1, 4, 5, 6, 7] [0], intSpec o2 (.isub o2) uses2 [0, 1, 4, 5, 6, 7] [0],
     intSpec o2 (.iadds o2) uses2 [0, 1, 4, 5, 6, 7] [0, 1], intSpec q2 (.iadd64 q2) uses2 [2, 3] [0],
     intSpec q2 (.isub64 q2) uses2 [2, 3] [0], intSpec o2 (.imul o2) uses2 [0, 1, 2, 3, 4, 5, 6, 7] [0],
     intSpec o2 (.imulh o2) uses2 [0, 1] [0], intSpec o3 (.imad o3) { uses2 with c := .typed } [0, 1, 4, 5, 6, 7] [0],
     intSpec o3 (.imadw o3) { d := .two, a := .one, b := .one, c := .two } [0, 1] [0],
     intSpec o2 (.imin o2) uses2 [0, 1, 2, 3, 4, 5, 6, 7] [0], intSpec o2 (.imax o2) uses2 [0, 1, 2, 3, 4, 5, 6, 7] [0],
     intSpec o1 (.iabs o1) uses1 [0, 2, 4, 6] [0], intSpec o1 (.ineg o1) uses1 [0, 1, 2, 3, 4, 5, 6, 7] [0]] :=
  meetsAll_of_passes (by decide +kernel)

theorem witness_logicAndFields : MeetsAll m0
    ([Instr.and o2, .or o2, .xor o2, .andn o2].map (fun i => intSpec o2 i uses2 [0, 1, 2, 3, 4, 5, 6, 7] [0])
      ++ [Instr.shl o2, .shr o2, .sar o2].map (fun i => intSpec o2 i usesShift [0, 1, 2, 3] [0])
      ++ [Instr.popc o1, .clz o1, .ctz o1].map (fun i => intSpec o1 i { d := .one, a := .typed, b := .no, c := .no } [0, 1, 2, 3] [0])
      ++ [intSpec o1 (.not o1) uses1 [0, 1, 2, 3, 4, 5, 6, 7] [0], intSpec o2 (.rot o2) usesShift [0, 1, 2, 3] [0, 1],
        intSpec o1 (.brev o1) uses1 [0, 1, 2, 3] [0],
        intSpec o3 (.fnl o3) { d := .one, a := .one, b := .one, c := .one } [0, 1] [0, 1],
        intSpec o2 (.bfx o2) { d := .one, a := .one, b := .one, c := .no } [0, 1] [0],
        intSpec o3 (.bfi o3) { d := .one, a := .one, b := .one, c := .one } [0, 1] [0],
        intSpec o2 (.bilv o2) { d := .one, a := .one, b := .one, c := .no } [0, 1] [0, 1, 2, 3],
        intSpec o2 (.bdil o2) { d := .one, a := .one, b := .one, c := .no } [0, 1] [0, 1, 2, 3]]) :=
  meetsAll_of_passes (by decide +kernel)

/-- The long way codes take pairs (R184). -/
theorem witness_fields_long : MeetsAll m0
    [intSpec { o3 with func := 3 } (.bilv { o3 with func := 3 }) { d := .two, a := .one, b := .one, c := .one } [0, 1] [0, 1, 2, 3],
     intSpec { o2 with func := 2 } (.bdil { o2 with func := 2 }) { d := .one, a := .two, b := .one, c := .no } [0, 1] [0, 1, 2, 3]] :=
  meetsAll_of_passes (by decide +kernel)

theorem witness_selectAndMove : MeetsAll m0
    [intSpec { o2 with c := 1 } (.isel { o2 with c := 1 }) { uses2 with c := .pred } [0, 1, 2, 3, 4, 5, 6, 7] [0],
     intSpec { o2 with d := 1, c := 7 } (.icmp { o2 with d := 1, c := 7 }) { uses2 with d := .pred, c := .pred }
       [0, 1, 2, 3, 4, 5, 6, 7] [0, 1, 2, 3, 4, 5],
     v3Spec { o2 with c := 31 } (.lea { o2 with c := 31 }) { d := .two, a := .two, b := .one, c := .num }
       (intOk { o2 with c := 31 } { d := .two, a := .two, b := .one, c := .num } [0, 1] [0] && decide (31 < 32)),
     intSpec { o2 with a := 0 } (.mov { o2 with a := 0 }) { d := .typed, a := .no, b := .typed, c := .no } [0, 1, 2, 3, 4, 5, 6, 7] [0],
     { instr := .movi oi, g := oi.g, fields := decide (oi.a = 0#8) && decide (oi.b = 0#8), dsts := [(2, 1)] },
     { instr := .movl oi, g := oi.g, lit := true, dsts := [(2, 1)]
       fields := decide (oi.a = 0#8) && decide (oi.b = 0#8) && decide (oi.imm8 = 0#8) && decide (oi.imm16.toNat < 2)
         && decide (hi32 oi.literal = 0#32) },
     { instr := .sreg oi, g := oi.g, dsts := [(2, if sregWide 0 then 2 else 1)]
       fields := decide (oi.a = 0#8) && decide (oi.b = 0#8) && decide (oi.imm8 = 0#8) && sregKnown 0
         && (!sregWide 0 || decide (oi.d.toNat % 2 = 0)) },
     { instr := .setp oi, g := oi.g, psrcs := [0, 0, 0]
       fields := decide (oi.d.toNat < 8) && decide (oi.a.toNat < 8) && decide (oi.b.toNat < 8) && decide (bits 0 13 0 < 8) },
     { instr := .setp { oi with imm8 := 31, imm16 := 0x4000 }, g := oi.g, srcs := [(0, 1)]
       fields := decide (oi.d.toNat < 8) && decide (oi.b = 0#8) && decide (bits 0x4000 13 0 = 0) && decide (31 < 32) },
     { instr := .setp { oi with imm16 := 0x8000 }, g := oi.g, dsts := [(2, 1)], psrcs := [0]
       fields := decide (oi.a.toNat < 8) && decide (oi.b = 0#8) && decide (bits 0x8000 13 0 = 0) && decide (oi.imm8 = 0#8) }] :=
  meetsAll_of_passes (by decide +kernel)

/-! ## Floating point: no exception of the launch of `m0` traps -/

/-- The launch of the issue traps no floating-point exception, so no lane's result can trap (R123). -/
def quietFp (s : State) (x : Iss) : Bool :=
  let h := (s.launch x.g.launch).hdr
  !h.trapInvalid && !h.trapDivZero && !h.trapOverflow

theorem fpTrap_quiet {s : State} {x : Iss} (h : quietFp s x = true) (r : Nat → FRes) :
    fpTrap (s.launch x.g.launch).hdr x r = none := by
  simp only [quietFp, Bool.and_eq_true, Bool.not_eq_true'] at h
  have : ∀ y, trappedFlags (s.launch x.g.launch).hdr y = 0 := fun y => by simp [trappedFlags, h.1.1, h.1.2, h.2]
  simp [fpTrap, this, maskOf] <;> rfl

/-- Each word of the list issues at `m0`, and whatever its lanes' results, none of them traps. -/
def MeetsFp (l : List Spec) : Prop :=
  ∀ sp ∈ l, ∃ s1 x, Issues m0 sp s1 x ∧ ∀ r, fpTrap (s1.launch x.g.launch).hdr x r = none

theorem meetsFp_of_passes {l : List Spec} (h : (l.all fun sp => passes m0 sp quietFp) = true) : MeetsFp l := fun sp hs => by
  obtain ⟨s1, x, h1, h2⟩ := meets_of_passes (List.all_eq_true.mp h sp hs)
  exact ⟨s1, x, h1, fpTrap_quiet h2⟩

def f2 : V3 := { o2 with ty := 8 }
def f1 : V3 := { f2 with b := 0 }
def f3 : V3 := { f2 with c := 8 }
def h2 : V3 := { o2 with ty := 10 }
def h3 : V3 := { h2 with c := 8 }
def allMods : FMods := { rm := true, na := true, nb := true, nc := true, aa := true }

theorem witness_floatWords : MeetsFp
    ([Instr.fadd f2, .fsub f2, .fmul f2].map (fun i => fltSpec f2 i fu2 [8, 9, 10, 11] [0] { allMods with nc := false })
      ++ [Instr.fmin f2, .fmax f2].map (fun i => fltSpec f2 i fu2 [8, 9, 10, 11] [0] { allMods with rm := false, nc := false })
      ++ [fltSpec f3 (.ffma f3) fu3 [8, 9, 10, 11] [0] allMods,
        fltSpec f1 (.frnd f1) fu1 [8, 9, 10, 11] [0] { allMods with nb := false, nc := false },
        fltSpec { f2 with d := 1, c := 1 } (.fcmp { f2 with d := 1, c := 1 }) { d := .pred, a := .typed, b := .typed, c := .pred }
          [8, 9, 10, 11] [0, 1, 2, 3, 4, 5, 6, 7] { allMods with rm := false, nc := false },
        fltSpec { f2 with c := 1 } (.fsel { f2 with c := 1 }) { d := .typed, a := .typed, b := .typed, c := .pred } [8, 9, 10, 11] [0]
          modsNone]
      ++ [Instr.frcp f1, .frsq f1].map (fun i => fltSpec f1 i fu1 [8, 9, 10] [0] { modsNone with na := true, aa := true })
      ++ [fltSpec f1 (.fsqrt f1) fu1 [8, 9, 10] [0] { modsNone with rm := true, na := true, aa := true }]
      ++ [Instr.fexp2 f1, .flog2 f1, .fsin f1, .fcos f1].map
        (fun i => fltSpec f1 i fu1 [8, 10] [0] { modsNone with na := true, aa := true })) :=
  meetsFp_of_passes (by decide +kernel)

/-- `FCVT` both ways between F32 and S32, `CVTN` both ways with TW8, and the packed words. -/
theorem witness_conversions : MeetsFp
    ([Instr.hadd2 h2, .hmul2 h2].map (fun i => fltSpec h2 i { d := .one, a := .one, b := .one, c := .no } [10, 11] [0]
        { allMods with nc := false })
      ++ [Instr.hfma2 h3, .fdot2 h3].map (fun i => fltSpec h3 i { d := .one, a := .one, b := .one, c := .one } [10, 11] [0] allMods)
      ++ [{ instr := .fcvt f1, g := g0, dsts := [(2, 1)], srcs := [(4, 1)] },
        { instr := .fcvt { f1 with c := 0x10 }, g := g0, dsts := [(2, 1)], srcs := [(4, 1)] },
        { instr := .cvtn { o2 with ty := 12 }, g := g0, dsts := [(2, 1)], srcs := [(4, 4), (6, 1)]
          fields := fltOk { o2 with ty := 12 } { d := .num, a := .num, b := .one, c := .no } [12, 13] [0, 1] modsNone },
        { instr := .cvtn { o2 with ty := 13, func := 1 }, g := g0, dsts := [(2, 8)], srcs := [(4, 1), (6, 1)]
          fields := fltOk { o2 with ty := 13, func := 1 } { d := .num, a := .num, b := .one, c := .no } [12, 13] [0, 1] modsNone },
        { instr := .fsplit3 { o2 with ty := 11 }, g := g0, dsts := [(2, 3)], srcs := [(4, 1), (6, 1)]
          fields := fltOk { o2 with ty := 11 } { d := .num, a := .one, b := .one, c := .no } [11] [0] modsNone && !o2.lit }]) :=
  meetsFp_of_passes (by decide +kernel)

theorem witness_lanes : MeetsFp
    ([(o2, 0), ({ o2 with bi := true, func := 3 }, 3)].map (fun p => v3Spec p.1 (.shfl p.1) { d := .typed, a := .typed, b := .one, c := .no }
        (fltOk p.1 { d := .typed, a := .typed, b := .one, c := .no } laneTypes [0, 1, 2, 3] modsNone
          && (!(p.1.lit || p.1.bi) || decide (p.1.ty.toNat < 8))))
      ++ [0, 1, 2].map (fun f => fltSpec { o1 with d := 1, a := 1, func := f } (.vote { o1 with d := 1, a := 1, func := f })
        { d := .pred, a := .pred, b := .no, c := .no } [0] [0, 1, 2, 3] modsNone)
      ++ [fltSpec { o1 with a := 1, func := 3 } (.vote { o1 with a := 1, func := 3 }) { d := .one, a := .pred, b := .no, c := .no } [0]
          [0, 1, 2, 3] modsNone,
        fltSpec o1 (.matchLanes o1) { d := .one, a := .typed, b := .no, c := .no } laneTypes [0, 1] modsNone,
        fltSpec { o1 with ty := 8 } (.redl { o1 with ty := 8 }) { d := .typed, a := .typed, b := .no, c := .no } [0, 1, 2, 3, 8, 9]
          [0, 1, 2, 3, 4, 5] { rm := true, na := true, nb := false, nc := false, aa := true },
        fltSpec { o1 with func := 5 } (.redl { o1 with func := 5 }) { d := .typed, a := .typed, b := .no, c := .no } [0, 1, 2, 3]
          [0, 1, 2, 3, 4, 5] modsNone,
        fltSpec o3 (.prmt o3) { d := .one, a := .one, b := .one, c := .one } [0, 1] [0] modsNone]) :=
  meetsFp_of_passes (by decide +kernel)

theorem witness_graphics : MeetsAll m0
    [{ instr := .edge o3, g := g0, dsts := [(2, 2)], srcs := [(4, 2), (6, 2), (8, 2)]
       fields := fltOk o3 { d := .two, a := .two, b := .two, c := .two } [0] [0] modsNone && !o3.lit && !o3.bi },
     { instr := .viewx f2, g := g0, dsts := [(2, 4 * m0.viewCount)], srcs := [(4, 4), (6, 2 * m0.viewCount)]
       fields := fltOk f2 { d := .num, a := .num, b := .one, c := .no } [8] [0] modsNone && !f2.lit },
     { instr := .packc f1, g := g0, dsts := [(2, 1)], srcs := [(4, 4)]
       fields := fltOk f1 { d := .one, a := .num, b := .no, c := .no } [8] [0, 1] modsNone }] :=
  meetsAll_of_passes (by decide +kernel)

end Sys2Proof.Tests
end

