-- ==== Sys2Proof/Tests/WitnessRecords.lean ====
section
/-! SUPPORT. Witnesses: machines with a buffer record, a texture and a layout record, which meet the hypotheses of the
statements about records, textures and copies. -/

-- One test after another: many that wait for the kernel at once take more threads than the sandbox has memory for.
set_option Elab.async false

namespace Sys2Proof.Tests

open Sys2Proof Sys2Proof.Machine Sys2Proof.Statements

/-- `s` with these words at PA `a`. -/
def putWords (s : State) (a : Nat) (ws : List Nat) : State :=
  { s with mem := Memory.write s.mem a (ws.flatMap fun w => leBytes 8 w) }

/-- `s` with a launch whose record slots, four of them, begin at VA 0x1000. -/
def withSlots (s : State) : State :=
  { s with dist := { s.dist with launches := [(0, { Launch.blank with
      hdr := { words := [0, 0, 0, 0, 0, 0, 0, 0, 0x400000000, 0x1000] } })] } }

/-- A buffer record of generation 1 at 0x2000: 256 bytes, read and write, raw 4-byte elements, rows of 64 bytes; its CRC over
bytes 0x00 to 0x25. -/
def brecWords : List Nat :=
  let body := [0x2000, 0x0300010000000100, 0x2000, 64]
  body ++ [crc16 ((body.flatMap fun w => leBytes 8 w) ++ List.replicate 6 0) * 2 ^ 48, 0, 0, 1]

/-- v4 names slot 0, generation 1; v6 and v7 are coordinates, 0 in every lane. -/
def mRec : State := putWords (withSlots (machine [(4, splat 0x10000)])) 0x1000 brecWords

def xb : XF :=
  { g := g0, d := 2, a := 4, b := 6, c := 0, iw := 0, isg := false, scl := 0, size := 4, scope := 0, ord := 0, rsv := false }
def xbs : XF := { xb with d := 0, c := 8 }

/-- Whichever way the free choice of the record cache goes. -/
def eitherWay (f : Bool → Bool) : Bool := f true && f false

def recGood (o : XF) (v : Nat) (n : RecNeed) (acc : Acc) (w : W64) (s : State) (x : Iss) : Bool :=
  eitherWay fun b => match (afterChoice s).recordLanes x o v n w b with
    | .ok rs => match (afterChoice s).reachRecords x rs acc with
      | .ok _ => true
      | .error _ => false
    | .error _ => false

theorem witness_records :
    Meets mRec (ldbSpec xb) (recGood xb 2 .read .rd (ldbSpec xb).word)
    ∧ Meets mRec (stbSpec xbs) (recGood xbs 8 .write .wr (stbSpec xbs).word) :=
  ⟨meets_of_passes (by decide +kernel), meets_of_passes (by decide +kernel)⟩

/-- The same record as a texture of 16 by 4 texels. -/
def mTex : State := putWords (withSlots (machine [(6, splat 0x10000)])) 0x1000 brecWords
def texw : V3 :=
  { g := g0, d := 8, a := 4, b := 6, c := 0, lit := false, bi := false, ty := 8, rm := 0, na := false, nb := false, nc := false
    aa := false, func := 0, literal := 0 }
def tg : V3 := { texw with c := 3 }
def texGood (o : V3) (t : TexOp) (w : W64) (s : State) (x : Iss) : Bool :=
  eitherWay fun b => match (afterChoice s).texReads x o t w b with
    | .ok _ => true
    | .error _ => false

theorem witness_textures :
    Meets mTex (texSpec texw) (texGood texw (texOp texw) (texSpec texw).word)
    ∧ Meets mTex (texSpec { texw with func := 1 }) (texGood { texw with func := 1 } (texOp { texw with func := 1 }) (texSpec { texw with func := 1 }).word)
    ∧ Meets mTex (texgSpec tg) (texGood tg (texgOp tg) (texgSpec tg).word) :=
  ⟨meets_of_passes (by decide +kernel), meets_of_passes (by decide +kernel), meets_of_passes (by decide +kernel)⟩

/-- What `eitherWay` says holds of the choice that the machine makes. -/
theorem of_eitherWay {f : Bool → Bool} (h : eitherWay f = true) (b : Bool) : f b = true := by
  simp only [eitherWay, Bool.and_eq_true] at h
  cases b
  · exact h.2
  · exact h.1

end Sys2Proof.Tests
end

