-- ==== Sys2Proof/Tests/WitnessSync.lean ====
section
/-! SUPPORT. Witnesses: a state and operands that meet the hypotheses of each clause of the statements about barriers, rings,
futures, tasks, locks, copies, the matrix interface and the system words. -/

-- One test after another: many that wait for the kernel at once take more threads than the sandbox has memory for.
set_option Elab.async false

namespace Sys2Proof.Tests

open Sys2Proof Sys2Proof.Machine Sys2Proof.Statements

/-! ## Barriers -/

/-- Barrier 1 expects two arrivals. -/
def mBar : State := run m0 (.bari (sfOf 0 0 0 1 2))
def bs (n : BitVec 16) : SF := sfOf 0 0 0 1 n
def bw : SF := sfOf 0 4 0 1 0
def bp : SF := sfOf 2 0 0 1 0

theorem witness_barriers :
    Meets m0 (barSpec (bs 2) (.bari (bs 2)) false false true)
      (fun _ x => decide (((x.k.wg x.g.wg).barrier 1).arrival = 0) && decide ((bs 2).ctrl ≠ 0#16))
    ∧ Meets mBar (barSpec (bs 0) (.bara (bs 0)) false false true) (fun s x => (s.arriveBar x.c x.g.wg 1 1).isSome)
    ∧ Meets (machine [(4, splat 1)]) (barSpec bw (.barw bw) false true false)
      (fun _ x => decide (((x.k.wg x.g.wg).barrier 1).phase ≠ (x.low32 4).extractLsb' 0 16))
    ∧ Meets mBar (barSpec (bs 2) (.bars (bs 2)) false false true) (fun s x => match s.arriveBar x.c x.g.wg 1 2 with
        | some t => decide ((((t.core x.c).wg x.g.wg).barrier 1).phase ≠ ((x.k.wg x.g.wg).barrier 1).phase)
        | none => false)
    ∧ Meets mBar (barSpec (bs 1) (.bars (bs 1)) false false true) (fun s x => match s.arriveBar x.c x.g.wg 1 1 with
        | some t => decide ((((t.core x.c).wg x.g.wg).barrier 1).phase = ((x.k.wg x.g.wg).barrier 1).phase)
        | none => false)
    ∧ Meets m0 { barSpec bp (.barp bp) true false false with inHandler := true } (fun _ _ => true)
    ∧ Meets m0 (barSpec bw (.barw bw) false true false)
      (fun _ x => decide (((x.k.wg x.g.wg).barrier 1).phase = (x.low32 4).extractLsb' 0 16))
    ∧ Meets (run mBar (.bara (bs 0))) (barSpec (bs 2) (.bari (bs 2)) false false true)
      (fun _ x => decide (((x.k.wg x.g.wg).barrier 1).arrival ≠ 0) && decide ((bs 2).ctrl ≠ 0#16))
    ∧ Meets m0 (barSpec (bs 0) (.bari (bs 0)) false false true)
      (fun _ x => decide (((x.k.wg x.g.wg).barrier 1).arrival = 0) && decide ((bs 0).ctrl = 0#16))
    ∧ Meets mBar (barSpec (bs 3) (.bara (bs 3)) false false true) (fun s x => (s.arriveBar x.c x.g.wg 1 3).isNone)
    ∧ Meets mBar (barSpec (bs 3) (.bars (bs 3)) false false true) (fun s x => (s.arriveBar x.c x.g.wg 1 3).isNone) := by
  refine ⟨?_, ?_, ?_, ?_, ?_, ?_, ?_, ?_, ?_, ?_, ?_⟩ <;> exact meets_of_passes (by decide +kernel)

/-! ## Rings -/

def rini : SF := sfOf 0 4 6 0 1
def rclm (d : BitVec 8) : SF := sfOf d 4 0 1 0
def rpub : SF := sfOf 0 4 6 12 0
def rwfl : SF := sfOf 20 4 0 0 0
def rrel : SF := sfOf 0 4 0 12 0
def rwfr : SF := sfOf 10 4 0 0 0
/-- A ring of two slots of one register; with one slot claimed, both claimed, one published, and that one taken. -/
def mRing : State := run m0 (.rini rini)
def mClaim : State := run mRing (.rclm (rclm 2))
def mFull : State := run mClaim (.rclm (rclm 8))
def mPub : State := run mClaim (.rpub rpub)
def mTaken : State := run mPub (.rwfl rwfl)

def named (o : SF) (f : Nat → Nat → Ring → Bool) (s : State) (x : Iss) : Bool := match s.ringAt x (x.low32 o.a.toNat) with
  | .ok (h, i, r) => decide (r.vf = x.v) && f h i r
  | .error _ => false
def regsGood (rs : List (Nat × Nat)) (reads : Bool) (s : State) (x : Iss) : Bool :=
  (badRange x.k x.e rs).isNone && !anyBusy x.k x.e rs
    && (!reads || ((s.shadowTrap x rs []).isNone && (poisonRead { x with act := 0xFF } rs).isNone))

theorem witness_rings :
    Meets m0 { ringSpec rini (.rini rini) false true false true with
        fields := (ringSpec rini (.rini rini) false true false true).fields && decide (bits rini.ctrl.toNat 15 6 = 0)
          && decide (0 < riniC rini) && decide (riniC rini ≤ 12) }
      (fun s x => decide (s.ringPlace x.c (x.low32 4) = some (x.c, 0)) && (KMap.get? (s.core x.c).rings 0).isNone
        && decide ((x.low32 6).toNat % (32 * 2 ^ riniS rini) = 0)
        && decide ((x.low32 6).toNat + 2 ^ riniC rini * 32 * 2 ^ riniS rini ≤ (x.k.wg x.g.wg).scratchLen))
    ∧ Meets mFull { ringSpec (rclm 10) (.rclm (rclm 10)) true false true false with
        fields := (ringSpec (rclm 10) (.rclm (rclm 10)) true false true false).fields && decide ((1 : Nat) < 8) }
      (named (rclm 10) fun _ _ r => r.full)
    ∧ Meets mRing { ringSpec (rclm 10) (.rclm (rclm 10)) true false true false with
        fields := (ringSpec (rclm 10) (.rclm (rclm 10)) true false true false).fields && decide ((1 : Nat) < 8) }
      (named (rclm 10) fun _ _ r => !r.full)
    ∧ Meets mClaim { ringSpec rpub (.rpub rpub) false true true false with srcs := [(4, 1), (6, 1), (12, 1)] }
      (fun s x => named rpub (fun _ _ r => decide ((x.low32 12).toNat < r.slotsN) && decide (r.slot (x.low32 12).toNat = .claimed)
        && regsGood [(6, 2 ^ r.s)] true s x) s x)
    ∧ Meets mPub (ringSpec rwfl (.rwfl rwfl) true false false false)
      (fun s x => named rwfl (fun _ _ r => regsGood [(20, 2 ^ r.s + 1)] false s x && r.ready) s x)
    ∧ Meets mTaken { ringSpec rrel (.rrel rrel) false false true false with srcs := [(4, 1), (12, 1)] }
      (fun s x => named rrel (fun _ _ r => decide ((x.low32 12).toNat < r.slotsN) && decide (r.slot (x.low32 12).toNat = .taken)) s x)
    ∧ Meets mRing (ringSpec rwfr (.rwfr rwfr) true false false false) (named rwfr fun _ _ r => !r.full) := by
  refine ⟨?_, ?_, ?_, ?_, ?_, ?_, ?_⟩ <;> exact meets_of_passes (by decide +kernel)

/-! ## Futures -/

/-- Lane l has a future at 0x3000 + 32 l; v8 and v9 are its handle in generation 1. -/
def mFutures : State :=
  machine [(4, mkReg fun l => BitVec.ofNat 32 (0x3000 + 32 * l)), (8, mkReg fun l => BitVec.ofNat 32 (0x180 + l)), (9, splat 0x10000)]
def fnew : SF := sfOf 2 4 0 0 0
def fset : SF := sfOf 1 8 6 0 0
def fwait : SF := sfOf 10 8 0 1 0
def mNew : State := run mFutures (.fnew fnew)
def mSet : State := run mNew (.fset fset)
/-- The future of lane 0 has failed. -/
def mFailed : State := putWords mNew 0x3008 [0x10002]

def fwaitSpec : Spec :=
  { futSpec fwait (.fwait fwait) true true false true with
    dsts := [(10, 2)], srcs := [(8, 2)]
    fields := (futSpec fwait (.fwait fwait) true true false true).fields && decide ((10 : Nat) % 2 = 0) && decide ((1 : Nat) < 8) }
def inState (n : Nat) (s : State) (x : Iss) : Bool := match s.futureAt x (x.low64 8) .rd with
  | .ok (_, w) => decide (futState w = n)
  | .error _ => false
def good {α : Type} (r : Except Trap α) : Bool := match r with
  | .ok _ => true
  | .error _ => false

theorem witness_futures :
    Meets mFutures { futSpec fnew (.fnew fnew) true true false false with
        dsts := [(2, 2)], srcs := [(4, 2)]
        fields := (futSpec fnew (.fnew fnew) true true false false).fields && decide ((2 : Nat) % 2 = 0) }
      (fun s x => (lanesOf x.act).all fun l => decide ((x.pair 4 l).toNat % 32 = 0) && decide ((x.pair 4 l).toNat < 2 ^ 53)
        && good (s.reachMem x (x.pair 4 l).toNat .wr))
    ∧ Meets mNew { futSpec fset (.fset fset) true true true false with
        srcs := [(8, 2), (6, 2)]
        fields := (futSpec fset (.fset fset) true true true false).fields && decide ((1 : Nat) < 8) }
      (fun s x => good (overLanes (lanesOf x.act) (fun l => s.futureAt x (x.pair 8 l) .wr)))
    ∧ Meets mSet fwaitSpec (inState 1) ∧ Meets mFailed fwaitSpec (inState 2) ∧ Meets mNew fwaitSpec (inState 0) := by
  refine ⟨?_, ?_, ?_, ?_, ?_⟩ <;> exact meets_of_passes (by decide +kernel)

/-! ## Tasks and locks -/

/-- Four task slots from 0x4000, one task queue; the record of slot 0 is FREE, in generation 1. -/
def mTasks (regs : List (Nat × Reg)) : State :=
  let s := machine regs
  putWords { s with vfs := [(0, { s.vf 0 with cfg := { VfCfgWords.zero with w08 := 0x4000, w10 := 4, w30 := 1 } })] } 0x4008 [0x10000]
/-- v8 and v9 name the task of slot 0. -/
def mSpawn : State := mTasks [(9, splat 0x10000)]
def task0 : W64 := 0x0001000000000000
/-- The group runs task 0. -/
def mTask : State :=
  match ((mTasks []).core 0).group? 0 with
  | some g => (mTasks []).setCore 0 (((mTasks []).core 0).setGroup 0 { g with task := some task0 })
  | none => mTasks []
/-- The entry runs task 0 by adoption, in a frame above its own. -/
def mAdopted : State :=
  let s := mTasks []
  let k := s.core 0
  let h : Hdr :=
    { rpc := 0x8000, padv := false, pad := task0, adoption := true, res := 0, args := 0, vbase := 0, fsize := 0, csize := 7, cbase := 0
      psave := 0, mask := 0xFF, adepth := 0, tokh := 0, tok := none, cellBlock := 0, cellIdx := 0, bad := false }
  let f : Frame := { slot := 0, base := 8, size := 64, regs := [], poison := [], parent := some 0, hdr := some h }
  withEntry (s.setCore 0 { k with frames := KMap.put k.frames 1 f }) fun e => { e with frame := 1, depth := 1, adepth := 1 }
def tspn : SF := sfOf 1 8 0 0 0
def tend : SF := sfOf 0 4 0 0 0
def lk : SF := sfOf 0 4 0 0 0
def pairSpec (i : Instr) (o : SF) : Spec := { futSpec o i false true false false with srcs := [(o.a.toNat, 2)] }
def ends (s : State) (x : Iss) : Bool :=
  decide (runningTask x.k x.g x.e = some task0) && match s.reachMem x (s.taskVa x.v task0) .rd with
    | .ok (pa, _) => good (s.reachMem x (s.taskVa x.v task0) .wr) && decide (s.word (pa + 16) = 0#64)
    | .error _ => false
def mLocked : State := putWords m0 0 [1, 0]
def lockIs (free : Bool) (s : State) (x : Iss) : Bool := match s.lockAt x (x.low64 4).toNat with
  | .ok pa => decide (s.word pa = 0#64) == free
  | .error _ => false

theorem witness_tasks :
    Meets mSpawn { futSpec tspn (.tspn tspn) true true false false with
        srcs := [(8, 2)], fields := (futSpec tspn (.tspn tspn) true true false false).fields && decide ((1 : Nat) < 8) }
      (fun s x => good (s.spawnCheck x (lanesOf x.act) fun l => x.pair 8 l))
    ∧ Meets mAdopted (pairSpec (.tend tend) tend) (fun s x => ends s x && (x.k.adoption x.e.frame).isSome)
    ∧ Meets mTask (pairSpec (.tend tend) tend) (fun s x => ends s x && (x.k.adoption x.e.frame).isNone)
    ∧ Meets m0 (pairSpec (.lkaq lk) lk) (lockIs true) ∧ Meets mLocked (pairSpec (.lkaq lk) lk) (lockIs false)
    ∧ Meets mLocked (pairSpec (.lkrl lk) lk) (lockIs false) := by
  refine ⟨?_, ?_, ?_, ?_, ?_, ?_⟩ <;> exact meets_of_passes (by decide +kernel)

/-! ## The matrix interface and the copies -/

/-- Reservation 0 of R238's worked example: 64 by 64 BF16 values at scratchpad offset 0, rows of 128 bytes. -/
def mOperand : State := machine [(4, splat 0x2E000000), (5, splat 0x400080)]
def ores : SF := sfOf 0 4 0 0 0
def orel : SF := sfOf 0 0 0 0 0
def mRes : State := run mOperand (.ores ores)
def resOf (x : Iss) : Resv := { r0 := x.low32 4, r1 := x.low32 5, r2 := x.low32 6, r3 := x.low32 7 }
def mseq : SF := sfOf 0 8 0 0 0

def mseqSpec : Spec :=
  { instr := .mseq mseq, g := g0, inHandler := false, srcs := [(8, 2)]
    fields := sfZero mseq false true false false false && decide ((8 : Nat) % 2 = 0) }
/-- The entry has waited for a context since a clock when every phase was 3; and the workgroup has a context. -/
def mSeqWaited : State := withEntry m0 fun e => { e with wait := .sequencer (List.replicate 16 3) }
def mSeqBusy : State := m0.setCore 0 ((m0.core 0).setWg 0 { (m0.core 0).wg 0 with ctx := some 0 })

theorem witness_matrixInterface :
    Meets mOperand (resSpec ores (.ores ores) true)
      (fun _ x => (oresCheck x (x.k.wg x.g.wg) 0 (resOf x) (resSpec ores (.ores ores) true).word).isNone)
    ∧ Meets mRes (resSpec orel (.orel orel) false)
      (fun _ x => (KMap.get? (x.k.wg x.g.wg).res 0).isSome && !x.k.readsRes x.g.wg 0)
    ∧ (∀ m ∈ [m0, mSeqWaited], Meets m mseqSpec
        (fun _ x => decide ((x.low64 8).toNat % 2 = 0) && (x.k.wg x.g.wg).ctx.isNone && x.k.freeCtx.isSome))
    ∧ Meets mSeqBusy mseqSpec (fun _ x => decide ((x.low64 8).toNat % 2 = 0) && (x.k.wg x.g.wg).ctx.isSome) := by
  refine ⟨meets_of_passes (by decide +kernel), meets_of_passes (by decide +kernel), fun m hm => ?_, meets_of_passes (by decide +kernel)⟩
  simp only [List.mem_cons, List.not_mem_nil, or_false] at hm
  rcases hm with rfl | rfl <;> exact meets_of_passes (by decide +kernel)

/-- A layout record of generation 1: one dimension of 16 elements of 4 bytes at 0x2000; its CRC over bytes 0x00 to 0x37. -/
def lrecWords : List Nat :=
  let body := [0x2000, 0x10021, 16, 0, 0, 0, 0]
  body ++ [crc16 (body.flatMap fun w => leBytes 8 w) * 2 ^ 48 + 2]
/-- A box of four elements from element 0 to scratchpad offset 0. -/
def mCopy : State :=
  putWords (withSlots (machine [(4, splat 0x10000), (13, splat 0x10004), (14, splat 0x10001)])) 0x1000 lrecWords
def copyt : SF := sfOf 0 4 6 12 0x2000
def copy16 : SF := sfOf 0 4 12 0 0x2003
def m16 : State := machine [(4, mkReg fun l => BitVec.ofNat 32 (16 * l)), (12, mkReg fun l => BitVec.ofNat 32 (16 * l))]
def boxOf (x : Iss) : List Nat := (List.range 4).map fun i => (x.low32 (13 + i / 2)).toNat / 2 ^ (16 * (i % 2)) % 65536
def orgOf (x : Iss) : List W32 := (List.range 4).map fun j => x.low32 (6 + j)
def cwait : SF := sfOf 0 4 0 3 0
def cwmk : SF := sfOf 2 0 0 3 0

theorem witness_copies :
    Meets mCopy
      { instr := .copyt copyt, g := g0, inHandler := false, scope := copyScope copyt, srcs := [(4, 1), (6, 4), (12, 3)]
        fields := copyCtlOk copyt && decide (copyt.d = 0#8) && !bit (copyImm copyt) 10 }
      (fun s x => eitherWay fun b => match (s.choice 2).2.latchLrec x b (x.low32 4) ({ instr := .copyt copyt, g := g0 } : Spec).word with
        | .ok ws =>
          let r := lrecOf ws
          !(List.range 4).any (fun j => decide (r.rank ≤ j) && (decide (1 < getAt (boxOf x) j 0) || decide (getAt (orgOf x) j 0 ≠ 0#32)))
            && !(boxOf x).contains 0
            && (copyDstTrap (x.k.wg x.g.wg) false (x.low32 12).toNat ((boxOf x).foldl (· * ·) 1 * 2 ^ r.esize) r.rank (2 ^ r.esize)
              (boxOf x)).isNone
            && (x.k.chan 0).op.isNone
        | .error _ => false)
    ∧ Meets m16
      { instr := .copy16 copy16, g := g0, inHandler := false, scope := copyScope copy16, srcs := [(4, 2), (12, 1)]
        fields := copyCtlOk copy16 && decide (copy16.d = 0#8) && decide (copy16.c = 0#8) && decide ((4 : Nat) % 2 = 0)
          && decide (bits (copyImm copy16) 10 4 = 0) }
      (fun s x => (lanesOf x.act).all fun l => decide ((x.pair 4 l).toNat % 16 = 0) && decide ((x.lane 12 l).toNat % 16 = 0)
        && decide ((x.lane 12 l).toNat + 16 ≤ (x.k.wg x.g.wg).scratchLen) && good (s.reachMem x (x.pair 4 l).toNat .rd))
    ∧ Meets m0
      { instr := .cwait cwait, g := g0, inHandler := false, srcs := [(4, 1)]
        fields := sfZero cwait false true false true false && decide ((3 : Nat) < 16) }
      (fun _ x => x.k.copyPast 3 x.g.wg (x.low32 4).toNat)
    ∧ MeetsAll m0
      [{ instr := .cwmk cwmk, g := g0, inHandler := false, dsts := [(2, 1)]
         fields := sfZero cwmk true false false true false && decide ((3 : Nat) < 16) }] := by
  refine ⟨?_, ?_, ?_, meetsAll_of_passes (by decide +kernel)⟩ <;> exact meets_of_passes (by decide +kernel)

/-! ## System words -/

def imm5 : SF := sfOf 0 0 0 0 5
def rdc (n : BitVec 16) : SF := sfOf 2 0 0 0 n
def wrc : SF := sfOf 0 4 0 0 0x100
def prd : SF := sfOf 2 0 0 0 1
def prm : SF := sfOf 0 0 0 1 7
def immSpec (i : Instr) (o : SF) : Spec := { instr := i, g := o.g, fields := sfZero o false false false false true }
def rdcSpec (n : BitVec 16) : Spec :=
  { instr := .rdc (rdc n), g := g0, dsts := cregRegs n.toNat 2
    fields := sfZero (rdc n) true false false false true && cregKnown n.toNat && (!cregWide n.toNat || decide ((2 : Nat) % 2 = 0)) }
def mStops : State := m0.setCore 0 { m0.core 0 with dbg := 0x20000000 }
def mPerf : State := { m0 with vfs := [(0, { m0.vf 0 with hpol := 0x10 })] }

theorem witness_system :
    MeetsAll m0
      [immSpec (.trap imm5) imm5, rdcSpec 0, rdcSpec 0x100,
       { instr := .wrc wrc, g := g0, srcs := cregRegs 0x100 4
         fields := sfZero wrc false true false false true && cregKnown 0x100 && (!cregWide 0x100 || decide ((4 : Nat) % 2 = 0)) },
       { instr := .perfMark prm, g := g0, fields := sfZero prm false false false true true && decide (prm.c = 1#8) }]
    ∧ Meets m0 (immSpec (.bkpt imm5) imm5) (fun _ x => !x.k.bkstop) ∧ Meets mStops (immSpec (.bkpt imm5) imm5) (fun _ x => x.k.bkstop)
    ∧ Meets (withEntry m0 fun e => { e with handler := some 0 })
      { instr := .rett (sfOf 0 0 0 0 0), g := g0, fields := sfZero (sfOf 0 0 0 0 0) false false false false false }
      (fun _ x => x.e.handler.isSome)
    ∧ Meets mPerf
      { instr := .perfRd prd, g := g0, dsts := [(2, 2)]
        fields := sfZero prd true false false true true && decide (prd.c = 0#8) && decide ((2 : Nat) % 2 = 0) && decide ((1 : Nat) < 8) }
      (fun s x => (s.vf x.v).hpol.getLsbD 4)
    ∧ (∃ s1 x, m0.issuer (wordGuard 0x0D07000000000000) = some (s1, x) ∧ x.claimed = none) :=
  ⟨meetsAll_of_passes (by decide +kernel), meets_of_passes (by decide +kernel), meets_of_passes (by decide +kernel),
    meets_of_passes (by decide +kernel), meets_of_passes (by decide +kernel), ⟨_, _, rfl, rfl⟩⟩

end Sys2Proof.Tests
end

