-- ==== Sys2Proof/Tests/WitnessSelham.lean ====
section
/-! SUPPORT. Witnesses: states that meet the hypotheses of the statements about Selham. -/

-- One test after another: many that wait for the kernel at once take more threads than the sandbox has memory for.
set_option Elab.async false

namespace Sys2Proof.Tests

open Sys2Proof Sys2Proof.Machine Sys2Proof.Statements

/-! ## Cluster words -/

/-- A cluster word with what its statement says it uses. -/
structure CluWord where
  i : Instr
  o : CW
  u : XUnit
  uses : XUses
  drive : Bool := false
  bank : Option Nat := none

/-- The report of the word at the cluster's PC, its sources, and the issue, once its unit is taken. -/
def cluAt (s : State) (l c : Nat) (i : Instr) : SelAt :=
  { unit := c, addr := BitVec.ofNat 64 (s.load.compPc l + 8 * (((s.lcr l).cluster c).settle s.clk.selham).pc), info := cluWord i }
def cluReads (s : State) (l c : Nat) (y : CluWord) (k : Cluster) : State × X512 × X512 × X512 :=
  (s.setLcr l ((s.lcr l).setCluster c k)).xReads l c k y.o y.uses (cluAt s l c y.i)
def cluIss (s : State) (l c : Nat) (y : CluWord) (k : Cluster) : XIss :=
  let r := cluReads s l c y k
  { l := l, c := c, t := s.clk.selham, k := k, a := r.2.1, b := r.2.2.1, cv := r.2.2.2, at_ := cluAt s l c y.i }
def cluTaken (s : State) (l c : Nat) (y : CluWord) : Option Cluster :=
  let k := ((s.lcr l).cluster c).settle s.clk.selham
  ({ k with pc := k.pc + 1 } : Cluster).take y.u s.clk.selham

/-- Every check of `CluIssues`, and `p` of the state after its pops and the issue. -/
def cluPasses (s : State) (y : CluWord) (p : State → XIss → Bool) : Bool :=
  match s.turn with
  | some (.cluster l c) =>
    match cluTaken s l c y with
    | none => false
    | some k =>
      !(y.o.s && y.o.p && (s.lcr l).holdsData)
        && y.bank.all (fun b => decide (b ≠ s.clk.selham % 16) && !(s.lcr l).banks.contains b)
        && (y.o.s || !namesStream y.o y.uses y.drive) && !unbound s.load l c y.o y.uses && k.guard y.o
        && p (cluReads s l c y k).1 (cluIss s l c y k)
  | _ => false

def CluMeets (s : State) (y : CluWord) (p : State → XIss → Bool) : Prop :=
  ∃ s1 x, CluIssues y.i y.o y.u y.uses y.drive y.bank s s1 x ∧ p s1 x = true

theorem cluMeets_of_passes {s : State} {y : CluWord} {p : State → XIss → Bool} (h : cluPasses s y p = true) :
    CluMeets s y p := by
  unfold cluPasses at h
  split at h
  · rename_i l c ht
    split at h
    · exact absurd h (by decide)
    · rename_i k hk
      rw [Bool.and_eq_true, Bool.and_eq_true, Bool.and_eq_true, Bool.and_eq_true, Bool.and_eq_true, Bool.not_eq_true',
        Bool.not_eq_true', Bool.or_eq_true] at h
      obtain ⟨⟨⟨⟨⟨h1, h2⟩, h3⟩, h4⟩, h5⟩, h6⟩ := h
      refine ⟨(cluReads s l c y k).1, cluIss s l c y k, ?_, h6⟩
      exact { turn := ht, clock := rfl, mark := h1, unit := hk, at_ := rfl
              bank := fun b hb => by simpa [hb, cluIss] using h2
              apart := fun hs => by simpa [hs] using h3
              bound := h4, guard := h5, sources := rfl }
  · exact absurd h (by decide)

def CluMeetsAll (s : State) (l : List CluWord) : Prop := ∀ y ∈ l, CluMeets s y fun _ _ => true

theorem cluMeetsAll_of_passes {s : State} {l : List CluWord} (h : (l.all fun y => cluPasses s y fun _ _ => true) = true) :
    CluMeetsAll s l := fun y hy => cluMeets_of_passes (List.all_eq_true.mp h y hy)

/-- Cluster 0 of line core 0 has the turn. -/
def mClu : State := { m0 with turn := some (.cluster 0 0) }
/-- Registers 1 to 4, the guard `g0`, which reads 1. -/
def cword : CW := { s := false, p := false, d := 4, a := 1, b := 2, c := 3, gn := false, gp := 0, fn := 0, imm := 0 }
def xu (a b c d : Bool) : XUses := { a := a, b := b, c := c, d := d }
def data (i : Instr) (u : XUnit) (b c : Bool) : CluWord := { i := i, o := cword, u := u, uses := xu true b c true }

theorem witness_clusterArithmetic :
    CluMeetsAll mClu
      ([.cluIadd cword, .cluIsub cword, .cluAnd cword, .cluOr cword, .cluXor cword, .cluShl cword, .cluShr cword, .cluSar cword, .cluImin cword, .cluImax cword,
        .cluIcmp cword].map (fun i => data i .alu true false)
      ++ [data (.cluXsel cword) .alu true true, data (.cluMov cword) .alu false false]
      ++ [.cluFadd cword, .cluFmul cword, .cluFmin cword, .cluFmax cword, .cluFcmp cword].map (fun i => data i .fma true false)
      ++ [data (.cluFfma cword) .fma true true]
      ++ [0, 1, 3].map (fun f => { data (.cluFcvt { cword with fn := f }) .fma false false with o := { cword with fn := f } })
      ++ [{ data (.cluFcvt { cword with fn := 2 }) .fma true false with o := { cword with fn := 2 } }]) :=
  cluMeetsAll_of_passes (by decide +kernel)

/-- The same at the last register of the file. -/
theorem witness_clusterEdges :
    CluMeetsAll mClu [{ data (.cluIadd { cword with d := 63, a := 63 }) .alu true false with o := { cword with d := 63, a := 63 } }] :=
  cluMeetsAll_of_passes (by decide +kernel)

def drives : CW := { cword with s := true, d := 0 }

theorem witness_clusterIsu :
    CluMeetsAll mClu
      [data (.cluShuf cword) .isu true false, data (.cluLerp cword) .isu true true, data (.cluPack cword) .isu true true,
       data (.cluWarp cword) .isu true false, { i := .cluPose cword, o := cword, u := .isu, uses := xu false false false true },
       { i := .cluSdrv drives, o := drives, u := .isu, uses := xu true false false false, drive := true }] :=
  cluMeetsAll_of_passes (by decide +kernel)

def ctl (i : Instr) (u : XUnit) : CluWord := { i := i, o := cword, u := u, uses := xu false false false false }
/-- The cluster with loop counts `lc` and `ec`. -/
def mLoop (lc ec : Nat) : State := mClu.setLcr 0 ((mClu.lcr 0).setCluster 0 { (mClu.lcr 0).cluster 0 with lc := lc, ec := ec })

theorem witness_clusterControl :
    CluMeetsAll mClu
      [ctl (.cluNop cword) .none, ctl (.cluBr cword) .alu, ctl (.cluLoopr cword) .alu, ctl (.cluSetlc cword) .alu, ctl (.cluEndl cword) .alu,
       { ctl (.cluGset cword) .alu with uses := xu true false false false }, ctl (.cluGlut cword) .alu]
    ∧ CluMeets (mLoop 3 1) (ctl (.cluLoopr cword) .alu) (fun _ x => decide (0 < x.k.lc))
    ∧ CluMeets (mLoop 0 1) (ctl (.cluLoopr cword) .alu) (fun _ x => decide (x.k.lc = 0) && decide (0 < x.k.ec))
    ∧ ((Cluster.reset.setLc 5 1).rbase < 32 ∧ ({ Cluster.reset with rbase := 31 } : Cluster).rbase < 32) :=
  ⟨cluMeetsAll_of_passes (by decide +kernel), cluMeets_of_passes (by decide +kernel), cluMeets_of_passes (by decide +kernel),
    by decide +kernel⟩

def st1 : CW := { cword with imm := 1 }

/-- Clock 0 is bank 0's, so a word on unit 1 meets no engine. -/
theorem witness_clusterMemory :
    CluMeetsAll mClu
      [{ i := .cluKpop cword, o := cword, u := .alu, uses := xu false false false true }, ctl (.cluKpush cword) .alu,
       { i := .cluQlen cword, o := cword, u := .alu, uses := xu false false false true },
       { i := .cluStl st1, o := st1, u := .lsp, uses := xu true false false false, bank := some 1 }]
    ∧ CluMeets mClu { i := .cluLcpy cword, o := cword, u := .isu, uses := xu true false false false }
      (fun s x => (s.lcr x.l).lcpy.isNone)
    ∧ CluMeets mClu { i := .cluLdl st1, o := st1, u := .lsp, uses := xu false false false true, bank := some 1 }
      (fun s x => !(s.lcr x.l).storeBad.contains 1) :=
  ⟨cluMeetsAll_of_passes (by decide +kernel), cluMeets_of_passes (by decide +kernel), cluMeets_of_passes (by decide +kernel)⟩

theorem witness_lineEngines :
    (∃ s : State, s.turn = some (.fetchEngine 0) ∧ (s.lcr 0).runs.length < 64)
    ∧ ∃ s : State, s.turn = some (.storeEngine 15) :=
  ⟨⟨{ m0 with turn := some (.fetchEngine 0) }, rfl, by decide⟩, { m0 with turn := some (.storeEngine 15) }, rfl⟩

/-! ## Lines, heads and launches -/

/-- A show of frames of four lines of 16 pixels, a line in 1,000 clocks, LEAD 100. -/
def show0 : Show := { Show.blank with hrec := [0, 0x400040010, 1000, 100, 0, 0, 0, 0], t0 := 50 }
def load0 : SelLoad := { SelLoad.blank with code := [(0, ([], [], []))] }
/-- A launch runs on line core 0, which has `x`; head 0 shows `w`; Selham is at clock `t`. -/
def mShow (t : Nat) (w : Show) (x : Lcr) : State :=
  let sel := { m0.sel with
    running := true, cur := some load0, lcrs := [(0, x)]
    heads := [{ Head.reset with driven := true, show_ := w }, Head.reset, Head.reset, Head.reset] }
  { m0 with sel := sel, clk := { m0.clk with selham := t } }
def pixels16 : KMap W32 := (List.range 16).map fun i => (i, 0xFF000000)
def show1 : Show := { show0 with fifo := [(0, pixels16)] }

theorem witness_lineSchedule :
    let s := mShow 0 show0 Lcr.reset
    s.sel.heads.length = 4 ∧ s.startsNow 0 = true ∧ (s.lcr 0).stopped = false ∧ (s.lcr 0).done = false ∧ s.sel.stopping = false
    ∧ show0.nextLine % show0.vtotal = 0 := by
  decide +kernel

/-- At clock 50 line 0 is due: with its pixels, and without them. -/
theorem witness_scanOut :
    (let s := mShow 50 show1 Lcr.reset
     s.sel.heads.length = 4 ∧ (s.selHead 0).scanDue s.clk.selham = true ∧ (s.selHead 0).scanning = (show1, false) ∧ show1.upto = none
     ∧ (let s := { mShow 50 { show0 with upto := some 0 } Lcr.reset with sel := { (mShow 50 { show0 with upto := some 0 } Lcr.reset).sel with running := false } }
       (s.selHead 0).scanDue s.clk.selham = true ∧ (s.selHead 0).scanning = ({ show0 with upto := some 0 }, false) ∧ s.sel.running = false
       ∧ (0 : Nat) ≤ show0.nextScan)
    ∧ (show1.builtLine 0).isSome = true ∧ KMap.getD show1.late 0 0 = 0)
    ∧ (let s := mShow 50 show0 Lcr.reset
       (s.selHead 0).scanDue s.clk.selham = true ∧ (s.selHead 0).scanning = (show0, false) ∧ show0.builtLine 0 = none)
    ∧ (let s := { mShow 50 { show0 with upto := some 0 } Lcr.reset with sel := { (mShow 50 { show0 with upto := some 0 } Lcr.reset).sel with running := false } }
       (s.selHead 0).scanDue s.clk.selham = true ∧ (s.selHead 0).scanning = ({ show0 with upto := some 0 }, false) ∧ s.sel.running = false
       ∧ (0 : Nat) ≤ show0.nextScan)
    ∧ (show1.builtLine 0).isSome = true ∧ KMap.getD ({ show1 with late := [(0, 2)] } : Show).late 0 0 ≠ 0 := by
  decide +kernel

/-- The frame number 9 is to return at clock 40, with no line of a predecessor. -/
def mReturn : State :=
  let s := mShow 50 show0 Lcr.reset
  s.setSelHead 0 { s.selHead 0 with returns := [(40, none, 9)] }

theorem witness_reelAndReturn :
    ((mShow 50 show0 Lcr.reset).selHead 0).reelDue 50 = some (0, false) ∧ ((mShow 50 show0 Lcr.reset).selHead 0).scanning = (show0, false)
    ∧ (mReturn.selHead 0).returns = [(40, none, 9)] ∧ 40 ≤ mReturn.clk.selham := by
  decide +kernel

def by0 : SelAt := { unit := 8, addr := 0, info := 0 }
def run0 (tok : Option Nat) : FetchRun := { line := 0, addr := 0, lso := 0, left := [], tok := tok, by_ := by0 }
def lcopy : LineCopy := { unit := 0, dst := 0, mode := 0, lcrDst := 0, issued := 0, by_ := by0 }

theorem witness_lineTransfers :
    (Lcr.doneRun { Lcr.reset with runs := [run0 none] }).isSome = true
    ∧ (Lcr.doneRun { Lcr.reset with runs := [run0 (some 1)] }).isSome = true
    ∧ (let s := mShow 16 show0 { Lcr.reset with lcpy := some lcopy }
       (s.lcr 0).lcpy = some lcopy ∧ s.clk.selham % 16 = 0 ∧ lcopy.issued < s.clk.selham ∧ (s.lcr 0).storeBad.contains lcopy.unit = false) := by
  decide +kernel

/-- Line core 0 and the display matrix engine have stopped, and their stops have been taken; line 0 of a frame starts. -/
def mRestart (restarts : List Nat) : State :=
  let s := mShow 0 show0 { Lcr.reset with stopped := true, reported := true }
  { s with sel := { s.sel with restarts := restarts, dme := { s.sel.dme with stopped := true, reported := true } } }

theorem witness_restarts :
    (mRestart []).reloadDue 0 = true ∧ (mRestart []).dmeRestartDue = true ∧ (mRestart []).restartLimit = false
    ∧ (mRestart (List.replicate 8 0)).reloadDue 0 = true ∧ (mRestart (List.replicate 8 0)).restartLimit = true := by
  decide +kernel

/-- The launch stops: line core 0 is done; alone, or with another waiting. -/
def mEnding (next : Option SelLoad) : State :=
  let s := mShow 0 show0 { Lcr.reset with done := true }
  { s with sel := { s.sel with stopping := true, next := next, dme := { s.sel.dme with halted := true } } }

theorem witness_launchEnds :
    (mEnding none).sel.running = true ∧ (mEnding none).sel.stopping = true ∧ (mEnding none).selStopped = true
    ∧ (mEnding none).sel.next = none ∧ (mEnding (some load0)).selStopped = true ∧ (mEnding (some load0)).sel.next = some load0
    ∧ (7 : Nat) < 8 := by
  decide +kernel

end Sys2Proof.Tests
end

