-- ==== Sys2Proof/Tests/WitnessCauses.lean ====
section
/-! SUPPORT. Witnesses: cluster words that fail each of their checks, words of guard 0, and causes at the end of a clock. -/

-- One test after another: many that wait for the kernel at once take more threads than the sandbox has memory for.
set_option Elab.async false

namespace Sys2Proof.Tests

open Sys2Proof Sys2Proof.Machine Sys2Proof.Statements

/-- The check that a cluster word fails first: 0 the P mark, 1 its unit, 2 its bank, 3 streams, 4 its queues, 5 an earlier copy,
6 its guard; or 7 where it passes all. -/
def cluFailsAt (s : State) (y : CluWord) (copies : Bool) : Nat :=
  match s.turn with
  | some (.cluster l c) =>
    if y.o.s && y.o.p && (s.lcr l).holdsData then 0
    else match cluTaken s l c y with
      | none => 1
      | some k =>
        if y.bank.any fun b => decide (b = s.clk.selham % 16) || (s.lcr l).banks.contains b then 2
        else if !y.o.s && namesStream y.o y.uses y.drive then 3
        else if unbound s.load l c y.o y.uses then 4
        else if copies && (s.lcr l).lcpy.isSome then 5
        else if !k.guard y.o then 6
        else 7
  | _ => 8

/-- Line core 0 with `f` done to it. -/
def withLcr (f : Lcr → Lcr) : State := mClu.setLcr 0 (f (mClu.lcr 0))
def word (o : CW) : CluWord := { data (.cluIadd o) .alu true false with o := o }
def copyWord (o : CW) : CluWord := { i := .cluLcpy o, o := o, u := .isu, uses := xu true false false false }

theorem witness_clusterChecks :
    cluFailsAt (withLcr fun x => { x with queues := [[(0, false)]] }) (word { cword with s := true, p := true }) false = 0
    ∧ cluFailsAt (withLcr fun x => x.setCluster 0 { x.cluster 0 with isu := 1 }) (copyWord cword) true = 1
    ∧ cluFailsAt mClu { i := .cluStl cword, o := cword, u := .lsp, uses := xu true false false false, bank := some 0 } false = 2
    ∧ cluFailsAt (withLcr fun x => { x with banks := [1] })
        { i := .cluStl st1, o := st1, u := .lsp, uses := xu true false false false, bank := some 1 } false = 2
    ∧ cluFailsAt mClu (word { cword with a := 0x40 }) false = 3
    ∧ cluFailsAt { mClu with sel := { mClu.sel with cur := some { load0 with block := List.replicate 64 0x1111111111111111 } } }
        (word { cword with a := 0x48 }) false = 4
    ∧ cluFailsAt (withLcr fun x => { x with lcpy := some lcopy }) (copyWord cword) true = 5
    ∧ cluFailsAt mClu (word { cword with gn := true }) false = 6
    ∧ cluFailsAt mClu (copyWord { cword with gn := true }) true = 6
    ∧ cluFailsAt mClu (word cword) false = 7 := by
  decide +kernel

def cause0 (unit : Nat) : SelStop := { cause := .queueUnderflow, by_ := { unit := unit, addr := 0, info := 0 } }
def push0 : QPush := { endClk := 0, q := 1, val := 0, bad := false, by_ := by0 }
def kpush0 : KPush := { k := 2, val := 0, by_ := { by0 with unit := 3 } }
def fifo16 : KFifo := { toks := (List.range 16).map fun i => (i, 0), pushes := 16, pops := 0, late := [] }

/-- A queue whose producer is no line of the reel is empty, or holds an entry; queue 1 holds 32 entries, or 31; FIFO 2 holds 16
tokens; two units have causes. -/
theorem witness_runTimeCauses :
    mClu.load.producer 0 1 ≠ 4 ∧ (mClu.lcr 0).queue 1 = []
    ∧ ((withLcr fun x => x.setQueue 1 [(5, false)]).lcr 0).queue 1 = [(5, false)]
    ∧ push0.q ≠ 7 ∧ 32 ≤ (((withLcr fun x => x.setQueue 1 (List.replicate 32 (0, false))).lcr 0).queue 1).length
    ∧ (((withLcr fun x => x.setQueue 1 (List.replicate 31 (0, false))).lcr 0).queue 1).length < 32
    ∧ (let f := ((withLcr fun x => { x with fifos := setAt x.fifos 2 fifo16 }).lcr 0).fifo kpush0.k
       f.late.contains f.pushes = false ∧ 16 ≤ f.toks.length ∧ kpush0.by_.unit < 4)
    ∧ ((withLcr fun x => { x with stops := [cause0 3, cause0 1] }).lcr 0).stops = [cause0 3, cause0 1]
    ∧ ((withLcr fun x => { x with stops := [cause0 3, cause0 1] }).lcr 0).stopped = false := by
  decide +kernel

end Sys2Proof.Tests
end

