-- ==== Sys2Proof/Tests/WitnessMemory.lean ====
section
/-! SUPPORT. Witnesses: a state and operands that meet the hypotheses of each clause of the statements about memory. In the
small machine virtual page 0 lies on frame 0, so lane l's address, v4 of the lane, is also its PA. -/

-- One test after another: many that wait for the kernel at once take more threads than the sandbox has memory for.
set_option Elab.async false

namespace Sys2Proof.Tests

open Sys2Proof Sys2Proof.Machine Sys2Proof.Statements

/-- 32-bit accesses of v2 at [v4] with v6 as data, index or coordinate. -/
def mo : MF := { g := g0, d := 2, a := 4, b := 0, scope := 0, ord := 0, size := 4, imm16 := 0 }
def ms : MF := { mo with d := 0, b := 6 }
def ma : MF := { mo with b := 6 }
def xo : XF :=
  { g := g0, d := 2, a := 4, b := 6, c := 0, iw := 2, isg := false, scl := 3, size := 4, scope := 0, ord := 0, rsv := false }
def xs : XF := { xo with d := 0, c := 8 }

/-- Lane l addresses byte 8 l. -/
def mMem : State := machine [(4, mkReg fun l => BitVec.ofNat 32 (8 * l))]
def ok {ε α : Type} (e : Except ε α) : Bool := match e with
  | .ok _ => true
  | .error _ => false

theorem witness_loads :
    Meets mMem (loadSpec (.ld mo) mo [2]) (fun s x => ok (s.reachAll x (x.memAddrs mo) 4 .rd))
    ∧ Meets mMem (loadSpec (.ldc mo) mo []) (fun s x => ok (s.reachAll x (x.memAddrs mo) 4 .rd))
    ∧ Meets mMem
      { instr := .ldx xo, g := g0, dsts := [(2, szRegs 4)], srcs := [(4, 2), (6, idxRegs xo)], scope := 0
        fields := gatherOk xo 2 [2] && decide (xo.c = 0#8) }
      (fun s x => ok (s.reachAll x (x.gatherAddrs xo) 4 .rd)) := by
  refine ⟨?_, ?_, ?_⟩ <;> exact meets_of_passes (by decide +kernel)

/-- Every place lies in memory, where the check found the places. -/
def found (r : Except Trap (List (Nat × Reach))) : Bool := match r with
  | .ok ps => ps.all fun p => match p.2 with
    | .mem _ _ => true
    | .mmio _ _ => false
  | .error _ => false

theorem witness_stores :
    Meets mMem (stSpec ms) (fun s x => found (s.reachAll x (x.memAddrs ms) 4 .wr))
    ∧ Meets mMem (stxSpec xs) (fun s x => found (s.reachAll x (x.gatherAddrs xs) 4 .wr)) := by
  refine ⟨?_, ?_⟩ <;> exact meets_of_passes (by decide +kernel)

theorem witness_atomics :
    Meets mMem (atomSpec ma) (fun s x => found (s.reachAtoms x (x.atomAddrs ma) 4 .wr))
    ∧ Meets mMem (casSpec ma) (fun s x => found (s.reachAtoms x (x.atomAddrs ma) 4 .wr))
    ∧ Meets mMem (redSpec ms) (fun s x => found (s.reachAtoms x (x.atomAddrs ms) 4 .wr)) := by
  refine ⟨?_, ?_, ?_⟩ <;> exact meets_of_passes (by decide +kernel)

/-- The same machine where core 0's L1 owns line 0, in which every lane's place lies. -/
def mOwned : State := { mMem with l1own := [(0, (0, 17))] }
def ownedB (o : MF) (returns : Bool) (fn : Iss → Nat → AtomFn) (s : State) (x : Iss) : Bool :=
  match s.reachAtoms x (x.atomAddrs o) 4 .wr with
  | .ok ps => (atomLanes x 4 returns (fn x) x.k.nextId ps).all fun a =>
    decide (KMap.get? s.l1own (lineOf a.pa) = some (x.c, 17)) && ((s.core x.c).atomsAt (lineOf a.pa)).isEmpty && !s.poisoned a.pa
      && !s.bypasses a
  | .error _ => false

theorem witness_atomics_owned :
    Meets mOwned (atomSpec ma) (ownedB ma true (opFn ma))
    ∧ Meets mOwned (casSpec ma) (ownedB ma true fun x l => AtomFn.cas (x.wide 2 (szRegs 4) l) (x.wide 6 (szRegs 4) l))
    ∧ Meets mOwned (redSpec ms) (ownedB ms false (opFn ms)) := by
  refine ⟨?_, ?_, ?_⟩ <;> exact meets_of_passes (by decide +kernel)

/-- A lane's atomic on the good line 0, with a result that waits for it. -/
theorem witness_laneIsDone : mOwned.poisoned 8 = false
    ∧ ∃ t, exec (.atom ma) mMem = .next t ∧ ∃ o ∈ (t.core 0).outs, ∃ a ∈ (t.core 0).atoms, a.returns = true ∧ o.id = a.out := by
  refine ⟨by decide +kernel, _, rfl, ?_⟩
  decide +kernel

/-- Byte 4 lies between the places of lanes 0 and 1, each store completes, and its state leaves that byte. -/
theorem witness_memoryOutside :
    (∃ t, exec (.st ms) mMem = .next t) ∧ (∃ t, exec (.stx xs) mMem = .next t) ∧ (∃ t, exec (.atom ma) mMem = .next t)
    ∧ (∃ t, exec (.cas ma) mMem = .next t) ∧ (∃ t, exec (.red ms) mMem = .next t) ∧ (∃ t, exec (.ld mo) mMem = .next t)
    ∧ outside [(0, .mem 0 false), (1, .mem 8 false)] 4 4 ∧ outside [(0, .mem 0 false), (1, .mem 8 false)] 4 7 := by
  refine ⟨⟨_, rfl⟩, ⟨_, rfl⟩, ⟨_, rfl⟩, ⟨_, rfl⟩, ⟨_, rfl⟩, ⟨_, rfl⟩, ?_, ?_⟩ <;>
    · intro p hp pa pres h
      simp only [List.mem_cons, List.mem_nil_iff, or_false] at hp
      rcases hp with rfl | rfl <;> cases h <;> decide

def wsp (o : MF) : Spec :=
  { instr := .waita o, g := o.g, dsts := [(o.d.toNat, szRegs 4)], srcs := [(o.a.toNat, 2), (o.b.toNat, szRegs 4)]
    fields := atomOk o [0, 1, 2, 3] [o.d.toNat, o.b.toNat] [] && decide ((aopOf o) = 0) }
def sharedB (s : State) (x : Iss) : Bool :=
  match s.reachAtoms x (x.atomAddrs ma) 4 .rd with
  | .ok ps => (ps.map fun p => (p.1, leNat (s.placeBytes p.2 4))).all fun v => decide (v.2 = x.wide 6 (szRegs 4) v.1)
  | .error _ => false
/-- A machine in which v6 differs from what memory holds. -/
def mDiffer : State := machine [(6, splat 1)]
/-- A machine whose quarter already holds 32 monitors. -/
def mMonitors : State :=
  mMem.setCore 0 ((mMem.core 0).setQuarter 0 { (mMem.core 0).quarter 0 with monitors := (List.range 32).map fun i => (i, 4, .own) })

theorem witness_hintsScratchpadMonitors :
    MeetsAll m0
      [{ instr := .prf { mo with d := 0, size := 0 }, g := g0, shadow := false }, { instr := .fence (sfOf 0 0 0 0 0), g := g0 }]
    ∧ Meets m0
      { instr := .lds mo, g := g0, dsts := [(2, szRegs 4)], srcs := [(4, 1)], scope := 0
        fields := decide ((4 : Nat) ≠ 7) && szAligned 4 2 && decide (mo.b = 0#8) && annOk 0 0 [2] }
      (fun _ x => (scrChecks (x.k.wg x.g.wg) (x.scrAddrs mo) 4).isNone
        && ((x.scrAddrs mo).find? (fun a => x.k.copyStalls x.g.wg a.2 4)).isNone)
    ∧ Meets m0
      { instr := .sts ms, g := g0, srcs := [(4, 1), (6, szRegs 4)], scope := 0
        fields := decide ((4 : Nat) ≠ 7) && szAligned 4 6 && decide (ms.d = 0#8) && annOk 0 0 [1] }
      (fun _ x => (scrChecks (x.k.wg x.g.wg) (x.scrAddrs ms) 4).isNone)
    ∧ Meets mDiffer (wsp ma) (fun s x => ok (s.reachAtoms x (x.atomAddrs ma) 4 .rd) && !sharedB s x)
    ∧ Meets mMem (wsp ma) sharedB ∧ Meets mMonitors (wsp ma) sharedB :=
  ⟨meetsAll_of_passes (by decide +kernel), meets_of_passes (by decide +kernel), meets_of_passes (by decide +kernel),
    meets_of_passes (by decide +kernel), meets_of_passes (by decide +kernel), meets_of_passes (by decide +kernel)⟩

end Sys2Proof.Tests
end

