-- ==== Sys2Proof/Tests/WitnessChecks.lean ====
section
/-! SUPPORT. Witnesses: states in which a word fails each check of R385, is held before them, or fails a lane's access. -/

-- One test after another: many that wait for the kernel at once take more threads than the sandbox has memory for.
set_option Elab.async false

namespace Sys2Proof.Tests

open Sys2Proof Sys2Proof.Machine Sys2Proof.Statements

def ldS (o : MF) : Spec := loadSpec (.ld o) o [2]

/-- A launch that checks shadows, and a pending result of v4 (R393). -/
def mShadow : State :=
  match (m0.core 0).group? 0 with
  | some g => { m0.setCore 0 ((m0.core 0).setGroup 0 { g with
      pend := [{ by_ := .own, ready := 4, tgt := .reg (.frame 0 4), mask := 0xFF, val := 1 }] }) with
      dist := { m0.dist with launches := [(0, { Launch.blank with hdr := { words := List.replicate 12 0 ++ [0x1000000] } })] } }
  | none => m0

/-- v4 is poisoned in lane 3. -/
def mPoison : State :=
  let k := m0.core 0
  m0.setCore 0 { k with frames := k.frames.map fun f => (f.1, { f.2 with poison := [(4, 8)] }) }

/-- The word comes to its checks and fails check `n` of `failsAt`: a size code that is none, a destination beyond the frame, a
pending v4, a guard that is off everywhere, a scope that the policy does not permit, a poisoned v4; or it passes. -/
theorem witness_issueChecks :
    Comes m0 (ldS { mo with size := 7 }) (fun s x => decide (failsAt (ldS { mo with size := 7 }) s x = 0))
    ∧ Comes m0 (ldS { mo with d := 64 }) (fun s x => decide (failsAt (ldS { mo with d := 64 }) s x = 1))
    ∧ Comes m0 (ldS { mo with d := 63 }) (fun s x => decide (failsAt (ldS { mo with d := 63 }) s x = 7))
    ∧ Comes mShadow (ldS mo) (fun s x => decide (failsAt (ldS mo) s x = 3))
    ∧ Comes m0 (ldS { mo with g := { g0 with pn := true } }) (fun s x => decide (failsAt (ldS { mo with g := { g0 with pn := true } }) s x = 4))
    ∧ Comes m0 (ldS { mo with scope := 5, ord := 2 }) (fun s x => decide (failsAt (ldS { mo with scope := 5, ord := 2 }) s x = 5))
    ∧ Comes mPoison (ldS mo) (fun s x => decide (failsAt (ldS mo) s x = 6)) := by
  refine ⟨?_, ?_, ?_, ?_, ?_, ?_, ?_⟩ <;> exact comes_of (by decide +kernel)

/-- A load into v2 is under way. -/
def mBusy : State :=
  let o : Out :=
    { id := 0, slot := 0, since := 0, dests := [{ loc := .frame 0 2, mask := 0xFF, val := 0, poison := 0, vas := [] }], reqs := 1
      load := true, long := false, latched := [] }
  m0.setCore 0 { m0.core 0 with outs := [o] }

/-- The entry has its turn at `s`, and `p` holds of the issue. -/
def hasTurn (s : State) (sp : Spec) (p : Iss → Bool) : Bool := match s.issuer sp.g with
  | some (_, x) => x.claimed.isNone && p x
  | none => false

/-- A barrier word in a handler, a load whose v2 waits for an earlier load, and one of an entry whose atomic waits for its line. -/
theorem witness_heldBeforeChecks :
    hasTurn (withEntry m0 fun e => { e with handler := some 0 }) (barSpec (sfOf 0 0 0 0 0) (.bari (sfOf 0 0 0 0 0)) false false true)
        (fun x => x.e.handler.isSome) = true
    ∧ hasTurn mBusy (ldS mo) (fun x => x.e.handler.isNone && anyBusy x.k x.e ((ldS mo).dsts ++ (ldS mo).srcs)) = true
    ∧ hasTurn (run mMem (.red ms)) (ldS mo)
        (fun x => x.e.handler.isNone && !anyBusy x.k x.e ((ldS mo).dsts ++ (ldS mo).srcs)
          && !(x.k.atomsOf x.slot x.e.id).isEmpty) = true := by decide +kernel

/-- Pages 1 and 2 of virtual function 0: page 1 has a stage-1 leaf alone, page 2 leads to a page of
registers. -/
def mPages (regs : List (Nat × Reg)) : State :=
  let s := machine regs
  { s with
    vfs := [(0, { Vf.reset with root1 := some 0, root2 := some 0, mmio := [(2, .sel)] })]
    dies := KMap.put s.dies 0 { s.die 0 with tlb := [leaf0 false, leaf0 true,
      { leaf0 false with page := 1, leaf := 0x1001F }, { leaf0 false with page := 2, leaf := 0x2001F }] } }

/-- Lane `l`'s access of 4 bytes is refused by stage 2, by stage 1, or by a register page. -/
def refusedAs (st2 : Bool) (acc : Acc) (fails : MmioPage → Nat → Bool) (s : State) (x : Iss) (a : Nat) : Bool :=
  match s.xlate (s.tlbOf x.c) x.v a acc with
  | .bad _ b _ => decide (b = st2)
  | .mmio p off => !st2 && fails p off
  | .mem _ _ => false

/-- A misaligned lane; a lane that stage 2 refuses; with none of these, a lane that stage 1 refuses, and one whose register page
refuses an atomic. -/
theorem witness_laneAccesses :
    Meets (machine [(4, mkReg fun l => if l = 5 then 2 else 0)]) (ldS mo) (fun _ x => decide (x.memAddr mo 5 % 4 ≠ 0))
    ∧ Meets (mPages [(4, mkReg fun l => if l = 5 then 0x10000 else 0)]) (ldS mo) (fun s x =>
        ((List.range 8).all fun l => decide (x.memAddr mo l % 4 = 0)) && refusedAs true .rd (fun _ _ => false) s x (x.memAddr mo 5))
    ∧ Meets (mPages [(4, mkReg fun l => if l = 5 then 0x80000000 else 0), (5, mkReg fun l => if l = 5 then 0xFFFFFFFF else 0)]) (stSpec ms)
        (fun s x => ((List.range 8).all fun l => decide (x.memAddr ms l % 4 = 0)
            && !refusedAs true .wr (fun _ _ => false) s x (x.memAddr ms l))
          && refusedAs false .wr (fun _ _ => false) s x (x.memAddr ms 5))
    ∧ Meets (mPages [(4, mkReg fun l => if l = 5 then 0x20000 else 0)]) (atomSpec ma) (fun s x =>
        ((List.range 8).all fun l => !refusedAs true .wr (fun _ _ => true) s x (x.pair 4 l).toNat)
          && refusedAs false .wr (fun _ _ => true) s x (x.pair 4 5).toNat) := by
  refine ⟨?_, ?_, ?_, ?_⟩ <;> exact meets_of_passes (by decide +kernel)

end Sys2Proof.Tests
end

