-- ==== Sys2Proof/Tests/WitnessEngine.lean ====
section
/-! SUPPORT. Witnesses: a state and operands that meet the hypotheses of each clause of the statements about engine words. -/

-- One test after another: many that wait for the kernel at once take more threads than the sandbox has memory for.
set_option Elab.async false

namespace Sys2Proof.Tests

open Sys2Proof Sys2Proof.Machine Sys2Proof.Statements

/-- The two operands of R238's worked stream: 64 by 64 BF16 values in scratchpad and in the B store. -/
def opA : Resv := { r0 := 0x2E000000, r1 := 0x400080, r2 := 0, r3 := 0 }
def opB : Resv := { r0 := 0x6E000000, r1 := 0x400000, r2 := 0, r3 := 0 }

def ctxOf (st : List W64) : SeqCtx :=
  { wg := 0, vf := 0, pc := 0x9000, stack := st, m := 64, n := 64, tokens := List.replicate 16 0, wait := .none }

/-- Context 0 of core 0, with the stack `st`, has the turn; its workgroup holds both operands, and barrier 1 expects two. -/
def mCtx (st : List W64) : State :=
  let s := m0
  let k := s.core 0
  let w := { k.wg 0 with res := [(0, opA), (1, opB)], barriers := [(1, { expected := 2, arrival := 0, phase := 1 })] }
  { s.setCore 0 { k with wgs := [(0, w)], ctxs := [(0, ctxOf st)] } with turn := some (.context 0 0) }

theorem mCtx_turn (st : List W64) : CtxTurn (mCtx st) 0 0 (ctxOf st) := ⟨rfl, rfl⟩

def mDme (st : List W64) : State :=
  { m0 with turn := some .dme, sel := { m0.sel with dme := { m0.sel.dme with stack := st } } }

/-- Whatever stack a word takes, a context and the display matrix engine can hold it; a full stack, an empty one and one of a
single item are among them. -/
theorem witness_stackWords (st : List W64) :
    (∃ s c n x, CtxTurn s c n x ∧ x.stack = st) ∧ (∃ s : State, s.turn = some .dme ∧ s.sel.dme.stack = st)
    ∧ (ctxOf [1, 2, 3, 4, 5, 6, 7, 8]).stack.length = 8 ∧ (ctxOf []).stack = [] ∧ (ctxOf [1]).stack.length < 2
    ∧ (1 : BitVec 10) ≠ 0 ∧ 1 < (2 : W64).toNat ∧ (1 : W64).toNat ≤ 1 ∧ (ctxOf [1, 2]).stack.length ≤ 8 :=
  ⟨⟨_, _, _, _, mCtx_turn st, rfl⟩, ⟨mDme st, rfl, rfl⟩, rfl, rfl, by decide, by decide, by decide, by decide, by decide⟩

def mmaStack : List W64 := [0, 64, 0]

def mmaOk (s : State) (x : SeqCtx) : Bool :=
  let w := (s.core 0).wg x.wg
  decide (x.stack = mmaStack) && decide (KMap.get? w.res 0 = some opA) && decide (KMap.get? w.res 1 = some opB)
    && [false, true].all fun z => ((s.core 0).enqueue (.mma 0 x.wg x.vf 0 1 opA opB w.scratchBase (getAt w.acc 0 0) 0 64 x.m x.n z)).isSome

theorem witness_contextWords :
    mmaOk (mCtx mmaStack) (ctxOf mmaStack) = true
    ∧ MmaFits (((mCtx mmaStack).core 0).wg 0) (ctxOf mmaStack) opA opB 0 64 0
    ∧ (((mCtx []).core 0).liveOps 0 0 = [] ∧ ((mCtx []).arriveBar 0 0 1 1).isSome = true)
    ∧ ((((mCtx []).core 0).wg 0).barrier 1).phase ≠ getAt (ctxOf []).tokens 1 0 := by
  refine ⟨by decide +kernel, ⟨by decide +kernel, by decide +kernel, by decide +kernel, by decide +kernel, by decide +kernel,
    by decide +kernel, by decide +kernel⟩, by decide +kernel, by decide +kernel⟩

/-- Scratchpad offset or VA 0, rows of 256 bytes, accumulator 0; with the sequence item of ordinal 0 of 1. -/
def drainStack : List W64 := [0, 256, 0]
def drainoStack : List W64 := [0, 0x10000, 256, 0]

theorem drainFits (st : List W64) (scr : Bool) : DrainFits (mCtx st) (((mCtx st).core 0).wg 0) (ctxOf st) 1 0 4 scr 0 0 256 :=
  { slotHeld := by show 0 < 1; decide
    row := by show 64 * 4 ≤ 256; decide
    conversion := by decide
    scopeNamed := by decide
    scopePermitted := rfl
    aligned := by decide
    inScratch := fun _ => by show 0 + (64 - 1) * 256 + 64 * 4 ≤ 16384; decide }

/-- A drain to memory translates its pages, and its operation finds room in the launch queue. -/
def drainOk (st : List W64) (kind : Nat) (q : W64) (f : BitVec 10) (opc : Nat) : Bool :=
  let s := mCtx st
  let x := ctxOf st
  let r := State.drainPages 0 x.vf s (drainTouches 0 256 x.m x.n 4)
  let w := (r.1.core 0).wg 0
  r.2.isNone && decide (w = (s.core 0).wg 0)
    && ((r.1.core 0).enqueue (.drain 0 x.wg x.vf (r.1.core 0).nextId kind false 0 0 256 q w.scratchBase (getAt w.acc 0 0) x.m x.n none x.pc
      (engineInfo (BitVec.ofNat 16 (32768 + opc * 1024 + f.toNat)) x.stack.length))).isSome

theorem witness_drains :
    drainOk drainStack 0 0 (drainField 1 false 0) 11 = true ∧ drainOk drainStack 1 0 (drainField 1 false 0) 12 = true
    ∧ drainOk drainoStack 2 0x10000 (drainField 1 false 0) 13 = true ∧ seqItemOk 0x10000 = true
    ∧ (let s := mCtx drainStack
       ((s.core 0).enqueue (.drain 0 0 0 (s.core 0).nextId 0 true 0 0 256 0 ((s.core 0).wg 0).scratchBase
        (getAt ((s.core 0).wg 0).acc 0 0) 64 64 none 0x9000
        (engineInfo (BitVec.ofNat 16 (32768 + 11 * 1024 + (drainField 1 true 0).toNat)) 3))).isSome = true) := by
  decide +kernel

/-- Operands of the display matrix engine inside accumulator and weight memory, in both formats. -/
theorem witness_dmeWords :
    (∃ s : State, s.turn = some .dme ∧ s.sel.dme.stack = [0, 64, 0]) ∧ (∃ s : State, s.turn = some .dme ∧ s.sel.dme.stack = [8128])
    ∧ ((64 : W64).toNat ≠ 0 ∧ (64 : W64).toNat % 32 = 0 ∧ (64 : W64).toNat % 64 = 0 ∧ (0 : W64).toNat + 64 ≤ 8192
      ∧ (0 : W64).toNat * 64 + 32 * (64 : W64).toNat * 2 ≤ 2 ^ 20) := by
  refine ⟨⟨mDme _, rfl, rfl⟩, ⟨mDme _, rfl, rfl⟩, by decide⟩

end Sys2Proof.Tests
end

