-- ==== Sys2Proof/Tests/WitnessCore.lean ====
section
/-! SUPPORT. Witnesses: states that meet the hypotheses of the statements about the steps that a core takes by itself. -/

-- One test after another: many that wait for the kernel at once take more threads than the sandbox has memory for.
set_option Elab.async false

namespace Sys2Proof.Tests

open Sys2Proof Sys2Proof.Machine Sys2Proof.Statements

/-! ## Swaps and results -/

/-- Core 0 with `f` done to it. -/
def withCore (s : State) (f : Core → Core) : State := s.setCore 0 (f (s.core 0))

/-- The entry of `m0` in place 0 since clock 0, and a second group whose entry is pending; virtual function 0 has weight 1. -/
def mSwap : State :=
  let s := withCore m0 fun k =>
    let g := (k.group? 0).getD (Group.fresh 0 0 0 0 none (Entry.fresh 0 0 0))
    { (k.setGroup 1 g) with quarters := setAt k.quarters 0 { k.quarter 0 with active := [(0, { slot := 0, ent := .own, since := 0, from_ := 0 })] } }
  { s with
    vfs := [(0, { s.vf 0 with cfg := { VfCfgWords.zero with w00 := 0x8000000101000000 } })], clk := { s.clk with compute := 2048 } }

/-- Register v2 of frame 0 waits for a result. -/
def out0 (reqs : Nat) : Out :=
  { id := 0, slot := 0, since := 0, dests := [{ loc := .frame 0 2, mask := 0x0F, val := splat 7, poison := 0, vas := [] }]
    reqs := reqs, load := true, long := false, latched := [] }
def mStall : State := withCore (withEntry mSwap fun e => { e with wait := .busyReg [0] [0] }) fun k => { k with outs := [out0 1] }

theorem witness_swaps :
    (match mSwap.placed 0 0 0 with
      | some (pl, _, e) => e.handler.isNone && decide (pl.since + 2048 ≤ mSwap.clk.compute)
        && (mSwap.swapPlace 0 0 0 false (fun g => decide ((mSwap.vf g.vf).weight ≠ 0))).isSome
      | none => false) = true
    ∧ ∃ pl g e, mStall.placed 0 0 0 = some (pl, g, e) ∧ StallsTooLong mStall 0 0 e [0] [0] (out0 1) :=
  ⟨by decide +kernel, _, _, _, rfl, by unfold StallsTooLong; decide +kernel⟩

/-- A result for v2 and v3, behind a result of v2 that has been ready since clock 0. -/
def out2 : Out :=
  { out0 0 with dests := [{ loc := .frame 0 2, mask := 0x0F, val := splat 7, poison := 0, vas := [] },
      { loc := .frame 0 3, mask := 0xF0, val := splat 8, poison := 0, vas := [] }] }
def mLanding : State := withCore m0 fun k =>
  { k with
    outs := [out2]
    groups := k.groups.map fun g => (g.1, { g.2 with
      pend := [{ by_ := .own, ready := 0, tgt := .reg (.frame 0 2), mask := 0xFF, val := splat 1 }] }) }

theorem witness_loadCompletion :
    let older := fun (p : Pend) => out2.dests.any fun d => decide (p.tgt = .reg d.loc)
    let k1 := (mLanding.core 0).settle 0 older
    (mLanding.core 0).outs.find? (fun o => decide (o.id = 0)) = some out2 ∧ out2.reqs = 0 ∧ (mLanding.core 0).atoms = []
    ∧ (mLanding.core 0).groups.all (fun g => g.2.pend.all fun p => older p && decide (p.ready ≤ mLanding.clk.compute)) = true
    ∧ (out2.dests.map OutDest.loc).Nodup
    ∧ (∀ d ∈ out2.dests, ∃ f r, d.loc = .frame f r ∧ (KMap.get? k1.frames f).isSome = true)
    ∧ RegLoc.frame 0 4 ∉ out2.dests.map OutDest.loc := by
  refine ⟨by decide +kernel, by decide +kernel, by decide +kernel, by decide +kernel, by decide +kernel, fun d hd => ?_, by decide +kernel⟩
  simp only [out2, List.mem_cons, List.not_mem_nil, or_false] at hd
  rcases hd with rfl | rfl
  · exact ⟨0, 2, rfl, by decide +kernel⟩
  · exact ⟨0, 3, rfl, by decide +kernel⟩

/-! ## Frames -/

/-- A group whose only frame lies in a spill record asks for it; then an entry that waits for 64 registers; then one that asks
for more than the register part holds. -/
def spill0 : SpillRec :=
  { off := 0x8000, size := 2176, kind := .group 0
    frames := [(0, { slot := 0, base := 0, size := 64, regs := [], poison := [], parent := none, hdr := none })] }
def mSpilled : State := withCore m0 fun k =>
  { k with
    frames := [], spills := [(0, spill0)]
    groups := k.groups.map fun g => (g.1, { g.2 with spilled := true }) }
def req (slot : Nat) (ent : Option EntId) (size : Nat) : AllocReq := { slot := slot, ent := ent, since := 0, size := size }
def asking (s : State) (a : AllocReq) : State := withCore s fun k => { k with allocs := [a] }
def mWants : State := asking (withEntry m0 fun e => { e with wait := .alloc }) (req 0 (some .own) 64)
def mTooBig : State :=
  let s := asking (withEntry m0 fun e => { e with wait := .alloc }) (req 0 (some .own) 40000)
  { s with clk := { s.clk with compute := 70000 } }

/-- A group was spilled while its entry waited for 64 registers. -/
def mAskSpilled : State := asking (withEntry mSpilled fun e => { e with wait := .alloc }) (req 0 (some .own) 64)

theorem witness_frames :
    ((mAskSpilled.core 0).allocs = [req 0 (some .own) 64] ∧ ((mAskSpilled.core 0).refillPlace 0).isSome = true
      ∧ (match (mAskSpilled.core 0).group? 0 with
        | some g => (g.entry? .own).isSome && g.spilled
        | none => false) = true) ∧
    (((asking mSpilled (req 0 none 0)).core 0).allocs = [req 0 none 0] ∧ ((mSpilled.core 0).refillPlace 0).isSome = true)
    ∧ ((mWants.core 0).allocs = [req 0 (some .own) 64] ∧ (match (mWants.core 0).group? 0 with
        | some g => match g.entry? .own with
          | some e => decide (e.wait = .alloc) && !g.spilled && ((mWants.core 0).place (mWants.allocSizes g.vf e 64)).isSome
          | none => false
        | none => false) = true)
    ∧ ((mTooBig.core 0).allocs = [req 0 (some .own) 40000] ∧ mTooBig.allocFits 0 (req 0 (some .own) 40000) = false
      ∧ max 0 (mTooBig.core 0).lastFree + max 1 ((mTooBig.core 0).eseCtl.toNat % 65536) ≤ mTooBig.clk.compute)
    ∧ (mSpilled.wantsRefill 0 0 = true ∧ (mSpilled.core 0).allocs = [])
    ∧ ((asking mSpilled (req 3 none 0)).wantsRefill 0 0 = true
      ∧ ((asking mSpilled (req 3 none 0)).core 0).allocs.any (fun a => decide (a.slot = 0) && decide (a.ent = none)) = false
      ∧ ((asking mSpilled (req 3 none 0)).core 0).allocs ≠ []) := by
  decide +kernel

/-! ## Binding -/

/-- Launch 0 of virtual function 0: code at 0x8000, frames of 8 registers, a first field of two values; of the core it takes
a register part of 4, one accumulator slot and one unit of scratchpad. -/
def hdr0 : LaunchHdr := { words := [0x8000, 1, 2, 1, 1, 1, 1, 1, 0x120100001, 0, 0, 0, 0] }
def launch0 : Launch := { Launch.blank with hdr := hdr0, total := hdr0.total }
def bare (s : State) : State :=
  let s := withCore s fun k => { k with groups := [], frames := [], wgs := [], lastVf := some 0 }
  { s with
    vfs := [(0, { s.vf 0 with cfg := { VfCfgWords.zero with w00 := 0x8000000101000000, w08 := 0x4000, w10 := 4, w28 := 0x5000, w30 := 1 } })]
    dist := { s.dist with launches := [(0, launch0)], lastStarted := [(0, 0)] } }
def mBind : State := bare m0
/-- The same launch with one workgroup saved on the core, all others bound before. -/
def saved0 : SpillRec :=
  { off := 0x8000, size := 128, frames := []
    kind := .saved
      { wg := Workgroup.blank, groups := [], traps := [], trapRegs := [], trapPoison := [], scratch := [], scratchPoison := [], rings := []
        bstore := [], bstorePoison := [], accs := [], accPoison := [], ctx := none } }
def mSaved : State :=
  let s := withCore mBind fun k => { k with spills := [(7, saved0)], nextSpill := 8 }
  s.setLaunch 0 { launch0 with next := launch0.total, saved := [(0, 7)] }

/-- Task queue 0 at 0x5000 with rings of 16 slots from 0x6000; ring 7 holds one entry, `h`. -/
def withQueue (s : State) (h : Nat) : State :=
  putWords (putWords (putWords s 0x5000 [0x0400000000006000, 0, 0, 0, 0, 0, 0, 0]) 0x5078 [0x0000000100000000]) (0x6000 + 7 * 128) [h]
def noWork (s : State) : State := { s with dist := { s.dist with launches := [(0, { launch0 with next := launch0.total })] } }
/-- Task 0 is FREE in generation 1, with its code at 0x8000. -/
def mTaskStart (h : Nat) (ctl : Nat) : State := putWords (withQueue (noWork mBind) h) 0x4000 [0x8000, ctl]

def startJudged (s : State) (p : State → Nat → W64 → State × StartCheck → Bool) : Bool :=
  match s.taskHead 0 0 0 with
  | (s1, some (_, q, h, _, _)) => p s1 q h (s1.startCheck 0 0 h)
  | (_, none) => false

/-- What is chosen for core 0 is `a`. -/
def chosen (s : State) (a : Cand) : State := { s with dist := { s.dist with chosen := [(0, a)] } }
/-- The choice of a workgroup of launch 0 stands, with a plan; and where the launch has ended, it does not. -/
def stands (s : State) (a : Cand) (p : State → Bool) : Bool :=
  decide (KMap.get? (chosen s a).dist.chosen 0 = some a) && ((chosen s a).launch 0).live && p (chosen s a)
def ended (s : State) : State := s.setLaunch 0 { s.launch 0 with ended := true }

theorem witness_binding :
    (KMap.get? mBind.dist.chosen 0 = none ∧ (mBind.select 0).2 = some (.fresh 0 0))
    ∧ stands mBind (.fresh 0 0) (fun s => (s.freshPlan 0 0 0).isSome) = true
    ∧ stands mSaved (.saved 0 7) (fun s => (s.savedPlan 0 0 7).isSome) = true
    ∧ (((chosen (ended mBind) (.fresh 0 0)).launch 0).live = false ∧ ((chosen (ended mBind) (.saved 0 7)).launch 0).live = false)
    ∧ ((chosen m0 (.fresh 0 0)).freshPlan 0 0 0 = none ∧ (chosen m0 (.saved 0 7)).savedPlan 0 0 7 = none) := by
  decide +kernel

/-- The task of the queue's head is the one chosen for core 0. -/
def mChosen (s : State) : State := chosen s (.task 0 0x0001000000000000)
def mReady : State := mTaskStart 0x0001000000000000 0x10000
/-- The record of the task lies in a line in error. -/
def mUnread : State := { mReady with poison := [0x4000 / 128] }
/-- The task table lies at a page that is not mapped. -/
def mAway : State :=
  { mReady with vfs := [(0, { mReady.vf 0 with cfg := { (mReady.vf 0).cfg with w08 := 0x1000000 } })] }
/-- No group can be bound: a workgroup of another virtual function holds the core. -/
def mCrowded : State := withCore mReady fun k => { k with allocs := [req 0 none 0] }
def startOk (s : State) (p : State → List W64 → Bool) : Bool :=
  startJudged (mChosen s) fun _ _ h r => match r with
    | (s2, .ok ws) => decide (KMap.get? (mChosen s).dist.chosen 0 = some (.task 0 h)) && decide ((mChosen s).coreVf 0 = some 0) && p s2 ws
    | _ => false
def freshRec : List W64 := [0x8000, 0x10000, 0, 0, 0, 0, 0, 0].map (BitVec.ofNat 64)

theorem witness_taskStart :
    ((mReady.vf 0).valid = true ∧ (0 : Nat) < (mReady.vf 0).tqCnt)
    ∧ startJudged (mTaskStart 0x0002000000000000 0x10000) (fun _ _ _ r => decide (r.2 = .stale)) = true
    ∧ startJudged (mTaskStart 0x0001000000000004 0x10000) (fun _ _ _ r => match r.2 with
        | .notice _ => true
        | _ => false) = true
    ∧ startJudged mUnread (fun _ _ _ r => match r.2 with
        | .unread _ => true
        | _ => false) = true
    ∧ startOk mReady (fun s2 ws => (s2.taskPlan 0 0 ws (s2.parkOf 0 0x0001000000000000 ws)).isSome && (s2.taskLaunch 0).isSome) = true
    ∧ startOk mCrowded (fun s2 ws => (s2.taskPlan 0 0 ws (s2.parkOf 0 0x0001000000000000 ws)).isNone) = true
    ∧ (mReady.swapCtl 0 0 0x0001000000000000 (ctlRun (getAt freshRec 1 0).toNat 0 0 false)).2 = true
    ∧ ctlState (getAt freshRec 1 0).toNat ≠ 2
    ∧ (mAway.swapCtl 0 0 0x0001000000000000 (ctlRun (getAt freshRec 1 0).toNat 0 0 false)).2 = false := by
  decide +kernel

/-! ## Requeues, saves, copies and matrix operations -/

/-- Task 0 is to go back to its ring: READY in STATE 2, with the ring as it is; or running since. -/
def mRequeue (ctl : Nat) : State :=
  let s := mTaskStart 0x0001000000000000 ctl
  { s with
    dist := { s.dist with requeue := [(0, task0)] }, dies := KMap.put s.dies 4 { s.die 4 with tlb := [leaf0 false, leaf0 true] } }
def requeueJudged (s : State) (p : State → Nat → Bool) : Bool := match s.ownerRec 0 0 task0 with
  | (s1, some ws) => p s1 (getAt ws 1 0).toNat
  | (_, none) => false

theorem witness_requeue :
    (0, BitVec.ofNat 64 0x0001000000000000) ∈ (mRequeue 0x10000).dist.requeue
    ∧ requeueJudged (mRequeue 0x10000) (fun _ ctl => decide (ctlState ctl ≠ 2)) = true
    ∧ requeueJudged (mRequeue 0x8000010040) (fun s1 ctl => decide (ctlState ctl = 2) && ctlReady ctl
        && (s1.enqueue (srcFw s1.activeFw) 4 0 (ctlQueue ctl) (ctlPrio ctl) task0 true).2) = true
    ∧ (let s := mRequeue 0x10000
       ({ s with vfs := mAway.vfs }.ownerRec 0 0 task0).2 = none) := by
  decide +kernel

/-- The workgroup of `m0` is being saved, with nothing outstanding. -/
def mSave : State := withCore m0 fun k => k.setWg 0 { k.wg 0 with saving := true }

theorem witness_workgroupSave :
    (mSave.core 0).wg? 0 = some ((mSave.core 0).wg 0) ∧ ((mSave.core 0).wg 0).saving = true ∧ (mSave.core 0).quiet 0 = true := by
  decide +kernel

def badHdr : Hdr :=
  { rpc := 0, padv := false, pad := 0, adoption := false, res := 0, args := 0, vbase := 0, fsize := 0, csize := 0, cbase := 0, psave := 0
    mask := 0, adepth := 0, tokh := 0, tok := none, cellBlock := 0, cellIdx := 0, bad := true }
/-- The header of the frame of `mSave` is in error; then the virtual function has a spill area. -/
def mSaveBad : State := withCore mSave fun k =>
  { k with frames := k.frames.map fun f => (f.1, { f.2 with hdr := some badHdr }) }
def mSaveRoom : State :=
  { mSave with dist := { mSave.dist with launches := [(0, { launch0 with hdr := { words := hdr0.words.take 12 ++ [1] } })] } }
def saveJudged (s : State) (p : List Nat → Bool → Bool) : Bool :=
  let k := s.core 0
  let w := k.wg 0
  let frames := fun (slots : List Nat) =>
    (k.frames.filter fun f => slots.contains f.2.slot) ++ slots.flatMap fun m => k.spilledFrames m
  p (w.slots.filter fun m => (frames [m]).any fun f => f.2.hdr.any fun h => h.bad)
    (s.writeSpill 0 w.vf (s.launch w.launch).hdr 0 (frames w.slots) (saveExtra (k.saveOf w)) (.saved (k.saveOf w))).2.isSome

theorem witness_workgroupSaveCases :
    saveJudged mSaveBad (fun bad _ => !bad.isEmpty) = true
    ∧ saveJudged mSave (fun bad room => bad.isEmpty && !room) = true
    ∧ saveJudged mSaveRoom (fun bad room => bad.isEmpty && room) = true := by
  decide +kernel

/-- The copy of `mCopy` under way on channel 0; the same from a page that is not mapped; 16-byte copies of two lanes. -/
def copyOp : CopyOp :=
  { wg := 0, vf := 0, lrec := lrecWords.map (BitVec.ofNat 64), handle := 0x10000, table := 0, org := [0, 0, 0, 0], box := [4, 1, 1, 1], dst := 0
    bst := false, bar := none, scope := 0, base := 0, pos := 0 }
def mCopying : State := withCore mCopy fun k =>
  { k with chans := KMap.put k.chans 0 { k.chan 0 with used := true, op := some copyOp } }
def op0 (s : State) : Option CopyOp := ((s.core 0).chan 0).op
def moved (a : W64) (op : CopyOp) : CopyOp := { op with lrec := setAt op.lrec 0 a }
def copyAt (s : State) (a : W64) : State := withCore s fun k =>
  { k with chans := KMap.put k.chans 0 { k.chan 0 with op := (k.chan 0).op.map (moved a) } }
def mCopyLost : State := copyAt mCopying 0x1000000
/-- Page 1 is mapped to intermediate page 1, which firmware backs on demand from the frames that it may give. -/
def mCopyHeld : State :=
  let s := copyAt mCopying 0x10000
  { s with
    dies := KMap.put s.dies 0 { s.die 0 with tlb := { leaf0 false with page := 1, leaf := 0x1001F } :: (s.die 0).tlb }
    vfs := [(0, { s.vf 0 with
      cfg := { VfCfgWords.zero with w00 := 0x8000000100000000 }
      allowance := [5, 6, 7, 8], ranges := [{ base := 1, pages := 1, rd := true, wr := true, ex := false, demand := true }] })] }
def c16 : Copy16 := { id := 5, wg := 0, vf := 0, bar := 1, moves := [(0x2000, 0, false), (0x2010, 16, true)] }
def m16s : State := withCore mBar fun k => { k with copy16s := [c16] }

theorem witness_copyCompletions :
    (match op0 mCopying with
      | some op => match op0 (State.copySome (op.total - op.pos) mCopying 0 0) with
        | some op' => decide (op'.pos = op'.total)
        | none => false
      | none => false) = true
    ∧ (m16s.core 0).copy16s.find? (fun x => decide (x.id = c16.id)) = some c16 := by
  decide +kernel

/-- The address translates and the element cannot be read where its block is poisoned; where the page is absent, the
translation answers a cause. -/
def faultJudged (s : State) (ok : Bool) : Bool := match op0 s with
  | none => false
  | some op => match op.source op.pos with
    | none => false
    | some va => (s.copyData 0 op op.pos).isNone && match s.agentAddr 0 op.vf va .rd with
      | (_, .ok _) => ok
      | (_, .error _) => !ok

theorem witness_copyFault : faultJudged mCopyLost false = true ∧ faultJudged mCopyHeld true = true := by
  decide +kernel

/-- One sum of 64 by 64 by 64 steps, with its accumulators cleared, is alone in the launch queue. -/
def mmaOp : MatOp := .mma 0 0 0 0 1 opA opB 0 0 0 64 64 64 true
def mMma : State := withCore (mCtx mmaStack) fun k => { k with launchQ := [mmaOp] }

theorem witness_matrixOperations :
    let ops := ((mMma.setCore 0 (Core.shiftDrains 16 (mMma.core 0))).core 0).readyOps
    ops[Config.choose mMma.choices % ops.length]? = some mmaOp := by
  have h : ((mMma.setCore 0 (Core.shiftDrains 16 (mMma.core 0))).core 0).readyOps = [mmaOp] := by decide +kernel
  rw [h]
  simp [Nat.mod_one]

end Sys2Proof.Tests
end

