-- ==== Sys2Proof/Tests/WitnessCommands.lean ====
section
/-! SUPPORT. Witnesses: states that meet the hypotheses of the statements about commands, completions, kills and doorbells. -/

-- One test after another: many that wait for the kernel at once take more threads than the sandbox has memory for.
set_option Elab.async false

namespace Sys2Proof.Tests

open Sys2Proof Sys2Proof.Machine Sys2Proof.Statements

/-- Queue 0 of virtual function 0, at read index 5, has the turn; the function owns domain 0, and the hub reaches page 0. -/
def queue0 : CmdQueue := { base := 0x7000, logn := 4, r := 5, widx := 6, waiting := none, blocked := false }
def mQueue : State :=
  let s := { mBind with
    dies := KMap.put mBind.dies 4 { mBind.die 4 with tlb := [leaf0 false, leaf0 true] }, turn := some (.queue 0) }
  { s with dist := { s.dist with queues := [(0, queue0)] } }

def cmdOf (arg : Nat) : Cmd := { w0 := 0, addr := 0x8000, arg := BitVec.ofNat 64 arg, done := 0x9000 }

theorem witness_commandTaken (op : Nat) : CommandTaken mQueue 0 op queue0 (mQueue.takeCommand 0 op 5 []) :=
  ⟨rfl, rfl, rfl⟩

/-- The two copies of the journal lie apart, on dies that are there. -/
theorem witness_journal :
    mQueue.fwc.journalAt.length = 2
    ∧ (mQueue.fwc.journalAt.all fun b => !mQueue.lostHome (journalPlace b mQueue.fwc.journalSeq)
        && mQueue.fwc.journalAt.all fun c => decide (c = b) || decide (c + 2 ^ 20 ≤ b) || decide (b + 2 ^ 20 ≤ c)) = true := by
  decide +kernel

/-- The header of `launch0` with its CRC. -/
def headerWords : List Nat :=
  let body := [0x8000, 1, 2, 1, 1, 1, 1, 1, 0x120100001, 0, 0, 0, 0, 0, 0]
  body ++ [crc16 (body.flatMap fun w => leBytes 8 w) * 2 ^ 48]
def mLaunch : State := putWords mQueue 0x8000 headerWords

def launchReady (s : State) : Bool := match State.agentReads 16 s 4 0 0x8000 with
  | (s1, .ok ws) =>
    let t := s1.takeCommand 0 1 5 ws
    !t.wrongPart && !t.isHanded 0 5 && (t.judgeHeader 0 ⟨ws⟩).isNone
  | (_, .error _) => false

theorem witness_launch :
    mLaunch.turn = some (.queue 0) ∧ KMap.get? mLaunch.dist.queues 0 = some queue0 ∧ cmdOk 0 1 (cmdOf 0) = true
    ∧ mLaunch.wrongPart = false ∧ launchReady mLaunch = true := by
  decide +kernel

/-- A block of zeros enables no line core and drives no head. -/
def selReady (s : State) (p : State → SelLoad → Bool) : Bool :=
  let t := s.takeCommand 0 2 5 []
  cmdOk 0 2 (cmdOf 0) && !t.wrongPart && !t.noDomain 0 && !t.isHanded 0 5 && match t.loadSelham 0 0 5 0x8000 0x9000 with
    | .ok y => p t y
    | .error _ => false
def mSel (next : Option SelLoad) : State := { mQueue with sel := { mQueue.sel with running := true, next := next } }

theorem witness_selham :
    selReady mQueue (fun t _ => !t.sel.running) = true
    ∧ selReady (mSel none) (fun t _ => t.sel.running && t.sel.next.isNone) = true
    ∧ selReady (mSel (some load0)) (fun t _ => t.sel.running && decide (t.sel.next = some load0)) = true := by
  decide +kernel

/-- Launch 0 was command 4 of the queue. -/
def mTarget : State := mQueue.setLaunch 0 { launch0 with index := 4 }
def targetReady (op low : Nat) (c : Cmd) : Bool :=
  let t := mTarget.takeCommand 0 op 5 []
  cmdOk 0 op c && decide (t.target 0 5 low = some 0) && !t.noDomain 0 && !t.isHanded 0 5

theorem witness_launchCommands :
    targetReady 3 4 (cmdOf 0x400000007) = true ∧ bits (cmdOf 0x400000007).arg.toNat 47 32 = 4
    ∧ targetReady 4 4 (cmdOf 4) = true ∧ targetReady 4 4 { cmdOf 4 with w0 := 1 } = true ∧ targetReady 5 4 (cmdOf 4) = true := by
  decide +kernel

theorem witness_waitAndInvalidate :
    (0 < 1016 ∧ mQueue.noDomain 0 = false) ∧ cmdOk 0 6 (cmdOf 0) = true
    ∧ (mQueue.setLaunch 0 { launch0 with written := true }).dist.launches.all (fun e => decide (e.2.queue ≠ 0) || e.2.written) = true
    ∧ mQueue.dist.launches.all (fun e => decide (e.2.queue ≠ 0) || e.2.written) = false
    ∧ cmdOk 0 7 (cmdOf 1) = true ∧ cmdOk 1016 7 (cmdOf 0x10100000001) = true ∧ mQueue.isHanded 0 5 = false := by
  decide +kernel

def completion0 : Completion :=
  { queue := 0, index := 4, status := 1, cause := 0, field := 0, info := 0, done := 0x9000, evseq := some 3 }

theorem witness_completionRecords :
    let s := { mQueue with dist := { mQueue.dist with completions := [completion0] } }
    s.dist.completions = completion0 :: [] ∧ completion0.evseq.isSome = true ∧ s.schedulerUp = true
    ∧ s.atomsPending 0 4 = false := by
  decide +kernel

def preempt0 : Preempt :=
  { queue := 0, index := 5, launch := 0, save := true, done := 0x9000, saves := 0, discards := 0, left := [(0, 0)], due := some 0 }

/-- The pre-emption is over time, with workgroup 0 of core 0 left: one of a launch, or one that runs a task. -/
def mOverdue (task : Bool) : State :=
  let s := withCore mTarget fun k => { k with wgs := [(0, { Workgroup.blank with isTask := task })] }
  { s with dist := { s.dist with preempts := [preempt0] } }
def overdue (s : State) (task : Bool) : Bool :=
  decide (s.dist.preempts.find? (fun p => decide (p.queue = 0) && p.due.any fun t => decide (t ≤ s.clk.time)) = some preempt0)
    && ((preempt0.left.filter fun b => ((s.core b.1).wg? b.2).isSome).map fun b => ((s.core b.1).wg b.2).isTask) == [task]

theorem witness_kills :
    mTarget.booted = true ∧ mTarget.fwc.kill.getLsbD 1 = false ∧ mTarget.killTarget 0 4 = some 0 ∧ mTarget.killTarget 0 9 = none
    ∧ ({ mTarget with fwc := { mTarget.fwc with kill := 2 } } : State).fwc.kill.getLsbD 1 = true
    ∧ overdue (mOverdue false) false = true ∧ overdue (mOverdue true) true = true := by
  decide +kernel

/-- Queue 0 exists and queue 1023 does not. -/
theorem witness_doorbell :
    KMap.get? mQueue.dist.queues (8 * 0 + 0) = some queue0 ∧ KMap.get? mQueue.dist.queues (8 * 127 + 7) = none := by
  decide +kernel

end Sys2Proof.Tests
end

