-- ==== Sys2Proof/Tests/WitnessControl.lean ====
section
/-! SUPPORT. Witnesses: a state and operands that meet the hypotheses of each clause of the statements about control. -/

-- One test after another: many that wait for the kernel at once take more threads than the sandbox has memory for.
set_option Elab.async false

namespace Sys2Proof.Tests

open Sys2Proof Sys2Proof.Machine Sys2Proof.Statements

/-- The same machine in a handler. -/
def mHandler : State := withEntry m0 fun e => { e with handler := some 0 }

def jo (off : BitVec 32) (a : BitVec 8) : JF := { g := g0, z := 0, a := a, off := off }
def braSpec (o : JF) : Spec := { instr := .bra o, g := o.g, fields := decide (o.z = 0#8) && decide (o.a = 0#8) }
def brxSpec (o : JF) : Spec :=
  { instr := .brx o, g := o.g, srcs := [(o.a.toNat, 2)]
    fields := decide (o.z = 0#8) && decide (o.a.toNat % 2 = 0) && decide (o.off = 0#32) }

/-- v4 of lane 0 names 0x8010, that of the others 0. -/
def mTargets : State := machine [(4, lane0 0x8010)]
/-- v4 of lane 7 names the misaligned address 4. -/
def mOdd : State := machine [(4, mkReg fun _ => 4)]

theorem witness_branches :
    Meets mHandler (braSpec (jo 1 0)) (fun _ x => aligned8 (relTarget x.e.pc 1) && x.e.handler.isSome)
    ∧ Meets m0 (braSpec (jo 1 0)) (fun _ x => aligned8 (relTarget x.e.pc 1) && x.e.handler.isNone
        && (x.k.split x.slot { x.e with wait := .none, retried := false } x.act (relTarget x.e.pc 1) (x.e.mask &&& ~~~x.act)
          (x.e.pc + 8) x.now (x.now + 1 + 0)).isSome)
    ∧ Meets mHandler (brxSpec (jo 0 4)) (fun _ x => aligned8 (x.pair 4 x.low) && x.e.handler.isSome)
    ∧ Meets mTargets (brxSpec (jo 0 4)) (fun _ x =>
        let d := lowTarget x 4
        let t := targetLanes x 4 d
        aligned8 d && x.e.handler.isNone && decide (t ≠ x.act)
          && (x.k.split x.slot { x.e with wait := .none, retried := false } t d (x.e.mask &&& ~~~t)
            (if x.act &&& ~~~t = 0#8 then x.e.pc + 8 else x.e.pc) x.now (x.now + 1 + 0)).isSome)
    ∧ Meets (withEntry m0 fun e => { e with pc := 0x8004 }) (braSpec (jo 1 0)) (fun _ x => decide ((relTarget x.e.pc 1).toNat % 8 ≠ 0))
    ∧ Meets mOdd (brxSpec (jo 0 4)) (fun _ x => x.e.handler.isNone && decide ((lowTarget x 4).toNat % 8 ≠ 0))
    ∧ Meets (mHandler.setCore 0 { mHandler.core 0 with trapRegs := [(0, [(4, mkReg fun _ => 4)])] }) (brxSpec (jo 0 4))
        (fun _ x => x.e.handler.isSome && decide ((x.pair 4 x.low).toNat % 8 ≠ 0)) := by
  refine ⟨?_, ?_, ?_, ?_, ?_, ?_, ?_⟩ <;> exact meets_of_passes (by decide +kernel)

/-- Every fragment entry of the quarter is in use, and the stack of the group's entry holds 16 tokens. -/
def mStackFull : State :=
  let item := fun (i : Nat) => ({
    id := i, parent := if i = 0 then none else some (i - 1), deferred := false, pc := 0x8000, mask := 0xFF, arrived := 0
    owner := .own, depth := 0 } : TokItem)
  match (mTargets.core 0).group? 0 with
  | some g =>
    let e := Entry.fresh 0x8000 0 0
    let others := (List.range 256).map fun n => { e with id := .frag n }
    mTargets.setCore 0 ((mTargets.core 0).setGroup 0 { g with
      items := ((List.range 16).map item).reverse
      entries := g.entries.map (fun e => { e with tok := some 15 }) ++ others })
  | none => mTargets

/-- A guard that is on in lane 0 alone: p0 holds 1 there. -/
def mHalf : State :=
  match (mStackFull.core 0).group? 0 with
  | some g => mStackFull.setCore 0 ((mStackFull.core 0).setGroup 0 (g.setPred 0 0xFF 1))
  | none => mStackFull

theorem witness_noRecord :
    Meets mHalf { braSpec (jo 1 0) with g := { g0 with pred := 0 } } (fun _ x =>
      aligned8 (relTarget x.e.pc 1) && x.e.handler.isNone
        && (x.k.split x.slot { x.e with wait := .none, retried := false } x.act (relTarget x.e.pc 1) (x.e.mask &&& ~~~x.act)
          (x.e.pc + 8) x.now (x.now + 1 + 0)).isNone)
    ∧ Meets mStackFull (brxSpec (jo 0 4)) (fun _ x =>
        let d := lowTarget x 4
        let t := targetLanes x 4 d
        aligned8 d && x.e.handler.isNone
          && (x.k.split x.slot { x.e with wait := .none, retried := false } t d (x.e.mask &&& ~~~t)
            (if x.act &&& ~~~t = 0#8 then x.e.pc + 8 else x.e.pc) x.now (x.now + 1 + 0)).isNone)
    ∧ (mStackFull.core 0).freeFrag (quarterOf 0) = none
    ∧ ((mStackFull.core 0).group? 0).any (fun g => decide (16 ≤ g.items.length)) = true :=
  ⟨meets_of_passes (by decide +kernel), meets_of_passes (by decide +kernel), by decide +kernel, by decide +kernel⟩

/-- After `RCVT` to the address two words on, at that address. -/
def mToken : State := withEntry (run m0 (.rcvt (jo 2 0))) fun e => { e with pc := 0x8010 }
/-- A deferred record above the token of this address. -/
def mDeferred : State :=
  match (mToken.core 0).group? 0 with
  | some g => mToken.setCore 0 ((mToken.core 0).setGroup 0 { g with
      items := { id := 9, parent := some 0, deferred := true, pc := 0x8008, mask := 0xF0, arrived := 0, owner := .own, depth := 0 }
        :: g.items
      entries := g.entries.map fun e => { e with tok := some 9, mask := 0x0F } })
  | none => mToken
/-- Two deferred records above the token of this address. -/
def mDeferredTwice : State :=
  match (mDeferred.core 0).group? 0 with
  | some g => mDeferred.setCore 0 ((mDeferred.core 0).setGroup 0 { g with
      items := { id := 10, parent := some 9, deferred := true, pc := 0x8008, mask := 0x0C, arrived := 0, owner := .own, depth := 0 }
        :: g.items
      entries := g.entries.map fun e => { e with tok := some 10, mask := 0x03 } })
  | none => mDeferred
def rcvm : SF := sfOf 0 0 0 0 0

theorem witness_reconvergence :
    Meets m0 { instr := .rcvt (jo 2 0), g := g0, inHandler := false, fields := decide ((0 : BitVec 8) = 0#8) && decide ((0 : BitVec 8) = 0#8) }
        (fun _ x => (x.g.pushItem x.e false (relTarget x.e.pc 2) x.e.mask).isSome)
    ∧ Meets m0 (plainSpec (.rcvm rcvm) rcvm false false) (fun _ x => (x.g.stackOf x.e.tok).isEmpty)
    ∧ Meets (run m0 (.rcvt (jo 2 0))) (plainSpec (.rcvm rcvm) rcvm false false) (fun _ x => match x.g.stackOf x.e.tok with
        | top :: _ => !top.deferred && decide (top.pc ≠ x.e.pc)
        | [] => false)
    ∧ Meets mToken (plainSpec (.rcvm rcvm) rcvm false false) (fun _ x => match x.g.stackOf x.e.tok with
        | top :: _ => !top.deferred && decide (top.pc = x.e.pc) && decide (top.depth = x.e.depth)
        | [] => false)
    ∧ Meets mDeferred (plainSpec (.rcvm rcvm) rcvm false false) (fun _ x => match x.g.stackOf x.e.tok with
        | top :: tok :: _ => top.deferred && !tok.deferred && decide (tok.pc = x.e.pc) && decide (tok.depth = x.e.depth)
        | _ => false)
    ∧ Meets mDeferredTwice (plainSpec (.rcvm rcvm) rcvm false false) (fun _ x => match x.g.stackOf x.e.tok with
        | top :: below :: _ => top.deferred && (below.deferred || decide (below.pc ≠ x.e.pc))
        | _ => false)
    ∧ Meets mStackFull { instr := .rcvt (jo 2 0), g := g0, inHandler := false, fields := true } (fun _ x => decide (16 ≤ x.g.items.length))
    ∧ Meets (withEntry mToken fun e => { e with depth := 1 }) (plainSpec (.rcvm rcvm) rcvm false false)
        (fun _ x => match x.g.stackOf x.e.tok with
          | top :: _ => !top.deferred && decide (top.pc = x.e.pc) && decide (top.depth ≠ x.e.depth)
          | _ => false)
    ∧ Meets (withEntry mDeferred fun e => { e with depth := 1 }) (plainSpec (.rcvm rcvm) rcvm false false)
        (fun _ x => match x.g.stackOf x.e.tok with
          | top :: tok :: _ => top.deferred && !tok.deferred && decide (tok.pc = x.e.pc) && decide (tok.depth ≠ x.e.depth)
          | _ => false) := by
  refine ⟨?_, ?_, ?_, ?_, ?_, ?_, ?_, ?_, ?_⟩ <;> exact meets_of_passes (by decide +kernel)

/-- `CALL` with a landing pad: arguments v12 and v13, result to v12, a callee frame of 64 registers. -/
def callO : CF :=
  { g := g0, vbase := 12, a := 0, args := 2, res := 1, fsize := 7, lp := true, rsv := 0, literal := 0x0000001000000040 }
def callxO : CF := { callO with a := 4, lp := false, literal := 0 }
def mCallee : State := run m0 (.call callO)
def unw : SF := sfOf 0 0 0 0 0

theorem witness_calls :
    Meets m0 (callSpec callO)
      (fun _ x => match x.k.place [(64, true)] with
        | some [p] => @decide (CallRuns callO (relTarget x.e.pc (lo32 callO.literal)) p x) (by unfold CallRuns; infer_instance)
        | _ => false)
    ∧ Meets (machine [(4, splat 0x8010)]) (callxSpec callxO)
      (fun _ x => decide (targetLanes x 4 (lowTarget x 4) = x.act) && match x.k.place [(64, true)] with
        | some [p] => @decide (CallRuns callxO (lowTarget x 4) p x) (by unfold CallRuns; infer_instance)
        | _ => false) := by
  refine ⟨?_, ?_⟩ <;> exact meets_of_passes (by decide +kernel)

/-- An issue of the small machine's entry, and the same at depth `n`. -/
def issueAt (n : Nat) : Iss :=
  { c := 0, slot := 0, k := m0.core 0, g := Group.fresh 0 0 0 0 none (Entry.fresh 0 0 0)
    e := { Entry.fresh 0 0 0 with depth := n }, act := 0xFF, now := 0 }
/-- A direct call without a landing pad, whose literal's upper half is 0. -/
def callP : CF := { callO with lp := false, literal := 0 }

/-- Arguments that leave the frame, a call at depth 64, an unused half that is not 0, and a call that keeps all three. -/
theorem witness_callChecks :
    (callEarly { callP with vbase := 63 } (.call callP) false (issueAt 0) = some (rangeTrap (issueAt 0) 63)
     ∧ callEarly { callP with vbase := 62 } (.call callP) false (issueAt 0) = none
     ∧ ((callEarly callP (.call callP) false (issueAt 64)).map fun t => t.cause) = some .frameDemand
     ∧ callEarly callP (.call callP) false (issueAt 63) = none
     ∧ ((callEarly { callP with literal := 0x100000000 } (.call callP) false (issueAt 0)).map fun t => t.cause) = some .reservedField
     ∧ ((callEarly { callP with literal := 1 } (.callx callP) true (issueAt 0)).map fun t => t.cause) = some .reservedField
     ∧ callEarly callP (.callx callP) true (issueAt 0) = none)
    ∧ Comes m0 (callSpec { callO with vbase := 63 }) (fun s x => decide (failsAt (callSpec { callO with vbase := 63 }) s x = 2))
    ∧ Comes m0 (callxSpec callxO) (fun s x => decide (failsAt (callxSpec callxO) s x = 7)) :=
  ⟨by decide +kernel, comes_of (by decide +kernel), comes_of (by decide +kernel)⟩

theorem witness_returns :
    Meets mCallee (plainSpec (.ret unw) unw false true) (fun _ x => match x.k.frame? x.e.frame with
        | some fr => match fr.hdr, fr.parent with
          | some h, some caller =>
            let all : List (Nat × Nat) := if h.res = 0 then [] else [(0, h.res)]
            let outs : List RegLoc := (List.range h.res).map fun i => .frame caller (h.vbase + i)
            decide (x.e.depth ≠ 0) && !h.bad && !h.adoption && (x.g.cutTo x.e.tok h.tokh).isSome && (KMap.get? x.k.frames caller).isSome
              && !anyBusy x.k x.e all && !outs.any (fun l => x.k.busy l) && (poisonRead x all).isNone
          | _, _ => false
        | none => false)
    ∧ Meets m0 (plainSpec (.ret unw) unw false true) (fun _ x => decide (x.e.depth = 0) && (runningTask x.k x.g x.e).isNone)
    ∧ Meets mCallee
      { instr := .unwind unw, g := g0, inHandler := false, whole := true, srcs := [(0, 1)]
        fields := sfZero unw false true false false false }
      (fun _ x => match landing x.k (x.k.chain x.e.frame) with
        | some (i, h) =>
          let dst := ((x.k.frame? i).bind fun f => f.parent).getD 0
          (walked x.k (x.k.chain x.e.frame)).all (fun h => !h.bad) && (x.g.cutTo x.e.tok h.tokh).isSome
            && !x.k.busy (.frame dst 0)
        | none => false) := by
  refine ⟨?_, ?_, ?_⟩ <;> exact meets_of_passes (by decide +kernel)

/-- The callee of a call without a landing pad, and of an adoption. -/
def mPlainCallee : State := run m0 (.call callP)
def mAdoptedHdr : State :=
  let k := mPlainCallee.core 0
  mPlainCallee.setCore 0 { k with frames := k.frames.map fun f => (f.1, { f.2 with hdr := f.2.hdr.map fun h => { h with adoption := true } }) }
/-- A deferred record above the caller's stack. -/
def cutBadly (s : State) : State :=
  match (s.core 0).group? 0 with
  | some g => s.setCore 0 ((s.core 0).setGroup 0 { g with
      items := [{ id := 9, parent := none, deferred := true, pc := 0x8008, mask := 0xF0, arrived := 0, owner := .own, depth := 0 }]
      entries := g.entries.map fun e => { e with tok := some 9 } })
  | none => s
/-- The group of a task. -/
def mTaskGroup : State :=
  match (m0.core 0).group? 0 with
  | some g => m0.setCore 0 ((m0.core 0).setGroup 0 { g with task := some 0x100 })
  | none => m0
def unwindSpec : Spec :=
  { instr := .unwind unw, g := g0, inHandler := false, whole := true, srcs := [(0, 1)]
    fields := sfZero unw false true false false false }
def headerB (adopted cut : Bool) (x : Iss) : Bool :=
  match x.k.frame? x.e.frame with
  | some fr => match fr.hdr, fr.parent with
    | some h, some _ => decide (x.e.depth ≠ 0) && !h.bad && decide (h.adoption = adopted)
        && (adopted || decide ((x.g.cutTo x.e.tok h.tokh).isSome = cut))
    | _, _ => false
  | none => false

theorem witness_leavingTooFar :
    Meets mTaskGroup (plainSpec (.ret unw) unw false true) (fun _ x => decide (x.e.depth = 0) && (runningTask x.k x.g x.e).isSome)
    ∧ Meets mAdoptedHdr (plainSpec (.ret unw) unw false true) (fun _ x => headerB true true x)
    ∧ Meets (cutBadly mPlainCallee) (plainSpec (.ret unw) unw false true) (fun _ x => headerB false false x)
    ∧ Meets mPlainCallee unwindSpec (fun _ x =>
        (walked x.k (x.k.chain x.e.frame)).all (fun h => !h.bad) && (landing x.k (x.k.chain x.e.frame)).isNone)
    ∧ Meets (cutBadly mCallee) unwindSpec (fun _ x =>
        (walked x.k (x.k.chain x.e.frame)).all (fun h => !h.bad) && match landing x.k (x.k.chain x.e.frame) with
          | some (_, h) => (x.g.cutTo x.e.tok h.tokh).isNone
          | none => false) := by
  refine ⟨?_, ?_, ?_, ?_, ?_⟩ <;> exact meets_of_passes (by decide +kernel)

def lead : Spec :=
  { instr := .lead (sfOf 1 0 0 0 0), g := g0, fields := decide (1 < 8) && sfZero (sfOf 1 0 0 0 0) true false false false false }
/-- The entry runs a handler, whose trap state is at place 0. -/
def mTrapFrame : State :=
  let k := mHandler.core 0
  mHandler.setCore 0 { k with traps := [(0, {
    slot := 0, ent := .own, tcause := 3, tpc := 0, tinfo0 := 1, tinfo1 := 2, tinfo2 := 0, tinfo3 := 0, resume := 0
    pred := 0, cause := .regRange, va := false })] }

/-- A result of p1 that is ready at clock 4. -/
def mPend : State :=
  match (m0.core 0).group? 0 with
  | some g => m0.setCore 0 ((m0.core 0).setGroup 0 { g with
      pend := [{ by_ := .own, ready := 4, tgt := .pred 1, mask := 0xFF, val := 1 }] })
  | none => m0

theorem witness_entryControl :
    MeetsAll m0 [plainSpec (.nop unw) unw true false, plainSpec (.yield unw) unw false false, plainSpec (.idmc unw) unw false false]
    ∧ Meets m0 (plainSpec (.exit unw) unw true false) (fun _ x => x.e.handler.isNone)
    ∧ Meets mTrapFrame (plainSpec (.exit unw) unw true false)
        (fun _ x => x.e.handler.any fun i => (KMap.get? x.k.traps i).isSome)
    ∧ Meets m0 lead (fun _ x => (x.k.group? x.slot).any fun g => g.pend.all fun p => decide (p.tgt ≠ .pred 1))
    ∧ Meets mPend lead
        (fun _ x => (x.k.group? x.slot).any fun g => g.pend.any fun p => decide (p.tgt = .pred 1)) :=
  ⟨meetsAll_of_passes (by decide +kernel), meets_of_passes (by decide +kernel), meets_of_passes (by decide +kernel),
    meets_of_passes (by decide +kernel), meets_of_passes (by decide +kernel)⟩

end Sys2Proof.Tests
end

