-- ==== Sys2Proof/Tests/WitnessFabric.lean ====
section
/-! SUPPORT. Witnesses: states that meet the hypotheses of the statements about slices, routers and die links. -/

-- One test after another: many that wait for the kernel at once take more threads than the sandbox has memory for.
set_option Elab.async false

namespace Sys2Proof.Tests

open Sys2Proof Sys2Proof.Machine Sys2Proof.Statements

/-! ## Slices -/

def req0 (line : Nat) : SReq := { kind := .load, line := line, core := 0, vf := 0, pres := false, out := none, num := none }
def miss0 (line n : Nat) : Miss := { line := line, reqs := List.replicate n (req0 line) }
def ent0 (dirty : Bool) : LineEnt := { line := 9, way := 3, dirty := dirty, pres := false, vf := 0 }
/-- Slice 2 of die 0 is `x`. -/
def mSlice (x : Slice) : State := m0.setSlice 0 2 x
/-- Every way of die 0 is the pages' with PRES. -/
def noWay (s : State) : State := s.setDie 0 { s.die 0 with pway := 0xFFFF }
/-- The slice of `s` with the request for line 9 started, where that is its oldest. -/
def started (s : State) : State := (s.setSlice 0 2 { s.slice 0 2 with inq := [] }).pressOwner (req0 9)
def asking9 (x : Slice) : State := mSlice { x with inq := [req0 9] }
def sliceJudged (s : State) (p : State → Slice → Bool) : Bool :=
  decide ((s.slice 0 2).inq = [req0 9]) && decide ((s.slice 0 2).side.length < 32) && p (started s) ((started s).slice 0 2)
/-- Nothing holds the request, and its line is not in the slice. -/
def plainMiss (s : State) (p : State → Slice → Bool) : Bool := sliceJudged s fun s1 y =>
  !(y.side.any fun q => decide (q.line = 9)) && !s1.lineHeld 0 2 (req0 9) && !(y.lines.any fun l => decide (l.line = 9)) && p s1 y
def missOf (y : Slice) : Option Miss := y.misses.find? fun m => decide (m.line = 9)
def anyWay (s1 : State) : Bool := decide ((s1.die 0).ways 0 false ≠ 0)
def others (n : Nat) : List Miss := (List.range n).map fun i => miss0 (100 + i) 1

theorem witness_sliceRequests :
    sliceJudged (asking9 { Slice.reset with side := [req0 9] }) (fun _ y => y.side.any fun q => decide (q.line = 9)) = true
    ∧ sliceJudged { asking9 Slice.reset with codecBusy := [9] } (fun s1 _ => s1.lineHeld 0 2 (req0 9)) = true
    ∧ sliceJudged (asking9 { Slice.reset with lines := [ent0 false] }) (fun s1 y =>
        !s1.lineHeld 0 2 (req0 9) && y.lines.any fun l => decide (l.line = 9)) = true
    ∧ plainMiss (asking9 { Slice.reset with misses := [miss0 9 15] }) (fun _ y => decide (missOf y = some (miss0 9 15))) = true
    ∧ sliceJudged (asking9 { Slice.reset with lines := [ent0 false], misses := [miss0 9 1] }) (fun _ y =>
        !(y.side.any fun q => decide (q.line = 9)) && (y.lines.any fun l => decide (l.line = 9)) && decide (missOf y = some (miss0 9 1))) = true
    ∧ plainMiss (asking9 { Slice.reset with misses := [miss0 9 16] }) (fun _ y => decide (missOf y = some (miss0 9 16))) = true
    ∧ (miss0 9 15).reqs.length < 16 ∧ 16 ≤ (miss0 9 16).reqs.length
    ∧ plainMiss (noWay (asking9 Slice.reset)) (fun s1 y => (missOf y).isNone && !anyWay s1) = true
    ∧ plainMiss (asking9 { Slice.reset with misses := others 255 }) (fun s1 y =>
        (missOf y).isNone && anyWay s1 && decide (y.misses.length < 256)) = true
    ∧ plainMiss (asking9 { Slice.reset with misses := others 256 }) (fun s1 y =>
        (missOf y).isNone && anyWay s1 && decide (256 ≤ y.misses.length)) = true := by
  decide +kernel

def filling (x : Slice) : Slice := { x with misses := [miss0 9 1] }
def victimOf (x : Slice) (way : Nat) : Option LineEnt :=
  x.lines.find? fun l => decide (l.way = way) && decide (cacheSet (l.line * 128) = cacheSet (9 * 128))

/-- The first request of a filled miss entry of two is held by the codec, or is not; another line's entry stays as it is. -/
theorem witness_missesServed :
    ({ mSlice { Slice.reset with misses := [miss0 9 2] } with codecBusy := [9] } : State).lineHeld 0 2 (req0 9) = true
    ∧ (mSlice { Slice.reset with misses := [miss0 9 2] }).lineHeld 0 2 (req0 9) = false
    ∧ (({ Slice.reset with misses := [miss0 9 2, miss0 100 1] } : Slice).putMiss 9 [req0 9]).misses.map (fun m => m.reqs.length) = [1, 1] := by
  decide +kernel

theorem witness_sliceLines :
    (let s := mSlice { Slice.reset with lines := [ent0 false], misses := [miss0 9 1] }
     s.missReady 0 2 = some (miss0 9 1))
    ∧ (let s := mSlice { Slice.reset with side := [req0 9] }
     s.missReady 0 2 = none) ∧
    (let s := mSlice { Slice.reset with side := [req0 9] }
     (s.sideReady 0 2 [] (s.slice 0 2).side).isSome = true)
    ∧ (let s := mSlice { Slice.reset with wbs := [9] }
       (s.slice 0 2).wbs.find? (fun l => !(s.die 0).flits.any fun f => f.writesLine l) = some 9)
    ∧ (((mSlice (filling Slice.reset)).slice 0 2).misses.find? (fun m => decide (m.line = 9)) = some (miss0 9 1)
      ∧ (miss0 9 1).reqs = req0 9 :: [] ∧ (filling Slice.reset).has 9 = false)
    ∧ (((mSlice (filling Slice.reset)).die 0).ways 0 false).getLsbD 3 = true
    ∧ victimOf { Slice.reset with lines := [ent0 true] } 4 = none
    ∧ victimOf { Slice.reset with lines := [ent0 false] } 3 = some (ent0 false)
    ∧ victimOf { Slice.reset with lines := [ent0 true], wbs := List.replicate 15 1 } 3 = some (ent0 true)
    ∧ KMap.get? ({ m0 with l1own := [(9, (0, 16))] } : State).l1own 9 = some (0, 16) := by
  decide +kernel

def contrib (seq : Option (Nat × Nat)) : Contribution :=
  { line := 9, vf := 0, pres := false, seq := seq, elems := [(0, 0x3F800000)], core := 0, op := 0, num := none }
def seq0 (line next : Nat) : SeqEnt := { line := line, n := 3, next := next, last := 0 }
/-- The contribution is the slice's next, with the tables of `x`: its next ordinal, the room in them, and its length. -/
def addJudged (x : Slice) (c : Contribution) (p : Nat → Bool → Bool → Slice → Bool) : Bool :=
  let s := mSlice { x with adds := [c] }
  let y := (s.dropAdd 0 2 c).slice 0 2
  decide (s.nextAdd 0 2 = some c) && p (((y.seqOf c.line).map fun e => e.next).getD 0)
    ((y.seqOf c.line).isSome || decide (y.seqs.length < 256)) ((y.seqOf c.line).all fun e => decide (e.n = (c.seq.map Prod.fst).getD 0)) y
def fullSeqs : List SeqEnt := (List.range 256).map fun i => seq0 (100 + i) 0

/-- Unordered; the first of three; the only one, where the tables are full; one ahead of its turn; one behind it; another
length. -/
theorem witness_additions :
    addJudged Slice.reset (contrib none) (fun _ _ _ _ => true) = true
    ∧ addJudged Slice.reset (contrib (some (3, 0))) (fun next room same _ => decide (next = 0) && room && same) = true
    ∧ addJudged { Slice.reset with seqs := fullSeqs } (contrib (some (1, 0))) (fun next room same _ =>
        decide (next + 1 = 1) && !room && same) = true
    ∧ addJudged { Slice.reset with seqs := [seq0 9 0] } (contrib (some (3, 1))) (fun next room same y =>
        decide (next < 1) && room && same && decide (y.merges.length < 64)) = true
    ∧ addJudged { Slice.reset with seqs := [seq0 9 2] } (contrib (some (3, 1))) (fun next _ same _ => decide (1 < next) && same) = true
    ∧ addJudged { Slice.reset with seqs := [seq0 9 2] } (contrib (some (4, 2))) (fun _ _ same _ => !same) = true := by
  decide +kernel

theorem witness_sequenceTimeout :
    let s := { mSlice { Slice.reset with seqs := [seq0 9 1] } with clk := { m0.clk with fabric := 65536 * 256 } }
    (s.slice 0 2).seqOf 9 = some (seq0 9 1) ∧ (s.die 0).seqto.toNat % 2 ^ 24 * 256 ≠ 0
    ∧ (seq0 9 1).last + (s.die 0).seqto.toNat % 2 ^ 24 * 256 ≤ s.clk.fabric := by
  decide +kernel

/-- A walk of die 0, from whose way 3 virtual function 0 is excluded, with these lines and write-backs in slice 2. -/
def mWalk (lines : List LineEnt) (wbs : List Nat) : State :=
  m0.setDie 0 { m0.die 0 with
    wmstat := 1, slices := [(2, { Slice.reset with lines := lines, wbs := wbs })], vfway := [(0, 0xFFF7)] }
def walkedAll (s : State) : State := ((s.die 0).slices.map Prod.fst).foldl (fun u j => u.walkSlice 0 j) s

theorem witness_wayMasks :
    ((mWalk [] []).die 0).wmstat.getLsbD 0 = true ∧ (m0.die 3).wmstat.getLsbD 0 = false
    ∧ ((walkedAll (mWalk [ent0 false] [])).die 0).excluded = []
    ∧ (let s := mWalk [ent0 false, ent0 true] (List.replicate 16 1)
       ((walkedAll s).die 0).excluded ≠ [] ∧ ((walkedAll s).die 0).excluded.length ≠ (s.die 0).excluded.length) := by
  decide +kernel

/-! ## Routers -/

/-- A flit of an answer at router 1, with its turns. -/
def flit0 (turns : BitVec 16) : Flit :=
  let f : Flit := { id := 5, pkt := 5, part := 0, parts := 1, waits := false, stamp := [], router := 1, turns := turns, dstDie := 0, dstRouter := 1
                    dstPort := 0, chan := 1, second := false, srcDie := 0, src := 8, alt := false, via := 8, resends := 0, crc := 0, msg := .resp 0 0 }
  { f with crc := flitCrc f }
def sealed (f : Flit) : Flit := { f with crc := flitCrc f }
def mFlit (f : Flit) : State := m0.setDie 0 { m0.die 0 with flits := [f] }
/-- The flit arrives whole over a link in service, and `p` holds of the state after its check. -/
def flitJudged (f : Flit) (p : State → Bool) : Bool :=
  let s := mFlit f
  decide ((s.die 0).flits.find? (fun f => decide (f.id = 5)) = some f) && !((s.die 0).link f.via).down && decide (f.crc = flitCrc f)
    && !(s.die 0).failed f.via && p s
def arrived0 : Flit := flit0 0x8000
/-- A router link out of service that has been resending. -/
def worn : RLink := { down := true, winFrom := 0, winCount := 1001 }
def at15 (m : Msg) : Flit := sealed { flit0 0x8004 with router := 15, msg := m }
def away (router : Nat) : Flit := sealed { arrived0 with router := router, dstDie := 1 }

/-- Waiting at its port; without V; a code above 4; turns 1 to 3; turn 4 inside the quadrant, at a gateway, and at router 15 with
and without a write-back; turn 0 at its endpoint, at another router, and to another die away from and at its gateway. -/
theorem witness_routerFlits :
    flitJudged (sealed { arrived0 with waits := true }) (fun u => (u.startPacket 0 (sealed { arrived0 with waits := true })).isSome) = true
    ∧ ([0x0000, 0x8007, 0x8001, 0x8003, 0x8004].all fun t => flitJudged (flit0 t) fun _ => true) = true
    ∧ (flit0 0x8004).router % 4 ≠ 3
    ∧ flitJudged (sealed { flit0 0x8004 with router := 3 }) (fun _ => true) = true
    ∧ flitJudged (at15 (.write 9 [])) (fun _ => true) = true ∧ flitJudged (at15 (.resp 0 0)) (fun _ => true) = true
    ∧ flitJudged arrived0 (fun u => !(u.die 0).behind arrived0 && (u.deliverFlit 0 arrived0).isSome) = true
    ∧ flitJudged (sealed { arrived0 with dstRouter := 2 }) (fun u => !(u.die 0).behind (sealed { arrived0 with dstRouter := 2 })) = true
    ∧ (let f := sealed { arrived0 with dstRouter := 2 }
       let s := (mFlit f).setDie 0 { (mFlit f).die 0 with links := [(8 * 9 + 4, worn)] }
       (s.die 0).anyDown = true ∧ !(s.die 0).behind f ∧ !(s.die 0).failed f.via ∧ !((s.die 0).link f.via).down
        ∧ ((mFlit f).die 0).anyDown = false)
    ∧ flitJudged (away 1) (fun u => !(u.die 0).behind (away 1) && decide (1 ≠ gatewayRouter 0 (u.nextHop 0 1))) = true
    ∧ (let g := gatewayRouter 0 ((mFlit arrived0).nextHop 0 1)
       flitJudged (away g) (fun u => !(u.die 0).behind (away g) && decide (g = gatewayRouter 0 (u.nextHop 0 1))
        && (u.crossGateway 0 (away g)).isSome) = true) := by
  decide +kernel

def held0 : Held := { src := 1, stamp := [0, 0, 0, 0, 0], flit := arrived0 }

theorem witness_crossDie :
    (({ m0.die 0 with heldMsgs := [held0] } : Die).heldMsgs.find? fun h => ({ m0.die 0 with heldMsgs := [held0] } : Die).mayRelease 0 h)
      = some held0
    ∧ ({ m0.die 0 with vec := [1, 0, 0, 0, 0] } : Die).ownCount 0 1 ≠ getAt ({ m0.die 0 with vec := [1, 0, 0, 0, 0] } : Die).sent 1 0 := by
  decide +kernel

/-! ## Die links -/

def link0 : LinkDir := LinkDir.reset 0 1
def mLink (l : LinkDir) : State := m0.setLink 0 l
def syms0 : List Sym := [.hit 0, .miss 7]
def cflit (seq : Nat) : CFlit :=
  { seq := seq, syms := syms0, crc := linkCrc seq syms0, words := [0, 7], flit := arrived0, stamp := [0, 0, 0, 0, 0] }

theorem witness_dieLinks :
    (let l := { link0 with wire := [cflit 0], replay := [cflit 0], sendSeq := 1 }
     (mLink l).linkDir 0 false = some l ∧ (cflit 0).crc = linkCrc (cflit 0).seq (cflit 0).syms ∧ (cflit 0).seq = l.recvSeq % 256
      ∧ (cflit 0).syms.map (decodeSym (applyOldest l.recvTable l.recvPend).1) = (cflit 0).words)
    ∧ (cflit 3).seq ≠ link0.recvSeq % 256 ∧ (cflit 3).crc = linkCrc (cflit 3).seq (cflit 3).syms
    ∧ (cflit 0).crc ^^^ 1 ≠ linkCrc (cflit 0).seq (cflit 0).syms
    ∧ ({ link0 with replay := [cflit 0], sendSeq := 1, recvSeq := 1 } : LinkDir).ackable ≠ 0
    ∧ (mLink { link0 with nak := true }).linkDir 0 false = some { link0 with nak := true }
    ∧ (let l := { link0 with replay := [cflit 0], sendSeq := 1 }
       (mLink l).linkDir 0 false = some l ∧ l.replay ≠ [] ∧ l.lastAck + 512 ≤ 512) := by
  decide +kernel

/-- A flit on the link of router 1's port `p` that has been sent again 16 times. -/
def stuck (p : Nat) : Flit := { arrived0 with via := 8 * 1 + p, resends := 16 }

theorem witness_linkFailures :
    ([0, 2, 3, 4, 6, 7].all fun p =>
        let x := { m0.die 0 with flits := [stuck p] }
        !(x.link (8 * 1 + p)).down && x.flits.any fun f => decide (f.via = 8 * 1 + p) && decide (16 ≤ f.resends)) = true
    ∧ (let x := { m0.die 0 with links := [(11, { worn with down := false }), (12, worn)] }
       (x.link (8 * 1 + 3)).down = false ∧ 1000 < (x.link (8 * 1 + 3)).winCount ∧ (x.link (8 * 1 + 4)).down = true ∧ x.flits = []) := by
  decide +kernel

/-- Either direction of link 0 has sent again 16 times; and the link is out of service. -/
theorem witness_dieLinkOutOfService :
    (let s := mLink { link0 with resends := 16 }
     s.dlinks[2 * 0]? = some { link0 with resends := 16 } ∧ s.dlinks[2 * 0 + 1]? = some (LinkDir.reset 1 0) ∧ link0.down = false)
    ∧ (let s := m0.setLink 1 { LinkDir.reset 1 0 with resends := 16 }
       s.dlinks[2 * 0]? = some link0 ∧ s.dlinks[2 * 0 + 1]? = some { LinkDir.reset 1 0 with resends := 16 })
    ∧ (let s := mLink { link0 with down := true }
       s.dlinks[2 * 0]? = some { link0 with down := true } ∧ (s.die 0).lost = false ∧ (s.die 1).lost = false ∧ (s.die 0).flits = []
        ∧ (s.die 1).flits = []) := by
  decide +kernel

end Sys2Proof.Tests
end

