-- ==== Sys2Proof/Tests/WitnessFirmware.lean ====
section
/-! SUPPORT. Witnesses: states that meet the hypotheses of the statements about events, firmware, the hypervisor, boot, the host
and the care of memory. -/

-- One test after another: many that wait for the kernel at once take more threads than the sandbox has memory for.
set_option Elab.async false

namespace Sys2Proof.Tests

open Sys2Proof Sys2Proof.Machine Sys2Proof.Statements

/-! ## The arbiter and the error records -/

def mEva (f : Eva → Eva) : State := { m0 with eva := f m0.eva }
def stamped0 : Stamped := { evseq := 4, ev := Event.blank }

theorem witness_arbiter :
    (let s := mEva fun a => { a with inputs := [(7, [Event.blank])] }
     s.eva.nextInput = some 7 ∧ KMap.getD s.eva.inputs 7 [] = Event.blank :: [] ∧ Event.blank.kind = .record ∧ Event.blank.launch = none)
    ∧ (let e : Event := { Event.blank with kind := .completion 0 4 }
       let s := mEva fun a => { a with inputs := [(7, [e])] }
       s.eva.nextInput = some 7 ∧ KMap.getD s.eva.inputs 7 [] = e :: [] ∧ e.kind = .completion 0 4)
    ∧ (let s := { mEva (fun a => { a with corrections := [(7, 3)], reported := [(7, 0)] }) with clk := { m0.clk with time := 1000000 } }
       KMap.getD s.eva.corrections 7 0 ≠ 0 ∧ KMap.get? s.eva.reported 7 = some 0 ∧ 0 + 1000000 ≤ s.clk.time)
    ∧ (KMap.getD (mEva fun a => { a with corrections := [(7, 3)] }).eva.corrections 7 0 ≠ 0
      ∧ KMap.get? (mEva fun a => { a with corrections := [(7, 3)] }).eva.reported 7 = none) := by
  decide +kernel

theorem witness_errorRecords :
    (mEva fun a => { a with stamped := [stamped0] }).eva.stamped = stamped0 :: [] ∧ m0.booted = true ∧ m0.fwRuns 3 = true := by
  decide +kernel

/-! ## Firmware's own cores -/

/-- The stand-in runs and the active core does not: it is stuck at its own memory error, or in reset for the handover. -/
def mStuck : State := m0.setFw 0 .stuck
def mHanding : State := m0.handover
def mStandin : State := (m0.setFw 1 .inReset).setSched 1 2 0

theorem witness_scheduler :
    (m0.booted = true ∧ m0.fwRuns m0.activeFw = true ∧ m0.fwRuns 2 = true)
    ∧ m0.fwc.lastBeat + max 1 (bits m0.fwc.sched.toNat 23 16) * 1000000 ≤ 10000000
    ∧ (mStuck.booted = true ∧ getAt mStuck.fwc.cores mStuck.activeFw .halted = .stuck ∧ mStuck.fwRuns 2 = true
      ∧ mStuck.schedState = 0 ∧ mStuck.fwRuns (1 - mStuck.activeFw) = true)
    ∧ (mHanding.booted = true ∧ mHanding.fwRuns mHanding.activeFw = false ∧ mHanding.schedState = 1
      ∧ mHanding.fwRuns (1 - mHanding.activeFw) = true ∧ m0.activeFw < m0.fwc.cores.length)
    ∧ (mStandin.booted = true ∧ mStandin.fwRuns mStandin.activeFw = true ∧ mStandin.schedState ≠ 0)
    ∧ (mStandin.schedState = 2 ∧ getAt mStandin.fwc.cores (1 - mStandin.activeFw) .halted = .inReset ∧ mStandin.fwRuns 3 = true)
    ∧ (List.range 4).all (fun f => m0.fwRuns f) = true ∧ m0.activeFw = 0 := by
  decide +kernel

def dbgGroup (d : DbgState) : State := withCore m0 fun k =>
  { k with groups := k.groups.map fun g => (g.1, { g.2 with dbg := d }) }
/-- STATUS is not 3, and the group in slot 0 stands as `d`. -/
def dbgJudged (d : DbgState) : Bool :=
  decide (((dbgGroup d).core 0).dbgStatus ≠ 3) && match (((dbgGroup d).dbgSlot 0 0).core 0).group? 0 with
    | some g => decide (g.dbg = d)
    | none => false

theorem witness_debugger :
    ((dbgGroup .stopPending).core 0).dbgStatus = 3
    ∧ dbgJudged .running = true ∧ dbgJudged .stopped = true ∧ dbgJudged .stepping = true
    ∧ ((dbgGroup .running).core 0).dbgStatus ≠ 3 ∧ (((dbgGroup .running).dbgSlot 0 5).core 0).group? 5 = none := by
  decide +kernel

theorem witness_registerWrites :
    regExists (.eseCtl 191) = true ∧ regExists (.l2sPway 3) = true ∧ regExists (.l2sVfway 0 127) = true
    ∧ MmioReg.eseCtl 191 ≠ .l2sPway 0 ∧ firmwareOnly (.eseCtl 191) = true
    ∧ firmwareOnly (.distDbell 126 7) = false ∧ regExists (.distDbell 126 7) = true := by
  decide +kernel

theorem witness_registerFields :
    ((0x10 : W64).setWidth 32 : W32).getLsbD 4 = true ∧ m0.sel.heads.length = 4 ∧ (6 : W64).getLsbD 0 = false
    ∧ MmioReg.distKick 3 ≠ .fwcErrcfg ∧ MmioReg.distKick 3 ≠ .fwcErridx ∧ MmioReg.distKick 3 ≠ .fwcKill
    ∧ MmioReg.distKick 3 ≠ .distDbell 127 15 ∧ firmwareOnly (.fabCtl 3) = true := by
  decide +kernel

/-! ## Requests to firmware -/

def hold0 : S2Hold := { vf := 0, ia := 0x10000, cause := .translation, die := 0 }
def holds (s : State) : State := { s with fwc := { s.fwc with holds := [hold0] } }
def lets (s : State) (h : List S2Hold) : State := { s with fwc := { s.fwc with holds := h } }

/-- The page is mapped and its frame is there: an earlier fault has brought it. -/
def mSettled : State := lets { putWords (putWords (putWords m0 0x100000 [0x110001]) 0x110000 [0x120001]) 0x120000 [0x20001F, 0x21001F] with
    vfs := [(0, { m0.vf 0 with root2 := some 0x100000 })] } []

theorem witness_stage2 :
    ((holds mCopyHeld).fwc.holds = hold0 :: [] ∧ (holds mCopyHeld).inWindow 0 1 = false)
    ∧ mSettled.settled2 0 0x10000 .translation = true
    ∧ ((lets (holds mCopyHeld) []).settled2 0 0x10000 .translation = false
      ∧ ((lets (holds mCopyHeld) []).resolve2 0 0x10000 .translation 0).isSome = true)
    ∧ ((lets (holds m0) []).settled2 0 0x10000 .translation = false ∧ (lets (holds m0) []).resolve2 0 0x10000 .translation 0 = none) := by
  decide +kernel

/-- Virtual function 0 owns domain 0 and no work is bound; frame 7 has no owner. -/
def mHost : State := { mBind with dist := { mBind.dist with launches := [] } }

/-- Its Selham launch runs, and no kill has met it. -/
def mShown : State := { mHost with sel := { mHost.sel with running := true } }

theorem witness_hypervisor :
    mHost.booted = true ∧ KMap.get? mHost.dist.queues 1023 = none
    ∧ (vfCfgOk (mHost.vf 0).cfg = true ∧ mHost.domainClash 0 { mHost.vf 0 with cfg := (mHost.vf 0).cfg } = false
      ∧ sharesFit (KMap.put mHost.vfs 0 (mHost.vf 0)) (bits mHost.sel.bwres.toNat 3 0) = true)
    ∧ vfCfgOk { VfCfgWords.zero with w30 := 17 } = false
    ∧ (mHost.fwRuns 2 = true ∧ (mHost.vf 126).valid = false ∧ (mHost.vf 0).valid = true)
    ∧ (mHost.sel.running = false ∧ (mHost.killVf 0 3).vfBusy 0 = false)
    ∧ ((mShown.vf 0).valid = true ∧ mShown.sel.killed = false ∧ mShown.load.vf = 0 ∧ (mShown.killVf 0 3).vfBusy 0 = true)
    ∧ (([5, 6] : List Nat).all (mHost.mayAllow 0) = true ∧ ([2 ^ 30] : List Nat).all (mHost.mayAllow 0) = false)
    ∧ ((mHost.die (11 / 3)).lost = false ∧ (mHost.vf 0).ownsDomain 11 = false
      ∧ (let freed := mHost.vfs.map fun (e : Nat × Vf) => (e.1, e.2.setDomain 11 false)
         sharesFit (KMap.put freed 0 ((mHost.vf 0).setDomain 11 true)) (bits mHost.sel.bwres.toNat 3 0) = true)
      ∧ ((domainCores 11).all fun c => decide ((mHost.core c).groups = [])) = true)
    ∧ (populated (65536 * 7) = true ∧ mHost.ownerOf 7 ≠ 0xFF ∧ (0x80 : BitVec 8) ≠ 0xFF
      ∧ ((mHost.vf ((mHost.ownerOf 7).toNat % 128)).valid && mHost.vfBusy ((mHost.ownerOf 7).toNat % 128)) = false
      ∧ ((mHost.vf ((0x80 : BitVec 8).toNat % 128)).valid && mHost.vfBusy ((0x80 : BitVec 8).toNat % 128)) = false) := by
  decide +kernel

def plugin4 : Plugin := { id := 4, code := [0x13, 0], data := [] }
def mPlugin : State := { mBind with fwc := { mBind.fwc with
  plugins := [plugin4], modes := [.supervisor, .supervisor, .supervisor, .supervisor] } }

/-- Candidate 0 exists, number 1 does not; accesses that PMP lets a plug-in make, and one that it refuses; the security core
runs, and does not. -/
theorem witness_plugins :
    ([0x12, 0x34] : List (BitVec 8)).length ≤ 262144
    ∧ (mPlugin.fwc.plugins.find? fun p => decide (p.id = 4)) = some plugin4 ∧ KMap.get? mPlugin.dist.chosen 0 = none
    ∧ getAt mPlugin.fwc.modes mPlugin.activeFw .machine = .supervisor
    ∧ (plugin4.run [.fetch .code 1, .load .vfConfigs 0 8, .store .data 262143 [1]]).2 = true
    ∧ (plugin4.run [.store .data 0 [1], .store .code 0 [1]]).2 = false
    ∧ plugin4.allows (.load .data 262143 2) = false ∧ plugin4.allows (.load .data 262143 1) = true
    ∧ ((mPlugin.allCands 0).2[0]?).isSome = true ∧ (mPlugin.allCands 0).2[1]? = none
    ∧ mPlugin.fwRuns 2 = true ∧ (mPlugin.setFw 2 .halted).fwRuns 2 = false := by
  decide +kernel

/-! ## Boot, clocks and the host -/

/-- An image of four empty sections, and its signature with the private key 1. -/
def image0 : FwImage := { header := [], sections := [[], [], [], []] }
def signature0 : Nat × Nat := ecdsaSign 1 3 (sha512 [])

theorem witness_boot :
    State.reset.booted = false ∧ State.reset.fwc.securityOk = true ∧ imageGood { image0 with sections := [] } signature0 = false := by
  decide +kernel

/-- The fuses and the header's layout are open: where the header names the key 1, whose digest is fused, and a version not
below the count, the image is good. -/
theorem witness_bootGood (hk : Config.headerKey [] = p521Base) (hd : Config.keyDigest = sha512 (keyBytes p521Base))
    (hv : Config.rollbackCount ≤ Config.headerVersion []) : imageGood image0 signature0 = true := by
  have h : ecdsaOk p521Base (sha512 []) signature0 = true := by decide +kernel
  simp [imageGood, image0, imageBody, hk, hd, hv] at h ⊢
  exact h

def thermal (t : Thermal) (time : Nat) : State := { m0 with clk := { m0.clk with thermal := t, time := time } }
def access0 (n : Nat) : HostAccess :=
  { port := 0, uio := false, write := false, space := .hdm 1, offset := 0xFFF0, data := List.replicate n 0 }

theorem witness_clocks :
    (m0.booted = true ∧ m0.fwRuns 3 = true ∧ m0.clk.thermal = .running ∧ 100 < m0.clk.arithMhz)
    ∧ ({ m0.clk with arithMhz := 3500 } : Clocks).arithMhz < 3600
    ∧ (thermal .stopped 0).clk.thermal = .stopped ∧ (thermal .stopped 0).fwRuns 3 = true
    ∧ (let s := thermal .stopped 11000000000
       s.clk.thermal = .stopped ∧ s.fwRuns 3 = true ∧ s.clk.stopTime + 1000000000 ≤ s.clk.time ∧ s.clk.time ≤ s.clk.stopTime + 11000000000) := by
  decide +kernel

def line9 : HostLine := { addr := 9, bytes := List.replicate 64 0, dirty := true }
def mLines : State := { m0 with clk := { m0.clk with hostLines := [line9] } }

theorem witness_host :
    (access0 16).space = .hdm 1 ∧ (access0 16).write = false ∧ (access0 16).data ≠ []
    ∧ (access0 16).offset / 65536 = ((access0 16).offset + (access0 16).data.length - 1) / 65536
    ∧ m0.hostMay false ((1 * 2 ^ 40 + 0xFFF0) / 65536) = true
    ∧ ({ m0 with fwc := { m0.fwc with owners := [((1 * 2 ^ 40 + 0xFFF0) / 65536, 0x80)] } } : State).hostMay false
        ((1 * 2 ^ 40 + 0xFFF0) / 65536) = false
    ∧ (0xFFF0 + 16 ≤ 0x1200000000)
    ∧ (coverWords 7 true 4 (leBytes 4 1) = some 0x100000007 ∧ coverWords 7 false 4 (leBytes 4 1) = none)
    ∧ (m0.booted = true ∧ 4092 + 4 ≤ 4096 ∧ m0.fwRuns 2 = true ∧ (127 : Nat) < 128 ∧ ¬ (128 : Nat) < 128)
    ∧ (regExists .fwcPkgid = true ∧ regExists (.distDbell 126 7) = true ∧ inVfBar 126 (.distDbell 126 7) = true)
    ∧ ({ thermal .stopped 0 with clk := { (thermal .stopped 0).clk with hostWaits := [access0 1] } } : State).clk.hostWaits = access0 1 :: []
    ∧ (mLines.clk.hostLines.find? fun l => decide (l.addr = 640 / 64)) = none
    ∧ (mLines.clk.hostLines.find? fun l => decide (l.addr = 576 / 64)) = some line9 := by
  decide +kernel

/-! ## The care of memory -/

/-- Intermediate pages 0 and 1 of virtual function 0 are frames 0x20 and 0x21, both empty; it may be sifted. -/
def mSift : State :=
  let s := putWords (putWords (putWords { m0 with fwc := { m0.fwc with sift := 1 } } 0x100000 [0x110001]) 0x110000 [0x120001])
    0x120000 [0x20000F, 0x21000F]
  { s with vfs := [(0, { s.vf 0 with root2 := some 0x100000, hpol := 8 })] }

theorem witness_sifter :
    bits mSift.fwc.sift.toNat 14 8 = 0 ∧ mSift.booted = true ∧ mSift.clk.thermal = .running ∧ mSift.fwc.window = none
    ∧ bit mSift.fwc.sift.toNat 0 = true ∧ (mSift.vf 0).hpol.getLsbD 3 = true ∧ (mSift.vf 0).root2 = some 0x100000
    ∧ mSift.leafAddr2 0x100000 0 = some 0x120000 ∧ mSift.leafAddr2 0x100000 0x10000 = some 0x120008
    ∧ mSift.maySift 0 0 0x10000 0x120000 0x120008 = true := by
  decide +kernel

/-- The merge is open; a store waits for one of its pages; the frames have come to differ. -/
def window0 : MoveWindow :=
  { merge := true, ia1 := 0, ia2 := 0x10000, frame := 0, spare := 0, entries := [(0, 0, 0x120000, 0x20000F), (0, 1, 0x120008, 0x21000F)] }
def mMerging : State := { mSift with fwc := { mSift.fwc with window := some window0 } }
def waitsFor (s : State) : Bool := s.fwc.holds.any fun h => decide (h.vf = 0) && (decide (h.ia / 65536 = 0) || decide (h.ia / 65536 = 1))

/-- The frame's slice holds one of its lines dirty. -/
def mDirtyFrame (s : State) (f : Nat) : State :=
  s.setSlice (homeDie (65536 * f)) 0 { Slice.reset with lines := [{ ent0 true with line := 512 * f }] }

theorem witness_merge :
    ([0x20, 0x21].any (mDirtyFrame mMerging 0x20).frameDirty = true ∧ [0x20, 0x21].any (mDirtyFrame mMerging 0x20).mayClean = true
      ∧ [0x20, 0x21] = [frameOf 0x20000F / 65536, frameOf 0x21000F / 65536] ∧ [0x20, 0x21].any mMerging.frameDirty = false)
    ∧ mMerging.fwc.window = some window0 ∧ window0.merge = true
    ∧ window0.entries = [(0, 0, 0x120000, 0x20000F), (0, 1, 0x120008, 0x21000F)]
    ∧ waitsFor mMerging = false ∧ mMerging.frameCells (frameOf 0x20000F / 65536) = mMerging.frameCells (frameOf 0x21000F / 65536)
    ∧ waitsFor (holds mMerging) = true
    ∧ (putWords mMerging 0x200000 [1]).frameCells (frameOf 0x20000F / 65536)
        ≠ (putWords mMerging 0x200000 [1]).frameCells (frameOf 0x21000F / 65536) := by
  decide +kernel

/-- Both kinds of error can be found in a byte of a core's scratchpad, and in a clean line of a slice, which is dropped without an event. -/
theorem witness_scrub :
    (m0.scrubSource (.scratch 191 (2 ^ 21 - 1))).isSome = true ∧ m0.findable (.scratch 191 (2 ^ 21 - 1)) .corrected = true
    ∧ m0.findable (.scratch 191 (2 ^ 21 - 1)) .uncorrectable = true ∧ m0.findable (.l2 0 2 9) .uncorrectable = true ∧ (m0.markPlace (.scratch 191 (2 ^ 21 - 1))).2 = true
    ∧ ((mSlice { Slice.reset with lines := [ent0 false] }).scrubSource (.l2 0 2 9)).isSome = true
    ∧ ((mSlice { Slice.reset with lines := [ent0 false] }).markPlace (.l2 0 2 9)).2 = false := by
  decide +kernel

def mRetire : State := { m0 with fwc := { m0.fwc with corrected := [(7, (0, 4))] } }
def move0 : MoveWindow := { merge := false, ia1 := 0, ia2 := 0, frame := 7, spare := 8, entries := [] }

/-- A frame whose errors were counted in the present pass, and one of an earlier pass that is not due. -/
theorem witness_countFrame :
    m0.scrubPass 0 = 0 ∧ (KMap.getD { m0.fwc with corrected := [(7, (0, 2))] }.corrected 7 (m0.scrubPass 0, 0)).1 = m0.scrubPass 0
    ∧ (thermal .running (10 ^ 18)).scrubPass 0 ≠ 0 ∧ (m0.retireLimit 0 = 0 ∨ 2 < m0.retireLimit 0) := by
  decide +kernel

theorem witness_retirement :
    let limit := mRetire.retireLimit (homeDie (65536 * 7))
    limit ≠ 0 ∧ limit ≤ (KMap.getD mRetire.fwc.corrected 7 (0, 0)).2 ∧ mRetire.fwc.window = none
    ∧ mRetire.ownerOf 7 ≠ 0xFF ∧ mRetire.pinnedFrame 7 = false ∧ populated (65536 * 8) = true ∧ mRetire.withheld (65536 * 8) = false
    ∧ KMap.get? mRetire.fwc.owners 8 = none
    ∧ ({ mRetire with fwc := { mRetire.fwc with owners := [(7, 0xFF)] } } : State).ownerOf 7 = 0xFF
    ∧ ({ mRetire with fwc := { mRetire.fwc with window := some move0 } } : State).fwc.window = some move0
    ∧ move0.merge = false ∧ move0.spare ≠ move0.frame
    ∧ (mDirtyFrame mRetire 7).frameDirty 7 = true ∧ (mDirtyFrame mRetire 7).mayClean 7 = true ∧ mRetire.frameDirty 7 = false := by
  decide +kernel

end Sys2Proof.Tests
end

