-- ==== Sys2Proof/Tests/WitnessMachine.lean ====
section
/-! SUPPORT. Witnesses: states that meet the hypotheses of the statements about steps, traps, results and frames. -/

-- One test after another: many that wait for the kernel at once take more threads than the sandbox has memory for.
set_option Elab.async false

namespace Sys2Proof.Tests

open Sys2Proof Sys2Proof.Machine Sys2Proof.Statements

/-! ## Steps -/

/-- The agent `a` is next, and memory holds the word 0x003D0102_03044000 (`IADD`) at 0x8000. -/
def mStep (a : Agent) : State := { putWords m0 0x8000 [0x003D010203044000] with turn := none, agenda := [a] }
def iadd0 : V3 :=
  { g := { stall := 3, pn := true, pred := 5 }, d := 1, a := 2, b := 3, c := 4, lit := false, bi := true, ty := 0, rm := 0, na := false
    nb := false, nc := false, aa := false, func := 0, literal := 0 }

/-- What the statement asks of an entry's fetch, with the bytes from PA `pa` on and the literal word from `pb`. -/
def fetchGood (s : State) (i : Instr) : Bool :=
  let t := { s with agenda := [] }
  match (t.core 0).group? 0 with
  | none => false
  | some g => match g.entry? .own with
    | none => false
    | some e =>
      let u := t.setCore 0 ((t.core 0).setEntry 0 e.issuing)
      t.mayIssue 0 0 g e && match u.fetchPa 0 g.vf e.pc.toNat with
        | .ok pa =>
          let w := (u.noteXlate 0 g.vf e.pc.toNat .ex).codeWord g.launch pa
          if hasLiteral w.1 then
            match w.2.fetchPa 0 g.vf (e.pc + 8).toNat with
            | .ok pb =>
              let x := (w.2.noteXlate 0 g.vf (e.pc + 8).toNat .ex).codeWord g.launch pb
              match decode .compute (wordBytes w.1 ++ wordBytes x.1) with
              | .ok (j, []) => decide (j = i)
              | _ => false
            | .error _ => false
          else match decode .compute (wordBytes w.1) with
            | .ok (j, []) => decide (j = i)
            | _ => false
        | .error _ => false

def bilv0 : V3 := { iadd0 with g := ⟨0, false, 7⟩, b := 0, c := 0, lit := true, bi := false, func := 2, literal := 0xDEADBEEF }
def mStepLit : State := { putWords m0 0x8000 [0x2607010200008002, 0x00000000DEADBEEF] with turn := none, agenda := [.entry 0 0 .own] }

/-- The clocks are stopped, and `l` has come. -/
def mCold (l : List Instr) : State := { m0 with inbox := l, clk := { m0.clk with thermal := .stopped } }

theorem witness_step :
    m0.fwc.securityOk = true ∧ m0.clk.thermal = .running ∧ ({ m0 with inbox := [.heartbeat] } : State).inbox = .heartbeat :: []
    ∧ (({ m0 with inbox := [.heartbeat] } : State).nextInput).isSome = true
    ∧ ((mCold [.sliceRequest 0 0, .thermalRestart]).nextInput.map Prod.fst) = some .thermalRestart
    ∧ (mCold []).clk.thermal ≠ .running ∧ (mCold []).nextInput = none ∧ (mCold [.sliceRequest 0 0]).nextInput = none
    ∧ (mStep (.entry 0 0 .own)).clk.thermal = .running
    ∧ (mStep (.entry 0 0 .own)).inbox = [] ∧ (mStep (.entry 0 0 .own)).agenda = .entry 0 0 .own :: []
    ∧ (mStep (.entry 0 0 .own)).oldCode = []
    ∧ fetchGood (mStep (.entry 0 0 .own)) (.iadd iadd0) = true ∧ fetchGood mStepLit (.bilv bilv0) = true := by
  decide +kernel

/-- The agent that hands out no turn, and whose fetch gives the word. -/
theorem witness_stepAgents :
    (let t := { mStep (.entry 0 0 .own) with agenda := [] }
     (t.handOut (.entry 0 0 .own)).isNone = true ∧ (match t.fetch (.entry 0 0 .own) with
      | .run i _ => decide (i = .iadd iadd0)
      | _ => false) = true) := by
  decide +kernel

/-- A step of the entry answers a next state, from canonical memory. -/
theorem witness_entryStep :
    Memory.wf (mStep (.entry 0 0 .own)).mem = true ∧ (match step (mStep (.entry 0 0 .own)) with
      | .next t => Memory.wf t.mem
      | _ => false) = true := by
  decide +kernel

/-! ## Traps -/

/-- The launch of the group has a trap vector at 0x9000, or none. -/
def withVector (vec : Nat) : State :=
  { m0 with dist := { m0.dist with launches := [(0, { Launch.blank with hdr := { words := [0, 0, 0, 0, 0, 0, 0, 0, 0, 0, BitVec.ofNat 64 vec] } })] } }
/-- The entry in the handler of a trap. -/
def mTrapped : State :=
  (withVector 0x9000).takeTrap 0 0 .own (trapPlain .misaligned 1 2 0xFF) 8

theorem witness_traps :
    (let s := withVector 0x9000
     (s.launch 0).hdr.trapVec ≠ 0 ∧ (match (s.core 0).group? 0 with
      | some g => (match g.entry? .own with
        | some e => e.handler.isNone && decide (g.launch = 0) && decide (e.adepth < 8) && e.adopting.isNone
        | none => false)
      | none => false) = true)
    ∧ ((withVector 0).launch 0).hdr.trapVec = 0
    ∧ (match (mTrapped.core 0).group? 0 with
      | some g => (match g.entry? .own with
        | some e => (match e.handler with
          | some i => (KMap.get? (mTrapped.core 0).traps i).isSome && (KMap.get? ((mTrapped.core 0).settleAll 0).traps i).isSome
          | none => false)
        | none => false)
      | none => false) = true := by
  decide +kernel

/-- Every place of quarter 0 runs a handler of another group. -/
def mAllHandlers : State :=
  let s := withVector 0x9000
  let k := s.core 0
  let e := { Entry.fresh 0x9000 0 0 with handler := some 0 }
  let k := (List.range 8).foldl (fun (k : Core) n => k.setGroup (n + 1) (Group.fresh 0 0 0 0 none { e with handler := some n })) k
  s.setCore 0 { k with quarters := setAt k.quarters 0 { k.quarter 0 with
    active := (List.range 8).map fun n => (n, { slot := n + 1, ent := .own, since := 0, from_ := 0 }) } }

theorem witness_trapPlaces :
    (((((withVector 0x9000).core 0).settleAll 0).wakeGroup 0).ensurePlace 0 .own 0).isSome = true
    ∧ (((mAllHandlers.core 0).settleAll 0).wakeGroup 0).ensurePlace 0 .own 0 = none := by
  decide +kernel

/-! ## Results -/

/-- The entry's v2 lies in its frame, with nothing pending. -/
theorem witness_results :
    (∃ s1 x, m0.issuer g0 = some (s1, x) ∧ (match (s1.core x.c).group? x.slot with
      | some g => g.pend.isEmpty
      | none => false) = true ∧ locOf (s1.core x.c) x.e 2 = some (.frame 0 2) ∧ (s1.core x.c).holds (.frame 0 2))
    ∧ (3 : Nat) < 0 + 4 ∧ 0 + 4 ≤ (4 : Nat) := by
  refine ⟨⟨_, _, rfl, ?_, ?_, ?_⟩, by decide, by decide⟩
  · decide +kernel
  · decide +kernel
  · exact rfl

end Sys2Proof.Tests
end

section
/-! PROOFS. The registers after reset, boot, thermal steps, and the accesses of the host (R23, R24, R31-R34, R352-R354, R358,
R363): one lemma for each function of the model, then the two obligations that they settle. -/

namespace Sys2Proof.Machine

/-! ## The state after reset -/

theorem State.reset_sound : State.reset.Sound := ⟨Memory.nil_wf, rfl⟩

theorem State.reset_core (c : Nat) : State.reset.core c = Core.reset := rfl

theorem State.reset_die (d : Nat) : State.reset.die d = Die.reset := rfl

theorem State.reset_vf (v : Nat) : State.reset.vf v = Vf.reset := rfl

theorem Core.reset_quarter {q : Nat} (h : q < 4) : Core.reset.quarter q = Quarter.reset := by
  interval_cases q <;> rfl

theorem State.reset_selHead {h : Nat} (hh : h < 4) : State.reset.selHead h = Head.reset := by
  interval_cases h <;> rfl

theorem Vf.reset_valid : Vf.reset.valid = false := by decide

/-! ## Boot (R33, R34, R363) -/

/-- A bad image leaves the part held. -/
theorem execBoot_of_bad {image : FwImage} {signature : Nat × Nat} {s : State} (dies : BitVec 5) (dev : Byte)
    (cold : s.booted = false) (ok : s.fwc.securityOk = true) (bad : imageGood image signature = false) :
    ∃ t, execBoot image signature dies dev s = .next t ∧ t.booted = false ∧ t.fwc.securityOk = false
      ∧ t.fwc.cores = [.inReset, .inReset, .inReset, .inReset] := by
  unfold execBoot
  simp only [cold, ok, bad, Bool.not_true, Bool.not_false, Bool.or_self, Bool.false_eq_true, if_false, if_true]
  exact ⟨_, rfl, rfl, rfl, rfl⟩

/-- A good image starts the four cores over scrubbed memory; whether the part is reported to the host changes none of it. -/
theorem execBoot_of_good {image : FwImage} {signature : Nat × Nat} {s : State} (dies : BitVec 5) (dev : Byte)
    (cold : s.booted = false) (ok : s.fwc.securityOk = true) (good : imageGood image signature = true) :
    ∃ t, execBoot image signature dies dev s = .next t ∧ t.booted = true ∧ t.mem = [] ∧ t.fwc.sections = image.sections
      ∧ t.fwc.cores = [.running, .running, .running, .running]
      ∧ t.fwc.pkgid = BitVec.ofNat 32 (0x96020000 + dies.toNat * 2 ^ 11 + dev.toNat) := by
  unfold execBoot
  simp only [cold, ok, good, Bool.not_true, Bool.or_self, Bool.false_eq_true, if_false]
  split
  · exact ⟨_, rfl, rfl, rfl, rfl, rfl, rfl⟩
  · exact ⟨_, rfl, rfl, rfl, rfl, rfl, rfl⟩

/-! ## Power and temperature (R24, R31, R32) -/

theorem execPowerLimitStep_next {up : Bool} {s : State} (booted : s.booted = true) (runs : s.fwRuns fwManagement = true)
    (live : s.clk.thermal = .running) (room : if up then s.clk.arithMhz < 3600 else 100 < s.clk.arithMhz) :
    execPowerLimitStep up s = .next { s with clk := { s.clk with
      arithMhz := if up then s.clk.arithMhz + 100 else s.clk.arithMhz - 100
      fabMhz := fabricFor (if up then s.clk.arithMhz + 100 else s.clk.arithMhz - 100) } } := by
  unfold execPowerLimitStep
  cases up with
  | true =>
    have below : ¬3600 ≤ s.clk.arithMhz := Nat.not_le.mpr room
    simp [booted, runs, live, below]
  | false =>
    have above : ¬s.clk.arithMhz ≤ 100 := Nat.not_le.mpr room
    simp [booted, runs, live, above]

theorem execThermalStop_next {d : Nat} {s : State} (die : d < 5) (booted : s.booted = true)
    (live : s.clk.thermal = .running) (runs : s.fwRuns fwManagement = true) :
    execThermalStop d s = .next ({ s with clk := { s.clk with thermal := .stopped, stopTime := s.clk.time } }.raise
      (srcFw fwManagement) { fwEvent fwManagement codeThermal 1 with die := d }) := by
  unfold execThermalStop
  simp [Nat.not_le.mpr die, booted, live, runs]

theorem execThermalHold_next {d : Nat} {s : State} (die : d < 5) (stopped : s.clk.thermal = .stopped)
    (runs : s.fwRuns fwManagement = true) :
    execThermalHold d s = .next ({ s with clk := { s.clk with thermal := .held } }.raise
      (srcFw fwManagement) { fwEvent fwManagement codeThermal 1 with die := d }) := by
  unfold execThermalHold
  simp [Nat.not_le.mpr die, stopped, runs]

theorem execThermalRestart_next {s : State} (stopped : s.clk.thermal = .stopped) (runs : s.fwRuns fwManagement = true)
    (since : s.clk.stopTime + 1000000000 ≤ s.clk.time) (upto : s.clk.time ≤ s.clk.stopTime + 11000000000) :
    execThermalRestart s = .next (s.clk.hostWaits.foldl State.hostDo ({ s with clk := { s.clk with
      thermal := .running, arithMhz := 3000, fabMhz := 2000, hostWaits := [] } }.reloadSelham)) := by
  unfold execThermalRestart
  simp [stopped, runs, Nat.not_lt.mpr since, Nat.not_lt.mpr upto]

/-! ## Words that a write covers (R455) -/

theorem leNat_leBytes (n : Nat) : ∀ x : Nat, leNat (leBytes n x) = x % 256 ^ n := by
  induction n with
  | zero => intro x; simp [leBytes, leNat, Nat.mod_one]
  | succ n ih => intro x; rw [leBytes, leNat, ih, BitVec.toNat_ofNat, pow_succ' 256 n, Nat.mod_mul]

theorem leBytes_add (m : Nat) : ∀ n x : Nat, leBytes (m + n) x = leBytes m x ++ leBytes n (x / 256 ^ m) := by
  induction m with
  | zero => intro n x; simp [leBytes]
  | succ m ih =>
    intro n x
    rw [Nat.add_right_comm, leBytes, ih, leBytes, List.cons_append, Nat.div_div_eq_div_mul, Nat.pow_succ, Nat.mul_comm 256]

theorem ofNat_leNat_leBytes (x : Nat) : BitVec.ofNat 32 (leNat (leBytes 4 x)) = BitVec.ofNat 32 x := by
  rw [leNat_leBytes]
  exact BitVec.eq_of_toNat_eq (by simp)

theorem hi32_append_lo32 (x : W64) : hi32 x ++ lo32 x = x := by
  apply BitVec.eq_of_getLsbD_eq
  intro i hi
  rw [BitVec.getLsbD_append, lo32, hi32, BitVec.getLsbD_extractLsb', BitVec.getLsbD_extractLsb']
  by_cases h : i < 32
  · simp [h]
  · simp [h, show i - 32 < 32 by omega, show 32 + (i - 32) = i by omega]

/-- A write of eight bytes at offset 0 replaces a register of 64 bits whole. -/
theorem coverWords_whole (cur x : W64) : coverWords cur true 0 (leBytes 8 x.toNat) = some x := by
  have halves : leBytes 8 x.toNat = leBytes 4 x.toNat ++ leBytes 4 (x.toNat / 2 ^ 32) := leBytes_add 4 4 _
  have lower : BitVec.ofNat 32 (leNat ((leBytes 8 x.toNat).take 4)) = lo32 x := by
    rw [halves, List.take_left' (leBytes_length 4 _), ofNat_leNat_leBytes]
    rfl
  have upper : BitVec.ofNat 32 (leNat (((leBytes 8 x.toNat).drop 4).take 4)) = hi32 x := by
    rw [halves, List.drop_left' (leBytes_length 4 _), List.take_of_length_le (leBytes_length 4 _).le, ofNat_leNat_leBytes,
      ← Nat.shiftRight_eq_div_pow]
    rfl
  simp [coverWords, leBytes_length, lower, upper, hi32_append_lo32]

theorem coverWords_low (cur : W64) (y : W32) : coverWords cur true 0 (leBytes 4 y.toNat) = some (hi32 cur ++ y) := by
  simp [coverWords, leBytes_length, List.take_of_length_le, ofNat_leNat_leBytes]

theorem coverWords_high (cur : W64) (y : W32) : coverWords cur true 4 (leBytes 4 y.toNat) = some (y ++ lo32 cur) := by
  simp [coverWords, leBytes_length, List.take_of_length_le, ofNat_leNat_leBytes]

theorem coverWords_narrow (cur : W64) (y : W32) : coverWords cur false 0 (leBytes 4 y.toNat) = some (0#32 ++ y) := by
  simp [coverWords, leBytes_length, List.take_of_length_le, ofNat_leNat_leBytes]

theorem coverWords_narrow_high (cur : W64) (y : W32) : coverWords cur false 4 (leBytes 4 y.toNat) = none := by
  simp [coverWords, leBytes_length]

/-! ## Accesses of the host and of peers (R352-R354) -/

theorem contains_filter_eraseDups {l : List Nat} {f : Nat} (p : Nat → Bool) (h : f ∈ l) :
    (l.eraseDups.filter p).contains f = p f := by
  rw [Bool.eq_iff_iff, List.contains_iff_mem, List.mem_filter, List.mem_eraseDups]
  exact and_iff_right h

/-- A read of device memory changes no byte and sends what its frames give: memory, or ones where the access may not reach. -/
theorem State.hostDo_read (s : State) {a : HostAccess} {range : Nat} (space : a.space = .hdm range) (read : a.write = false) :
    (s.hostDo a).mem = s.mem ∧ (s.hostDo a).clk.hostOut = s.clk.hostOut ++ [HostMsg.data a.port
      ((List.range a.data.length).map fun i => if s.hostMay a.uio ((range * 2 ^ 40 + a.offset + i) / 65536) then
        s.byte (range * 2 ^ 40 + a.offset + i) else 0xFF#8)] := by
  unfold State.hostDo
  simp only [space, read, Bool.false_eq_true, if_false]
  generalize range * 2 ^ 40 + a.offset = pa
  have marked : ∀ i ∈ List.range a.data.length, ((((List.range a.data.length).map fun i => (pa + i) / 65536).eraseDups).filter
      fun f => !s.hostMay a.uio f).contains ((pa + i) / 65536) = !s.hostMay a.uio ((pa + i) / 65536) := fun i hi =>
    contains_filter_eraseDups _ (List.mem_map_of_mem hi)
  generalize List.filter (fun f => !s.hostMay a.uio f) _ = denied at marked ⊢
  have values : ((List.range a.data.length).map fun i => if denied.contains ((pa + i) / 65536) then 0xFF#8 else s.byte (pa + i))
      = (List.range a.data.length).map fun i => if s.hostMay a.uio ((pa + i) / 65536) then s.byte (pa + i) else 0xFF#8 :=
    List.map_congr_left fun i hi => by rw [marked i hi]; cases s.hostMay a.uio ((pa + i) / 65536) <;> rfl
  cases denied with
  | nil => exact ⟨rfl, congrArg (fun bs => s.clk.hostOut ++ [HostMsg.data a.port bs]) values⟩
  | cons f _ => exact ⟨rfl, congrArg (fun bs => s.clk.hostOut ++ [HostMsg.data a.port bs]) values⟩

section
variable (s : State) {a : HostAccess} {range f : Nat} (space : a.space = .hdm range) (read : a.write = false)
  (inFrame : ∀ i < a.data.length, (range * 2 ^ 40 + a.offset + i) / 65536 = f)
include space read inFrame

/-- A read within one frame that the access may reach sends the bytes there. -/
theorem State.hostDo_read_allowed (may : s.hostMay a.uio f = true) :
    (s.hostDo a).mem = s.mem ∧ (s.hostDo a).clk.hostOut = s.clk.hostOut
      ++ [HostMsg.data a.port ((List.range a.data.length).map fun i => s.byte (range * 2 ^ 40 + a.offset + i))] := by
  obtain ⟨mem, out⟩ := s.hostDo_read space read
  refine ⟨mem, out.trans ?_⟩
  rw [List.map_congr_left fun i hi => by rw [inFrame i (List.mem_range.mp hi), may, if_pos rfl]]

/-- A read within one frame that the access may not reach sends all ones. -/
theorem State.hostDo_read_denied (may : s.hostMay a.uio f = false) :
    (s.hostDo a).mem = s.mem ∧ (s.hostDo a).clk.hostOut = s.clk.hostOut
      ++ [HostMsg.data a.port (List.replicate a.data.length 0xFF#8)] := by
  obtain ⟨mem, out⟩ := s.hostDo_read space read
  refine ⟨mem, out.trans ?_⟩
  rw [List.map_congr_left (g := fun _ => 0xFF#8) fun i hi => by
    rw [inFrame i (List.mem_range.mp hi), may, if_neg Bool.false_ne_true], List.map_const', List.length_range]

end

/-- Bytes of an access lie in one frame where its first and last do. -/
theorem same_frame_of_ends {range off n : Nat} (ends : off / 65536 = (off + n - 1) / 65536) :
    ∀ i < n, (range * 2 ^ 40 + off + i) / 65536 = (range * 2 ^ 40 + off) / 65536 := by
  intro i hi
  omega

section
variable {s : State} (booted : s.booted = true)
include booted

theorem execHostMemAccess_hdm {port range off : Nat} {data : List Byte} (uio wr : Bool) (hp : port < 2) (hr : range < 4)
    (fits : off + data.length ≤ 0x1200000000) :
    let a : HostAccess := { port := port, uio := uio, write := wr, space := .hdm range, offset := off, data := data }
    execHostMemAccess port uio wr (.hdm range) off data s = .next (if s.clk.thermal = .running then s.hostDo a
      else { s with clk := { s.clk with hostWaits := s.clk.hostWaits ++ [a] } }) := by
  simp only [execHostMemAccess, booted, Nat.not_le.mpr hp, Nat.not_le.mpr hr, Nat.not_lt.mpr fits, Bool.not_true,
    decide_false, Bool.or_self, Bool.false_eq_true, if_false]
  split
  · rfl
  · rfl

theorem execHostMemAccess_pfBar {reg : MmioReg} (wr : Bool) (off : Nat) (data : List Byte) (stands : regExists reg = true) :
    execHostMemAccess 0 false wr (.pfBar reg) off data s = .next (s.barDo reg none wr off data) := by
  simp [execHostMemAccess, booted, stands]

theorem execHostMemAccess_vfBar {reg : MmioReg} {v : Nat} (wr : Bool) (off : Nat) (data : List Byte)
    (stands : regExists reg = true) (mapped : inVfBar v reg = true) :
    execHostMemAccess 0 false wr (.vfBar v reg) off data s = .next (s.barDo reg (some v) wr off data) := by
  simp [execHostMemAccess, booted, stands, mapped]

theorem execHostMemAccess_config {off : Nat} {data : List Byte} (wr : Bool) (v : Option Nat) (fits : off + data.length ≤ 4096) :
    execHostMemAccess 0 false wr (.config v) off data s = .next (s.configDo v wr off data) := by
  simp [execHostMemAccess, booted, Nat.not_lt.mpr fits]

theorem execHostMemAccess_absent {port : Nat} (uio wr : Bool) (off : Nat) (data : List Byte) (hp : port < 2) :
    execHostMemAccess port uio wr .absent off data s = .next (s.sendHost (.absentCapability port)) := by
  simp [execHostMemAccess, booted, Nat.not_le.mpr hp]

theorem execHostMemAccess_ideKey {p : Nat} (off : Nat) (data : List Byte) (hp : p < 3) :
    execHostMemAccess 0 false true (.ideKey p) off data s = .next (s.setIdeKey p) := by
  simp [execHostMemAccess, booted, Nat.not_le.mpr hp]

theorem execHostMemAccess_peer {port range : Nat} (wr : Bool) (off : Nat) (data : List Byte) (hp : port < 2) (hr : range < 4) :
    execHostMemAccess port true wr (.peer range) off data s = .next (s.sendHost (.peerAccess port wr range off data)) := by
  simp [execHostMemAccess, booted, Nat.not_le.mpr hp, Nat.not_le.mpr hr]

theorem execHostSnoop_miss {addr : Nat} (inv : Bool) (miss : (s.clk.hostLines.find? fun l => decide (l.addr = addr / 64)) = none) :
    execHostSnoop addr inv s = .next (s.sendHost (.snoopMiss addr)) := by
  rw [execHostSnoop, if_neg (by simp [booted]), miss]
  rfl

theorem execHostSnoop_hit {addr : Nat} {l : HostLine} (inv : Bool)
    (hit : (s.clk.hostLines.find? fun l => decide (l.addr = addr / 64)) = some l) :
    let keep := s.clk.hostLines.filter fun x => decide (x.addr ≠ l.addr)
    execHostSnoop addr inv s = .next { s with clk := { s.clk with
      hostOut := s.clk.hostOut ++ [HostMsg.snoopHit addr l.bytes l.dirty]
      hostLines := if inv then keep else keep ++ [{ l with dirty := false }] } } := by
  rw [execHostSnoop, if_neg (by simp [booted]), hit]

end

theorem State.barDo_read (s : State) (reg : MmioReg) (v : Option Nat) (off : Nat) (data : List Byte) :
    s.barDo reg v false off data
      = s.sendHost (.data 0 (((leBytes 8 (s.regValue reg).toNat).drop off).take data.length)) := rfl

theorem State.barDo_write_hypervisor {s : State} {reg : MmioReg} {off : Nat} {data : List Byte} {value : W64}
    (covered : coverWords (s.regValue reg) (wideReg reg) off data = some value) :
    s.barDo reg none true off data = s.hvWrite reg value := by simp [State.barDo, covered]

theorem State.barDo_write_tenant {s : State} {reg : MmioReg} {off v : Nat} {data : List Byte} {value : W64}
    (covered : coverWords (s.regValue reg) (wideReg reg) off data = some value) :
    s.barDo reg (some v) true off data = s.tenantWrite v reg value := by simp [State.barDo, covered]

theorem State.barDo_write_uncovered {s : State} {reg : MmioReg} {off : Nat} {data : List Byte} (v : Option Nat)
    (uncovered : coverWords (s.regValue reg) (wideReg reg) off data = none) :
    s.barDo reg v true off data = s := by simp [State.barDo, uncovered]

/-- A read of the configuration space of virtual function `v`, which is function `v + 1`; the part has 128 of them. -/
theorem State.configDo_read (s : State) (v off : Nat) (data : List Byte) :
    s.configDo (some v) false off data = if v < 128 then s.sendHost (.data 0
        ((List.range data.length).map fun i => Config.configByte (v + 1) (off + i) s.clk.config))
      else s.sendHost (.absentCapability 0) := by
  unfold State.configDo
  by_cases h : v < 128
  · simp [h]
  · simp [h]

theorem State.setIdeKey_of_runs {s : State} (p : Nat) (runs : s.fwRuns fwSecurity = true) :
    s.setIdeKey p = { s with
      clk := { s.clk with ideKeys := KMap.put s.clk.ideKeys p s.fwc.nextKey }
      fwc := { s.fwc with nextKey := s.fwc.nextKey + 1 } } := if_pos runs

theorem execHostAccessTimeout_next {s : State} {a : HostAccess} {t : List HostAccess} {range : Nat}
    (waits : s.clk.hostWaits = a :: t) (space : a.space = .hdm range) (stopped : s.clk.thermal ≠ .running) :
    execHostAccessTimeout s = .next ({ s with clk := { s.clk with
      hostWaits := t, hostOut := s.clk.hostOut ++ [HostMsg.data a.port []] } }.raise (srcPort a.port)
        { Event.blank with
          code := codeHostDenied, cls := 1, block := 22, die := 4, unit := a.port
          addr := BitVec.ofNat 64 (range * 2 ^ 40 + a.offset) }) := by
  unfold execHostAccessTimeout
  simp only [waits, stopped, space, if_false]

end Sys2Proof.Machine

namespace Sys2Proof.Statements

open Sys2Proof.Machine

theorem bootAndThermalStepsComplete : BootAndThermalStepsComplete := by
  intro s
  refine ⟨fun image signature dies dev cold ok => ?_, fun up booted runs live room => ?_,
    fun d die booted live runs => execThermalStop_next die booted live runs,
    fun d die stopped runs => execThermalHold_next die stopped runs,
    fun stopped runs since upto => execThermalRestart_next stopped runs since upto⟩
  · cases checked : imageGood image signature with
    | false =>
      obtain ⟨t, next, held⟩ := execBoot_of_bad dies dev cold ok checked
      exact ⟨t, next, fun _ => held, nofun⟩
    | true =>
      obtain ⟨t, next, started⟩ := execBoot_of_good dies dev cold ok checked
      exact ⟨t, next, nofun, fun _ => started⟩
  · exact execPowerLimitStep_next booted runs live room

theorem hostAccessesComplete : HostAccessesComplete := by
  intro s
  refine ⟨fun port uio wr range off data booted hp hr fits => execHostMemAccess_hdm booted uio wr hp hr fits,
    fun reg off data booted stands => ⟨?_, fun value covered => ?_, fun uncovered => ?_, fun v mapped =>
      ⟨?_, fun value covered => ?_⟩⟩,
    fun cur x y => ⟨coverWords_whole cur x, coverWords_low cur y, coverWords_high cur y, coverWords_narrow cur y,
      coverWords_narrow_high cur y⟩,
    fun off data v booted fits => ?_,
    fun port uio wr off data booted hp => execHostMemAccess_absent booted uio wr off data hp,
    fun p off data booted hp runs => ?_,
    fun port wr range off data booted hp hr => execHostMemAccess_peer booted wr off data hp hr,
    fun a t range waits space stopped => execHostAccessTimeout_next waits space stopped,
    fun addr inv booted => ⟨execHostSnoop_miss booted inv, fun l => execHostSnoop_hit booted inv⟩,
    fun a range space read _ ends => ?_⟩
  · exact (execHostMemAccess_pfBar booted false off data stands).trans (congrArg _ (s.barDo_read reg none off data))
  · exact (execHostMemAccess_pfBar booted true off data stands).trans (congrArg _ (State.barDo_write_hypervisor covered))
  · exact (execHostMemAccess_pfBar booted true off data stands).trans (congrArg _ (State.barDo_write_uncovered none uncovered))
  · exact (execHostMemAccess_vfBar booted false off data stands mapped).trans (congrArg _ (s.barDo_read reg (some v) off data))
  · exact (execHostMemAccess_vfBar booted true off data stands mapped).trans (congrArg _ (State.barDo_write_tenant covered))
  · exact (execHostMemAccess_config booted false (some v) fits).trans (congrArg _ (State.configDo_read s v off data))
  · exact (execHostMemAccess_ideKey booted off data hp).trans (congrArg _ (State.setIdeKey_of_runs p runs))
  · have inFrame := same_frame_of_ends (range := range) ends
    exact ⟨s.hostDo_read_allowed space read inFrame, s.hostDo_read_denied space read inFrame⟩

end Sys2Proof.Statements

namespace Sys2Proof.Proofs

open Sys2Proof.Machine Sys2Proof.Statements

/-- Settles O48: each step of boot and temperature, and each access of the host, does what its part of the statement says. -/
theorem bootThermalAndHostComplete : Obligations.BootThermalAndHostComplete :=
  ⟨bootAndThermalStepsComplete, hostAccessesComplete⟩

/-- Settles O53: every core, die, virtual function, quarter and head that reset does not list holds its reset value. -/
theorem resetIsSound : Obligations.ResetIsSound := by
  refine ⟨State.reset_sound, rfl, rfl, rfl, rfl, fun c => ?_, fun c q hq => ?_, fun d => ?_, fun d v => ?_, fun v => ?_,
    rfl, rfl, fun n => rfl, rfl, rfl, rfl, rfl, rfl, rfl, rfl, rfl, fun h hh => ?_⟩
  · rw [State.reset_core]
    exact ⟨rfl, rfl, rfl, rfl⟩
  · rw [State.reset_core, Core.reset_quarter hq]
    rfl
  · rw [State.reset_die]
    exact ⟨rfl, rfl, rfl, rfl, rfl⟩
  · rw [State.reset_die]
    rfl
  · rw [State.reset_vf]
    exact ⟨Vf.reset_valid, rfl⟩
  · rw [State.reset_selHead hh]
    exact ⟨rfl, rfl, rfl⟩

end Sys2Proof.Proofs
end

section
/-! PROOFS. Words that issue: what a word does by its body, the checks of R385 in their order, and the lanes of an access that fail
(R218, R385-R387). -/

namespace Sys2Proof.Machine

/-! ## A word that issues does its body -/

section
variable {i : Instr} {sp : Spec} {body : Iss → State → Res} (runs : ∀ s, exec i s = issue sp body s)
include runs

theorem Done.of_body {p : State → Iss → Prop} {f : State → Iss → State} (effect : ∀ s x, p s x → body x s = .done (f s x)) :
    Done i sp p f := by
  intro s s1 x issues holds
  rw [runs, issue_of_issues issues, effect s1 x holds, finish_done]

theorem Moved.of_body {p : State → Iss → Prop} {f : State → Iss → State} (effect : ∀ s x, p s x → body x s = .moved (f s x)) :
    Moved i sp p f := by
  intro s s1 x issues holds
  rw [runs, issue_of_issues issues, effect s1 x holds, finish_moved]

theorem Traps.of_body {p : State → Iss → Prop} {t : State → Iss → Trap} (effect : ∀ s x, p s x → body x s = .trap (t s x)) :
    Traps i sp p t := by
  intro s s1 x issues holds
  rw [runs, issue_of_issues issues, effect s1 x holds, finish_trap]

end

/-! ## The checks of R385 -/

theorem finish_wait (s s' : State) (x : Iss) (sp : Spec) (w : Wait) :
    s.finish x sp (.wait s' w) = .next (s'.afterWait x w) := rfl

section
variable {s s1 : State} {sp : Spec} {x : Iss}

/-- A word that no handler may run traps in one, before anything else is looked at. -/
theorem issue_of_illegal (turn : s.issuer sp.g = some (s1, x)) (unclaimed : x.claimed = none) (barred : sp.inHandler = false)
    (handler : x.e.handler.isSome = true) (body : Iss → State → Res) :
    issue sp body s = .next (s1.afterTrap x sp (trapPlain .illegalOpcode (lo32 sp.word) (hi32 sp.word) x.act)) := by
  simp only [issue, turn, unclaimed, barred, handler, Bool.not_false, Bool.and_self, if_true]
  rfl

section
variable (turn : s.issuer sp.g = some (s1, x)) (unclaimed : x.claimed = none)
  (legal : (!sp.inHandler && x.e.handler.isSome) = false)
include turn unclaimed legal

/-- A word with a busy register waits for the results that keep its registers busy. -/
theorem issue_of_busy (busy : anyBusy x.k x.e (sp.dsts ++ sp.srcs ++ sp.args) = true) (body : Iss → State → Res) :
    issue sp body s = .next (s1.afterWait x (busyOuts x.k x.e sp.dsts (sp.srcs ++ sp.args))) := by
  simp only [issue, turn, unclaimed, legal, busy, Bool.false_eq_true, if_false, if_true]
  rfl

/-- A word of an entry whose atomics wait for their line waits for these. -/
theorem issue_of_atoms (free : anyBusy x.k x.e (sp.dsts ++ sp.srcs ++ sp.args) = false) (atoms : x.k.atomsOf x.slot x.e.id ≠ [])
    (body : Iss → State → Res) :
    issue sp body s = .next (s1.afterWait x (.busyReg (x.k.atomsOf x.slot x.e.id) [])) := by
  have waiting : (x.k.atomsOf x.slot x.e.id).isEmpty = false := by simpa using atoms
  simp only [issue, turn, unclaimed, legal, free, waiting, Bool.not_false, Bool.false_eq_true, if_false, if_true]
  rfl

end

/-! Steps 3 to 6 of R385, each where the ones before it pass. -/

theorem State.checked_of_field (reserved : sp.fields = false) (body : Iss → State → Res) :
    s.checked x sp body = .next (s.afterTrap x sp (fieldTrap x sp)) := by
  simp only [State.checked, reserved, Bool.not_false, if_true]
  rfl

section
variable (fields : sp.fields = true)
include fields

theorem State.checked_of_range {f : Nat} (outside : badRange x.k x.e (sp.dsts ++ sp.srcs) = some f) (body : Iss → State → Res) :
    s.checked x sp body = .next (s.afterTrap x sp (rangeTrap x f)) := by
  simp only [State.checked, fields, outside, Bool.not_true, Bool.false_eq_true, if_false]
  rfl

section
variable (ranges : badRange x.k x.e (sp.dsts ++ sp.srcs) = none)
include ranges

/-- Step 5, with what the word's own rule puts before it. -/
theorem State.checked_of_step5 {t : Trap} (fails : ((sp.early x).orElse fun _ => s.shadowOf x sp) = some t)
    (body : Iss → State → Res) : s.checked x sp body = .next (s.afterTrap x sp t) := by
  simp only [State.checked, fields, ranges, fails, Bool.not_true, Bool.false_eq_true, if_false]
  rfl

section
variable (early : sp.early x = none) (visible : s.shadowOf x sp = none)
include early visible

theorem State.checked_of_no_lane (off : x.act = 0#8) (body : Iss → State → Res) :
    s.checked x sp body = .next (s.afterDone x sp) := by
  simp only [State.checked, fields, ranges, early, visible, off, Option.orElse_none, Bool.not_true, Bool.false_eq_true, if_false,
    if_true]
  rfl

variable (lanes : x.act ≠ 0#8)
include lanes

theorem State.checked_of_scope (denied : s.scopeDenied x.v sp.scope = true) (body : Iss → State → Res) :
    s.checked x sp body = .next (s.afterTrap x sp (scopeTrap x sp)) := by
  simp only [State.checked, fields, ranges, early, visible, lanes, denied, Option.orElse_none, Bool.not_true, Bool.false_eq_true,
    if_false, if_true]
  rfl

theorem State.checked_of_poison (permitted : s.scopeDenied x.v sp.scope = false) {l : RegLoc} {m : Mask}
    (poisoned : poisonRead x sp.srcs = some (l, m)) (body : Iss → State → Res) :
    s.checked x sp body = .next (s.afterTrap x sp (poisonTrap x l m)) := by
  simp only [State.checked, fields, ranges, early, visible, lanes, permitted, poisoned, Option.orElse_none, Bool.not_true,
    Bool.false_eq_true, if_false]
  rfl

end
end
end
end

end Sys2Proof.Machine

namespace Sys2Proof.Statements

open Sys2Proof.Machine

section
variable {i : Instr} {sp : Spec} {body : Iss → State → Res} (runs : ∀ s, exec i s = issue sp body s)
include runs

theorem heldBeforeChecks_of_issue : HeldBeforeChecks i sp := by
  intro s s1 x turn unclaimed
  have passes : (sp.inHandler = true ∨ x.e.handler = none) → (!sp.inHandler && x.e.handler.isSome) = false := by
    rintro (h | h) <;> simp [h]
  refine ⟨fun illegal => ?_, fun legal busy => ?_, fun legal free atoms => ?_⟩
  · obtain ⟨barred, handler⟩ := not_or.mp illegal
    rw [runs, issue_of_illegal turn unclaimed (Bool.eq_false_iff.mpr barred) (Option.isSome_iff_ne_none.mpr handler)]
  · rw [runs, issue_of_busy turn unclaimed (passes legal) busy]
  · rw [runs, issue_of_atoms turn unclaimed (passes legal) free atoms]

theorem checksInOrder_of_issue : ChecksInOrder i sp := by
  intro s s1 x atChecks
  rw [runs, issue_of_checks atChecks]
  exact ⟨fun reserved => State.checked_of_field reserved body,
    fun fields _ outside => State.checked_of_range fields outside body,
    fun fields ranges t early => State.checked_of_step5 fields ranges (by rw [early]; rfl) body,
    fun fields ranges early t shadow => State.checked_of_step5 fields ranges (by rw [early]; exact shadow) body,
    fun fields ranges early visible =>
      ⟨fun off => State.checked_of_no_lane fields ranges early visible off body,
       fun lanes denied => State.checked_of_scope fields ranges early visible lanes denied body,
       fun lanes permitted l m poisoned => State.checked_of_poison fields ranges early visible lanes permitted poisoned body⟩⟩

theorem checked_of_issue : HeldBeforeChecks i sp ∧ ChecksInOrder i sp :=
  ⟨heldBeforeChecks_of_issue runs, checksInOrder_of_issue runs⟩

end

theorem issueChecksInOrder : IssueChecksInOrder := by
  simp only [IssueChecksInOrder, List.forall_mem_cons]
  exact ⟨
    fun o => ⟨checked_of_issue fun _ => rfl, checked_of_issue fun _ => rfl, checked_of_issue fun _ => rfl,
      checked_of_issue fun _ => rfl, checked_of_issue fun _ => rfl, checked_of_issue fun _ => rfl,
      checked_of_issue fun _ => rfl, List.forall_mem_nil _⟩,
    fun o => ⟨checked_of_issue fun _ => rfl, checked_of_issue fun _ => rfl, checked_of_issue fun _ => rfl,
      checked_of_issue fun _ => rfl, checked_of_issue fun _ => rfl, checked_of_issue fun _ => rfl, List.forall_mem_nil _⟩,
    fun o => ⟨checked_of_issue fun _ => rfl, checked_of_issue fun _ => rfl, checked_of_issue fun _ => rfl, List.forall_mem_nil _⟩,
    fun o => ⟨checked_of_issue fun _ => rfl, checked_of_issue fun _ => rfl, checked_of_issue fun _ => rfl,
      checked_of_issue fun _ => rfl, checked_of_issue fun _ => rfl, checked_of_issue fun _ => rfl, List.forall_mem_nil _⟩,
    fun o => checked_of_issue fun _ => rfl⟩

end Sys2Proof.Statements
end

section
/-! PROOFS. The lanes of an access that fail: the lowest lane that fails gives the trap, and FMASK every lane that fails with its
cause (R218, R387). -/

namespace Sys2Proof.Machine

theorem mem_lanesOf {m : Mask} {l : Nat} : l ∈ lanesOf m ↔ m.getLsbD l = true := by
  simp only [lanesOf, List.mem_filter, List.mem_range, and_iff_right_iff_imp]
  exact BitVec.lt_of_getLsbD

/-- Lanes stand in ascending order: what stands before a lane is a lower lane. -/
theorem lanesOf_split {m : Mask} {l : Nat} (active : l ∈ lanesOf m) :
    ∃ below above, lanesOf m = below ++ l :: above ∧ ∀ j ∈ below, j < l := by
  obtain ⟨below, above, eq⟩ := List.append_of_mem active
  have ascending : (lanesOf m).Pairwise (· < ·) := List.pairwise_lt_range.filter _
  rw [eq, List.pairwise_append] at ascending
  exact ⟨below, above, eq, fun j hj => ascending.2.2 j hj l List.mem_cons_self⟩

/-- How an access fails in a lane: its cause, whether in stage 2, and the page. -/
abbrev LaneFault := Cause × Bool × Nat

/-- The trap of a failure at the address `va`, but for its FMASK. -/
def LaneFault.trap (b : LaneFault) (va : Nat) : Trap := xlateTrap va b.1 b.2.1 b.2.2

@[simp] theorem LaneFault.trap_cause (b : LaneFault) (va : Nat) : (b.trap va).cause = b.1 := rfl
@[simp] theorem LaneFault.trap_stage2 (b : LaneFault) (va : Nat) : (b.trap va).stage2 = b.2.1 := rfl

/-- The failures of one stage. -/
def inStage (st2 : Bool) (b : Option LaneFault) : Option LaneFault := b.filter fun b => b.2.1 == st2

@[simp] theorem inStage_none (st2 : Bool) : inStage st2 none = none := rfl

theorem inStage_eq_some {st2 : Bool} {o : Option LaneFault} {b : LaneFault} : inStage st2 o = some b ↔ o = some b ∧ b.2.1 = st2 := by
  simp [inStage]

theorem inStage_same {st2 : Bool} {b : LaneFault} (h : b.2.1 = st2) : inStage st2 (some b) = some b :=
  inStage_eq_some.mpr ⟨rfl, h⟩

theorem inStage_other {st2 : Bool} {b : LaneFault} (h : b.2.1 ≠ st2) : inStage st2 (some b) = none := by
  simp [inStage, h]

/-- A failure that is not of stage 2 is of stage 1. -/
theorem inStage_false_of_true {o : Option LaneFault} (h : inStage true o = none) : inStage false o = o := by
  cases o with
  | none => rfl
  | some b =>
    refine inStage_same (Bool.eq_false_iff.mpr fun second => ?_)
    rw [inStage_same second] at h
    cases h

/-- The failures of some lanes, with the trap that each would give. -/
def laneFaults (ls : List Nat) (a : Nat → Nat) (fail : Nat → Option LaneFault) : List (Nat × Trap) :=
  ls.filterMap fun l => (fail l).map fun b => (l, b.trap (a l))

theorem mem_laneFaults {ls : List Nat} {a : Nat → Nat} {fail : Nat → Option LaneFault} {e : Nat × Trap} :
    e ∈ laneFaults ls a fail ↔ ∃ l ∈ ls, ∃ b, fail l = some b ∧ (l, b.trap (a l)) = e := by
  simp only [laneFaults, List.mem_filterMap, Option.map_eq_some_iff]

theorem laneFaults_cons_none {l : Nat} {fail : Nat → Option LaneFault} (h : fail l = none) (t : List Nat) (a : Nat → Nat) :
    laneFaults (l :: t) a fail = laneFaults t a fail :=
  List.filterMap_cons_none (by rw [h]; rfl)

theorem laneFaults_cons_some {l : Nat} {fail : Nat → Option LaneFault} {b : LaneFault} (h : fail l = some b) (t : List Nat)
    (a : Nat → Nat) : laneFaults (l :: t) a fail = (l, b.trap (a l)) :: laneFaults t a fail :=
  List.filterMap_cons_some (by rw [h]; rfl)

theorem laneFaults_congr {ls : List Nat} {a : Nat → Nat} {f g : Nat → Option LaneFault} (h : ∀ l ∈ ls, f l = g l) :
    laneFaults ls a f = laneFaults ls a g :=
  List.filterMap_congr fun l hl => by rw [h l hl]

theorem laneFaults_of_none {ls : List Nat} {a : Nat → Nat} {fail : Nat → Option LaneFault} (h : ∀ l ∈ ls, fail l = none) :
    laneFaults ls a fail = [] :=
  List.filterMap_eq_nil_iff.mpr fun l hl => by rw [h l hl]; rfl

theorem laneFaults_stage (ls : List Nat) (a : Nat → Nat) (fail : Nat → Option LaneFault) (st2 : Bool) :
    (laneFaults ls a fail).filter (fun e => e.2.stage2 == st2) = laneFaults ls a fun l => inStage st2 (fail l) := by
  induction ls with
  | nil => rfl
  | cons l t ih =>
    cases failed : fail l with
    | none => rw [laneFaults_cons_none failed, laneFaults_cons_none (by rw [failed, inStage_none]), ih]
    | some b =>
      rw [laneFaults_cons_some failed]
      by_cases stage : b.2.1 = st2
      · rw [laneFaults_cons_some (by rw [failed, inStage_same stage]), List.filter_cons_of_pos (by simpa using stage), ih]
      · rw [laneFaults_cons_none (by rw [failed, inStage_other stage]), List.filter_cons_of_neg (by simpa using stage), ih]

/-- The lanes of the failures `bad` that have the cause `c`. -/
def faultMask (act : Mask) (bad : Nat → Option LaneFault) (c : Cause) : Mask :=
  maskOf fun j => act.getLsbD j && ((bad j).any fun b => decide (b.1 = c))

section
variable {act : Mask} {a : Nat → Nat} {bad : Nat → Option LaneFault} {l : Nat} {b : LaneFault}

/-- The first of the failures is the lowest lane's. -/
theorem laneFaults_lowest (active : l ∈ lanesOf act) (fails : bad l = some b) (lowest : ∀ j ∈ lanesOf act, j < l → bad j = none) :
    ∃ rest, laneFaults (lanesOf act) a bad = (l, b.trap (a l)) :: rest := by
  obtain ⟨below, above, eq, lower⟩ := lanesOf_split active
  refine ⟨laneFaults above a bad, ?_⟩
  rw [eq, ← laneFaults_cons_some fails, laneFaults, List.filterMap_append, ← laneFaults, ← laneFaults,
    laneFaults_of_none fun j hj => lowest j (eq ▸ List.mem_append_left _ hj) (lower j hj), List.nil_append]

/-- A lane is among the failures of cause `c` and stage `st2` where it is active and fails so. -/
theorem laneFaults_any {st2 : Bool} (stage : ∀ j b', bad j = some b' → b'.2.1 = st2) (c : Cause) (i : Nat) :
    (laneFaults (lanesOf act) a bad).any (fun e => decide (e.1 = i) && decide (e.2.cause = c) && (e.2.stage2 == st2))
      = (act.getLsbD i && ((bad i).any fun b => decide (b.1 = c))) := by
  rw [Bool.eq_iff_iff, List.any_eq_true, Bool.and_eq_true, Option.any_eq_true, ← mem_lanesOf]
  constructor
  · rintro ⟨e, he, same⟩
    obtain ⟨j, hj, b', failed, rfl⟩ := mem_laneFaults.mp he
    simp only [Bool.and_eq_true, decide_eq_true_eq] at same
    obtain ⟨⟨rfl, cause⟩, -⟩ := same
    exact ⟨hj, b', failed, decide_eq_true cause⟩
  · rintro ⟨hi, b', failed, cause⟩
    refine ⟨(i, b'.trap (a i)), mem_laneFaults.mpr ⟨i, hi, b', failed, rfl⟩, ?_⟩
    simp only [Bool.and_eq_true, decide_eq_true_eq, beq_iff_eq]
    exact ⟨⟨trivial, of_decide_eq_true cause⟩, stage i b' failed⟩

/-- The failures that R387 picks from: those of stage 2, or all where there are none. -/
theorem laneFaults_pool {fail : Nat → Option LaneFault} {st2 : Bool}
    (stages : st2 = true ∨ ∀ j ∈ lanesOf act, inStage true (fail j) = none)
    (active : l ∈ lanesOf act) (fails : inStage st2 (fail l) = some b) :
    (if ((laneFaults (lanesOf act) a fail).filter fun e => e.2.stage2).isEmpty then laneFaults (lanesOf act) a fail
      else (laneFaults (lanesOf act) a fail).filter fun e => e.2.stage2)
      = laneFaults (lanesOf act) a fun j => inStage st2 (fail j) := by
  have second := laneFaults_stage (lanesOf act) a fail true
  simp only [beq_true] at second
  rw [second]
  rcases stages with rfl | none2
  · have some2 : laneFaults (lanesOf act) a (fun j => inStage true (fail j)) ≠ [] :=
      List.ne_nil_of_mem (mem_laneFaults.mpr ⟨l, active, b, fails, rfl⟩)
    rw [if_neg (by simpa using some2)]
  · rw [if_pos (by rw [laneFaults_of_none none2]; rfl)]
    cases st2 with
    | true => rw [none2 l active] at fails; cases fails
    | false => exact laneFaults_congr fun j hj => (inStage_false_of_true (none2 j hj)).symm

/-- Of several failures, those of stage 2 come first; then the lowest lane gives the trap (R387). -/
theorem pickTrap_laneFaults {fail : Nat → Option LaneFault} {st2 : Bool}
    (stages : st2 = true ∨ ∀ j ∈ lanesOf act, inStage true (fail j) = none)
    (active : l ∈ lanesOf act) (fails : inStage st2 (fail l) = some b)
    (lowest : ∀ j ∈ lanesOf act, j < l → inStage st2 (fail j) = none) :
    pickTrap (laneFaults (lanesOf act) a fail)
      = some { b.trap (a l) with fmask := faultMask act (fun j => inStage st2 (fail j)) b.1 } := by
  obtain ⟨rest, first⟩ := laneFaults_lowest (a := a) (bad := fun j => inStage st2 (fail j)) active fails lowest
  have same := laneFaults_any (act := act) (a := a) (bad := fun j => inStage st2 (fail j)) (st2 := st2)
    (fun j b' h => (inStage_eq_some.mp h).2) b.1
  unfold pickTrap
  simp only [laneFaults_pool stages active fails]
  rw [first] at same ⊢
  rw [faultMask, ← funext same, ← (inStage_eq_some.mp fails).2]
  rfl

/-- A check of every active lane that fails in `fail` gives the trap of the lowest lane that fails, stage 2 first. -/
theorem overLanes_lowest {α : Type} {f : Nat → Except Trap α} {fail : Nat → Option LaneFault} {st2 : Bool}
    (failing : ∀ j ∈ lanesOf act, ∀ b', fail j = some b' → f j = .error (b'.trap (a j)))
    (passing : ∀ j ∈ lanesOf act, fail j = none → ∃ v, f j = .ok v)
    (stages : st2 = true ∨ ∀ j ∈ lanesOf act, inStage true (fail j) = none)
    (active : l ∈ lanesOf act) (fails : inStage st2 (fail l) = some b)
    (lowest : ∀ j ∈ lanesOf act, j < l → inStage st2 (fail j) = none) :
    overLanes (lanesOf act) f
      = .error { b.trap (a l) with fmask := faultMask act (fun j => inStage st2 (fail j)) b.1 } := by
  have errors : ((lanesOf act).map fun l => (l, f l)).filterMap (fun r => match r.2 with
      | .error t => some (r.1, t)
      | .ok _ => none) = laneFaults (lanesOf act) a fail := by
    rw [List.filterMap_map]
    refine List.filterMap_congr fun j hj => ?_
    cases h : fail j with
    | none =>
      obtain ⟨v, ok⟩ := passing j hj h
      simp [ok]
    | some b' => simp [failing j hj b' h]
  have picked := pickTrap_laneFaults (a := a) stages active fails lowest
  rw [← errors] at picked
  unfold overLanes
  extract_lets
  split
  next t found => exact congrArg Except.error (Option.some.inj (found.symm.trans picked))
  next found => cases found.symm.trans picked

end

/-! ## Alignment, then translation (steps 5 and 6 of R218) -/

theorem laneVal_map {ls : List Nat} {a : Nat → Nat} {l : Nat} (h : l ∈ ls) : laneVal (ls.map fun l => (l, a l)) l = a l := by
  induction ls with
  | nil => cases h
  | cons j t ih =>
    unfold laneVal at ih ⊢
    by_cases hj : j = l
    · simp [hj]
    · simp only [List.map_cons, List.find?_cons, hj, decide_false]
      exact ih ((List.mem_cons.mp h).resolve_left (Ne.symm hj))

/-- The failure of a lane whose address is no multiple of `n`. -/
def misalignedFault (a : Nat → Nat) (n l : Nat) : Option LaneFault := if a l % n = 0 then none else some (.misaligned, false, 0)

theorem misalignedFault_eq_some {a : Nat → Nat} {n l : Nat} {b : LaneFault} :
    misalignedFault a n l = some b ↔ a l % n ≠ 0 ∧ b = (.misaligned, false, 0) := by
  unfold misalignedFault
  split <;> simp_all [eq_comm]

theorem misalignedFault_eq_none {a : Nat → Nat} {n l : Nat} : misalignedFault a n l = none ↔ a l % n = 0 := by
  unfold misalignedFault
  split <;> simp_all

/-- Alignment is judged in stage 1. -/
theorem misalignedFault_stage (a : Nat → Nat) (n l : Nat) :
    inStage true (misalignedFault a n l) = none ∧ inStage false (misalignedFault a n l) = misalignedFault a n l := by
  unfold misalignedFault
  split <;> exact ⟨rfl, rfl⟩

theorem map_fst_lanes (ls : List Nat) (a : Nat → Nat) : (ls.map fun l => (l, a l)).map Prod.fst = ls := by
  rw [List.map_map]
  exact List.map_id _

section
variable {act : Mask} {a : Nat → Nat} {n l : Nat} {f : Nat → Except Trap Reach} {b : LaneFault}

/-- Addresses are judged before any is translated. -/
theorem alignedLanes_of_misaligned (active : l ∈ lanesOf act) (fails : misalignedFault a n l = some b)
    (lowest : ∀ j ∈ lanesOf act, j < l → misalignedFault a n j = none) :
    alignedLanes ((lanesOf act).map fun l => (l, a l)) n f
      = .error { b.trap (a l) with fmask := faultMask act (misalignedFault a n) b.1 } := by
  have stage1 : ∀ j, inStage false (misalignedFault a n j) = misalignedFault a n j := fun j => (misalignedFault_stage a n j).2
  have judged := overLanes_lowest (a := a) (fail := misalignedFault a n) (st2 := false) (b := b)
    (f := fun j => if laneVal ((lanesOf act).map fun l => (l, a l)) j % n = 0 then (.ok () : Except Trap Unit)
      else .error (trapVa .misaligned (laneVal ((lanesOf act).map fun l => (l, a l)) j) 0))
    (fun j hj b' failed => by
      obtain ⟨odd, rfl⟩ := misalignedFault_eq_some.mp failed
      rw [laneVal_map hj, if_neg odd]
      rfl)
    (fun j hj passed => ⟨(), by rw [laneVal_map hj, if_pos (misalignedFault_eq_none.mp passed)]⟩)
    (.inr fun j _ => (misalignedFault_stage a n j).1)
    active (by rwa [stage1]) (by simpa only [stage1] using lowest)
  simp only [stage1] at judged
  unfold alignedLanes
  simp only [map_fst_lanes, judged]

/-- Where every address is aligned, a lane that a translation or page refuses gives the trap, stage 2 first. -/
theorem alignedLanes_of_refused {fault : Nat → Option LaneFault} {st2 : Bool} (aligned : ∀ j ∈ lanesOf act, a j % n = 0)
    (failing : ∀ va b', fault va = some b' → f va = .error (b'.trap va)) (passing : ∀ va, fault va = none → ∃ v, f va = .ok v)
    (stages : st2 = true ∨ ∀ j ∈ lanesOf act, inStage true (fault (a j)) = none)
    (active : l ∈ lanesOf act) (fails : inStage st2 (fault (a l)) = some b)
    (lowest : ∀ j ∈ lanesOf act, j < l → inStage st2 (fault (a j)) = none) :
    alignedLanes ((lanesOf act).map fun l => (l, a l)) n f
      = .error { b.trap (a l) with fmask := faultMask act (fun j => inStage st2 (fault (a j))) b.1 } := by
  have translated := overLanes_lowest (a := a) (fail := fun j => fault (a j))
    (f := fun j => f (laneVal ((lanesOf act).map fun l => (l, a l)) j))
    (fun j hj b' failed => by rw [laneVal_map hj]; exact failing _ _ failed)
    (fun j hj passed => by rw [laneVal_map hj]; exact passing _ passed)
    stages active fails lowest
  unfold alignedLanes
  simp only [map_fst_lanes]
  rw [overLanes_ok (lanesOf act) _ (fun _ => ()) fun j hj => by rw [laneVal_map hj, if_pos (aligned j hj)]]
  exact translated

end

/-- How the access of a lane to `va` fails, where `fails` says which register pages refuse it. -/
def State.laneFault (s : State) (x : Iss) (acc : Acc) (fails : MmioPage → Nat → Bool) (va : Nat) : Option LaneFault :=
  match s.xlate (s.tlbOf x.c) x.v va acc with
  | .bad c st2 ia => some (c, st2, ia)
  | .mmio p off => if fails p off then some (.permission, false, 0) else none
  | .mem _ _ => none

/-- The place that such an access reaches, or its trap. -/
def State.reachBut (s : State) (x : Iss) (acc : Acc) (fails : MmioPage → Nat → Bool) (va : Nat) : Except Trap Reach :=
  match s.reach x va acc with
  | .ok (.mmio p off) => if fails p off then .error (xlateTrap va .permission false 0) else .ok (.mmio p off)
  | r => r

section
variable {s : State} {x : Iss} {acc : Acc} {fails : MmioPage → Nat → Bool} {va : Nat}

theorem State.reachBut_of_fault {b : LaneFault} (h : s.laneFault x acc fails va = some b) :
    s.reachBut x acc fails va = .error (b.trap va) := by
  unfold State.laneFault at h
  unfold State.reachBut State.reach
  cases xl : s.xlate (s.tlbOf x.c) x.v va acc with
  | mem pa pres => simp [xl] at h
  | bad c st2 ia =>
    simp only [xl, Option.some.injEq] at h
    subst h
    rfl
  | mmio p off =>
    simp only [xl] at h
    split at h
    next refuses =>
      cases h
      simp only [refuses, if_true]
      rfl
    next => cases h

theorem State.reachBut_of_none (h : s.laneFault x acc fails va = none) : ∃ r, s.reachBut x acc fails va = .ok r := by
  unfold State.laneFault at h
  unfold State.reachBut State.reach
  cases xl : s.xlate (s.tlbOf x.c) x.v va acc with
  | mem pa pres => exact ⟨_, rfl⟩
  | bad c st2 ia => simp [xl] at h
  | mmio p off =>
    simp only [xl] at h
    split at h
    next => cases h
    next serves =>
      simp only [serves]
      exact ⟨_, rfl⟩

end

theorem State.reachAll_eq (s : State) (x : Iss) (addrs : List (Nat × Nat)) (n : Nat) (acc : Acc) :
    s.reachAll x addrs n acc = alignedLanes addrs n (s.reachBut x acc fun p off => mmioDenied p off n acc) := rfl

theorem State.reachAtoms_eq (s : State) (x : Iss) (addrs : List (Nat × Nat)) (n : Nat) (acc : Acc) :
    s.reachAtoms x addrs n acc = alignedLanes addrs n (s.reachBut x acc fun _ _ => true) := rfl

theorem loadBody_of_error {z d : Nat} {addrs : List (Nat × Nat)} {x : Iss} {s : State} {t : Trap}
    (h : s.reachAll x addrs (szBytes z) .rd = .error t) : loadBody z d addrs x s = .trap t := by
  simp only [loadBody, h]

theorem storeBody_of_error {z src : Nat} {addrs : List (Nat × Nat)} {x : Iss} {s : State} {t : Trap}
    (h : s.reachAll x addrs (szBytes z) .wr = .error t) : storeBody z src addrs x s = .trap t := by
  simp only [storeBody, h]

theorem atomBody_of_error {o : MF} {d n : Nat} {fn : Iss → Nat → AtomFn} {x : Iss} {s : State} {t : Trap}
    (h : s.reachAtoms x (x.atomAddrs o) (szBytes o.size.toNat) .wr = .error t) : atomBody o d n fn x s = .trap t := by
  simp only [atomBody, h]

end Sys2Proof.Machine

namespace Sys2Proof.Statements

open Sys2Proof.Machine

section
variable {i : Instr} {sp : Spec} {body : Iss → State → Res} (runs : ∀ s, exec i s = issue sp body s)
include runs

theorem lowestTraps_of_body {s s1 : State} {x : Iss} (issues : Issues s sp s1 x) {a : Nat → Nat} {bad : Nat → Option LaneFault}
    (traps : ∀ l b, l ∈ lanesOf x.act → bad l = some b → (∀ j ∈ lanesOf x.act, j < l → bad j = none) →
      body x s1 = .trap { b.trap (a l) with fmask := faultMask x.act bad b.1 }) :
    LowestTraps i sp s s1 x a bad := by
  intro l c st2 ia active fails lowest
  rw [runs, issue_of_issues issues, traps l (c, st2, ia) active fails lowest, finish_trap]
  rfl

/-- A word traps as R218 and R387 say where its body is the trap that the check of its lanes gives. -/
theorem lanesTrap_of_body {n : Nat} {acc : Acc} {fails : MmioPage → Nat → Bool} {at_ : Iss → Nat → Nat}
    (traps : ∀ x s t, alignedLanes ((lanesOf x.act).map fun l => (l, at_ x l)) n (s.reachBut x acc fails) = .error t →
      body x s = .trap t) :
    LanesTrap i sp n acc fails at_ := by
  intro s s1 x issues a aligned refused
  have stage : refused = fun st2 l => inStage st2 (s1.laneFault x acc fails (a l)) := by
    funext st2 l
    simp only [refused, State.laneFault]
    cases s1.xlate (s1.tlbOf x.c) x.v (a l) acc with
    | mem pa pres => rfl
    | bad c b ia =>
      by_cases same : b = st2
      · rw [inStage_same same, same]
        exact if_pos rfl
      · rw [inStage_other same]
        exact if_neg same
    | mmio p off =>
      show (if !st2 && fails p off then some (Cause.permission, st2, 0) else none)
        = inStage st2 (if fails p off then some (Cause.permission, false, 0) else none)
      cases st2 <;> cases fails p off <;> rfl
  clear_value refused
  subst stage
  refine ⟨lowestTraps_of_body runs issues fun l b active bad lowest => traps _ _ _ ?_,
    fun al => lowestTraps_of_body runs issues fun l b active bad lowest => traps _ _ _ ?_,
    fun al none2 => lowestTraps_of_body runs issues fun l b active bad lowest => traps _ _ _ ?_⟩
  · exact alignedLanes_of_misaligned active bad lowest
  · exact alignedLanes_of_refused al (fun _ _ => State.reachBut_of_fault) (fun _ => State.reachBut_of_none) (.inl rfl) active bad lowest
  · exact alignedLanes_of_refused al (fun _ _ => State.reachBut_of_fault) (fun _ => State.reachBut_of_none) (.inr none2) active bad lowest

end

theorem laneAccessesTrap : LaneAccessesTrap :=
  ⟨fun _ => ⟨lanesTrap_of_body (fun _ => rfl) fun _ _ _ => loadBody_of_error,
      lanesTrap_of_body (fun _ => rfl) fun _ _ _ => loadBody_of_error,
      lanesTrap_of_body (fun _ => rfl) fun _ _ _ => storeBody_of_error,
      lanesTrap_of_body (fun _ => rfl) fun _ _ _ => atomBody_of_error,
      lanesTrap_of_body (fun _ => rfl) fun _ _ _ => atomBody_of_error,
      lanesTrap_of_body (fun _ => rfl) fun _ _ _ => atomBody_of_error⟩,
    fun _ => ⟨lanesTrap_of_body (fun _ => rfl) fun _ _ _ => loadBody_of_error,
      lanesTrap_of_body (fun _ => rfl) fun _ _ _ => storeBody_of_error⟩⟩

end Sys2Proof.Statements

namespace Sys2Proof.Proofs

/-- Settles O60: every word of the list is the issue of its facts and body, which makes the checks in R385's order; an access of
which a lane fails is the trap of the lowest such lane, alignment first, then stage 2. -/
theorem issueAndLaneChecksTrapInOrder : Obligations.IssueAndLaneChecksTrapInOrder :=
  ⟨Statements.issueChecksInOrder, Statements.laneAccessesTrap⟩

end Sys2Proof.Proofs
end

section
/-! PROOFS. Reconvergence: `RCVT` and `RCVM` (R47, R190, R396). -/

namespace Sys2Proof.Machine

theorem Group.pushItem_full {g : Group} (e : Entry) (d : Bool) (pc : W64) (m : Mask) (full : 16 ≤ g.items.length) :
    g.pushItem e d pc m = none := if_pos full

end Sys2Proof.Machine

namespace Sys2Proof.Proofs

open Sys2Proof.Machine Sys2Proof.Statements

/-- Settles O9, by the cases of `RCVM`: no item, a token on top, or a deferred record over another item; each token at another
address, at this one with the entry's depth, or at this one with another depth. -/
theorem reconvergenceCompletes : Obligations.ReconvergenceCompletes := by
  refine ⟨fun o g id => ?_, fun o => ?_, fun o => ⟨?_, fun top rest => ?_, fun top rest => ?_, fun top tok rest => ?_,
    fun top below rest => ?_, fun top rest => ?_, fun top tok rest => ?_⟩⟩
  · refine Done.of_body (fun _ => rfl) fun s x pushed => ?_
    simp only [pushed]
  · refine Traps.of_body (fun _ => rfl) fun s x full => ?_
    simp only [Group.pushItem_full _ _ _ _ full]
    rfl
  · refine Done.of_body (fun _ => rfl) fun s x empty => ?_
    simp only [empty]
  · refine Done.of_body (fun _ => rfl) fun s x ⟨stack, token, elsewhere⟩ => ?_
    simp only [stack, token, elsewhere, ne_eq, not_false_eq_true, if_true, Bool.false_eq_true, if_false]
  · refine Moved.of_body (fun _ => rfl) fun s x ⟨stack, token, here, depth⟩ => ?_
    simp only [stack, token, here, depth, ne_eq, not_true_eq_false, Bool.false_eq_true, if_false]
  · refine Moved.of_body (fun _ => rfl) fun s x ⟨stack, deferred, token, here, depth⟩ => ?_
    simp only [stack, deferred, token, here, depth, List.head?_cons, Option.filter_some, Bool.not_false, if_true, ne_eq,
      not_true_eq_false, if_false]
  · refine Done.of_body (fun _ => rfl) fun s x ⟨stack, deferred, other⟩ => ?_
    cases record : below.deferred with
    | true =>
      simp only [stack, deferred, record, List.head?_cons, Option.filter_some, Bool.not_true, Bool.false_eq_true, if_true, if_false]
    | false =>
      have elsewhere : below.pc ≠ x.e.pc := other.resolve_left (by simp [record])
      simp only [stack, deferred, record, elsewhere, List.head?_cons, Option.filter_some, Bool.not_false, if_true, ne_eq,
        not_false_eq_true]
  · refine Traps.of_body (fun _ => rfl) fun s x ⟨stack, token, here, depth⟩ => ?_
    simp only [stack, token, here, depth, ne_eq, not_true_eq_false, not_false_eq_true, Bool.false_eq_true, if_true, if_false]
    rfl
  · refine Traps.of_body (fun _ => rfl) fun s x ⟨stack, deferred, token, here, depth⟩ => ?_
    simp only [stack, deferred, token, here, depth, List.head?_cons, Option.filter_some, Bool.not_false, if_true, ne_eq,
      not_true_eq_false, not_false_eq_true, if_false]
    rfl

end Sys2Proof.Proofs
end

section
/-! PROOFS. Results in flight: what an issue finds and leaves, and when a fixed-latency result lands (R54-R56). -/

namespace Sys2Proof.Machine

/-! ## The issue, and the entry past its word -/

/-- The issue that the turn gives: results that are ready by now are in place, and the entry stands in its group. -/
theorem State.issuer_eq_some {s s1 : State} {g : Guard} {x : Iss} (turn : s.issuer g = some (s1, x)) :
    x.k = (s.core x.c).settle x.slot (fun p => decide (p.ready ≤ s.clk.compute)) ∧ s1 = s.setCore x.c x.k
      ∧ x.k.group? x.slot = some x.g ∧ x.g.entry? x.e.id = some x.e := by
  unfold State.issuer at turn
  split at turn
  next c slot id _ =>
    simp only at turn
    split at turn
    next => cases turn
    next gr group =>
      split at turn
      next => cases turn
      next e entry =>
        cases turn
        exact ⟨rfl, rfl, group, by rw [Group.entry?_id gr entry, entry]⟩
  next => cases turn

/-- The entry past its word. -/
def Entry.past (e : Entry) (x : Iss) (sp : Spec) : Entry :=
  { e with
    pc := e.pc + BitVec.ofNat 64 sp.len, nextIssue := x.now + 1 + sp.g.stall.toNat, lastIssue := x.now, wait := .none
    retried := false }

/-- The core once the word is over: the entry, if it still exists, is past it. -/
def Core.past (k : Core) (x : Iss) (sp : Spec) : Core :=
  match (k.group? x.slot).bind fun g => g.entry? x.e.id with
  | none => k
  | some e => k.setEntry x.slot (e.past x sp)

theorem Core.past_of_entry {k : Core} {x : Iss} {sp : Spec} {g : Group} {e : Entry} (group : k.group? x.slot = some g)
    (entry : g.entry? x.e.id = some e) : k.past x sp = k.setGroup x.slot (g.setEntry (e.past x sp)) := by
  unfold Core.past Core.setEntry
  simp only [group, Option.bind_some, entry]

theorem Core.past_readLoc (k : Core) (x : Iss) (sp : Spec) (l : RegLoc) : (k.past x sp).readLoc l = k.readLoc l := by
  unfold Core.past
  split
  · rfl
  · exact Core.readLoc_setEntry ..

theorem Core.setEntry_frames (k : Core) (slot : Nat) (e : Entry) : (k.setEntry slot e).frames = k.frames := by
  unfold Core.setEntry
  split <;> rfl

theorem Core.past_frames (k : Core) (x : Iss) (sp : Spec) : (k.past x sp).frames = k.frames := by
  unfold Core.past
  split
  · rfl
  · exact Core.setEntry_frames ..

theorem Core.past_pend {k : Core} {x : Iss} (sp : Spec) {g : Group} (group : k.group? x.slot = some g) :
    ∃ g', (k.past x sp).group? x.slot = some g' ∧ g'.pend = g.pend := by
  cases entry : g.entry? x.e.id with
  | none =>
    refine ⟨g, ?_, rfl⟩
    unfold Core.past
    simp only [group, Option.bind_some, entry]
  | some e =>
    rw [Core.past_of_entry group entry]
    exact ⟨_, Core.group?_setGroup_self .., rfl⟩

/-- The virtual function of an issue counts it (R360). -/
def Vf.issued (v : Vf) : Vf := { v with perf := setAt v.perf 0 (getAt v.perf 0 0 + 1) }

/-- The PC moves past a word in the issuing entry's core, and nothing else changes. -/
theorem State.advance_past (s : State) (x : Iss) (sp : Spec) :
    (s.advance x sp.g.stall.toNat sp.len).core x.c = (s.core x.c).past x sp
    ∧ (∀ c, c ≠ x.c → (s.advance x sp.g.stall.toNat sp.len).core c = s.core c)
    ∧ s.advance x sp.g.stall.toNat sp.len = { s with cores := (s.advance x sp.g.stall.toNat sp.len).cores } := by
  cases found : ((s.core x.c).group? x.slot).bind fun g => g.entry? x.e.id with
  | none =>
    have gone : s.advance x sp.g.stall.toNat sp.len = s := by simp only [State.advance, found]
    have same : (s.core x.c).past x sp = s.core x.c := by simp only [Core.past, found]
    rw [gone, same]
    exact ⟨rfl, fun _ _ => rfl, rfl⟩
  | some e =>
    have moved : s.advance x sp.g.stall.toNat sp.len = s.setCore x.c ((s.core x.c).past x sp) := by
      simp only [State.advance, Core.past, found]
      rfl
    rw [moved]
    exact ⟨State.core_setCore_self .., fun c other => State.core_setCore_ne _ _ other, rfl⟩

section
variable (s : State) (x : Iss) (sp : Spec) (k : Core)

theorem State.afterDone_core : ((s.setCore x.c k).afterDone x sp).core x.c = k.past x sp := by
  have advanced := ((s.setCore x.c k).advance_past x sp).1
  rwa [State.core_setCore_self] at advanced

theorem State.afterDone_core_ne {c : Nat} (other : c ≠ x.c) : ((s.setCore x.c k).afterDone x sp).core c = s.core c :=
  (((s.setCore x.c k).advance_past x sp).2.1 c other).trans (State.core_setCore_ne _ _ other)

/-- After a word whose effect is in its core, the issue count of its virtual function has advanced and its turn is over. -/
theorem State.afterDone_rest : (s.setCore x.c k).afterDone x sp = { s with
    cores := ((s.setCore x.c k).afterDone x sp).cores, vfs := KMap.put s.vfs x.v (s.vf x.v).issued, turn := none } := by
  have advanced := ((s.setCore x.c k).advance_past x sp).2.2
  unfold State.afterDone
  rw [advanced]
  rfl

end

/-! ## Results that join the others in flight -/

/-- The results of a word as the group keeps them until they land. -/
def Group.newPend (g : Group) (k : Core) (x : Iss) (lat : Nat) (ws : List (Nat × Mask × Reg)) (ps : List (Nat × Mask × Mask)) :
    List Pend :=
  let after := fun (tgt : PendTgt) => g.pend.foldl (fun n p => if p.tgt = tgt then max n p.ready else n) (x.now + lat)
  (ws.filterMap fun w => (locOf k x.e w.1).map fun l =>
    ({ by_ := x.e.id, ready := after (.reg l), tgt := .reg l, mask := w.2.1, val := w.2.2 } : Pend))
  ++ (ps.filter fun p => decide (p.1 ≠ 7)).map fun p =>
    ({ by_ := x.e.id, ready := after (.pred p.1), tgt := .pred p.1, mask := p.2.1, val := p.2.2.setWidth 256 } : Pend)

theorem Core.addPend_of_group {k : Core} {x : Iss} {g : Group} (group : k.group? x.slot = some g) (lat : Nat)
    (ws : List (Nat × Mask × Reg)) (ps : List (Nat × Mask × Mask)) :
    k.addPend x lat ws ps = k.setGroup x.slot { g with pend := g.pend ++ g.newPend k x lat ws ps } := by
  unfold Core.addPend
  simp only [group, List.append_assoc]
  rfl

/-- A single result of a group with none in flight lands `lat` clocks after the issue. -/
theorem Group.newPend_single {g : Group} {k : Core} {x : Iss} {f : Nat} {l : RegLoc} (empty : g.pend = [])
    (loc : locOf k x.e f = some l) (lat : Nat) (m : Mask) (v : Reg) :
    g.newPend k x lat [(f, m, v)] [] = [{ by_ := x.e.id, ready := x.now + lat, tgt := .reg l, mask := m, val := v }] := by
  simp [Group.newPend, empty, loc]

/-- The one result of a group takes effect where it is selected, and stays pending where not. -/
theorem Core.settle_single {k : Core} {slot : Nat} {g : Group} {p : Pend} (group : k.group? slot = some g) (single : g.pend = [p])
    (sel : Pend → Bool) : k.settle slot sel = if sel p then (k.setGroup slot { g with pend := [] }).applyPend slot p
      else k.setGroup slot { g with pend := [p] } := by
  cases chosen : sel p <;> simp [Core.settle, group, single, splitPend, chosen]

theorem Core.holds_congr {k k' : Core} (frames : k'.frames = k.frames) {l : RegLoc} (h : k.holds l) : k'.holds l := by
  cases l with
  | frame f r => exact (congrArg (fun m => (KMap.get? m f).isSome = true) frames).mpr h
  | trap i r => trivial

/-- What a word leaves whose effect on its core `x.k` is `k1`: nothing of the machine changes but its core and its virtual function's
count. -/
theorem State.afterDone_frame {s s1 : State} {g : Guard} {x : Iss} (turn : s.issuer g = some (s1, x)) (sp : Spec) (k1 : Core) :
    let t := (s1.setCore x.c k1).afterDone x sp
    t = { s with cores := t.cores, vfs := t.vfs, turn := none }
    ∧ (∀ c, c ≠ x.c → t.core c = s.core c) ∧ (∀ v, v ≠ x.v → t.vf v = s.vf v) ∧ t.vf x.v = (s.vf x.v).issued := by
  obtain ⟨-, rfl, -, -⟩ := State.issuer_eq_some turn
  have rest := State.afterDone_rest (s.setCore x.c x.k) x sp k1
  have vfs := congrArg State.vfs rest
  refine ⟨rest.trans ?_, fun c other => ?_, fun v other => ?_, ?_⟩
  · rw [vfs]
    rfl
  · rw [State.afterDone_core_ne _ _ _ _ other, State.core_setCore_ne _ _ other]
  · rw [State.vf, vfs]
    exact KMap.getD_put_ne _ _ _ other
  · rw [State.vf, vfs]
    exact KMap.getD_put_self ..

/-- Core `u` is the core `k` of the issue but for the entry past its word and the results `ns` and `os` that have joined those in
flight. -/
structure Core.ResultsOnly (k u : Core) (x : Iss) (sp : Spec) (ns : List Pend) (os : List Out) : Prop where
  rest : u = { k with groups := u.groups, outs := u.outs, nextId := u.nextId }
  reads : ∀ l, u.readLoc l = k.readLoc l
  others : ∀ slot, slot ≠ x.slot → u.group? slot = k.group? slot
  group : u.group? x.slot = some { x.g.setEntry (x.e.past x sp) with pend := x.g.pend ++ ns }
  outs : u.outs = k.outs ++ os
  nextId : u.nextId = k.nextId + os.length

section
variable {k : Core} {x : Iss} (group : k.group? x.slot = some x.g) (entry : x.g.entry? x.e.id = some x.e) (sp : Spec)
include group entry

theorem Core.addPend_past (lat : Nat) (ws : List (Nat × Mask × Reg)) (ps : List (Nat × Mask × Mask)) :
    k.ResultsOnly ((k.addPend x lat ws ps).past x sp) x sp (x.g.newPend k x lat ws ps) [] := by
  rw [Core.addPend_of_group group, Core.past_of_entry (Core.group?_setGroup_self ..)
    (show Group.entry? { x.g with pend := x.g.pend ++ x.g.newPend k x lat ws ps } x.e.id = some x.e from entry)]
  exact ⟨rfl, fun l => by rw [Core.readLoc_setGroup, Core.readLoc_setGroup],
    fun slot other => by rw [Core.group?_setGroup_ne _ _ other, Core.group?_setGroup_ne _ _ other],
    Core.group?_setGroup_self .., (List.append_nil _).symm, rfl⟩

theorem Core.addOut_past (ds : List OutDest) (reqs : Nat) (load : Bool) (latched : List (W32 × Nat)) :
    ∃ o, k.ResultsOnly ((k.addOut x ds reqs load latched).past x sp) x sp [] [o] := by
  rw [Core.past_of_entry (k := k.addOut x ds reqs load latched) group entry]
  exact ⟨_, rfl, fun l => by cases l <;> rfl, fun slot other => Core.group?_setGroup_ne _ _ other,
    by rw [Core.group?_setGroup_self, List.append_nil]; rfl, rfl, rfl⟩

end

end Sys2Proof.Machine

namespace Sys2Proof.Proofs

open Sys2Proof.Machine

/-- Settles O56: the one result in flight is selected from its latency on, and its write changes its own register alone. -/
theorem fixedResultsLandAfterTheirLatency : Obligations.FixedResultsLandAfterTheirLatency := by
  intro s x sp lat f m v l g now group empty loc holds
  have joined := Core.addPend_of_group group lat [(f, m, v)] []
  rw [Group.newPend_single empty loc, empty, List.nil_append] at joined
  obtain ⟨g', landed, single⟩ := Core.past_pend (k := (s.core x.c).addPend x lat [(f, m, v)] []) sp
    (by rw [joined]; exact Core.group?_setGroup_self ..)
  have reads : ∀ r, (((s.core x.c).addPend x lat [(f, m, v)] []).past x sp).readLoc r = (s.core x.c).readLoc r := fun r => by
    rw [Core.past_readLoc, joined, Core.readLoc_setGroup]
  have frames : (((s.core x.c).addPend x lat [(f, m, v)] []).past x sp).frames = (s.core x.c).frames := by
    rw [Core.past_frames, joined]
    rfl
  have kept := Core.holds_congr frames holds
  simp only [State.afterFixed, State.afterDone_core]
  generalize ((s.core x.c).addPend x lat [(f, m, v)] []).past x sp = u at landed reads kept ⊢
  rw [Core.settle_single landed single]
  refine ⟨fun early r => ?_, fun due => ?_⟩
  · rw [if_neg (by simpa using early), Core.readLoc_setGroup, reads]
  · have ready : Core.holds (u.setGroup x.slot { g' with pend := [] }) l := Core.holds_congr rfl kept
    rw [if_pos (by simpa using due)]
    refine ⟨?_, fun r other => ?_⟩
    · rw [Core.applyPend, Core.readLoc_writeLoc_self _ _ _ _ ready, Core.readLoc_setGroup, reads]
    · rw [Core.applyPend, Core.readLoc_writeLoc_ne _ _ _ _ _ ready other, Core.readLoc_setGroup, reads]

/-- Settles O57: past the word its core is the issue's but for the entry and the results in flight, and nothing else of the
machine changes but the issue count. -/
theorem resultsChangeNothingElse : Obligations.ResultsChangeNothingElse := by
  intro s s1 x sp lat ws ps vs turn
  obtain ⟨settled, state, group, entry⟩ := State.issuer_eq_some turn
  have core : s1.core x.c = x.k := by rw [state, State.core_setCore_self]
  have fixed := Core.addPend_past group entry sp lat ws ps
  obtain ⟨o, later⟩ := Core.addOut_past group entry sp (outDests x.k x vs) 0 false []
  have fixedCore : (s1.afterFixed x sp lat ws ps).core x.c = (x.k.addPend x lat ws ps).past x sp := by
    rw [State.afterFixed, State.afterDone_core, core]
  have laterCore : (s1.afterLater x sp vs).core x.c = (x.k.addOut x (outDests x.k x vs) 0 false []).past x sp := by
    rw [State.afterLater, State.afterDone_core, core]
  refine ⟨⟨x.k, settled, state⟩, ?_, ?_, ?_, fun t ended => ?_⟩
  · rw [fixedCore, fixed.outs, core, List.append_nil]
  · rw [fixedCore, fixed.nextId, core]
    rfl
  · intro g landed
    rw [laterCore, later.group] at landed
    cases landed
    exact List.append_nil _
  · obtain ⟨k1, ns, os, rfl, only⟩ : ∃ k1 ns os, t = (s1.setCore x.c k1).afterDone x sp
        ∧ x.k.ResultsOnly (k1.past x sp) x sp ns os := by
      rcases ended with rfl | rfl
      · exact ⟨_, _, _, by rw [State.afterFixed, core], fixed⟩
      · exact ⟨_, _, _, by rw [State.afterLater, core], later⟩
    obtain ⟨rest, cores, vfs, issued⟩ := State.afterDone_frame turn sp k1
    have after := State.afterDone_core s1 x sp k1
    simp only [core, after]
    exact ⟨rest, cores, vfs, issued, only.rest, only.reads, only.others, ⟨_, only.group, rfl, rfl, ns, rfl⟩, os, only.outs⟩

end Sys2Proof.Proofs
end

section
/-! PROOFS. Steps that a core takes by itself: results that land, swaps, and frames (R49, R50, R55, R56, R63-R67). -/

namespace Sys2Proof.Machine

/-! ## Results that land (R55, R56) -/

theorem Core.answered_of {k : Core} {o : Out} (reqs : o.reqs = 0) (atoms : ∀ a ∈ k.atoms, a.out ≠ o.id) : k.answered o = true := by
  simp only [Core.answered, reqs, decide_true, Bool.true_and, Bool.not_eq_true', List.any_eq_false, decide_eq_true_eq]
  exact atoms

/-- A result that is answered, with no older result of its registers on its way, lands. -/
theorem execLoadComplete_next {s : State} {c id : Nat} {o : Out}
    (out : (s.core c).outs.find? (fun o => decide (o.id = id)) = some o) (answered : (s.core c).answered o = true)
    (ready : ∀ g, (s.core c).group? o.slot = some g → ∀ p ∈ g.pend, (o.dests.any fun d => decide (p.tgt = .reg d.loc)) = true →
      p.ready ≤ s.clk.compute) :
    execLoadComplete c id s = .next (s.setCore c (((s.core c).settle o.slot fun p =>
      o.dests.any fun d => decide (p.tgt = .reg d.loc)).landOut o)) := by
  have timely : (((s.core c).group? o.slot).map fun g => g.pend).any (fun ps => ps.any fun p =>
      (o.dests.any fun d => decide (p.tgt = .reg d.loc)) && decide (s.clk.compute < p.ready)) = false := by
    cases group : (s.core c).group? o.slot with
    | none => rfl
    | some g =>
      simp only [Option.map_some, Option.any_some, List.any_eq_false, Bool.and_eq_true, decide_eq_true_eq, not_and, Nat.not_lt]
      exact ready g group
  simp only [execLoadComplete, out, answered, timely, Bool.not_true, Bool.or_self, Bool.false_eq_true, if_false]

theorem Core.readLoc_outs (k : Core) (os : List Out) (l : RegLoc) : Core.readLoc { k with outs := os } l = k.readLoc l := by
  cases l <;> rfl

theorem Core.landOut_reads {k : Core} {o : Out} (distinct : (o.dests.map OutDest.loc).Nodup) (holds : ∀ d ∈ o.dests, k.holds d.loc) :
    (∀ d ∈ o.dests, (k.landOut o).readLoc d.loc = mergeReg d.mask (k.readLoc d.loc) d.val)
    ∧ ∀ l, l ∉ o.dests.map OutDest.loc → (k.landOut o).readLoc l = k.readLoc l := by
  have held : ∀ d ∈ o.dests, Core.holds { k with outs := k.outs.filter fun x => decide (x.id ≠ o.id) } d.loc :=
    fun d hd => Core.holds_congr rfl (holds d hd)
  refine ⟨fun d hd => ?_, fun l other => ?_⟩
  · rw [Core.readLoc_landOut, Core.readLoc_arrives_mem _ _ _ held distinct hd, Core.readLoc_outs]
  · rw [Core.readLoc_landOut, Core.readLoc_arrives_ne _ _ _ held other, Core.readLoc_outs]

/-! ## Swaps (R49, R50) -/

section
variable {s : State} {c q p : Nat} {pl : Place} {g : Group} {e : Entry} (placed : s.placed c q p = some (pl, g, e))
include placed

theorem execTimeSliceSwap_next {t : State} (plain : e.handler = none) (held : pl.since + 2048 ≤ s.clk.compute)
    (swap : s.swapPlace c q p false (fun g => decide ((s.vf g.vf).weight ≠ 0)) = some t) :
    execTimeSliceSwap c q p s = .next t := by
  have stays : (decide (s.clk.compute < pl.since + 2048) || e.handler.isSome) = false := by
    simp [plain, held]
  simp only [execTimeSliceSwap, State.sliceOver, placed, stays, Bool.false_eq_true, if_false, swap]

/-- A load that an entry has stalled on for too long is one of its late results. -/
theorem State.mem_lateOuts {outs reads : List Nat} {o : Out}
    (stalls : Statements.StallsTooLong s c q e outs reads o) : o.id ∈ s.lateOuts c q p := by
  obtain ⟨wait, out, read, load, long, old⟩ := stalls
  simp only [State.lateOuts, placed, wait]
  refine List.mem_map_of_mem (List.mem_filter.mpr ⟨out, ?_⟩)
  simp [read, load, long, old]

theorem execSwapthrExpiry_next {id : Nat} (late : id ∈ s.lateOuts c q p) :
    execSwapthrExpiry c q p s = .next ((s.setCore c { s.core c with
      outs := (s.core c).outs.map fun x =>
        if (s.lateOuts c q p).contains x.id then { x with long := true } else x }).meetWait c pl.slot e.id false) := by
  unfold execSwapthrExpiry
  rw [placed]
  cases found : s.lateOuts c q p with
  | nil =>
    rw [found] at late
    cases late
  | cons i is => rfl

end

/-! ## Frames (R63-R67) -/

theorem Core.spillWait_eq (k : Core) : k.spillWait = max 1 (k.eseCtl.toNat % 65536) := rfl

section
variable {s : State} {c : Nat} {a : AllocReq} {rest : List AllocReq} (oldest : (s.core c).allocs = a :: rest)
include oldest

theorem execFrameAllocation_refill {ps : List (Nat × Option (Nat × Nat))} (refill : a.ent = none)
    (fits : (s.core c).refillPlace a.slot = some ps) : execFrameAllocation c s = .next (s.refill c a.slot ps) := by
  simp only [execFrameAllocation, oldest, refill, fits]

section
variable {id : EntId} {g : Group} {e : Entry} (wants : a.ent = some id) (group : (s.core c).group? a.slot = some g)
  (entry : g.entry? id = some e)
include wants group entry

theorem execFrameAllocation_spilled {ps : List (Nat × Option (Nat × Nat))} (spilled : g.spilled = true)
    (fits : (s.core c).refillPlace a.slot = some ps) : execFrameAllocation c s = .next (s.refill c a.slot ps) := by
  simp only [execFrameAllocation, oldest, wants, group, entry, spilled, fits, Option.bind_some, Option.map_some, Option.getD_some,
    if_true]

theorem execFrameAllocation_wakes (wait : e.wait = .alloc) (resident : g.spilled = false)
    (fits : ((s.core c).place (s.allocSizes g.vf e a.size)).isSome = true) :
    execFrameAllocation c s = .next (s.setCore c ((s.core c).setEntry a.slot (e.woken s.clk.compute))) := by
  have served : s.allocFits c a = true := by
    simp only [State.allocFits, wants, group, entry, resident, Bool.false_eq_true, if_false, fits]
  simp only [execFrameAllocation, oldest, wants, group, entry, wait, resident, served, Option.bind_some, Option.map_some,
    Option.getD_some, Bool.false_eq_true, if_false, decide_true, Bool.and_self, if_true]

end

theorem execEseSpill_next (unfit : s.allocFits c a = false)
    (waited : max a.since (s.core c).lastFree + (s.core c).spillWait ≤ s.clk.compute)
    (useful : (s.core c).refills a = false ∨ s.spillable c a.slot ≠ []) : execEseSpill c s = .next (s.spillFor c a) := by
  have idle : ((s.core c).refills a && (s.spillable c a.slot).isEmpty) = false := by
    rcases useful with h | h <;> simp [h]
  have due : s.spillDue c = some a := by
    simp only [State.spillDue, oldest, unfit, idle, Nat.not_lt.mpr waited, decide_false, Bool.or_self, Bool.false_eq_true, if_false]
  simp only [execEseSpill, due]

end

section
variable {s : State} {c slot : Nat} (wants : s.wantsRefill c slot = true)
include wants

theorem execEseRefill_next (first : (s.core c).allocs = []) {ps : List (Nat × Option (Nat × Nat))}
    (fits : (s.core c).refillPlace slot = some ps) : execEseRefill c slot s = .next (s.refill c slot ps) := by
  simp only [execEseRefill, wants, first, fits, List.any_nil, Bool.not_true, Bool.or_self, Bool.false_eq_true, if_false]

theorem execEseRefill_asks
    (unasked : (s.core c).allocs.any (fun a => decide (a.slot = slot) && decide (a.ent = none)) = false)
    (later : (s.core c).allocs ≠ [] ∨ (s.core c).refillPlace slot = none) :
    execEseRefill c slot s = .next (s.setCore c { s.core c with
      allocs := (s.core c).allocs ++ [{ slot := slot, ent := none, since := s.clk.compute, size := 0 }] }) := by
  simp only [execEseRefill, wants, unasked, Bool.not_true, Bool.or_self, Bool.false_eq_true, if_false]
  split
  next ps empty fits => exact (later.elim (· empty) fun none => by rw [fits] at none; cases none).elim
  next => rfl

end

end Sys2Proof.Machine

namespace Sys2Proof.Statements

open Sys2Proof.Machine

theorem swapStepsComplete : SwapStepsComplete := fun _ _ _ _ _ _ _ placed =>
  ⟨fun _ plain held swap => execTimeSliceSwap_next placed plain held swap,
   fun _ _ _ stalls => execSwapthrExpiry_next placed (State.mem_lateOuts placed stalls)⟩

theorem frameStepsComplete : FrameStepsComplete := by
  intro s c slot a rest
  refine ⟨fun oldest => ⟨fun ps refill fits => ?_, fun id g e ps wants group entry spilled fits => ?_,
    fun id g e wants group entry wait resident fits => ?_, fun unfit waited useful => ?_⟩,
    fun wants first ps fits => ?_, fun wants unasked later => ?_⟩
  · exact execFrameAllocation_refill oldest refill fits
  · exact execFrameAllocation_spilled oldest wants group entry spilled fits
  · exact execFrameAllocation_wakes oldest wants group entry wait resident fits
  · exact execEseSpill_next oldest unfit waited useful
  · exact execEseRefill_next wants first fits
  · exact execEseRefill_asks wants unasked later

end Sys2Proof.Statements

namespace Sys2Proof.Proofs

open Sys2Proof.Machine Sys2Proof.Statements

/-- Settles O30: the result lands over the older results of its registers, and a landing writes its destinations alone. -/
theorem loadCompletionCompletes : Obligations.LoadCompletionCompletes := by
  intro s c id o out reqs atoms older ready k1
  refine ⟨k1.landOut o, execLoadComplete_next out (Core.answered_of reqs atoms) ready, ?_, fun distinct holds =>
    Core.landOut_reads distinct holds⟩
  have name : o.id = id := by simpa using List.find?_some out
  rw [Core.landOut_outs, (Core.settled_settle (s.core c) o.slot older).outs, name]

/-- Settles O29: each step of the swaps and of the frames is what its part of the statement says. -/
theorem swapAndFrameStepsComplete : Obligations.SwapAndFrameStepsComplete := ⟨swapStepsComplete, frameStepsComplete⟩

end Sys2Proof.Proofs
end

section
/-! PROOFS. Tasks and locks: what `TEND` does once its record and its future are reached, and the words that complete (R72-R77,
R234). -/

namespace Sys2Proof.Machine

/-- `TEND` of an entry that runs a task is the issue of its body. -/
theorem execTend_of_running {o : SF} {s s1 : State} {x : Iss} {h : W64} (turn : s.issuer o.g = some (s1, x))
    (running : runningTask x.k x.g x.e = some h) :
    execTend o s = issue { futSpec o (.tend o) false true false false with srcs := [(o.a.toNat, 2)] } (tendBody o) s := by
  simp only [execTend, turn, running, Option.isNone_some, Bool.false_and, Bool.false_eq_true, if_false]

/-- Whenever `TEND` issues of an entry that runs a task, it moves as its body does. -/
theorem Moved.of_tendBody {o : SF} {p : State → Iss → Prop} {f : State → Iss → State}
    (running : ∀ s x, p s x → ∃ h, runningTask x.k x.g x.e = some h)
    (effect : ∀ s x, p s x → tendBody o x s = .moved (f s x)) :
    Moved (.tend o) { futSpec o (.tend o) false true false false with srcs := [(o.a.toNat, 2)] } p f := by
  intro s s1 x issues holds
  obtain ⟨h, runs⟩ := running s1 x holds
  rw [show exec (.tend o) s = execTend o s from rfl, execTend_of_running issues.turn runs, issue_of_issues issues,
    effect s1 x holds, finish_moved]

section
variable {o : SF} {s : State} {x : Iss} {h : W64} {pa : Nat} {pr : Bool} {q f : Nat × Bool}
  (running : runningTask x.k x.g x.e = some h) (readable : s.reachMem x (s.taskVa x.v h) .rd = .ok (pa, pr))
  (writable : s.reachMem x (s.taskVa x.v h) .wr = .ok q)
  (future : (if s.word (pa + 16) = 0#64 then .ok (0, false) else s.reachMem x (futVa (s.word (pa + 16))) .wr :
    Except Trap (Nat × Bool)) = .ok f)
include running readable writable future

/-- The end of an adopted task: its entry leaves the adoption. -/
theorem tendBody_of_adopted (adopted : (x.k.adoption x.e.frame).isSome = true) :
    tendBody o x s = .moved ((s.finishTask x.c x.v h (x.low64 o.a.toNat)).leaveAdoption x.c x.slot x.e) := by
  simp only [tendBody, running, readable, writable, future, adopted, if_true]

/-- The end of a group's own task: the tasks that its entries have adopted fail, and the group is gone. -/
theorem tendBody_of_own (own : x.k.adoption x.e.frame = none) :
    tendBody o x s = .moved (((x.k.adoptedTasks x.g).foldl (fun s t => s.failTask x.c x.v t)
      (s.finishTask x.c x.v h (x.low64 o.a.toNat))).dropGroup x.c x.slot) := by
  simp only [tendBody, running, readable, writable, future, own, Option.isSome_none, Bool.false_eq_true, if_false]

end

end Sys2Proof.Machine

namespace Sys2Proof.Proofs

open Sys2Proof.Machine

/-- Settles O22, word by word: the checks of each word pass, so its body has the effect that is stated. -/
theorem tasksAndLocksComplete : Obligations.TasksAndLocksComplete := by
  intro o ps h pa pr f
  refine ⟨?_, ?_, ?_, ?_, ?_, ?_⟩
  · refine Done.of_body (fun _ => rfl) fun s x spawned => ?_
    simp only [spawned]
  · refine Moved.of_tendBody (fun _ _ ⟨⟨running, _⟩, _⟩ => ⟨h, running⟩) fun s x ends => ?_
    obtain ⟨⟨running, readable, ⟨q, writable⟩, future⟩, adopted⟩ := ends
    exact tendBody_of_adopted running readable writable future adopted
  · refine Moved.of_tendBody (fun _ _ ⟨⟨running, _⟩, _⟩ => ⟨h, running⟩) fun s x ends => ?_
    obtain ⟨⟨running, readable, ⟨q, writable⟩, future⟩, own⟩ := ends
    exact tendBody_of_own running readable writable future own
  · refine Done.of_body (fun _ => rfl) fun s x ⟨lock, free⟩ => ?_
    simp only [lock, free, if_true]
  · refine Moved.of_body (fun _ => rfl) fun s x ⟨lock, taken⟩ => ?_
    simp only [lock, taken, if_false]
  · refine Done.of_body (fun _ => rfl) fun s x lock => ?_
    simp only [lock]

end Sys2Proof.Proofs
end

section
/-! PROOFS. Traps: the trap frame that an entry leaves, the handler that it enters, and the traps that are fatal (R69, R225,
R369-R375). -/

namespace Sys2Proof.Machine

/-! ## The active set is no part of a chain or a register -/

section
variable (k : Core) (qs : List Quarter)

theorem Core.chainFuel_quarters (n id : Nat) : Core.chainFuel n { k with quarters := qs } id = Core.chainFuel n k id := by
  induction n generalizing id with
  | zero => rfl
  | succ n ih =>
    have frame : Core.frame? { k with quarters := qs } id = k.frame? id := rfl
    simp only [Core.chainFuel, frame, ih]

theorem Core.adoption_quarters (id : Nat) : Core.adoption { k with quarters := qs } id = k.adoption id := by
  simp only [Core.adoption, Core.chain, Core.chainFuel_quarters]
  rfl

theorem Core.readLoc_quarters (l : RegLoc) : Core.readLoc { k with quarters := qs } l = k.readLoc l := by
  cases l <;> rfl

theorem inAdopted_quarters (e : Entry) : inAdopted { k with quarters := qs } e = inAdopted k e := by
  simp only [inAdopted, Core.adoption_quarters]

theorem tinfo3_quarters (slot : Nat) (e : Entry) (m : Mask) : tinfo3 { k with quarters := qs } slot e m = tinfo3 k slot e m := by
  simp only [tinfo3, inAdopted_quarters]

theorem tinfo2_quarters (g : Group) (e : Entry) : tinfo2 { k with quarters := qs } g e = tinfo2 k g e := by
  simp only [tinfo2, runningTask, Core.adoption_quarters]

end

/-- A group's own task is all that `%tinfo2` needs of it. -/
theorem tinfo2_sameBut {g g1 : Group} (same : g.sameBut g1) (k : Core) (e : Entry) : tinfo2 k g1 e = tinfo2 k g e := by
  rw [show g1 = { g with preds := g1.preds, pend := g1.pend } from same]
  rfl

/-- A place in the active set is made in the quarters alone. -/
theorem Core.ensurePlace_quarters {k k' : Core} {slot : Nat} {id : EntId} {now p : Nat}
    (made : k.ensurePlace slot id now = some (k', p)) : ∃ qs, k' = { k with quarters := qs } := by
  unfold Core.ensurePlace at made
  split at made
  next =>
    cases made
    exact ⟨k.quarters, rfl⟩
  next =>
    obtain ⟨_, _, here⟩ := Option.map_eq_some_iff.mp made
    cases here
    exact ⟨_, rfl⟩

/-! ## The information registers (R371) -/

theorem bits_eq_div_mod (x hi lo : Nat) : bits x hi lo = x / 2 ^ lo % 2 ^ (hi + 1 - lo) := by
  rw [bits, Nat.shiftRight_eq_div_pow]

/-- Adoptions of an entry, one that is still to be placed among them. -/
def Entry.adoptions (e : Entry) : Nat := e.adepth + (if e.adopting.isSome then 1 else 0)

theorem tinfo3_fields (k : Core) {slot : Nat} {e : Entry} (m : Mask) (small : slot < 512) (shallow : e.adoptions < 8) :
    let w := (tinfo3 k slot e m).toNat
    bits w 31 24 = m.toNat ∧ bits w 23 23 = (if inAdopted k e then 1 else 0) ∧ bits w 22 20 = e.adoptions
      ∧ bits w 19 9 = 0 ∧ bits w 8 0 = slot := by
  have lanes : m.toNat < 256 := m.isLt
  obtain ⟨a, flag, bound⟩ : ∃ a, (if inAdopted k e then 2 ^ 23 else 0) = a * 2 ^ 23
      ∧ (if inAdopted k e then 1 else 0) = a ∧ a < 2 := by
    cases inAdopted k e
    · exact ⟨0, rfl, rfl, by decide⟩
    · exact ⟨1, rfl, rfl, by decide⟩
  have word : (tinfo3 k slot e m).toNat = m.toNat * 2 ^ 24 + a * 2 ^ 23 + e.adoptions * 2 ^ 20 + slot := by
    rw [tinfo3, flag, BitVec.toNat_ofNat]
    exact Nat.mod_eq_of_lt (by simp only [Entry.adoptions] at shallow; omega)
  simp only [bits_eq_div_mod, word, bound.1]
  omega

/-! ## The entry of a handler (R369) -/

/-- The trap frame that a trap `t` of entry `e` leaves, in a core `k` with the group `g` in the slot. -/
def savedTrap (k : Core) (slot : Nat) (id : EntId) (g : Group) (e : Entry) (t : Trap) (len : Nat) : TrapState :=
  { slot := slot, ent := id, tcause := BitVec.ofNat 32 t.cause.code, tpc := e.pc, tinfo0 := t.i0
    tinfo1 := if t.stage2 then t.i1 ||| 0x00800000 else t.i1
    tinfo2 := tinfo2 k g e, tinfo3 := tinfo3 k slot e t.fmask, resume := resumePc t.cause e.pc len
    pred := g.preds, cause := t.cause, va := t.va }

/-- The entry in the handler with trap frame `i`, at the vector. -/
def Entry.handling (e : Entry) (i vec now : Nat) : Entry :=
  { e with handler := some i, pc := BitVec.ofNat 64 vec, wait := .none, waitFrom := now, nextIssue := now + 1, lastIssue := now }

theorem Group.entry?_handling {g : Group} {e : Entry} (entry : g.entry? e.id = some e) (i vec now : Nat) :
    (g.setEntry (e.handling i vec now)).entry? e.id = some (e.handling i vec now) :=
  Group.entry?_setEntry g (e.handling i vec now) e entry

/-- The core with a new trap frame `i`, and the entry that has it. -/
def Core.enterHandler (k : Core) (slot i : Nat) (e : Entry) (ts : TrapState) : Core :=
  { k.freeTrap i with traps := KMap.put (k.freeTrap i).traps i ts }.setEntry slot e

section
variable {k : Core} {slot i : Nat} {e : Entry} {ts : TrapState} {g : Group} (group : k.group? slot = some g)
include group

theorem Core.enterHandler_eq : k.enterHandler slot i e ts
    = { k.freeTrap i with traps := KMap.put (KMap.del k.traps i) i ts }.setGroup slot (g.setEntry e) := by
  have kept : Core.group? { k.freeTrap i with traps := KMap.put (k.freeTrap i).traps i ts } slot = some g := group
  rw [Core.enterHandler, Core.setEntry, kept]
  rfl

theorem Core.enterHandler_group : (k.enterHandler slot i e ts).group? slot = some (g.setEntry e) := by
  rw [Core.enterHandler_eq group, Core.group?_setGroup_self]

theorem Core.enterHandler_traps_self : KMap.get? (k.enterHandler slot i e ts).traps i = some ts := by
  rw [Core.enterHandler_eq group, Core.setGroup_traps, KMap.get?_put_self]

theorem Core.enterHandler_traps_ne {j : Nat} (other : j ≠ i) :
    KMap.get? (k.enterHandler slot i e ts).traps j = KMap.get? k.traps j := by
  rw [Core.enterHandler_eq group, Core.setGroup_traps, KMap.get?_put_ne _ _ other, KMap.get?_del_ne _ other]

end

section
variable (k : Core) (slot i : Nat) (e : Entry) (ts : TrapState)

/-- The registers of a new trap frame read 0 (R370). -/
theorem Core.enterHandler_readLoc_own (r : Nat) : (k.enterHandler slot i e ts).readLoc (.trap i r) = 0 := by
  rw [Core.enterHandler, Core.readLoc_setEntry]
  simp only [Core.readLoc, Core.freeTrap, KMap.getD, KMap.get?_del_self]
  rfl

theorem Core.enterHandler_readLoc_ne {l : RegLoc} (other : ∀ r, l ≠ .trap i r) :
    (k.enterHandler slot i e ts).readLoc l = k.readLoc l := by
  rw [Core.enterHandler, Core.readLoc_setEntry]
  cases l with
  | frame f r => rfl
  | trap j r =>
    have apart : j ≠ i := fun same => other r (same ▸ rfl)
    simp only [Core.readLoc, Core.freeTrap, KMap.getD, KMap.get?_del_ne _ apart]

end

/-- While an entry of a group is in a handler, no other entry of the group may issue (R369). -/
theorem State.mayIssue_of_handler {g : Group} {id : EntId} {e f : Entry} (entry : g.entry? id = some e)
    (handler : e.handler.isSome = true) (other : f.id ≠ id) (s : State) (c slot : Nat) : s.mayIssue c slot g f = false := by
  have held : g.entries.any (fun x => decide (x.id ≠ f.id) && x.handler.isSome) = true := by
    refine List.any_eq_true.mpr ⟨e, List.mem_of_find?_eq_some entry, ?_⟩
    rw [Group.entry?_id g entry, handler, decide_eq_true other.symm]
    rfl
  simp only [State.mayIssue, held, Bool.not_true, Bool.and_false, Bool.false_and]

/-! ## What a trap does -/

section
variable {s : State} {c slot : Nat} {id : EntId} {t : Trap} {len : Nat} {g : Group} {e : Entry}
  (group : (s.core c).group? slot = some g) (entry : g.entry? id = some e)
include group entry

/-- A second trap is fatal, and tells of the first (R375). -/
theorem State.takeTrap_of_nested {i : Nat} {ts : TrapState} (handler : e.handler = some i)
    (first : KMap.get? (s.core c).traps i = some ts) :
    s.takeTrap c slot id t len = (s.raise (srcCore c)
      (fatalEvent c slot (s.core c) g e (bits ts.tcause.toNat 7 0) ts.tinfo0 ts.tinfo1 true ts.va)).fatalEnd c slot e := by
  simp only [State.takeTrap, group, entry, handler, first]

variable (plain : e.handler = none)
include plain

/-- A trap of a launch without a trap vector is fatal (R373). -/
theorem State.takeTrap_of_no_vector (vectorless : (s.launch g.launch).hdr.trapVec = 0) :
    let u := s.raise (srcCore c) (fatalEvent c slot (s.core c) g e t.cause.code t.i0
      (if t.stage2 then t.i1 ||| 0x00800000 else t.i1) false t.va)
    s.takeTrap c slot id t len = (u.setCore c ((u.core c).wakeGroup slot)).fatalEnd c slot e := by
  simp only [State.takeTrap, group, entry, plain, vectorless, if_true]

variable (vector : (s.launch g.launch).hdr.trapVec ≠ 0)
include vector

/-- An entry for which handlers leave no place does not issue (R69). -/
theorem State.takeTrap_of_no_place (full : (((s.core c).settleAll slot).wakeGroup slot).ensurePlace slot id s.clk.compute = none) :
    s.takeTrap c slot id t len = s := by
  simp only [State.takeTrap, group, entry, plain, vector, full, if_false]

/-- A first trap of an entry that has or gets a place is the entry of the handler there. -/
theorem State.takeTrap_of_place {g1 : Group} (settled : ((s.core c).settleAll slot).group? slot = some g1) {k : Core} {p : Nat}
    (placed : (((s.core c).settleAll slot).wakeGroup slot).ensurePlace slot id s.clk.compute = some (k, p)) :
    s.takeTrap c slot id t len = s.setCore c (k.enterHandler slot (8 * quarterOf slot + p)
      (e.handling (8 * quarterOf slot + p) (s.launch g.launch).hdr.trapVec s.clk.compute) (savedTrap k slot id g1 e t len)) := by
  have woken : (((s.core c).settleAll slot).wakeGroup slot).group? slot = some g1 := settled
  simp only [State.takeTrap, group, entry, plain, vector, woken, placed, if_false, Option.getD_some]
  rfl

end

end Sys2Proof.Machine

namespace Sys2Proof.Statements

open Sys2Proof.Machine

theorem trapEntrySaves : TrapEntrySaves := by
  intro s c slot id t len g e group entry plain vector
  have settled := Core.settled_settle (s.core c) slot fun _ => true
  obtain ⟨g1, group1, same⟩ := settled.group g group
  cases place : (((s.core c).settleAll slot).wakeGroup slot).ensurePlace slot id s.clk.compute with
  | none =>
    rw [State.takeTrap_of_no_place group entry plain vector place]
    exact ⟨SameMem.refl s, fun _ _ => rfl, fun _ => rfl, fun _ _ made => nomatch place.symm.trans made⟩
  | some made =>
    obtain ⟨k, p⟩ := made
    obtain ⟨qs, quarters⟩ := Core.ensurePlace_quarters place
    rw [State.takeTrap_of_place group entry plain vector group1 place]
    refine ⟨State.setCore_same .., fun d other => State.core_setCore_ne _ _ other, fun full => (nomatch place.symm.trans full),
      fun k' p' made => ?_⟩
    obtain ⟨rfl, rfl⟩ := Prod.mk.inj (Option.some.inj (place.symm.trans made))
    have groupk : k.group? slot = some g1 := by rw [quarters]; exact group1
    have entry1 : g1.entry? id = some e := by rw [same]; exact entry
    have tasks : tinfo2 k g1 e = tinfo2 (((s.core c).settleAll slot).wakeGroup slot) g e := by
      rw [quarters, tinfo2_quarters, tinfo2_sameBut same]
    obtain rfl := Group.entry?_id g entry
    have handled := Group.entry?_handling entry1 (8 * quarterOf slot + p) (s.launch g.launch).hdr.trapVec s.clk.compute
    rw [State.core_setCore_self]
    refine ⟨_, _, savedTrap k slot e.id g1 e t len, Core.enterHandler_group groupk, handled, rfl, rfl, rfl, rfl,
      Core.enterHandler_traps_self groupk, rfl, rfl, rfl, rfl, rfl, rfl, rfl, tasks, fun small shallow => ?_,
      fun f other => State.mayIssue_of_handler handled rfl other .., fun gs settledGroup => ?_,
      Core.enterHandler_readLoc_own _ _ _ _ _, fun l elsewhere => ?_, fun j other => ?_⟩
    · have fields := tinfo3_fields (((s.core c).settleAll slot).wakeGroup slot) t.fmask small shallow
      rwa [← tinfo3_quarters _ qs, ← quarters] at fields
    · exact congrArg Group.preds (Option.some.inj (group1.symm.trans settledGroup))
    · rw [Core.enterHandler_readLoc_ne _ _ _ _ _ elsewhere, quarters, Core.readLoc_quarters]
    · rw [Core.enterHandler_traps_ne groupk other, quarters]
      exact congrArg (KMap.get? · j) settled.traps

theorem fatalTrapsReport : FatalTrapsReport := fun _ _ _ _ _ _ _ _ group entry =>
  ⟨State.takeTrap_of_no_vector group entry, fun _ _ => State.takeTrap_of_nested group entry⟩

end Sys2Proof.Statements

namespace Sys2Proof.Proofs

/-- Settles O54: a first trap settles the group's results and puts the entry in a handler with a new trap frame, where it finds a
place; the other traps are fatal, by the cases of `State.takeTrap`. -/
theorem trapsEnterOrEnd : Obligations.TrapsEnterOrEnd := ⟨Statements.trapEntrySaves, Statements.fatalTrapsReport⟩

end Sys2Proof.Proofs
end

section
/-! PROOFS. Results, answers and fetches that keep memory in canonical form (R88). Here and in the sections below one lemma for each
function of the model that hands on a state says that it keeps memory in canonical form; its case split follows the branches of the
function, and every branch is a chain of such lemmas. Only the stores (`State.poke`), the frames zeroed, copied and rekeyed, and
the scrub at boot change memory at all; a branch that changes other fields alone is `Keeps.of_eq rfl`. -/

namespace Sys2Proof.Machine

/-- Where an instruction gives a next state, it keeps memory in canonical form. -/
def Result.Keeps (s : State) : Result → Prop
  | .next t => Machine.Keeps s t
  | _ => True

/-- A change of fields other than memory. -/
theorem Keeps.upd {s t : State} (h : Keeps s t) {clk booted poison noise oldCode codecBusy l1own cores dies dlinks vfs dist fwc eva sel
    inbox agenda turn choices frees} : Keeps s
    { clk, booted, mem := t.mem, poison, noise, oldCode, codecBusy, l1own, cores, dies, dlinks, vfs, dist, fwc, eva, sel, inbox
      agenda, turn, choices, frees } := ⟨h.wf⟩

theorem Keeps.fst {α : Type} {s t : State} {p : State × α} {a : α} (h : Keeps s p.1) (e : p = (t, a)) : Keeps s t := by
  subst e; exact h

theorem Keeps.snd {α : Type} {s t : State} {p : α × State} {a : α} (h : Keeps s p.2) (e : p = (a, t)) : Keeps s t := by
  subst e; exact h

theorem Keeps.foldl_fst {α β : Type} (f : State × α → β → State × α) (hf : ∀ p b, Keeps p.1 (f p b).1) (l : List β) :
    ∀ (s : State) (a : α), Keeps s (l.foldl f (s, a)).1 := by
  induction l with
  | nil => intro s a; exact Keeps.refl s
  | cons b t ih => intro s a; exact (hf (s, a) b).trans (ih ..)

theorem State.finish_keeps {s : State} {x : Iss} {sp : Spec} {r : Res} (hr : r.Keeps s) : Result.Keeps s (s.finish x sp r) := by
  cases h : s.finish x sp r with
  | next t => exact Machine.finish_keeps hr h
  | fault _ => trivial
  | refused _ => trivial

theorem Keeps.result {s t : State} {r : Result} (h : Keeps s t) (hr : Result.Keeps t r) : Result.Keeps s r := by
  cases r with
  | next u => exact Keeps.trans h hr
  | fault _ => trivial
  | refused _ => trivial

theorem Keeps.res {s t : State} {r : Res} (h : Keeps s t) (hr : r.Keeps t) : r.Keeps s := by
  cases r with
  | done u => exact Keeps.trans h hr
  | moved u => exact Keeps.trans h hr
  | wait u w => exact Keeps.trans h hr
  | _ => trivial

theorem Keeps.getD {s t : State} {o : Option State} (h : ∀ u, o = some u → Keeps s u) (hd : Keeps s t) : Keeps s (o.getD t) := by
  cases o with
  | none => exact hd
  | some u => exact h u rfl

theorem Result.Keeps.next {s t : State} {r : Result} (h : Result.Keeps s r) (e : r = .next t) : Machine.Keeps s t := by
  subst e; exact h

theorem Res.Keeps.ite {s : State} {c : Prop} {_ : Decidable c} {r r' : Res} (h : r.Keeps s) (h' : r'.Keeps s) :
    (if c then r else r').Keeps s := by
  split
  · exact h
  · exact h'

theorem issue_result_keeps {sp : Spec} {body : Iss → State → Res} {s : State} (hb : ∀ x s, (body x s).Keeps s) :
    Result.Keeps s (issue sp body s) := by
  cases h : issue sp body s with
  | next t => exact issue_keeps hb h
  | fault _ => trivial
  | refused _ => trivial

/-- What a fetch leaves keeps memory in canonical form. -/
def Fetched.Keeps (s : State) : Fetched → Prop
  | .run _ t => Machine.Keeps s t
  | .idle t => Machine.Keeps s t
  | .bad _ => True

theorem Fetched.Keeps.run {s t : State} {i : Instr} {r : Fetched} (h : r.Keeps s) (e : r = .run i t) : Machine.Keeps s t := by
  subst e; exact h

theorem Fetched.Keeps.idle {s t : State} {r : Fetched} (h : r.Keeps s) (e : r = .idle t) : Machine.Keeps s t := by
  subst e; exact h

theorem Keeps.fetched {s t : State} {r : Fetched} (h : Keeps s t) (hr : r.Keeps t) : r.Keeps s := by
  cases r with
  | run i u => exact Keeps.trans h hr
  | idle u => exact Keeps.trans h hr
  | bad _ => trivial

theorem State.setKill_keeps (s : State) (w : W64) : Keeps s (s.setKill w) := Keeps.of_eq rfl

theorem State.choice_keeps (s : State) (n : Nat) : Keeps s (s.choice n).2 := Keeps.of_eq rfl

end Sys2Proof.Machine
end

section
/-! PROOFS. What a compute core does to other parts keeps memory in canonical form: agents, frames, tasks, adoption and traps
(R58-R76, R408, R453). -/

namespace Sys2Proof.Machine

/-! ### Bytes -/

theorem State.poke_keeps (s : State) (a : Nat) (bs : List Byte) : Keeps s (s.poke a bs) := ⟨State.poke_wf s a bs⟩

/-! ### TLBs -/

theorem State.noteXlate_keeps (s : State) (c v va : Nat) (acc : Acc) : Keeps s (s.noteXlate c v va acc) :=
  Keeps.of_same (State.noteXlate_same ..)

/-! ### Stores -/

theorem State.backInvalidate_keeps (s : State) (ws : List (Nat × List Byte)) : Keeps s (s.backInvalidate ws) := by
  unfold State.backInvalidate
  split <;> exact Keeps.of_eq rfl

theorem State.noteOld_keeps (s : State) (ws : List (Nat × List Byte)) : Keeps s (s.noteOld ws) := by
  unfold State.noteOld
  split <;> exact Keeps.of_eq rfl

/-! ### Stage-2 resolution -/

theorem State.zeroFrame_keeps (s : State) (f : Nat) : Keeps s (s.zeroFrame f) := ⟨State.zeroFrame_wf s f⟩

/-! ### Accesses of hardware agents (R453) -/

theorem State.agentPlace_keeps (s : State) (d v va : Nat) (acc : Acc) : Keeps s (s.agentPlace d v va acc).1 :=
  State.agentAddrFuel_keeps ..

/-! ### Host memory through CXL.cache (R28, R334, R352, R377) -/

theorem State.hostLine_keeps (s : State) (line : Nat) : Keeps s (s.hostLine line).1 := by
  unfold State.hostLine
  split <;> exact Keeps.of_eq rfl

theorem State.hostRead_keeps (s : State) (a n : Nat) : Keeps s (s.hostRead a n).1 := State.hostLine_keeps ..

theorem State.hostStore_keeps (s : State) (a : Nat) (bs : List Byte) : Keeps s (s.hostStore a bs) := by
  unfold State.hostStore
  split <;> exact Keeps.of_eq rfl

/-! ### Header cells and spill records -/

theorem State.agentBytes_keeps (s : State) (d v va : Nat) (bs : List Byte) : Keeps s (s.agentBytes d v va bs).1 :=
  State.agentWrites_keeps ..

/-! ### Task queues (R344) -/

theorem State.tqcWords_keeps (s : State) (d v q : Nat) : Keeps s (s.tqcWords d v q).1 := by
  unfold State.tqcWords
  split
  · exact Keeps.refl _
  · split
    · rename_i hAgentReads
      exact Keeps.fst (State.agentReads_keeps ..) hAgentReads
    · rename_i hAgentReads
      refine (Keeps.fst (State.agentReads_keeps ..) hAgentReads).trans ?_
      split
      · exact Keeps.of_eq rfl
      · exact Keeps.refl _

theorem State.taskQueue_keeps (s : State) (d v q : Nat) : Keeps s (s.taskQueue d v q).1 := by
  unfold State.taskQueue
  dsimp only
  split
  · rename_i hTqcWords
    exact Keeps.fst (State.tqcWords_keeps ..) hTqcWords
  · rename_i hTqcWords
    split <;> exact Keeps.fst (State.tqcWords_keeps ..) hTqcWords

theorem State.ringCounts_keeps (s : State) (d v : Nat) (t : TaskQueue) (p : Nat) : Keeps s (s.ringCounts d v t p).1 := by
  unfold State.ringCounts
  split
  all_goals
    rename_i hTqcWords
    exact Keeps.fst (State.tqcWords_keeps ..) hTqcWords

theorem State.putCounts_keeps (s : State) (d v : Nat) (t : TaskQueue) (p head tail : Nat) :
    Keeps s (s.putCounts d v t p head tail).1 := by
  refine Keeps.trans ?_ (State.agentWrite_keeps ..)
  split <;> exact Keeps.of_eq rfl

theorem State.queueBad_keeps (s : State) (src v q code : Nat) : Keeps s (s.queueBad src v q code) := by
  unfold State.queueBad
  dsimp only
  split <;> exact Keeps.of_eq rfl

theorem State.enqueue_keeps (s : State) (src d v q p : Nat) (h : W64) (front : Bool) :
    Keeps s (s.enqueue src d v q p h front).1 := by
  unfold State.enqueue
  dsimp only
  split
  · rename_i hTaskQueue
    exact (Keeps.fst (State.taskQueue_keeps ..) hTaskQueue).trans (State.queueBad_keeps ..)
  · rename_i hTaskQueue
    refine (Keeps.fst (State.taskQueue_keeps ..) hTaskQueue).trans ?_
    split
    · rename_i hRingCounts
      exact (Keeps.fst (State.ringCounts_keeps ..) hRingCounts).trans (State.queueBad_keeps ..)
    · rename_i hRingCounts
      refine (Keeps.fst (State.ringCounts_keeps ..) hRingCounts).trans ?_
      split
      · exact Keeps.of_eq rfl
      · split
        · rename_i hAgentWrite
          exact (Keeps.fst (State.agentWrite_keeps ..) hAgentWrite).trans (State.queueBad_keeps ..)
        · rename_i hAgentWrite
          refine (Keeps.fst (State.agentWrite_keeps ..) hAgentWrite).trans ?_
          split
          · rename_i hPutCounts
            exact (Keeps.fst (State.putCounts_keeps ..) hPutCounts).trans (State.queueBad_keeps ..)
          · rename_i hPutCounts
            exact (Keeps.fst (State.putCounts_keeps ..) hPutCounts).trans (Keeps.of_eq rfl)

theorem State.wakeTask_keeps (s : State) (c v : Nat) (h : W64) : Keeps s (s.wakeTask c v h) := by
  unfold State.wakeTask
  dsimp only
  split
  · rename_i hOwnerRec
    exact Keeps.fst (State.ownerRec_keeps ..) hOwnerRec
  · rename_i hOwnerRec
    refine (Keeps.fst (State.ownerRec_keeps ..) hOwnerRec).trans ?_
    split
    · exact Keeps.refl _
    · split
      · rename_i hEnqueue
        exact (State.setCtl_keeps ..).trans (Keeps.fst (State.enqueue_keeps ..) hEnqueue)
      · rename_i hEnqueue
        exact (State.setCtl_keeps ..).trans ((Keeps.fst (State.enqueue_keeps ..) hEnqueue).trans (Keeps.of_eq rfl))

end Sys2Proof.Machine
end

section
/-! PROOFS. The compute words keep memory in canonical form (R181-R236). -/

namespace Sys2Proof.Machine

/-! ### The control instructions -/

theorem execBra_keeps (o : JF) (s : State) : Result.Keeps s (execBra o s) := by
  unfold execBra
  dsimp only
  refine issue_result_keeps fun x s => ?_
  split
  · trivial
  · split
    · exact Keeps.of_eq rfl
    · exact State.branch_keeps ..

theorem execBrx_keeps (o : JF) (s : State) : Result.Keeps s (execBrx o s) := by
  unfold execBrx
  dsimp only
  refine issue_result_keeps fun x s => ?_
  split
  · split
    · exact Keeps.of_eq rfl
    · trivial
  · split
    · trivial
    · exact State.branch_keeps ..

theorem execRcvt_keeps (o : JF) (s : State) : Result.Keeps s (execRcvt o s) := by
  refine issue_result_keeps fun x s => ?_
  split
  · trivial
  · exact Keeps.of_eq rfl

theorem execRcvm_keeps (o : SF) (s : State) : Result.Keeps s (execRcvm o s) := by
  unfold execRcvm
  dsimp only
  refine issue_result_keeps fun x s => ?_
  split
  · exact Keeps.refl _
  · split
    · split
      · exact Keeps.refl _
      · split
        · exact Keeps.refl _
        · split
          · trivial
          · exact Keeps.of_eq rfl
    · split
      · exact Keeps.refl _
      · split
        · trivial
        · exact Keeps.of_eq rfl

/-! ### Calls (R191) -/

theorem callBody_keeps (o : CF) (tgt : W64) (x : Iss) (s : State) : (callBody o tgt x s).Keeps s := by
  unfold callBody
  dsimp only
  split
  · trivial
  · split
    · trivial
    · split
      · exact Keeps.of_eq rfl
      · split <;> exact Keeps.of_eq rfl

theorem execCallx_keeps (o : CF) (s : State) : Result.Keeps s (execCallx o s) := by
  unfold execCallx
  dsimp only
  refine issue_result_keeps fun x s => ?_
  split
  · exact State.branch_keeps ..
  · exact callBody_keeps ..

/-! ### Return and unwind (R68, R192) -/

theorem State.waitRefill_keeps (s : State) (x : Iss) : (s.waitRefill x).Keeps s := Keeps.of_eq rfl

theorem State.badCell_keeps (s : State) (x : Iss) : (s.badCell x).Keeps s := State.fatalGroup_keeps ..

theorem retBody_keeps (x : Iss) (s : State) : (retBody x s).Keeps s := by
  unfold retBody
  dsimp only
  split
  · split
    · trivial
    · exact Keeps.pre (State.exitEntry_keeps ..) rfl
  · split
    · trivial
    · split
      · split
        · exact State.badCell_keeps ..
        · split
          · trivial
          · split
            · trivial
            · split
              · exact State.waitRefill_keeps ..
              · split
                · split
                  · exact Keeps.refl _
                  · split
                    · trivial
                    · exact State.leaveTo_keeps ..
                · split
                  · exact Keeps.refl _
                  · split
                    · trivial
                    · exact State.leaveTo_keeps ..
      · trivial

theorem State.awaitFrame_keeps (s : State) (x : Iss) (frame : Nat) : Keeps s (s.awaitFrame x frame) := by
  unfold State.awaitFrame
  dsimp only
  (repeat' split) <;> exact Keeps.of_eq rfl

theorem execUnwind_keeps (o : SF) (s : State) : Result.Keeps s (execUnwind o s) := by
  unfold execUnwind
  dsimp only
  refine issue_result_keeps fun x s => ?_
  split
  · exact State.badCell_keeps ..
  · split
    · trivial
    · split
      · trivial
      · split
        · exact Keeps.refl _
        · exact (State.leaveTo_keeps ..).trans (State.awaitFrame_keeps ..)

/-! ### Exit, yield, idempotence and lead (R193-R196) -/

theorem execExit_keeps (o : SF) (s : State) : Result.Keeps s (execExit o s) := by
  refine issue_result_keeps fun x s => ?_
  split
  · exact Keeps.pre (State.fatalEnd_keeps ..) rfl
  · exact Keeps.pre (State.exitEntry_keeps ..) rfl

/-! ### Operands (R165, R197) -/

theorem Iss.fltRes_keeps (x : Iss) (s : State) (lat : Nat) (f : FFmt) (d : Nat) (r : Nat → FRes) :
    (Iss.fltRes x s lat f d r).Keeps s := by
  unfold Iss.fltRes
  split <;> trivial

/-! ### Arithmetic, comparison and selection (R199-R202) -/

theorem fltBinary_keeps (i : Instr) (o : V3) (f : FFmt → Rm → Nat → Nat → FRes) (s : State) :
    Result.Keeps s (fltBinary i o f s) :=
  issue_result_keeps fun _ _ => Iss.fltRes_keeps ..

theorem fltMinMax_keeps (i : Instr) (o : V3) (max : Bool) (s : State) : Result.Keeps s (fltMinMax i o max s) :=
  issue_result_keeps fun _ _ => Iss.fltRes_keeps ..

theorem execFcmp_keeps (o : V3) (s : State) : Result.Keeps s (execFcmp o s) := by
  unfold execFcmp
  dsimp only
  refine issue_result_keeps fun x s => ?_
  split <;> trivial

/-! ### Special functions (R136, R137, R203) -/

theorem sfu_keeps (i : Instr) (o : V3) (types : List Nat) (anyRm : Bool) (f : FFmt → Rm → Nat → FRes) (s : State) :
    Result.Keeps s (sfu i o types anyRm f s) := by
  unfold sfu
  dsimp only
  refine issue_result_keeps fun x s => ?_
  split <;> trivial

/-! ### Conversions (R204, R206) -/

theorem execFcvt_keeps (o : V3) (s : State) : Result.Keeps s (execFcvt o s) := by
  unfold execFcvt
  dsimp only
  refine issue_result_keeps fun x s => ?_
  split
  · trivial
  · split <;> split <;> trivial

/-! ### Packed and dot forms (R207) -/

theorem packed_keeps (i : Instr) (o : V3) (useC : Bool) (f : FFmt → Rm → Nat → Nat → Nat → FRes) (s : State) :
    Result.Keeps s (packed i o useC f s) :=
  issue_result_keeps fun _ _ => Iss.fltRes_keeps ..

/-! ### `CVTN` (R205) -/

theorem execCvtn_keeps (o : V3) (s : State) : Result.Keeps s (execCvtn o s) := by
  refine issue_result_keeps fun x s => ?_
  split <;> trivial

/-! ### Die links (R17, R272, R273, R424) -/

theorem State.linkSend_keeps (s : State) (d e : Nat) (f : Flit) (stamp : List Nat) : Keeps s (s.linkSend d e f stamp) := by
  unfold State.linkSend
  (repeat' split) <;> exact Keeps.of_eq rfl

/-! ### Counts between dies (R149) -/

theorem State.crossOut_keeps (s : State) (d : Nat) (f : Flit) : Keeps s (s.crossOut d f) :=
  Keeps.pre (State.linkSend_keeps ..) rfl

/-! ### Injection (R268-R270) -/

theorem State.inject_keeps (s : State) (d src dstDie dstRouter dstPort chan : Nat) (msg : Msg) :
    Keeps s (s.inject d src dstDie dstRouter dstPort chan msg) :=
  Keeps.of_same (State.inject_same ..)

theorem State.sendReq_keeps (s : State) (c v : Nat) (kind : ReqKind) (line : Nat) (pres : Bool) (out : Option Nat) :
    Keeps s (s.sendReq c v kind line pres out) :=
  Keeps.of_same (State.sendReq_same ..)

theorem State.sendReqs_keeps (s : State) (c v : Nat) (kind : ReqKind) (out : Option Nat) (lines : List (Nat × Bool)) :
    Keeps s (s.sendReqs c v kind out lines) :=
  Keeps.of_same (State.sendReqs_same ..)

theorem State.sendResp_keeps (s : State) (d j c out : Nat) : Keeps s (s.sendResp d j c out) := State.inject_keeps ..

/-! ### L1 data caches (R84, R150) -/

theorem State.fillL1_keeps (s : State) (c line : Nat) (tag : Option (Nat × Nat)) : Keeps s (s.fillL1 c line tag) :=
  Keeps.of_same (State.fillL1_same ..)

theorem State.recall_keeps (s : State) (line : Nat) : Keeps s (s.recall line) := by
  unfold State.recall
  split <;> exact Keeps.of_eq rfl

/-! ### Results that arrive later (R55) -/

theorem State.loadLine_keeps (s : State) (c line : Nat) (tag : Option (Nat × Nat)) : Keeps s (s.loadLine c line tag).1 :=
  Keeps.of_same (State.loadLine_same ..)

theorem State.loadReqs_keeps (s : State) (x : Iss) (tag : Option (Nat × Nat)) (lines : List (Nat × Bool)) (id : Nat) :
    Keeps s (s.loadReqs x tag lines id).1 :=
  Keeps.of_same (State.loadReqs_same ..)

theorem State.noteAll_keeps (s : State) (x : Iss) (vas : List Nat) (acc : Acc) : Keeps s (s.noteAll x vas acc) :=
  Keeps.of_same (State.noteAll_same ..)

/-! ### Steps 5 and 6 of R218 -/

theorem loadBody_keeps (z d : Nat) (addrs : List (Nat × Nat)) (x : Iss) (s : State) : (loadBody z d addrs x s).Keeps s := by
  unfold loadBody
  dsimp only
  split
  · trivial
  · exact (State.noteAll_keeps ..).trans ((State.loadReqs_keeps ..).trans (Keeps.of_eq rfl))

theorem storeBody_keeps (z src : Nat) (addrs : List (Nat × Nat)) (x : Iss) (s : State) :
    (storeBody z src addrs x s).Keeps s := by
  unfold storeBody
  dsimp only
  split
  · trivial
  · exact (State.storePlaces_keeps ..).trans ((State.noteAll_keeps ..).trans (State.sendReqs_keeps ..))

/-! ### `LDS`, `STS` (R82, R155, R220) -/

theorem execLds_keeps (o : MF) (s : State) : Result.Keeps s (execLds o s) := by
  unfold execLds
  dsimp only
  refine issue_result_keeps fun x s => ?_
  split
  · trivial
  · split
    · exact Keeps.refl _
    · exact Keeps.of_eq rfl

theorem execSts_keeps (o : MF) (s : State) : Result.Keeps s (execSts o s) := by
  unfold execSts
  dsimp only
  refine issue_result_keeps fun x s => ?_
  split
  · trivial
  · exact Keeps.of_eq rfl

/-! ### Record accesses (R99-R101, R114-R117, R222) -/

theorem execLdb_keeps (o : XF) (s : State) : Result.Keeps s (execLdb o s) := by
  refine issue_result_keeps fun x s => ?_
  split
  rename_i hChosen
  refine Keeps.res (Keeps.snd (Keeps.of_eq rfl) hChosen) ?_
  split
  · trivial
  · split
    · trivial
    · extract_lets +onlyGivenNames vals pz vas tag lines recs s2 id
      split
      rename_i hRequests
      have noted : Keeps _ s2 := (State.noteAll_keeps ..).trans (Keeps.of_eq rfl)
      refine noted.trans (((Keeps.foldl_fst _ (fun _ _ => ?_) _ s2 0).fst hRequests).trans (Keeps.of_eq rfl))
      exact State.loadReqs_keeps ..

theorem State.countNotes_keeps (s : State) (pa : Nat) (notes : List EncNote) : Keeps s (s.countNotes pa notes) :=
  State.storeAll_keeps ..

theorem execStb_keeps (o : XF) (s : State) : Result.Keeps s (execStb o s) := by
  unfold execStb
  dsimp only
  refine issue_result_keeps fun x s => ?_
  split
  · trivial
  · split
    · trivial
    · exact Keeps.pre ((State.noteAll_keeps ..).trans ((State.storeAll_keeps ..).trans
        ((State.sendReqs_keeps ..).trans (Keeps.foldl _ (fun _ _ => State.storeLine_keeps ..) _ _)))) rfl

/-! ### Atomics (R169, R223, R224) -/

theorem State.askBypass_keeps (s : State) (c line : Nat) (a : AtomLane) (lanes : List AtomLane) :
    Keeps s (s.askBypass c line a lanes) :=
  Keeps.pre (State.sendReq_keeps ..) rfl

theorem atomBody_keeps (o : MF) (d n : Nat) (fn : Iss → Nat → AtomFn) (x : Iss) (s : State) :
    (atomBody o d n fn x s).Keeps s := by
  unfold atomBody
  dsimp only
  split
  · trivial
  · exact (State.noteAll_keeps ..).trans (Keeps.pre (State.startAtoms_keeps ..) rfl)

/-! ### `WAITA` (R225) -/

theorem execWaita_keeps (o : MF) (s : State) : Result.Keeps s (execWaita o s) := by
  unfold execWaita
  dsimp only
  refine issue_result_keeps fun x s => ?_
  split
  · trivial
  · split <;> exact (State.noteAll_keeps ..).trans ((State.loadReqs_keeps ..).trans (Keeps.of_eq rfl))

/-! ### Barriers (R230) -/

theorem execBari_keeps (o : SF) (s : State) : Result.Keeps s (execBari o s) := by
  unfold execBari
  dsimp only
  refine issue_result_keeps fun x s => ?_
  split
  · trivial
  · exact Keeps.of_eq rfl

theorem execBara_keeps (o : SF) (s : State) : Result.Keeps s (execBara o s) := by
  refine issue_result_keeps fun x s => ?_
  split
  · trivial
  · rename_i hArriveBar
    exact State.arriveBar_keeps hArriveBar

theorem execBarw_keeps (o : SF) (s : State) : Result.Keeps s (execBarw o s) := by
  unfold execBarw
  dsimp only
  refine issue_result_keeps fun x s => ?_
  split <;> exact Keeps.refl _

theorem execBars_keeps (o : SF) (s : State) : Result.Keeps s (execBars o s) := by
  unfold execBars
  dsimp only
  refine issue_result_keeps fun x s => ?_
  split
  · trivial
  · rename_i hArriveBar
    refine Keeps.res (State.arriveBar_keeps hArriveBar) ?_
    split
    · exact Keeps.refl _
    · exact Keeps.of_eq rfl

/-! ### Futures (R233) -/

theorem State.newFutures_keeps (x : Iss) (l : List (Nat × Nat × Nat)) : ∀ s : State, Keeps s (s.newFutures x l).1 := by
  induction l with
  | nil => exact Keeps.refl
  | cons p l ih => intro s; exact (State.objectWrite_keeps ..).trans (ih _)

theorem execFnew_keeps (o : SF) (s : State) : Result.Keeps s (execFnew o s) := by
  unfold execFnew
  dsimp only
  refine issue_result_keeps fun x s => ?_
  split
  · trivial
  · split
    · trivial
    · exact (State.newFutures_keeps ..).trans (Keeps.of_eq rfl)

theorem State.setFutures_keeps (x : Iss) (val : Nat → W64) (l : List (Nat × Nat × Nat)) :
    ∀ s : State, Keeps s (s.setFutures x val l).1 := by
  induction l with
  | nil => exact Keeps.refl
  | cons p l ih =>
    intro s
    unfold State.setFutures
    dsimp only
    split
    · exact (State.objectWrite_keeps ..).trans (ih _)
    · exact ih s

theorem execFset_keeps (o : SF) (s : State) : Result.Keeps s (execFset o s) := by
  refine issue_result_keeps fun x s => ?_
  split
  · trivial
  · exact (State.setFutures_keeps ..).trans (Keeps.of_eq rfl)

theorem execFwait_keeps (o : SF) (s : State) : Result.Keeps s (execFwait o s) := by
  unfold execFwait
  dsimp only
  refine issue_result_keeps fun x s => ?_
  split
  · trivial
  · split
    · exact State.adoptOrWait_keeps ..
    · exact Keeps.of_eq rfl

/-! ### Tasks (R234) -/

theorem State.spawn_keeps (x : Iss) (l : List (Nat × Spawn)) : ∀ s : State, Keeps s (s.spawn x l).1 := by
  induction l with
  | nil => exact Keeps.refl
  | cons p l ih =>
    intro s
    unfold State.spawn
    dsimp only
    split
    · exact ih s
    · split
      · rename_i hEnqueue
        exact (Keeps.fst (State.enqueue_keeps ..) hEnqueue).trans (ih _)
      · rename_i hEnqueue
        refine (Keeps.fst (State.enqueue_keeps ..) hEnqueue).trans (Keeps.trans ?_ (ih _))
        split
        · exact Keeps.refl _
        · exact State.objectWrite_keeps ..

theorem execTspn_keeps (o : SF) (s : State) : Result.Keeps s (execTspn o s) := by
  refine issue_result_keeps fun x s => ?_
  split
  · trivial
  · exact (State.spawn_keeps ..).trans (Keeps.of_eq rfl)

theorem tendBody_keeps (o : SF) (x : Iss) (s : State) : (tendBody o x s).Keeps s := by
  unfold tendBody
  dsimp only
  split
  · exact Keeps.refl _
  · split
    · trivial
    · split
      · trivial
      · split
        · trivial
        · split
          · exact (State.finishTask_keeps ..).trans (State.leaveAdoption_keeps ..)
          · exact (State.finishTask_keeps ..).trans ((Keeps.foldl _ (fun _ _ => State.failTask_keeps ..) _ _).trans
              (State.dropGroup_keeps ..))

theorem execTend_keeps (o : SF) (s : State) : Result.Keeps s (execTend o s) := by
  unfold execTend
  split
  · trivial
  · rename_i hIssuer
    split
    · exact Keeps.result (issuer_keeps hIssuer) (State.finish_keeps (Res.keeps_trap ..))
    · exact issue_result_keeps fun x s => tendBody_keeps ..

/-! ### Locks (R73, R233) -/

theorem execLkaq_keeps (o : SF) (s : State) : Result.Keeps s (execLkaq o s) := by
  refine issue_result_keeps fun x s => ?_
  dsimp only
  split
  · trivial
  · rename_i pa _
    cases instDecidableEqBitVec (s.word pa) 0#64 with
    | isTrue _ => exact Res.keeps_done (State.objectWrite_keeps ..)
    | isFalse _ => exact Res.keeps_moved (State.adoptOrWait_keeps ..)

theorem execLkrl_keeps (o : SF) (s : State) : Result.Keeps s (execLkrl o s) := by
  refine issue_result_keeps fun x s => ?_
  split
  · trivial
  · exact State.objectWrite_keeps ..

/-! ### The system instructions -/

theorem execBkpt_keeps (o : SF) (s : State) : Result.Keeps s (execBkpt o s) := by
  refine issue_result_keeps fun x s => ?_
  split
  · exact State.stopGroup_keeps ..
  · trivial

/-! ### Control registers (R359) -/

theorem execRdc_keeps (o : SF) (s : State) : Result.Keeps s (execRdc o s) := by
  refine issue_result_keeps fun x s => ?_
  split
  · trivial
  · split <;> trivial

/-! ### `RETT` (R372, R390) -/

theorem execRett_keeps (o : SF) (s : State) : Result.Keeps s (execRett o s) := by
  unfold execRett
  split
  · trivial
  · rename_i hIssuer
    split
    · exact Keeps.result (issuer_keeps hIssuer) (State.finish_keeps (Res.keeps_trap ..))
    · exact issue_result_keeps fun x s => Res.keeps_moved (State.returnFromTrap_keeps ..)

/-! ### Counters and marks (R236, R360) -/

theorem execPerfRd_keeps (o : SF) (s : State) : Result.Keeps s (execPerfRd o s) := by
  refine issue_result_keeps fun x s => ?_
  split <;> trivial

/-! ### Unassigned opcodes (R388) -/

theorem execUnassignedOpcode_keeps (w : W64) (s : State) : Result.Keeps s (execUnassignedOpcode w s) := by
  unfold execUnassignedOpcode
  dsimp only
  split
  · trivial
  · rename_i hIssuer
    refine Keeps.result (issuer_keeps hIssuer) ?_
    split
    · exact (State.placeAdopted_keeps ..).trans ((State.meetWait_keeps ..).trans (Keeps.of_eq rfl))
    · exact State.finish_keeps (Res.keeps_trap ..)

end Sys2Proof.Machine
end

section
/-! PROOFS. The steps of a core, its copies, its matrix array and its sequencer contexts keep memory in canonical form (R49-R67,
R228-R254, R382-R384). -/

namespace Sys2Proof.Machine

/-! ### Swaps (R49, R50) -/

theorem State.sliceOver_keeps {s t : State} {c q p : Nat} (h : s.sliceOver c q p = some t) : Keeps s t := by
  unfold State.sliceOver at h
  split at h
  · cases h
  · split at h
    · cases h
    · exact State.swapPlace_keeps h

theorem execTimeSliceSwap_keeps (core quarter place : Nat) (s : State) :
    Result.Keeps s (execTimeSliceSwap core quarter place s) := by
  unfold execTimeSliceSwap
  split
  · rename_i hSliceOver
    exact State.sliceOver_keeps hSliceOver
  · trivial

theorem execSwapthrExpiry_keeps (core quarter place : Nat) (s : State) :
    Result.Keeps s (execSwapthrExpiry core quarter place s) := by
  unfold execSwapthrExpiry
  dsimp only
  split
  · exact Keeps.pre (State.meetWait_keeps ..) rfl
  · trivial

/-! ### Results that arrive (R55, R413, R415) -/

theorem execLoadComplete_keeps (core id : Nat) (s : State) : Result.Keeps s (execLoadComplete core id s) := by
  unfold execLoadComplete
  dsimp only
  split
  · trivial
  · split
    · trivial
    · exact Keeps.of_eq rfl

/-! ### Refills (R65, R430) -/

theorem State.recordsBad_keeps (c v : Nat) (l : List (Nat × SpillRec)) : ∀ s : State, Keeps s (s.recordsBad c v l).1 := by
  induction l with
  | nil => exact Keeps.refl
  | cons r l ih =>
    intro s
    unfold State.recordsBad
    split
    · rename_i hAgentReads
      exact Keeps.fst (State.agentReads_keeps ..) hAgentReads
    · rename_i hAgentReads
      exact (Keeps.fst (State.agentReads_keeps ..) hAgentReads).trans (ih _)

theorem State.refill_keeps (s : State) (c slot : Nat) (ps : List (Nat × Option (Nat × Nat))) : Keeps s (s.refill c slot ps) :=
  by
  unfold State.refill
  dsimp only
  split
  · exact Keeps.refl _
  · split
    · rename_i h2
      exact (Keeps.fst (State.recordsBad_keeps ..) h2).trans (State.fatalGroup_keeps ..)
    · rename_i h2
      refine (Keeps.fst (State.recordsBad_keeps ..) h2).trans ?_
      split
      · exact State.fatalGroup_keeps ..
      · exact Keeps.of_eq rfl

theorem execEseRefill_keeps (core slot : Nat) (s : State) : Result.Keeps s (execEseRefill core slot s) := by
  unfold execEseRefill
  dsimp only
  split
  · trivial
  · split
    · exact State.refill_keeps ..
    · exact Keeps.of_eq rfl

/-! ### Allocation (R63) -/

theorem execFrameAllocation_keeps (core : Nat) (s : State) : Result.Keeps s (execFrameAllocation core s) := by
  unfold execFrameAllocation
  dsimp only
  split
  · trivial
  · split
    · split
      · trivial
      · exact State.refill_keeps ..
    · split
      · exact Keeps.of_eq rfl
      · split
        · split
          · trivial
          · exact State.refill_keeps ..
        · split
          · exact Keeps.of_eq rfl
          · trivial

/-! ### Spills (R64, R66, R67, R429-R431) -/

theorem State.spillFrames_keeps (s : State) (c slot : Nat) (g : Group) (fs : List (Nat × Frame)) :
    Keeps s (s.spillFrames c slot g fs).1 := by
  unfold State.spillFrames
  dsimp only
  split
  · rename_i hWriteSpill
    exact Keeps.pre (Keeps.fst (State.writeSpill_keeps ..) hWriteSpill) rfl
  · rename_i hWriteSpill
    exact Keeps.pre ((Keeps.fst (State.writeSpill_keeps ..) hWriteSpill).trans (Keeps.of_eq rfl)) rfl

theorem State.spillGroup_keeps (s : State) (c slot : Nat) (g : Group) : Keeps s (s.spillGroup c slot g).1 := by
  unfold State.spillGroup
  dsimp only
  split
  · exact State.fatalGroup_keeps ..
  · split
    · rename_i hSpillFrames
      exact Keeps.fst (State.spillFrames_keeps ..) hSpillFrames
    · rename_i hSpillFrames
      exact (Keeps.fst (State.spillFrames_keeps ..) hSpillFrames).trans (Keeps.of_eq rfl)

theorem State.spillOthers_keeps (n : Nat) : ∀ (s : State) (c : Nat) (a : AllocReq), Keeps s (State.spillOthers n s c a).1 := by
  induction n with
  | zero => intro s c a; exact Keeps.refl s
  | succ n ih =>
    intro s c a
    unfold State.spillOthers
    split
    · exact Keeps.refl s
    · split
      · exact Keeps.refl s
      · split
        · rename_i hSpillGroup
          exact Keeps.fst (State.spillGroup_keeps ..) hSpillGroup
        · rename_i hSpillGroup
          exact (Keeps.fst (State.spillGroup_keeps ..) hSpillGroup).trans (ih ..)

theorem State.spillOwn_keeps (s : State) (c : Nat) (a : AllocReq) : Keeps s (s.spillOwn c a).1 := by
  unfold State.spillOwn
  dsimp only
  split
  · exact Keeps.refl _
  · split
    · exact Keeps.refl _
    · split
      · exact State.fatalGroup_keeps ..
      · exact State.spillFrames_keeps ..

theorem State.allocTrap_keeps (s : State) (c slot : Nat) (e : Entry) (cause : Cause) (i0 i1 : Nat) :
    Keeps s (s.allocTrap c slot e cause i0 i1) := by
  unfold State.allocTrap
  dsimp only
  split
  · exact Keeps.refl _
  · split
    · split
      · refine Keeps.trans ?_ ((State.takeTrap_keeps ..).trans (Keeps.of_eq rfl))
        split
        · exact Keeps.of_eq rfl
        · split
          all_goals
            rename_i hOwnerRec
            exact Keeps.pre (Keeps.fst (State.ownerRec_keeps ..) hOwnerRec) rfl
      · refine Keeps.trans ?_ (State.takeTrap_keeps ..)
        split
        · exact Keeps.of_eq rfl
        · split
          all_goals
            rename_i hOwnerRec
            exact Keeps.pre (Keeps.fst (State.ownerRec_keeps ..) hOwnerRec) rfl
    · refine Keeps.trans ?_ (State.takeTrap_keeps ..)
      split
      · exact Keeps.of_eq rfl
      · split
        all_goals
          rename_i hOwnerRec
          exact Keeps.pre (Keeps.fst (State.ownerRec_keeps ..) hOwnerRec) rfl

theorem State.spillFor_keeps (s : State) (c : Nat) (a : AllocReq) : Keeps s (s.spillFor c a) := by
  unfold State.spillFor
  dsimp only
  split
  · rename_i hSpillOthers
    refine (Keeps.fst (State.spillOthers_keeps ..) hSpillOthers).trans ?_
    split
    · split
      · exact State.fatalGroup_keeps ..
      · exact State.allocTrap_keeps ..
    · exact State.fatalGroup_keeps ..
  · rename_i hSpillOthers
    refine (Keeps.fst (State.spillOthers_keeps ..) hSpillOthers).trans ?_
    split
    · exact Keeps.refl _
    · split
      · split
        · rename_i hSpillOwn
          exact (Keeps.fst (State.spillOwn_keeps ..) hSpillOwn).trans (State.allocTrap_keeps ..)
        · rename_i hSpillOwn
          refine (Keeps.fst (State.spillOwn_keeps ..) hSpillOwn).trans ?_
          split
          · exact Keeps.refl _
          · exact State.allocTrap_keeps ..
      · exact Keeps.refl _

theorem execEseSpill_keeps (core : Nat) (s : State) : Result.Keeps s (execEseSpill core s) := by
  unfold execEseSpill
  split
  · exact State.spillFor_keeps ..
  · trivial

/-! ### A debugger's stops and steps (R382-R384) -/

theorem execDebugStop_keeps (core slot : Nat) (s : State) : Result.Keeps s (execDebugStop core slot s) := by
  unfold execDebugStop
  dsimp only
  (repeat' split) <;> exact Keeps.of_eq rfl

theorem State.stopsDue_keeps (s : State) (c : Nat) : Keeps s (s.stopsDue c) :=
  Keeps.foldl _ (fun _ _ => State.stopGroup_keeps ..) _ _

theorem State.stepEntries_keeps (s : State) (c slot : Nat) (pick : EntId → Bool) : Keeps s (s.stepEntries c slot pick) := by
  unfold State.stepEntries
  dsimp only
  (repeat' split) <;> exact Keeps.of_eq rfl

theorem execDebugStepGroup_keeps (core slot : Nat) (s : State) : Result.Keeps s (execDebugStepGroup core slot s) := by
  unfold execDebugStepGroup
  split
  · exact Keeps.refl _
  · exact State.stepEntries_keeps ..

theorem execDebugStepEntry_keeps (core slot : Nat) (gent : Bool) (frag : Nat) (s : State) :
    Result.Keeps s (execDebugStepEntry core slot gent frag s) := by
  unfold execDebugStepEntry
  split
  · exact Keeps.refl _
  · exact Keeps.pre (State.stepEntries_keeps ..) rfl

theorem execDebugResume_keeps (core slot : Nat) (s : State) : Result.Keeps s (execDebugResume core slot s) := by
  unfold execDebugResume
  dsimp only
  (repeat' split) <;> exact Keeps.of_eq rfl

/-! ### A copy's elements (R103, R228) -/

theorem State.copyRead_keeps (s : State) (c : Nat) (op : CopyOp) (i : Nat) : Keeps s (s.copyRead c op i) := by
  unfold State.copyRead
  dsimp only
  split
  · exact Keeps.refl _
  · split
    · exact Keeps.refl _
    · exact State.sendReq_keeps ..

theorem State.copyNext_keeps {s t : State} {c ch : Nat} (h : s.copyNext c ch = some t) : Keeps s t := by
  unfold State.copyNext at h
  dsimp only at h
  split at h
  · cases h
  · split at h
    · cases h
    · split at h
      · cases h
      · cases h
        exact Keeps.pre (State.copyRead_keeps ..) rfl

theorem State.copySome_keeps (n : Nat) : ∀ (s : State) (c ch : Nat), Keeps s (State.copySome n s c ch) := by
  induction n with
  | zero => intro s c ch; exact Keeps.refl s
  | succ n ih =>
    intro s c ch
    unfold State.copySome
    split
    · exact Keeps.refl s
    · rename_i hCopyNext
      exact (State.copyNext_keeps hCopyNext).trans (ih ..)

theorem State.copyOver_keeps (s : State) (c ch : Nat) : Keeps s (s.copyOver c ch) := by
  unfold State.copyOver
  dsimp only
  split
  · exact Keeps.refl _
  · split
    · exact Keeps.pre (State.copyArrive_keeps ..) rfl
    · exact Keeps.of_eq rfl

theorem execCopyComplete_keeps (c ch : Nat) (s : State) : Result.Keeps s (execCopyComplete c ch s) := by
  unfold execCopyComplete
  dsimp only
  split
  · trivial
  · split
    · split
      · exact (State.copySome_keeps ..).trans (State.copyOver_keeps ..)
      · trivial
    · trivial

theorem State.copyFault_keeps {s t : State} {c ch : Nat} (h : s.copyFault c ch = some t) : Keeps s t := by
  unfold State.copyFault at h
  split at h
  · cases h
  · split at h
    · split at h
      · rename_i hAgentAddr
        cases h
        exact Keeps.fst (State.agentAddr_keeps ..) hAgentAddr
      · rename_i hAgentAddr
        cases h
        exact (Keeps.fst (State.agentAddr_keeps ..) hAgentAddr).trans (Keeps.pre (State.copyOver_keeps ..) rfl)
    · cases h

/-! ### `COPYT` (R228) -/

theorem execCopyt_keeps (o : SF) (s : State) : Result.Keeps s (execCopyt o s) := by
  unfold execCopyt
  dsimp only
  refine issue_result_keeps fun x s => ?_
  split
  · trivial
  · split
    · trivial
    · split
      · show Keeps _ _
        split
        · exact Keeps.pre (State.copyArrive_keeps ..) rfl
        · exact Keeps.of_eq rfl
      · split
        · trivial
        · split <;> exact Keeps.of_eq rfl

/-! ### `COPY16` (R229) -/

theorem execCopy16_keeps (o : SF) (s : State) : Result.Keeps s (execCopy16 o s) := by
  unfold execCopy16
  dsimp only
  refine issue_result_keeps fun x s => ?_
  split
  · trivial
  · split
    · trivial
    · split
      · trivial
      · exact (State.noteAll_keeps ..).trans (Keeps.of_eq rfl)

theorem execCopy16Complete_keeps (c id : Nat) (s : State) : Result.Keeps s (execCopy16Complete c id s) := by
  unfold execCopy16Complete
  split
  · trivial
  · rename_i op _
    exact (State.sendReqs_keeps ..).trans ((Keeps.foldl (fun t (m : Nat × Nat × Bool) => t.move16 c m.1 m.2.1)
      (fun _ _ => Keeps.of_eq rfl) _ _).trans
      (Keeps.pre (State.copyArrive_keeps ..) rfl))

/-! ### `CWAIT`, `CWMK` (R229) -/

theorem execCwait_keeps (o : SF) (s : State) : Result.Keeps s (execCwait o s) := by
  unfold execCwait
  dsimp only
  refine issue_result_keeps fun x s => ?_
  split <;> exact Keeps.refl _

/-! ### Drains (R248) -/

theorem State.drainPas_keeps (d v : Nat) (l : List (Nat × W32)) : ∀ s : State, Keeps s (State.drainPas d v s l).1 := by
  induction l with
  | nil => exact Keeps.refl
  | cons p l ih =>
    intro s
    unfold State.drainPas
    split
    · rename_i hAgentPlace
      exact Keeps.fst (State.agentPlace_keeps ..) hAgentPlace
    · rename_i hAgentPlace
      exact (Keeps.fst (State.agentPlace_keeps ..) hAgentPlace).trans (ih _)

theorem State.sendContrib_keeps (s : State) (x : Contribution) : Keeps s (s.sendContrib x) := State.inject_keeps ..

theorem State.runDrain_keeps (s : State) (c v id kind : Nat) (scr : Bool) (cvt : Nat) (addr pitch q : W64) (base slot m n : Nat) :
    Keeps s (s.runDrain c v id kind scr cvt addr pitch q base slot m n).1 := by
  unfold State.runDrain
  dsimp only
  split
  · exact Keeps.of_eq rfl
  · split
    · refine Keeps.trans ?_ ((State.storeAll_keeps ..).trans (State.sendReqs_keeps ..))
      split
      · exact (State.drainPas_keeps ..).trans (Keeps.of_eq rfl)
      · exact State.drainPas_keeps ..
    · split
      · exact (State.drainPas_keeps ..).trans (Keeps.of_eq rfl)
      · exact State.drainPas_keeps ..

/-! ### Operand reservations: `ORES`, `OREL` (R235, R241) -/

theorem execOres_keeps (o : SF) (s : State) : Result.Keeps s (execOres o s) := by
  unfold execOres
  dsimp only
  refine issue_result_keeps fun x s => ?_
  split
  · trivial
  · exact Keeps.of_eq rfl

theorem execOrel_keeps (o : SF) (s : State) : Result.Keeps s (execOrel o s) := by
  unfold execOrel
  dsimp only
  refine issue_result_keeps fun x s => ?_
  split
  · trivial
  · split
    · exact Keeps.refl _
    · exact Keeps.of_eq rfl

/-! ### `MSEQ` (R235, R243) -/

theorem execMseq_keeps (o : SF) (s : State) : Result.Keeps s (execMseq o s) := by
  unfold execMseq
  dsimp only
  refine issue_result_keeps fun x s => ?_
  split
  · trivial
  · split
    · exact Keeps.of_eq rfl
    · exact Keeps.refl _

/-! ### Line cores -/

theorem State.markLate_keeps (s : State) (l m : Nat) : Keeps s (s.markLate l m) := by
  unfold State.markLate
  dsimp only
  split <;> exact Keeps.of_eq rfl

theorem State.selAccess_keeps (s : State) (block unit v : Nat) (frame : Nat × Nat) (code ia : Nat) :
    Keeps s (s.selAccess block unit v frame code ia) := by
  unfold State.selAccess
  dsimp only
  split <;> exact Keeps.of_eq rfl

/-! ### Pops (R295-R297, R325, R402) -/

theorem State.queuePop_keeps (s : State) (l q : Nat) (at_ : SelAt) : Keeps s (s.queuePop l q at_).1 := by
  unfold State.queuePop
  dsimp only
  split
  · exact Keeps.pre (State.markLate_keeps ..) rfl
  · split
    · split
      · exact Keeps.pre (State.markLate_keeps ..) rfl
      · exact Keeps.of_eq rfl
    · split
      · exact State.markLate_keeps ..
      · exact Keeps.of_eq rfl

theorem State.tokenPop_keeps (s : State) (l k : Nat) : Keeps s (s.tokenPop l k).1 := by
  unfold State.tokenPop
  dsimp only
  split
  · exact Keeps.of_eq rfl
  · exact Keeps.pre (State.markLate_keeps ..) rfl

/-! ### Cluster words (R283-R289, R310-R312) -/

theorem State.xRead_keeps (s : State) (l c : Nat) (k : Cluster) (imm : BitVec 16) (at_ : SelAt) (use : Bool) (code : Nat) :
    Keeps s (s.xRead l c k imm at_ use code).1 := by
  unfold State.xRead
  split
  · exact Keeps.refl _
  · split
    · exact State.queuePop_keeps ..
    · exact Keeps.refl _

theorem State.xReads_keeps (s : State) (l c : Nat) (k : Cluster) (o : CW) (u : XUses) (at_ : SelAt) :
    Keeps s (s.xReads l c k o u at_).1 := by
  unfold State.xReads
  dsimp only
  split
  · split
    · exact State.xRead_keeps ..
    · exact (State.xRead_keeps ..).trans (State.xRead_keeps ..)
  · split
    · split
      · exact State.xRead_keeps ..
      · exact (State.xRead_keeps ..).trans (State.xRead_keeps ..)
    · refine Keeps.trans ?_ (State.xRead_keeps ..)
      split
      · exact State.xRead_keeps ..
      · exact (State.xRead_keeps ..).trans (State.xRead_keeps ..)

theorem cluIssue_keeps {i : Instr} {o : CW} {u : XUnit} {uses : XUses} {drive : Bool} {bank : Option Nat}
    {effect : XIss → State → State} {s : State} {copies : Bool} (hb : ∀ x s, Keeps s (effect x s)) :
    Result.Keeps s (cluIssue i o u uses drive bank effect s copies) := by
  unfold cluIssue
  dsimp only
  split
  · split
    · exact Keeps.of_eq rfl
    · split
      · exact Keeps.of_eq rfl
      · split
        · exact Keeps.of_eq rfl
        · split
          · exact Keeps.of_eq rfl
          · split
            · exact Keeps.of_eq rfl
            · split
              · exact Keeps.of_eq rfl
              · split
                · exact Keeps.of_eq rfl
                · exact Keeps.pre ((State.xReads_keeps ..).trans ((hb ..).trans (Keeps.of_eq rfl))) rfl
  · trivial

theorem State.xPut_keeps (s : State) (x : XIss) (d lat : Nat) (v : X512) : Keeps s (s.xPut x d lat v) := by
  unfold State.xPut
  (repeat' split) <;> exact Keeps.of_eq rfl

theorem cluData_keeps (i : Instr) (o : CW) (u : XUnit) (lat : Nat) (a b c : Bool) (f : XIss → X512) (s : State) :
    Result.Keeps s (cluData i o u lat a b c f s) :=
  cluIssue_keeps fun _ _ => (State.xPut_keeps ..)

/-! ### Stops (R251, R399, R400, R404) -/

theorem State.runMatOp_keeps (s : State) (c : Nat) (o : MatOp) : Keeps s (s.runMatOp c o) := by
  unfold State.runMatOp
  split
  · exact Keeps.of_eq rfl
  · split
    · exact Keeps.refl _
    · exact (State.runDrain_keeps ..).trans (Keeps.foldl _ (fun _ _ => State.sendContrib_keeps ..) _ _)

theorem State.settleStop_keeps (s : State) (c n : Nat) : Keeps s (s.settleStop c n) := by
  unfold State.settleStop
  dsimp only
  split
  · exact Keeps.refl _
  · split
    · exact State.endWorkgroup_keeps ..
    · exact Keeps.foldl _ (fun _ _ => State.forceEnd_keeps ..) _ _

theorem State.stopContext_keeps (s : State) (c i code : Nat) (addr info : W64) : Keeps s (s.stopContext c i code addr info) :=
  by
  unfold State.stopContext
  dsimp only
  split
  · exact Keeps.refl _
  · split
    · exact Keeps.refl _
    · exact Keeps.pre (State.settleStop_keeps ..) rfl

theorem State.stopAt_keeps (s : State) (c i : Nat) (x : SeqCtx) (code : Nat) (word : BitVec 16) :
    Keeps s (s.stopAt c i x code word) :=
  State.stopContext_keeps ..

/-! ### Words that only move the stack (R246) -/

theorem stackWord_keeps (i : Instr) (fieldOk : Bool) (pops : Nat) (f : List W64 → List W64) (jump : List W64 → Nat) (s : State) :
    Result.Keeps s (stackWord i fieldOk pops f jump s) := by
  unfold stackWord
  dsimp only
  split
  · split
    · trivial
    · split
      · exact (State.stopAt_keeps ..).trans (Keeps.of_eq rfl)
      · split
        · exact (State.stopAt_keeps ..).trans (Keeps.of_eq rfl)
        · exact Keeps.of_eq rfl
  · split
    · trivial
    · split <;> exact Keeps.of_eq rfl
  · trivial

/-! ### The words of a context (R247-R250) -/

theorem contextWord_keeps {i : Instr} {fieldOk : Bool} {pops : Nat} {body : Nat → Nat → SeqCtx → BitVec 16 → State → State}
    {s : State} (hb : ∀ c n x w s, Keeps s (body c n x w s)) :
    Result.Keeps s (contextWord i fieldOk pops body s) := by
  unfold contextWord
  split
  · split
    · trivial
    · split
      · exact (State.stopAt_keeps ..).trans (Keeps.of_eq rfl)
      · split
        · exact (State.stopAt_keeps ..).trans (Keeps.of_eq rfl)
        · exact (hb ..).trans (Keeps.of_eq rfl)
  · trivial

theorem execShape_keeps (f : BitVec 10) (s : State) : Result.Keeps s (execShape f s) := by
  unfold execShape
  split
  · exact contextWord_keeps fun _ _ _ _ _ => Keeps.of_eq rfl
  · exact stackWord_keeps ..

theorem State.launchOp_keeps (s : State) (c n : Nat) (x : SeqCtx) (pops : Nat) (o : MatOp) :
    Keeps s (s.launchOp c n x pops o) := by
  unfold State.launchOp
  split <;> exact Keeps.of_eq rfl

theorem mmaWord_keeps (i : Instr) (f : BitVec 10) (zero : Bool) (s : State) : Result.Keeps s (mmaWord i f zero s) := by
  unfold mmaWord
  dsimp only
  refine contextWord_keeps fun _ _ _ _ _ => ?_
  split
  · split
    · exact State.launchOp_keeps ..
    · exact State.stopAt_keeps ..
  · exact State.stopAt_keeps ..

theorem State.drainPages_keeps (d v : Nat) (l : List Nat) : ∀ s : State, Keeps s (State.drainPages d v s l).1 := by
  induction l with
  | nil => exact Keeps.refl
  | cons p l ih =>
    intro s
    unfold State.drainPages
    split
    · rename_i hAgentAddr
      exact Keeps.fst (State.agentAddr_keeps ..) hAgentAddr
    · rename_i hAgentAddr
      exact (Keeps.fst (State.agentAddr_keeps ..) hAgentAddr).trans (ih _)

theorem drainWord_keeps (i : Instr) (f : BitVec 10) (kind : Nat) (s : State) : Result.Keeps s (drainWord i f kind s) := by
  unfold drainWord
  extract_lets +onlyGivenNames scope scr cvt pops
  refine contextWord_keeps fun c id x word s => ?_
  extract_lets +onlyGivenNames w slot q pitch addr e stop
  have stopped : ∀ (s : State) (code : Nat), Keeps s (stop s code) := fun _ _ => State.stopAt_keeps ..
  split
  · exact stopped ..
  · split
    · exact stopped ..
    · split
      · exact stopped ..
      · split
        · exact stopped ..
        · have pages : ∀ r, (if scr then (s, none) else State.drainPages (c / 48) x.vf s (drainTouches addr pitch x.m x.n e)) =
            r →
              Keeps s r.1 := by
            intro r hr
            split at hr <;> subst hr
            · exact Keeps.refl s
            · exact State.drainPages_keeps ..
          split
          · rename_i hPages
            exact (pages _ hPages).trans (stopped ..)
          · rename_i hPages
            exact (pages _ hPages).trans (State.launchOp_keeps ..)

theorem execArrive_keeps (f : BitVec 10) (s : State) : Result.Keeps s (execArrive f s) := by
  refine contextWord_keeps fun _ _ _ _ _ => ?_
  split
  · exact Keeps.of_eq rfl
  · split
    · exact State.stopAt_keeps ..
    · rename_i hArriveBar
      exact (State.arriveBar_keeps hArriveBar).trans (Keeps.of_eq rfl)

theorem execWaitb_keeps (f : BitVec 10) (s : State) : Result.Keeps s (execWaitb f s) := by
  unfold execWaitb
  dsimp only
  refine contextWord_keeps fun _ _ _ _ _ => ?_
  split <;> exact Keeps.of_eq rfl

theorem execHalt_keeps (f : BitVec 10) (s : State) : Result.Keeps s (execHalt f s) := by
  unfold execHalt
  dsimp only
  split
  · split
    · trivial
    · exact Keeps.of_eq rfl
  · refine contextWord_keeps fun _ _ _ _ _ => ?_
    split <;> exact Keeps.of_eq rfl

theorem execUnassignedEngineWord_keeps (w : BitVec 16) (s : State) : Result.Keeps s (execUnassignedEngineWord w s) := by
  unfold execUnassignedEngineWord
  split
  · split
    · trivial
    · exact (State.stopAt_keeps ..).trans (Keeps.of_eq rfl)
  · trivial

/-! ### Completion (R237, R252, R409) -/

theorem State.performOp_keeps (s : State) (c : Nat) (o : MatOp) : Keeps s (s.performOp c o) := by
  unfold State.performOp
  split
  · exact Keeps.pre (State.runMatOp_keeps ..) rfl
  · split
    · exact Keeps.of_eq rfl
    · split
      · exact Keeps.pre (State.stopContext_keeps ..) rfl
      · split
        · exact Keeps.pre (State.runMatOp_keeps ..) rfl
        · exact (State.runDrain_keeps ..).trans (Keeps.pre (Keeps.foldl _ (fun _ _ => State.sendContrib_keeps ..) _ _) rfl)

theorem State.completeOp_keeps (s : State) (c : Nat) (o : MatOp) : Keeps s (s.completeOp c o) :=
  (State.performOp_keeps ..).trans (State.settleStop_keeps ..)

theorem execMatrixOpComplete_keeps (core : Nat) (s : State) : Result.Keeps s (execMatrixOpComplete core s) := by
  unfold execMatrixOpComplete
  dsimp only
  split
  · trivial
  · split
    · trivial
    · exact Keeps.pre (State.completeOp_keeps ..) rfl

theorem execEngineOpEnded_keeps (core id : Nat) (s : State) : Result.Keeps s (execEngineOpEnded core id s) := by
  unfold execEngineOpEnded
  split
  · rename_i hCopyFault
    exact State.copyFault_keeps hCopyFault
  · trivial

/-! ### The words of the DME (R325, R326) -/

theorem dmeWord_keeps {i : Instr} {fieldOk : Bool} {pops : Nat} {body : Dme → Nat → BitVec 16 → State → State} {s : State}
    (hb : ∀ d n w s, Keeps s (body d n w s)) :
    Result.Keeps s (dmeWord i fieldOk pops body s) := by
  unfold dmeWord
  dsimp only
  split
  · split
    · trivial
    · split
      · exact Keeps.of_eq rfl
      · exact (hb ..).trans (Keeps.of_eq rfl)
  · trivial

theorem dmmaWord_keeps (i : Instr) (f : BitVec 10) (zero : Bool) (s : State) : Result.Keeps s (dmmaWord i f zero s) := by
  refine dmeWord_keeps fun d t word s => ?_
  extract_lets
  split <;> exact Keeps.of_eq rfl

theorem execDline_keeps (f : BitVec 10) (s : State) : Result.Keeps s (execDline f s) := by
  refine dmeWord_keeps fun _ _ _ _ => ?_
  split <;> exact Keeps.of_eq rfl

end Sys2Proof.Machine
end

section
/-! PROOFS. The distributor keeps memory in canonical form (R342-R348). -/

namespace Sys2Proof.Machine

/-! ### What a core has room for (R43, R58, R79-R81) -/

theorem State.repart_keeps (s : State) (c regs accs : Nat) : Keeps s (s.repart c regs accs) := by
  unfold State.repart
  dsimp only
  split <;> exact Keeps.of_eq rfl

theorem State.assign_keeps (s : State) (c v : Nat) : Keeps s (s.assign c v) := by
  unfold State.assign
  dsimp only
  split <;> exact Keeps.of_eq rfl

theorem State.scrub_keeps (s : State) (c v : Nat) : Keeps s (s.scrub c v) := by
  unfold State.scrub
  split
  · exact Keeps.refl _
  · exact State.assign_keeps ..

theorem State.ready_keeps (s : State) (c v regs accs : Nat) : Keeps s (s.ready c v regs accs) :=
  (State.scrub_keeps ..).trans (State.repart_keeps ..)

/-! ### Candidates (R342) -/

theorem State.taskHeadFrom_keeps (src d v q : Nat) (t : TaskQueue) (l : List Nat) :
    ∀ s : State, Keeps s (s.taskHeadFrom src d v q t l).1 := by
  induction l with
  | nil => intro s; exact Keeps.of_eq rfl
  | cons p l ih =>
    intro s
    unfold State.taskHeadFrom
    split
    · rename_i hRingCounts
      exact (Keeps.fst (State.ringCounts_keeps ..) hRingCounts).trans (State.queueBad_keeps ..)
    · rename_i hRingCounts
      refine (Keeps.fst (State.ringCounts_keeps ..) hRingCounts).trans ?_
      split
      · exact ih _
      · split
        · rename_i hAgentRead
          exact (Keeps.fst (State.agentRead_keeps ..) hAgentRead).trans (State.queueBad_keeps ..)
        · rename_i hAgentRead
          exact (Keeps.fst (State.agentRead_keeps ..) hAgentRead).trans (Keeps.of_eq rfl)

theorem State.taskHead_keeps (s : State) (d v q : Nat) : Keeps s (s.taskHead d v q).1 := by
  unfold State.taskHead
  dsimp only
  split
  · rename_i hTaskQueue
    exact (Keeps.fst (State.taskQueue_keeps ..) hTaskQueue).trans (State.queueBad_keeps ..)
  · rename_i hTaskQueue
    refine (Keeps.fst (State.taskQueue_keeps ..) hTaskQueue).trans ?_
    split
    all_goals
      rename_i hTaskHeadFrom
      exact Keeps.fst (State.taskHeadFrom_keeps ..) hTaskHeadFrom

theorem State.startCheck_keeps (s : State) (d v : Nat) (h : W64) : Keeps s (s.startCheck d v h).1 := by
  unfold State.startCheck
  dsimp only
  split
  · exact Keeps.refl _
  · split
    · rename_i hAgentReads
      exact Keeps.fst (State.agentReads_keeps ..) hAgentReads
    · rename_i hAgentReads
      refine (Keeps.fst (State.agentReads_keeps ..) hAgentReads).trans ?_
      split
      · exact Keeps.refl _
      · split
        · exact Keeps.refl _
        · split <;> exact Keeps.refl _

theorem State.taskCands_keeps (c v : Nat) (l : List Nat) : ∀ s : State, Keeps s (s.taskCands c v l).1 := by
  induction l with
  | nil => exact Keeps.refl
  | cons q l ih =>
    intro s
    unfold State.taskCands
    split
    · rename_i hTaskHead
      exact (Keeps.fst (State.taskHead_keeps ..) hTaskHead).trans (ih _)
    · rename_i hTaskHead
      refine (Keeps.fst (State.taskHead_keeps ..) hTaskHead).trans ?_
      split
      all_goals
        rename_i hStartCheck
        exact (Keeps.fst (State.startCheck_keeps ..) hStartCheck).trans (ih _)

theorem State.select_keeps (s : State) (c : Nat) : Keeps s (s.select c).1 := by
  unfold State.select
  split
  · exact Keeps.refl _
  · exact State.taskCands_keeps ..

/-! ### Binding (R37, R43, R58, R59, R72, R81) -/

theorem State.bindFresh_keeps (s : State) (c l w : Nat) (p : Plan) : Keeps s (s.bindFresh c l w p) :=
  (State.ready_keeps ..).trans (Keeps.of_eq rfl)

theorem State.dropSaved_keeps (s : State) (c key : Nat) : Keeps s (s.dropSaved c key) := by
  unfold State.dropSaved
  split
  · exact Keeps.refl _
  · exact (Keeps.foldl _ (fun _ _ => State.failTask_keeps ..) _ _).trans (Keeps.of_eq rfl)

theorem State.bindSaved_keeps (s : State) (c l key : Nat) (p : Plan) : Keeps s (s.bindSaved c l key p) := by
  unfold State.bindSaved
  split
  · exact Keeps.refl s
  · split
    · rename_i hRecordsBad
      have raised : ∀ (gs : List (Nat × Group)) (ev : Event) (t : State),
          Keeps t (gs.foldl (fun s _ => s.raise (srcCore c) ev) t) := fun gs
            ev => Keeps.foldl (fun s _ => s.raise (srcCore c) ev) (fun _ _ => Keeps.of_eq rfl) gs
      extract_lets +onlyGivenNames s1 x _ ev s2
      have dropped : Keeps _ s1 := State.dropSaved_keeps ..
      have marked : Keeps s1 s2 := (raised ..).trans (Keeps.of_eq rfl)
      exact (Keeps.fst (State.recordsBad_keeps ..) hRecordsBad).trans (dropped.trans (marked.trans (State.settleLaunch_keeps ..)))
    · rename_i hRecordsBad
      extract_lets +onlyGivenNames h s1 n
      have made : Keeps _ s1 := State.ready_keeps ..
      refine (Keeps.fst (State.recordsBad_keeps ..) hRecordsBad).trans (made.trans ?_)
      split
      · exact Keeps.refl s1
      · exact Keeps.of_eq rfl

/-! ### The choice of a candidate, and its binding (R342, R343) -/

theorem State.choose_keeps (s : State) (c : Nat) (a : Cand) : Keeps s (s.choose c a) := by
  unfold State.choose
  split <;> exact Keeps.of_eq rfl

theorem State.giveUp_keeps (s : State) (c : Nat) : Keeps s (s.giveUp c) := by
  unfold State.giveUp
  split <;> exact Keeps.of_eq rfl

theorem State.giveUpLaunch_keeps (s : State) (l : Nat) : Keeps s (s.giveUpLaunch l) :=
  Keeps.foldl _ (fun _ _ => State.giveUp_keeps ..) _ _

theorem execWorkgroupBind_keeps (core : Nat) (s : State) : Result.Keeps s (execWorkgroupBind core s) := by
  unfold execWorkgroupBind
  split
  · split
    · exact Keeps.pre (State.bindFresh_keeps ..) rfl
    · exact State.giveUp_keeps ..
  · split
    · exact Keeps.pre (State.bindSaved_keeps ..) rfl
    · exact State.giveUp_keeps ..
  · trivial
  · split
    · rename_i hSelect
      exact (Keeps.fst (State.select_keeps ..) hSelect).trans (State.choose_keeps ..)
    · trivial

/-! ### The start of a task (R71, R72, R454) -/

theorem State.dequeue_keeps (s : State) (d v q : Nat) (t : TaskQueue) (p : Nat) (h : W64) (head tail : Nat) :
    Keeps s (s.dequeue d v q t p h head tail) := by
  unfold State.dequeue
  dsimp only
  split
  · rename_i hPutCounts
    exact Keeps.pre ((Keeps.fst (State.putCounts_keeps ..) hPutCounts).trans (State.queueBad_keeps ..)) rfl
  · rename_i hPutCounts
    exact Keeps.pre (Keeps.fst (State.putCounts_keeps ..) hPutCounts) rfl

theorem State.bindTask_keeps (s : State) (c v l : Nat) (h : W64) (ws : List W64) (park : Option SpillRec) (p : Plan) :
    Keeps s (s.bindTask c v l h ws park p) := by
  unfold State.bindTask
  dsimp only
  split
  · split
    · split
      · exact State.ready_keeps ..
      · exact State.scrub_keeps ..
    · split
      · exact (State.ready_keeps ..).trans (Keeps.pre (State.freePark_keeps ..) rfl)
      · exact (State.scrub_keeps ..).trans (Keeps.pre (State.freePark_keeps ..) rfl)
  · split
    · exact (State.ready_keeps ..).trans (Keeps.of_eq rfl)
    · exact (State.scrub_keeps ..).trans (Keeps.of_eq rfl)
  · split
    · exact State.ready_keeps ..
    · exact State.scrub_keeps ..

theorem State.deadStart_keeps (s : State) (c v : Nat) (h : W64) (va code : Nat) : Keeps s (s.deadStart c v h va code) :=
  (State.failTask_keeps ..).trans (Keeps.of_eq rfl)

theorem State.startTask_keeps (s : State) (c v l : Nat) (h : W64) (ws : List W64) (p : Plan) :
    Keeps s (s.startTask c v l h ws p) := by
  unfold State.startTask
  dsimp only
  split
  · rename_i hSwapCtl
    exact Keeps.fst (State.swapCtl_keeps ..) hSwapCtl
  · rename_i hSwapCtl
    refine (Keeps.fst (State.swapCtl_keeps ..) hSwapCtl).trans ?_
    split
    · split
      · rename_i hParkDead
        exact (Keeps.fst (State.parkDead_keeps ..) hParkDead).trans (State.deadStart_keeps ..)
      · rename_i hParkDead
        exact (Keeps.fst (State.parkDead_keeps ..) hParkDead).trans (State.bindTask_keeps ..)
    · exact State.bindTask_keeps ..

theorem execTaskStart_keeps (core vf queue : Nat) (s : State) : Result.Keeps s (execTaskStart core vf queue s) := by
  unfold execTaskStart
  dsimp only
  split
  · trivial
  · split
    · rename_i hTaskHead
      refine Keeps.result (Keeps.fst (State.taskHead_keeps ..) hTaskHead) ?_
      split
      · split
        · split
          · exact State.giveUp_keeps ..
          · split
            · trivial
            · exact Keeps.refl _
        · split
          · exact State.giveUp_keeps ..
          · split
            · trivial
            · exact Keeps.refl _
      · split
        · exact State.giveUp_keeps ..
        · split
          · trivial
          · exact Keeps.refl _
    · rename_i hTaskHead
      refine Keeps.result (Keeps.fst (State.taskHead_keeps ..) hTaskHead) ?_
      split
      · rename_i hStartCheck
        exact (Keeps.fst (State.startCheck_keeps ..) hStartCheck).trans (State.dequeue_keeps ..)
      · rename_i hStartCheck
        exact (Keeps.fst (State.startCheck_keeps ..) hStartCheck).trans ((State.dequeue_keeps ..).trans (Keeps.of_eq rfl))
      · rename_i hStartCheck
        exact (Keeps.fst (State.startCheck_keeps ..) hStartCheck).trans ((State.dequeue_keeps ..).trans (Keeps.of_eq rfl))
      · rename_i hStartCheck
        refine Keeps.result (Keeps.fst (State.startCheck_keeps ..) hStartCheck) ?_
        split
        · split
          · split
            · split
              · exact Keeps.pre ((State.dequeue_keeps ..).trans (State.startTask_keeps ..)) rfl
              · exact State.giveUp_keeps ..
            · split
              · exact State.giveUp_keeps ..
              · trivial
          · split
            · split
              · exact Keeps.pre ((State.dequeue_keeps ..).trans (State.startTask_keeps ..)) rfl
              · exact State.giveUp_keeps ..
            · split
              · exact State.giveUp_keeps ..
              · trivial
        · split
          · split
            · exact Keeps.pre ((State.dequeue_keeps ..).trans (State.startTask_keeps ..)) rfl
            · exact State.giveUp_keeps ..
          · split
            · exact State.giveUp_keeps ..
            · trivial

theorem execTaskRequeue_keeps (vf task : Nat) (s : State) : Result.Keeps s (execTaskRequeue vf task s) := by
  unfold execTaskRequeue
  dsimp only
  split
  · trivial
  · split
    · rename_i hOwnerRec
      exact (Keeps.fst (State.ownerRec_keeps ..) hOwnerRec).trans (Keeps.of_eq rfl)
    · rename_i hOwnerRec
      refine Keeps.result (Keeps.fst (State.ownerRec_keeps ..) hOwnerRec) ?_
      split
      · exact Keeps.of_eq rfl
      · split
        · rename_i hEnqueue
          exact (Keeps.fst (State.enqueue_keeps ..) hEnqueue).trans (Keeps.of_eq rfl)
        · trivial

/-! ### Discard, save and kill (R346-R348, R434, R436, R438) -/

theorem State.dropWg_keeps (s : State) (c n : Nat) : Keeps s (s.dropWg c n) :=
  Keeps.foldl _ (fun _ _ => State.dropGroup_keeps ..) _ _

theorem State.discardWg_keeps (s : State) (c n : Nat) : Keeps s (s.discardWg c n) := Keeps.pre (State.dropWg_keeps ..) rfl

theorem State.killWg_keeps (s : State) (c n : Nat) : Keeps s (s.killWg c n) :=
  Keeps.pre (Keeps.foldl _ (fun _ _ => State.forceEnd_keeps ..) _ _) rfl

theorem execWorkgroupSave_keeps (core wg : Nat) (s : State) : Result.Keeps s (execWorkgroupSave core wg s) := by
  unfold execWorkgroupSave
  dsimp only
  split
  · trivial
  · split
    · trivial
    · split
      · exact Keeps.foldl _ (fun _ _ => State.fatalGroup_keeps ..) _ _
      · split
        · rename_i hWriteSpill
          exact (Keeps.fst (State.writeSpill_keeps ..) hWriteSpill).trans (Keeps.of_eq rfl)
        · rename_i hWriteSpill
          exact (Keeps.fst (State.writeSpill_keeps ..) hWriteSpill).trans (Keeps.pre (State.dropWg_keeps ..) rfl)

theorem State.setParking_keeps (s : State) (c slot : Nat) (on : Bool) : Keeps s (s.setParking c slot on) := by
  unfold State.setParking
  split <;> exact Keeps.of_eq rfl

theorem State.drainTask_keeps (s : State) (c slot : Nat) : Keeps s (s.drainTask c slot) := by
  unfold State.drainTask
  dsimp only
  split
  · exact State.setParking_keeps ..
  · exact (State.setParking_keeps ..).trans (Keeps.of_eq rfl)

theorem State.parkTask_keeps (s : State) (c slot : Nat) : Keeps s (s.parkTask c slot) := by
  unfold State.parkTask
  dsimp only
  split
  · exact Keeps.refl _
  · split
    · split
      · exact State.fatalGroup_keeps ..
      · split
        · exact State.setParking_keeps ..
        · split
          · rename_i hParkFrames
            exact Keeps.pre ((Keeps.fst (State.parkFrames_keeps ..) hParkFrames).trans (State.drainTask_keeps ..)) rfl
          · refine Keeps.trans ?_ (State.wakeTask_keeps ..)
            split
            · rename_i hParkFrames
              exact Keeps.pre ((Keeps.fst (State.parkFrames_keeps ..) hParkFrames).trans
                ((State.markParked_keeps ..).trans (Keeps.pre
                  ((State.leaveAdoption_keeps ..).trans (State.setParking_keeps ..)) rfl))) rfl
            · rename_i hParkFrames
              exact Keeps.pre ((Keeps.fst (State.parkFrames_keeps ..) hParkFrames).trans
                ((State.markParked_keeps ..).trans (State.dropGroup_keeps ..))) rfl
    · exact Keeps.refl _

theorem State.parkAgain_keeps (s : State) : Keeps s s.parkAgain := Keeps.foldl _ (fun _ _ => State.parkTask_keeps ..) _ _

end Sys2Proof.Machine
end

section
/-! PROOFS. Texture words and Selham keep memory in canonical form (R213-R217, R283-R328). -/

namespace Sys2Proof.Machine

/-! ### Textures (R213, R214) -/

theorem texBody_keeps (o : V3) (t : TexOp) (word : W64) (x : Iss) (s : State) : (texBody o t word x s).Keeps s := by
  unfold texBody
  dsimp only
  split
  · trivial
  · exact Keeps.pre ((State.noteAll_keeps ..).trans (Keeps.pre ((State.loadReqs_keeps ..).trans (Keeps.of_eq rfl)) rfl)) rfl

/-! ### Integer words (R315) -/

theorem cluInt_keeps (i : Instr) (o : CW) (f : W32 → W32 → W32) (s : State) : Result.Keeps s (cluInt i o f s) :=
  cluData_keeps ..

/-! ### Control words (R289, R322) -/

theorem cluCtl_keeps {i : Instr} {o : CW} {effect : XIss → State → State} {s : State} (hb : ∀ x s, Keeps s (effect x s)) :
    Result.Keeps s (cluCtl i o effect s) :=
  cluIssue_keeps hb

/-! ### Tokens and queues (R321) -/

theorem execCluKpop_keeps (o : CW) (s : State) : Result.Keeps s (execCluKpop o s) := by
  refine cluIssue_keeps fun _ _ => ?_
  split
  all_goals
    rename_i hTokenPop
    exact (Keeps.fst (State.tokenPop_keeps ..) hTokenPop).trans (State.xPut_keeps ..)

/-! ### Float words (R316) -/

theorem cluFloat_keeps (i : Instr) (o : CW) (b c : Bool) (f : Nat → Nat → Nat → Nat) (s : State) :
    Result.Keeps s (cluFloat i o b c f s) :=
  cluData_keeps ..

/-! ### Line store and line copies (R319, R320) -/

theorem State.lineUnit_keeps (s : State) (l u : Nat) : Keeps s (s.lineUnit l u).1 := by
  unfold State.lineUnit
  split
  · exact Keeps.pre (State.markLate_keeps ..) rfl
  · exact Keeps.refl _

/-! ### Fetch and store engine words (R323, R324) -/

theorem State.hRequest_keeps (s : State) (v ia : Nat) (kind : ReqKind) : Keeps s (s.hRequest v ia kind) := by
  unfold State.hRequest
  split
  · exact Keeps.pre (Keeps.foldl _ (fun _ _ => State.crossOut_keeps ..) _ _) rfl
  · exact Keeps.refl _
  · exact Keeps.refl _

theorem State.hRequests_keeps (s : State) (v ia n : Nat) (kind : ReqKind) : Keeps s (s.hRequests v ia n kind) := by
  unfold State.hRequests
  split
  · exact Keeps.refl _
  · exact Keeps.foldl _ (fun _ _ => State.hRequest_keeps ..) _ _

theorem execFetch_keeps (o : EW) (s : State) : Result.Keeps s (execFetch o s) := by
  unfold execFetch
  dsimp only
  split
  · split
    · exact Keeps.of_eq rfl
    · exact Keeps.pre ((State.hRequests_keeps ..).trans (Keeps.of_eq rfl)) rfl
  · trivial

theorem storeWord_keeps (o : EW) (emit : Bool) (s : State) : Result.Keeps s (storeWord o emit s) := by
  unfold storeWord
  split
  · show Keeps _ _
    split
    · exact Keeps.of_eq rfl
    · exact Keeps.pre ((State.hRequests_keeps ..).trans (Keeps.of_eq rfl)) rfl
  · trivial

/-! ### The bytes of a unit -/

theorem State.fetchUnit_keeps (s : State) (l line ia : Nat) : Keeps s (s.fetchUnit l line ia).1 := by
  unfold State.fetchUnit
  split
  · exact Keeps.refl _
  · exact State.selAccess_keeps ..

theorem State.storeUnit_keeps (s : State) (l line ia : Nat) (bs : List Byte) : Keeps s (s.storeUnit l line ia bs) := by
  unfold State.storeUnit
  split
  · exact State.storeAll_keeps ..
  · exact State.selAccess_keeps ..

/-! ### The DME's clock (R297, R300, R325, R326) -/

theorem State.accRead_keeps (s : State) (u : Nat) : Keeps s (s.accRead u).1 := by
  unfold State.accRead
  dsimp only
  (repeat' split) <;> exact Keeps.of_eq rfl

theorem State.dmeTake_keeps (s : State) (c : Nat) (at_ : SelAt) : Keeps s (s.dmeTake c at_).1 := by
  unfold State.dmeTake
  dsimp only
  (repeat' split) <;> exact Keeps.of_eq rfl

theorem State.dmeClock_keeps (s : State) (t : Nat) : Keeps s (s.dmeClock t) := by
  unfold State.dmeClock
  split
  · extract_lets +onlyGivenNames need
    split
    rename_i s1 acc1 bad1 hAccRead
    have read : Keeps s s1 := by
      split at hAccRead
      · cases hAccRead
        exact State.accRead_keeps ..
      · cases hAccRead
        exact Keeps.refl s
    refine read.trans ?_
    split
    rename_i s2 taken1 bad2 last1 hDmeTake
    have took : Keeps s1 s2 := by
      split at hDmeTake
      · cases hDmeTake
        exact State.dmeTake_keeps ..
      · cases hDmeTake
        exact Keeps.refl s1
    refine took.trans ?_
    split
    · split
      · extract_lets +onlyGivenNames u d wbad s3
        have raised : s3.mem = s2.mem := by
          unfold s3
          split <;> rfl
        exact Keeps.of_eq raised
      · exact Keeps.of_eq rfl
    · exact Keeps.of_eq rfl
  · dsimp only
    split
    · split <;> exact (State.accRead_keeps ..).trans (Keeps.of_eq rfl)
    · exact Keeps.refl s
  · exact Keeps.refl s

/-! ### Line copies (R298, R300, R320) -/

theorem State.copyClock_keeps (s : State) (t : Nat) (w : CopyWrite) : Keeps s (s.copyClock t w) := by
  unfold State.copyClock
  dsimp only
  split
  · exact Keeps.of_eq rfl
  · split
    · split <;> exact Keeps.of_eq rfl
    · split
      · exact Keeps.of_eq rfl
      · split <;> exact Keeps.of_eq rfl

/-! ### The store engine and the fetch engine (R302, R324) -/

theorem State.enterPixels_keeps (s : State) (l line pix : Nat) (v : X512) : Keeps s (s.enterPixels l line pix v) := by
  unfold State.enterPixels
  dsimp only
  split <;> exact Keeps.of_eq rfl

theorem State.storeOut_keeps (s : State) (l t : Nat) (u : StoreUnit) (v : X512) : Keeps s (s.storeOut l t u v) := by
  unfold State.storeOut
  split
  · exact Keeps.of_eq rfl
  · exact State.storeUnit_keeps ..

theorem State.storeClock_keeps (s : State) (l t : Nat) : Keeps s (s.storeClock l t) := by
  unfold State.storeClock
  dsimp only
  split
  · exact Keeps.pre (Keeps.foldl _ (fun _ _ => (State.queuePop_keeps ..).trans (State.storeOut_keeps ..)) _ _) rfl
  · split
    · exact Keeps.pre (Keeps.foldl _ (fun _ _ => (State.queuePop_keeps ..).trans (State.storeOut_keeps ..)) _ _) rfl
    · exact Keeps.pre ((Keeps.foldl _ (fun _ _ => (State.queuePop_keeps ..).trans (State.storeOut_keeps ..)) _ _).trans
        (Keeps.pre ((State.lineUnit_keeps ..).trans (State.storeOut_keeps ..)) rfl)) rfl

theorem State.fetchClock_keeps (s : State) (l t : Nat) : Keeps s (s.fetchClock l t) := by
  unfold State.fetchClock
  dsimp only
  split
  · exact Keeps.refl _
  · split
    · exact Keeps.of_eq rfl
    · exact Keeps.pre ((State.fetchUnit_keeps ..).trans (Keeps.of_eq rfl)) rfl

/-! ### Pushes, streams and stops (R288, R295, R296, R402, R403) -/

theorem State.pushClock_keeps (s : State) (l : Nat) (p : QPush) : Keeps s (s.pushClock l p) := by
  unfold State.pushClock
  dsimp only
  (repeat' split) <;> exact Keeps.of_eq rfl

theorem State.kpushClock_keeps (s : State) (l : Nat) (p : KPush) : Keeps s (s.kpushClock l p) := by
  unfold State.kpushClock
  dsimp only
  (repeat' split) <;> exact Keeps.of_eq rfl

theorem State.stopClock_keeps (s : State) (l : Nat) : Keeps s (s.stopClock l) := by
  unfold State.stopClock
  dsimp only
  split
  · exact Keeps.refl _
  · split
    · exact Keeps.of_eq rfl
    · exact (State.markLate_keeps ..).trans (Keeps.of_eq rfl)

theorem State.lcrClock_keeps (s : State) (t l : Nat) : Keeps s (s.lcrClock t l) :=
  Keeps.pre ((Keeps.foldl _ (fun _ _ => State.pushClock_keeps ..) _ _).trans
    ((Keeps.foldl _ (fun _ _ => State.kpushClock_keeps ..) _ _).trans
      ((Keeps.foldl _ (fun _ _ => State.enterPixels_keeps ..) _ _).trans (State.stopClock_keeps ..)))) rfl

theorem State.endSelClock_keeps (s : State) (t : Nat) : Keeps s (s.endSelClock t) :=
  Keeps.pre ((Keeps.foldl _ (fun _ _ => State.copyClock_keeps ..) _ _).trans
    ((Keeps.foldl _ (fun _ _ => (State.storeClock_keeps ..).trans (State.fetchClock_keeps ..)) _ _).trans
      ((State.dmeClock_keeps ..).trans (Keeps.foldl _ (fun _ _ => State.lcrClock_keeps ..) _ _)))) rfl

/-! ### Who issues (R283, R286, R287, R293, R324, R350) -/

theorem State.lcrIssue_keeps (s : State) (t l : Nat) : Keeps s (s.lcrIssue t l).1 := by
  unfold State.lcrIssue
  dsimp only
  (repeat' split) <;> exact Keeps.of_eq rfl

theorem State.selIssue_keeps (s : State) : Keeps s s.selIssue.1 := by
  refine Keeps.foldl_fst _ (fun _ _ => ?_) _ s []
  exact State.lcrIssue_keeps ..

/-! ### The start of a launch (R291, R299, R328, R350) -/

theorem State.acceptSelham_keeps (s : State) (x : SelLoad) : Keeps s (s.acceptSelham x) := by
  unfold State.acceptSelham
  split <;> exact Keeps.of_eq rfl

/-! ### Lines (R301) -/

theorem execLineScheduleStart_keeps (lcr : Nat) (s : State) : Result.Keeps s (execLineScheduleStart lcr s) := by
  unfold execLineScheduleStart
  split
  · trivial
  · show Keeps _ _
    split <;> split <;> split <;> split <;> exact Keeps.of_eq rfl

/-! ### Scan-out and the safety reel (R302, R304-R306, R442, R443) -/

theorem State.selWriteFuel_keeps (n : Nat) :
    ∀ {s t : State} {v ia : Nat} {bs : List Byte}, State.selWriteFuel n s v ia bs = .ok t → Keeps s t := by
  induction n with
  | zero => intro s t v ia bs h; cases h; exact Keeps.refl s
  | succ n ih =>
    intro s t v ia bs h
    unfold State.selWriteFuel at h
    split at h
    · cases h
      exact Keeps.refl s
    · split at h
      · cases h
      · exact (State.storeAll_keeps ..).trans (ih h)

theorem State.reelWrite_keeps (s : State) (h : Nat) (w : Show) (g : Nat) (px : List W32) (r : PoseRec) :
    Keeps s (s.reelWrite h w g px r).1 := by
  unfold State.reelWrite
  dsimp only
  split
  · rename_i hSelWriteFuel
    exact (State.selWriteFuel_keeps _ hSelWriteFuel).trans (State.hRequests_keeps ..)
  · exact State.selAccess_keeps ..

theorem State.reelFetch_keeps (s : State) (h : Nat) (w : Show) (g : Nat) : Keeps s (s.reelFetch h w g).1 := by
  unfold State.reelFetch
  dsimp only
  split
  · exact State.selAccess_keeps ..
  · dsimp only
    exact State.hRequests_keeps ..

theorem State.sendLine_keeps (s : State) (h : Nat) (w past : Show) (old : Bool) (g : Nat) (px : List W32) (r : PoseRec) :
    Keeps s (s.sendLine h w past old g px r) :=
  (State.reelWrite_keeps ..).trans (Keeps.of_eq rfl)

theorem execScanOutLine_keeps (head : Nat) (s : State) : Result.Keeps s (execScanOutLine head s) := by
  unfold execScanOutLine
  extract_lets +onlyGivenNames hd
  split
  · trivial
  · split
    extract_lets +onlyGivenNames g line now latched w'
    split
    · exact Keeps.of_eq rfl
    · extract_lets +onlyGivenNames reasons
      split
      · extract_lets +onlyGivenNames s1
        have sent : Keeps s s1 := State.sendLine_keeps ..
        exact sent.trans (Keeps.of_eq rfl)
      · split
        extract_lets +onlyGivenNames held s1 why s2 hd2
        have sent : Keeps s s1 := State.sendLine_keeps ..
        have raised : s2.mem = s1.mem := by
          unfold s2
          split <;> rfl
        exact sent.trans (Keeps.of_eq raised)

theorem execReelRead_keeps (head : Nat) (s : State) : Result.Keeps s (execReelRead head s) := by
  unfold execReelRead
  split
  · trivial
  · exact (State.reelFetch_keeps ..).trans (Keeps.of_eq rfl)

/-! ### Frames handed back (R307) -/

theorem execFrameReturn_keeps (head : Nat) (s : State) : Result.Keeps s (execFrameReturn head s) := by
  unfold execFrameReturn
  split
  · trivial
  · exact Keeps.of_eq rfl

/-! ### Fetch runs and line copies (R294, R298, R403) -/

theorem execFetchRunComplete_keeps (lcr : Nat) (s : State) : Result.Keeps s (execFetchRunComplete lcr s) := by
  unfold execFetchRunComplete
  dsimp only
  split
  · trivial
  · split
    · show Keeps _ _
      split
      · exact Keeps.of_eq rfl
      · exact Keeps.pre (State.kpushClock_keeps ..) rfl
    · exact Keeps.of_eq rfl

theorem execLineCopyStart_keeps (lcr : Nat) (s : State) : Result.Keeps s (execLineCopyStart lcr s) := by
  unfold execLineCopyStart
  split
  · exact (State.lineUnit_keeps ..).trans (Keeps.of_eq rfl)
  · trivial

/-! ### Restarts (R444) -/

theorem State.judgeRestarts_keeps (s : State) : Keeps s s.judgeRestarts := by
  unfold State.judgeRestarts
  split <;> exact Keeps.of_eq rfl

theorem execLineCoreReload_keeps (lcr : Nat) (s : State) : Result.Keeps s (execLineCoreReload lcr s) := by
  unfold execLineCoreReload
  split
  · trivial
  · split
    · exact Keeps.of_eq rfl
    · exact Keeps.pre (State.judgeRestarts_keeps ..) rfl

theorem execDmeRestart_keeps (s : State) : Result.Keeps s (execDmeRestart s) := by
  unfold execDmeRestart
  split
  · trivial
  · split
    · exact Keeps.of_eq rfl
    · exact Keeps.pre (State.judgeRestarts_keeps ..) rfl

/-! ### The end of a launch (R293, R307, R350, R436, R444) -/

theorem execSelhamLaunchEnd_keeps (s : State) : Result.Keeps s (execSelhamLaunchEnd s) := by
  unfold execSelhamLaunchEnd
  dsimp only
  split
  · trivial
  · split
    · show Keeps _ _
      split
      · exact Keeps.of_eq rfl
      · split <;> exact Keeps.of_eq rfl
    · show Keeps _ _
      split
      · exact Keeps.of_eq rfl
      · split <;> exact Keeps.of_eq rfl

/-! ### The pose mailbox (R303) -/

theorem execPoseCommit_keeps (slot : Nat) (seq : W32) (s : State) : Result.Keeps s (execPoseCommit slot seq s) := by
  unfold execPoseCommit
  split
  · exact State.writePose_keeps ..
  · trivial

/-! ### The clock -/

theorem State.tickSelham_keeps (s : State) : Keeps s s.tickSelham := by
  unfold State.tickSelham
  dsimp only
  split <;> split <;> split <;> exact (State.endSelClock_keeps ..).trans (Keeps.of_eq rfl)

end Sys2Proof.Machine
end

section
/-! PROOFS. Commands, slices and the fabric keep memory in canonical form (R265-R279, R334-R340, R421-R424). -/

namespace Sys2Proof.Machine

/-! ### The journal (R448, R449) -/

theorem State.journalPut_keeps (s : State) (base : Nat) (e : JEntry) : Keeps s (s.journalPut base e) := by
  unfold State.journalPut
  dsimp only
  split
  · exact Keeps.refl _
  · exact (State.poke_keeps ..).trans (Keeps.of_eq rfl)

theorem State.journalAdd_keeps (s : State) (q op kind index : Nat) (record header : List W64) :
    Keeps s (s.journalAdd q op kind index record header) :=
  (Keeps.foldl _ (fun _ _ => State.journalPut_keeps ..) _ _).trans (Keeps.of_eq rfl)

theorem State.takeCommand_keeps (s : State) (q op index : Nat) (header : List W64) :
    Keeps s (s.takeCommand q op index header) := by
  unfold State.takeCommand
  dsimp only
  split
  · exact (State.journalAdd_keeps ..).trans (Keeps.of_eq rfl)
  · exact State.journalAdd_keeps ..

theorem State.handCommand_keeps (s : State) (q op index : Nat) : Keeps s (s.handCommand q op index) :=
  (State.journalAdd_keeps ..).trans (Keeps.of_eq rfl)

/-! ### Accesses of the active scheduler (R94, R334, R453) -/

theorem State.agentIaFuel_keeps (n : Nat) :
    ∀ (s : State) (d v ia : Nat) (acc : Acc), Keeps s (State.agentIaFuel n s d v ia acc).1 := by
  induction n with
  | zero => intro s d v ia acc; exact Keeps.refl s
  | succ n ih =>
    intro s d v ia acc
    unfold State.agentIaFuel
    split
    · exact Keeps.refl s
    · exact Keeps.refl s
    · split
      · exact Keeps.of_eq rfl
      · rename_i hFaultIn
        exact (State.dropFault_keeps ..).trans ((State.faultIn_keeps hFaultIn).trans (ih ..))

theorem State.queueEntry_keeps (s : State) (q : Nat) (x : CmdQueue) : Keeps s (s.queueEntry q x).1 := by
  unfold State.queueEntry
  extract_lets +onlyGivenNames a r at_
  split
  · exact State.hostRead_keeps s a 32
  · have place : Keeps s at_.1 := by
      unfold at_
      split
      · exact State.agentIaFuel_keeps ..
      · exact Keeps.refl s
    clear_value at_
    split
    · exact place
    · split <;> exact place

theorem State.cmdStore_keeps (s : State) (q va : Nat) (bs : List Byte) : Keeps s (s.cmdStore q va bs).1 := by
  unfold State.cmdStore
  dsimp only
  split
  · split
    · exact State.storeAll_keeps ..
    · exact Keeps.refl _
  · split
    · rename_i hAgentAddr
      exact Keeps.fst (State.agentAddr_keeps ..) hAgentAddr
    · rename_i hAgentAddr
      refine (Keeps.fst (State.agentAddr_keeps ..) hAgentAddr).trans ?_
      split
      · exact State.storeAll_keeps ..
      · split
        · rename_i hAgentAddr
          exact Keeps.fst (State.agentAddr_keeps ..) hAgentAddr
        · rename_i hAgentAddr
          exact (Keeps.fst (State.agentAddr_keeps ..) hAgentAddr).trans (State.storeAll_keeps ..)

/-! ### Acceptance -/

theorem State.startLaunch_keeps (s : State) (q index : Nat) (h : LaunchHdr) (done : W64) :
    Keeps s (s.startLaunch q index h done) :=
  Keeps.pre (State.settleLaunch_keeps ..) rfl

theorem State.handLaunch_keeps (s : State) (q index : Nat) (h : LaunchHdr) (done : W64) :
    Keeps s (s.handLaunch q index h done) := by
  unfold State.handLaunch
  split
  · exact Keeps.refl _
  · split
    · exact Keeps.of_eq rfl
    · exact (State.startLaunch_keeps ..).trans (State.handCommand_keeps ..)

theorem State.launchWith_keeps (s : State) (q index : Nat) (c : Cmd) (header : Option (List W64)) :
    Keeps s (s.launchWith q index c header) := by
  unfold State.launchWith
  split
  · exact Keeps.of_eq rfl
  · split
    · exact Keeps.of_eq rfl
    · split
      · exact Keeps.of_eq rfl
      · exact State.handLaunch_keeps ..

theorem State.doLaunch_keeps (s : State) (q index : Nat) (c : Cmd) : Keeps s (s.doLaunch q index c) := by
  unfold State.doLaunch
  split
  · exact (State.takeCommand_keeps ..).trans (State.launchWith_keeps ..)
  · split
    all_goals
      rename_i hAgentReads
      exact (Keeps.fst (State.agentReads_keeps ..) hAgentReads).trans
        ((State.takeCommand_keeps ..).trans (State.launchWith_keeps ..))

theorem State.doSelham_keeps (s : State) (q index : Nat) (c : Cmd) : Keeps s (s.doSelham q index c) := by
  unfold State.doSelham
  split
  · exact Keeps.of_eq rfl
  · split
    · exact Keeps.of_eq rfl
    · split
      · exact Keeps.of_eq rfl
      · split
        · exact Keeps.of_eq rfl
        · split
          · exact Keeps.refl _
          · refine Keeps.trans ?_ ((State.acceptSelham_keeps ..).trans (State.handCommand_keeps ..))
            split
            · exact Keeps.of_eq rfl
            · exact Keeps.refl _

theorem State.onTarget_keeps {s : State} {q op index low : Nat} {c : Cmd} {f : State → Nat → State}
    (hf : ∀ s l, Keeps s (f s l)) :
    Keeps s (s.onTarget q op index low c f) := by
  unfold State.onTarget
  split
  · exact Keeps.of_eq rfl
  · split
    · exact Keeps.of_eq rfl
    · split
      · exact Keeps.of_eq rfl
      · split
        · exact Keeps.refl s
        · exact (hf ..).trans (State.handCommand_keeps ..)

theorem State.doPrio_keeps (s : State) (q index : Nat) (c : Cmd) : Keeps s (s.doPrio q index c) :=
  State.onTarget_keeps fun _ _ => Keeps.of_eq rfl

theorem State.preemptWg_keeps (s : State) (save : Bool) (b : Nat × Nat) : Keeps s (s.preemptWg save b) := by
  unfold State.preemptWg
  dsimp only
  split
  · exact Keeps.refl _
  · split
    · exact State.discardWg_keeps ..
    · split
      · exact Keeps.of_eq rfl
      · split
        · exact Keeps.refl _
        · exact Keeps.of_eq rfl

theorem State.startPreempt_keeps (s : State) (q index l : Nat) (save : Bool) (done : W64) :
    Keeps s (s.startPreempt q index l save done) :=
  (State.giveUpLaunch_keeps ..).trans (Keeps.pre ((Keeps.foldl _ (fun _ _ => State.preemptWg_keeps ..) _ _).trans
    ((Keeps.foldl _ (fun _ _ => State.parkTask_keeps ..) _ _).trans (State.settlePreempts_keeps ..))) rfl)

theorem State.doPreempt_keeps (s : State) (q index : Nat) (c : Cmd) : Keeps s (s.doPreempt q index c) :=
  State.onTarget_keeps fun _ _ => (State.startPreempt_keeps ..)

theorem State.doResume_keeps (s : State) (q index : Nat) (c : Cmd) : Keeps s (s.doResume q index c) :=
  State.onTarget_keeps fun _ _ => Keeps.of_eq rfl

theorem State.settleWait_keeps (s : State) (q : Nat) : Keeps s (s.settleWait q) := by
  unfold State.settleWait
  (repeat' split) <;> exact Keeps.of_eq rfl

theorem State.doWait_keeps (s : State) (q index : Nat) (c : Cmd) : Keeps s (s.doWait q index c) := by
  unfold State.doWait
  split
  · exact Keeps.of_eq rfl
  · split
    · exact Keeps.of_eq rfl
    · split
      · exact Keeps.pre (State.settleWait_keeps ..) rfl
      · exact Keeps.refl _

theorem State.doTlbinv_keeps (s : State) (q index : Nat) (c : Cmd) : Keeps s (s.doTlbinv q index c) := by
  unfold State.doTlbinv
  split
  · exact Keeps.of_eq rfl
  · split
    · exact Keeps.of_eq rfl
    · split
      · exact Keeps.refl _
      · exact Keeps.pre ((State.handCommand_keeps ..).trans (Keeps.of_eq rfl)) rfl

theorem cmdIssue_keeps {s : State} {op : Nat} {f : State → Nat → Nat → State} (hf : ∀ s q i, Keeps s (f s q i)) :
    Result.Keeps s (cmdIssue s op f) := by
  unfold cmdIssue
  split
  · split
    · refine Keeps.trans ?_ ((hf _ _ _).trans (Keeps.of_eq rfl))
      split
      · exact Keeps.refl s
      · exact State.takeCommand_keeps ..
    · trivial
  · trivial

theorem State.unknownCommand_keeps (s : State) (q : Nat) (ws : List W64) : Keeps s (s.unknownCommand q ws) := by
  unfold State.unknownCommand
  split
  · exact Keeps.refl _
  · exact (State.takeCommand_keeps ..).trans (Keeps.of_eq rfl)

/-! ### Completion records (R339, R435, R449, R453) -/

theorem State.settleKill_keeps (s : State) : Keeps s s.settleKill := by
  unfold State.settleKill
  split <;> exact Keeps.of_eq rfl

theorem State.writeCompletion_keeps (s : State) (c : Completion) (op : Nat) : Keeps s (s.writeCompletion c op) := by
  unfold State.writeCompletion
  dsimp only
  split
  all_goals
    rename_i hCmdStore
    exact (State.journalAdd_keeps ..).trans (Keeps.pre ((Keeps.fst (State.cmdStore_keeps ..) hCmdStore).trans
      (Keeps.pre ((State.settleWait_keeps ..).trans (State.settleKill_keeps ..)) rfl)) rfl)

theorem execLaunchCompletion_keeps (queue index : Nat) (s : State) : Result.Keeps s (execLaunchCompletion queue index s) := by
  unfold execLaunchCompletion
  split
  · trivial
  · split
    · trivial
    · exact State.writeCompletion_keeps ..

/-! ### Kills (R436, R437, R439) -/

theorem State.killBound_keeps (s : State) (l reason : Nat) (ws : List (Nat × Nat)) : Keeps s (s.killBound l reason ws) :=
  Keeps.pre (Keeps.foldl _ (fun _ _ => State.killWg_keeps ..) _ _) rfl

theorem State.killLaunch_keeps (s : State) (l reason : Nat) : Keeps s (s.killLaunch l reason) := by
  unfold State.killLaunch
  dsimp only
  split
  · exact State.giveUpLaunch_keeps ..
  · exact (State.giveUpLaunch_keeps ..).trans ((Keeps.foldl _ (fun _ _ => State.dropSaved_keeps ..) _ _).trans
      (Keeps.pre ((State.killBound_keeps ..).trans ((State.settlePreempts_keeps ..).trans (State.settleLaunch_keeps ..))) rfl))

theorem execContextKill_keeps (queue : Nat) (index : BitVec 16) (s : State) :
    Result.Keeps s (execContextKill queue index s) := by
  unfold execContextKill
  split
  · trivial
  · split
    · exact Keeps.refl s
    · split
      · exact Keeps.of_eq rfl
      · exact (State.setKill_keeps ..).trans ((State.killLaunch_keeps ..).trans (State.settleKill_keeps ..))

theorem State.killTask_keeps (s : State) (v i : Nat) : Keeps s (s.killTask v i) := by
  unfold State.killTask
  dsimp only
  split
  · rename_i hAgentReads
    exact (Keeps.fst (State.agentReads_keeps ..) hAgentReads).trans (Keeps.of_eq rfl)
  · rename_i hAgentReads
    refine (Keeps.fst (State.agentReads_keeps ..) hAgentReads).trans ?_
    split
    · exact Keeps.refl _
    · exact (State.setCtl_keeps ..).trans (State.endFuture_keeps ..)

theorem State.emptyQueue_keeps (s : State) (v q : Nat) : Keeps s (s.emptyQueue v q) := by
  unfold State.emptyQueue
  split
  · rename_i hTaskQueue
    exact (Keeps.fst (State.taskQueue_keeps ..) hTaskQueue).trans (State.queueBad_keeps ..)
  · rename_i hTaskQueue
    refine (Keeps.fst (State.taskQueue_keeps ..) hTaskQueue).trans (Keeps.foldl _ (fun _ _ => ?_) _ _)
    split
    · rename_i hRingCounts
      exact (Keeps.fst (State.ringCounts_keeps ..) hRingCounts).trans (State.queueBad_keeps ..)
    · rename_i hRingCounts
      exact (Keeps.fst (State.ringCounts_keeps ..) hRingCounts).trans (State.putCounts_keeps ..)

theorem State.killVf_keeps (s : State) (v reason : Nat) : Keeps s (s.killVf v reason) := by
  unfold State.killVf
  extract_lets +onlyGivenNames s1 s2 s3 s4 _ s5 _ s6
  have launches : Keeps s s1 := Keeps.foldl _ (fun _ _ => State.killLaunch_keeps ..) _ _
  have groups : Keeps s1 s2 := Keeps.foldl _ (fun _ _ => State.forceEnd_keeps ..) _ _
  have tasks : Keeps s2 s3 := Keeps.foldl _ (fun _ _ => State.killTask_keeps ..) _ _
  have queues : Keeps s3 s4 := Keeps.foldl _ (fun _ _ => State.emptyQueue_keeps ..) _ _
  have dropped : Keeps s4 s5 := (Keeps.refl s4).upd
  clear_value s1 s2 s3 s4 s5
  have next : Keeps s5 s6 := by
    unfold s6
    split
    · split
      · exact Keeps.of_eq rfl
      · exact Keeps.refl s5
    · exact Keeps.refl s5
  clear_value s6
  refine launches.trans (groups.trans (tasks.trans (queues.trans (dropped.trans (next.trans ?_)))))
  split
  · exact Keeps.of_eq rfl
  · exact Keeps.refl s6

theorem State.killAll_keeps (s : State) (queue low : Nat) : Keeps s (s.killAll queue low) :=
  (State.setKill_keeps ..).trans ((State.killVf_keeps ..).trans (State.settleKill_keeps ..))

theorem execKillAll_keeps (queue : Nat) (s : State) : Result.Keeps s (execKillAll queue s) := by
  unfold execKillAll
  split
  · trivial
  · split
    · exact Keeps.refl _
    · exact State.killAll_keeps ..

theorem execPreemptTimeout_keeps (queue : Nat) (s : State) : Result.Keeps s (execPreemptTimeout queue s) := by
  unfold execPreemptTimeout
  split
  · trivial
  · show Keeps _ _
    refine Keeps.trans ?_ (State.settlePreempts_keeps ..)
    split
    · exact Keeps.pre (State.killBound_keeps ..) rfl
    · exact Keeps.pre (Keeps.foldl _ (fun _ _ => State.killWg_keeps ..) _ _) rfl

/-! ### Doorbells (R337) -/

theorem execDoorbell_keeps (vf k : Nat) (widx : W32) (s : State) : Result.Keeps s (execDoorbell vf k widx s) := by
  unfold execDoorbell
  split
  · exact State.ringDoorbell_keeps ..
  · trivial

/-! ### Write-backs (R275, R416) -/

theorem State.writeBack_keeps (s : State) (line : Nat) : Keeps s (s.writeBack line) := by
  unfold State.writeBack
  split <;> exact Keeps.of_eq rfl

theorem State.leaveClean_keeps (s : State) (line : Nat) : Keeps s (s.leaveClean line) := by
  unfold State.leaveClean
  split <;> exact Keeps.of_eq rfl

theorem State.sendWriteBack_keeps (s : State) (d j line : Nat) : Keeps s (s.sendWriteBack d j line) := State.inject_keeps ..

theorem execWriteBackComplete_keeps (die slice : Nat) (s : State) : Result.Keeps s (execWriteBackComplete die slice s) := by
  unfold execWriteBackComplete
  dsimp only
  split
  · trivial
  · exact Keeps.pre (State.writeBack_keeps ..) rfl

/-! ### Requests (R150, R274) -/

theorem State.pressOwner_keeps (s : State) (r : SReq) : Keeps s (s.pressOwner r) := by
  unfold State.pressOwner
  (repeat' split) <;> exact Keeps.of_eq rfl

theorem State.applied_keeps (s : State) (d : Nat) (num : Option (Nat × Nat)) : Keeps s (s.applied d num) := by
  unfold State.applied
  split <;> exact Keeps.of_eq rfl

theorem State.bypassLanes_keeps (s : State) (r : SReq) : Keeps s (s.bypassLanes r) :=
  (State.recall_keeps ..).trans (Keeps.foldl _ (fun _ _ => State.doLane_keeps ..) _ _)

theorem State.serve_keeps (s : State) (d j : Nat) (r : SReq) : Keeps s (s.serve d j r) := by
  unfold State.serve
  dsimp only
  split
  · refine Keeps.trans ?_ (State.sendResp_keeps ..)
    split
    · exact State.applied_keeps ..
    · exact State.applied_keeps ..
    · exact (State.applied_keeps ..).trans (Keeps.pre ((State.fillL1_keeps ..).trans (State.runLanes_keeps ..)) rfl)
    · exact (State.applied_keeps ..).trans (Keeps.pre (State.inject_keeps ..) rfl)
    · exact State.applied_keeps ..
    · exact (State.applied_keeps ..).trans (State.bypassLanes_keeps ..)
    · exact (State.applied_keeps ..).trans (State.recall_keeps ..)
    · exact (State.applied_keeps ..).trans (Keeps.of_eq rfl)
  · split
    · exact State.applied_keeps ..
    · exact State.applied_keeps ..
    · exact (State.applied_keeps ..).trans (Keeps.pre ((State.fillL1_keeps ..).trans (State.runLanes_keeps ..)) rfl)
    · exact (State.applied_keeps ..).trans (Keeps.pre (State.inject_keeps ..) rfl)
    · exact State.applied_keeps ..
    · exact (State.applied_keeps ..).trans (State.bypassLanes_keeps ..)
    · exact (State.applied_keeps ..).trans (State.recall_keeps ..)
    · exact (State.applied_keeps ..).trans (Keeps.of_eq rfl)

theorem State.endCodec_keeps (s : State) (d j : Nat) (r : SReq) : Keeps s (s.endCodec d j r) :=
  Keeps.pre (State.applied_keeps ..) rfl

theorem State.tryServe_keeps {s t : State} {d j : Nat} {r : SReq} (h : s.tryServe d j r = some t) : Keeps s t := by
  unfold State.tryServe at h
  dsimp only at h
  split at h
  · split at h
    · cases h
    · cases h
      split <;> exact Keeps.of_eq rfl
  · split at h
    · cases h
    · split at h
      · cases h
        exact Keeps.pre (State.serve_keeps ..) rfl
      · split at h
        · cases h
        · cases h
          split <;> exact Keeps.of_eq rfl

theorem execSliceRequest_keeps (die slice : Nat) (s : State) : Result.Keeps s (execSliceRequest die slice s) := by
  unfold execSliceRequest
  extract_lets +onlyGivenNames x
  split
  · trivial
  · split
    · trivial
    · extract_lets +onlyGivenNames s1 y aside
      have pressed : Keeps s s1 := Keeps.pre (State.pressOwner_keeps ..) rfl
      have put : Keeps s1 aside := Keeps.of_eq rfl
      refine Keeps.result pressed ?_
      split
      · exact put
      · exact Keeps.getD (fun _ served => State.tryServe_keeps served) put

theorem State.sideReady_keeps {s t : State} {d j : Nat} {r : SReq} (l : List SReq) :
    ∀ {seen : List Nat}, s.sideReady d j seen l = some (r, t) → Keeps s t := by
  induction l with
  | nil => intro seen h; cases h
  | cons q l ih =>
    intro seen h
    unfold State.sideReady at h
    split at h
    · exact ih h
    · split at h
      · rename_i hTryServe
        cases h
        exact State.tryServe_keeps hTryServe
      · exact ih h

theorem State.serveMiss_keeps (d j line : Nat) (l : List SReq) : ∀ s : State, Keeps s (s.serveMiss d j line l) := by
  induction l with
  | nil => intro s; exact Keeps.of_eq rfl
  | cons r l ih =>
    intro s
    unfold State.serveMiss
    split
    · exact Keeps.pre (State.pressOwner_keeps ..) rfl
    · exact Keeps.pre ((State.serve_keeps ..).trans (ih _)) rfl

theorem execSideQueueRetry_keeps (die slice : Nat) (s : State) : Result.Keeps s (execSideQueueRetry die slice s) := by
  unfold execSideQueueRetry
  split
  · exact State.serveMiss_keeps ..
  · split
    · trivial
    · rename_i hSideReady
      exact (State.sideReady_keeps _ hSideReady).trans (Keeps.of_eq rfl)

theorem execLineFill_keeps (die slice line victimWay : Nat) (s : State) :
    Result.Keeps s (execLineFill die slice line victimWay s) := by
  unfold execLineFill
  dsimp only
  split
  · trivial
  · split
    · trivial
    · split
      · trivial
      · split
        · trivial
        · show Keeps _ _
          refine Keeps.trans ?_ (State.serveMiss_keeps ..)
          split
          · refine Keeps.trans ?_ (State.sendWriteBack_keeps ..)
            split
            · exact Keeps.pre (State.recall_keeps ..) rfl
            · exact Keeps.of_eq rfl
          · split
            · exact Keeps.pre ((State.recall_keeps ..).trans (State.leaveClean_keeps ..)) rfl
            · exact Keeps.of_eq rfl

theorem execLineYield_keeps (line : Nat) (s : State) : Result.Keeps s (execLineYield line s) := by
  unfold execLineYield
  split
  · trivial
  · split
    · trivial
    · exact State.recall_keeps ..

/-! ### Additions (R134, R151, R276) -/

theorem State.addElems_keeps (s : State) (c : Contribution) : Keeps s (s.addElems c) :=
  Keeps.foldl _ (fun _ _ => State.storeAll_keeps ..) _ _

theorem State.addTo_keeps (s : State) (d j : Nat) (c : Contribution) : Keeps s (s.addTo d j c) :=
  Keeps.pre ((State.recall_keeps ..).trans ((State.addElems_keeps ..).trans (Keeps.of_eq rfl))) rfl

theorem execDrainAddArrive_keeps (die slice : Nat) (s : State) : Result.Keeps s (execDrainAddArrive die slice s) := by
  unfold execDrainAddArrive
  split
  · trivial
  · split
    · trivial
    · exact Keeps.pre (State.addTo_keeps ..) rfl

/-! ### Ordered contributions (R152, R253, R422) -/

theorem State.advanceSeq_keeps (fuel : Nat) :
    ∀ (s : State) (d j line n next : Nat), Keeps s (State.advanceSeq fuel s d j line n next) := by
  induction fuel with
  | zero => intro s d j line n next; exact Keeps.of_eq rfl
  | succ fuel ih =>
    intro s d j line n next
    unfold State.advanceSeq
    dsimp only
    split
    · exact Keeps.pre ((State.addTo_keeps ..).trans (ih ..)) rfl
    · exact Keeps.of_eq rfl

theorem State.orderedArrive_keeps {s t : State} {d j n k : Nat} {c : Contribution} (h : s.orderedArrive d j c n k = some t) :
    Keeps s t := by
  unfold State.orderedArrive at h
  dsimp only at h
  split at h
  · cases h
  · cases h
    exact Keeps.of_eq rfl
  · cases h
    exact (State.addTo_keeps ..).trans (State.advanceSeq_keeps ..)
  · cases h
    exact Keeps.of_eq rfl

theorem execOrderedContribution_keeps (die slice : Nat) (s : State) : Result.Keeps s (execOrderedContribution die slice s) := by
  unfold execOrderedContribution
  split
  · trivial
  · split
    · trivial
    · split
      · rename_i hOrderedArrive
        exact Keeps.pre (State.orderedArrive_keeps hOrderedArrive) rfl
      · trivial

theorem State.flushSeq_keeps (fuel : Nat) : ∀ (s : State) (d j line : Nat), Keeps s (State.flushSeq fuel s d j line) := by
  induction fuel with
  | zero => intro s d j line; exact Keeps.refl s
  | succ fuel ih =>
    intro s d j line
    unfold State.flushSeq
    dsimp only
    split
    · exact Keeps.refl s
    · exact Keeps.pre ((State.addTo_keeps ..).trans (ih ..)) rfl

theorem execSequenceTimeout_keeps (die slice line : Nat) (s : State) :
    Result.Keeps s (execSequenceTimeout die slice line s) := by
  unfold execSequenceTimeout
  dsimp only
  split
  · trivial
  · split
    · trivial
    · exact (State.flushSeq_keeps ..).trans (Keeps.of_eq rfl)

/-! ### Changes of way masks (R277, R279, R421) -/

theorem execL2sPwayWrite_keeps (die : Nat) (value : W32) (s : State) : Result.Keeps s (execL2sPwayWrite die value s) := by
  unfold execL2sPwayWrite
  dsimp only
  split
  · trivial
  · split <;> exact Keeps.of_eq rfl

theorem execL2sVfwayWrite_keeps (die vf : Nat) (value : W32) (s : State) :
    Result.Keeps s (execL2sVfwayWrite die vf value s) := by
  unfold execL2sVfwayWrite
  dsimp only
  split
  · trivial
  · split <;> exact Keeps.of_eq rfl

theorem State.walkSlice_keeps (s : State) (d j : Nat) : Keeps s (s.walkSlice d j) :=
  Keeps.pre ((Keeps.foldl _ (fun _ _ => State.recall_keeps ..) _ _).trans
    ((Keeps.foldl _ (fun _ _ => State.leaveClean_keeps ..) _ _).trans
      (Keeps.foldl _ (fun _ _ => State.sendWriteBack_keeps ..) _ _))) rfl

theorem execWayWalkComplete_keeps (die : Nat) (s : State) : Result.Keeps s (execWayWalkComplete die s) := by
  unfold execWayWalkComplete
  dsimp only
  split
  · trivial
  · split
    · exact (Keeps.foldl _ (fun _ _ => State.walkSlice_keeps ..) _ _).trans (Keeps.of_eq rfl)
    · split
      · trivial
      · exact Keeps.foldl _ (fun _ _ => State.walkSlice_keeps ..) _ _

/-! ### Arrival at a die (R149) -/

theorem State.enter_keeps (s : State) (d : Nat) (f : Flit) : Keeps s (s.enter d f) := Keeps.pre (State.inject_keeps ..) rfl

theorem State.release_keeps (s : State) (d : Nat) (h : Held) : Keeps s (s.release d h) := Keeps.pre (State.enter_keeps ..) rfl

theorem State.arriveDie_keeps (s : State) (d from_ : Nat) (f : Flit) (stamp : List Nat) :
    Keeps s (s.arriveDie d from_ f stamp) := by
  unfold State.arriveDie
  dsimp only
  split
  · exact State.linkSend_keeps ..
  · split
    · exact Keeps.refl _
    · split
      · exact Keeps.of_eq rfl
      · split
        · exact Keeps.of_eq rfl
        · exact Keeps.pre (State.enter_keeps ..) rfl

theorem execCrossDieReceive_keeps (die : Nat) (s : State) : Result.Keeps s (execCrossDieReceive die s) := by
  unfold execCrossDieReceive
  dsimp only
  split
  · trivial
  · exact State.release_keeps ..

theorem State.sendBeacon_keeps (s : State) (src dst : Nat) : Keeps s (s.sendBeacon src dst) :=
  Keeps.pre (State.linkSend_keeps ..) rfl

theorem execBeacon_keeps (src dst : Nat) (s : State) : Result.Keeps s (execBeacon src dst s) := by
  unfold execBeacon
  split
  · trivial
  · exact State.sendBeacon_keeps ..

theorem State.beacons_keeps (s : State) : Keeps s s.beacons := by
  unfold State.beacons
  dsimp only
  refine (Keeps.foldl _ (fun _ _ => ?_) _ _)
  split
  · exact State.sendBeacon_keeps ..
  · exact Keeps.refl _

/-! ### Routers (R267, R268) -/

theorem State.dropFlit_keeps (s : State) (d : Nat) (f : Flit) : Keeps s (s.dropFlit d f) :=
  Keeps.pre ((State.applied_keeps ..).trans (Keeps.of_eq rfl)) rfl

theorem State.setAside_keeps (s : State) (d : Nat) (f : Flit) (c : Contribution) (j : Nat) : Keeps s (s.setAside d f c j) :=
  Keeps.pre (State.applied_keeps ..) rfl

theorem State.deliverFlit_keeps {s t : State} {d : Nat} {f : Flit} (h : s.deliverFlit d f = some t) : Keeps s t := by
  have queue : ∀ (j : Nat) (y : Slice), (if 64 ≤ (s.slice d j).inq.length then none
      else some ((s.setDie d { s.die d with flits := (s.die d).flits.erase f }).setSlice d j y)) = some t → Keeps s t := by
    intro j y hq
    split at hq
    · cases hq
    · cases hq
      exact Keeps.of_eq rfl
  unfold State.deliverFlit at h
  dsimp only at h
  split at h
  · cases h
    exact Keeps.of_eq rfl
  · split at h
    · split at h
      · cases h
        exact Keeps.pre (State.endCodec_keeps ..) rfl
      · exact queue _ _ h
    · split at h <;> (cases h; exact Keeps.of_eq rfl)
    · cases h
      exact Keeps.pre (State.sendReq_keeps ..) rfl
    · split at h
      · split at h
        · cases h
        · cases h
          exact State.setAside_keeps ..
      · exact queue _ _ h
    · cases h
      exact Keeps.of_eq rfl
    · cases h
      exact Keeps.of_eq rfl

theorem State.crossGateway_keeps {s t : State} {d : Nat} {f : Flit} (h : s.crossGateway d f = some t) : Keeps s t := by
  unfold State.crossGateway at h
  dsimp only at h
  split at h
  · cases h
  · cases h
    exact Keeps.pre (State.crossOut_keeps ..) rfl

theorem State.leavePort_keeps {s t : State} {d : Nat} {f : Flit} (h : s.leavePort d f = some t) : Keeps s t := by
  unfold State.leavePort at h
  dsimp only at h
  split at h
  · split at h
    · cases h
      exact Keeps.of_eq rfl
    · cases h
      exact State.dropFlit_keeps ..
  · cases h
    exact Keeps.pre (State.linkSend_keeps ..) rfl

theorem State.startPacket_keeps {s t : State} {d : Nat} {f : Flit} (h : s.startPacket d f = some t) : Keeps s t := by
  unfold State.startPacket at h
  split at h
  rename_i s1 hDrawn
  have chosen : s1.mem = s.mem := by
    split at hDrawn <;> cases hDrawn <;> rfl
  obtain ⟨g, -, rfl⟩ := Option.map_eq_some_iff.mp h
  exact (Keeps.of_eq chosen).trans (Keeps.of_eq rfl)

theorem State.turnFlit_keeps {s t : State} {d : Nat} {f : Flit} (h : s.turnFlit d f = some t) : Keeps s t := by
  unfold State.turnFlit at h
  dsimp only at h
  split at h
  · exact State.startPacket_keeps h
  · split at h
    · cases h
      exact State.dropFlit_keeps ..
    · split at h
      · split at h
        · cases h
        · split at h
          · split at h
            · exact State.deliverFlit_keeps h
            · cases h
              split
              · exact Keeps.of_eq rfl
              · exact State.dropFlit_keeps ..
          · split at h
            · cases h
              exact Keeps.of_eq rfl
            · exact State.crossGateway_keeps h
      · split at h
        · split at h
          · exact State.leavePort_keeps h
          · cases h
            exact Keeps.of_eq rfl
        · cases h
          exact Keeps.of_eq rfl

theorem execRouterFlit_keeps (die flit : Nat) (crcErr : BitVec 16) (s : State) :
    Result.Keeps s (execRouterFlit die flit crcErr s) := by
  unfold execRouterFlit
  dsimp only
  split
  · trivial
  · split
    · trivial
    · split
      · exact Keeps.of_eq rfl
      · split
        · rename_i hTurnFlit
          exact State.turnFlit_keeps hTurnFlit
        · trivial

/-! ### Die links (R272, R273) -/

theorem execDieLinkFlitReceive_keeps (link : Nat) (dir : Bool) (crcErr : BitVec 32) (s : State) :
    Result.Keeps s (execDieLinkFlitReceive link dir crcErr s) := by
  unfold execDieLinkFlitReceive
  split
  · trivial
  · split
    · trivial
    · split
      · exact Keeps.of_eq rfl
      · split
        · exact Keeps.of_eq rfl
        · exact Keeps.pre (State.arriveDie_keeps ..) rfl

theorem execDieLinkAck_keeps (link : Nat) (dir : Bool) (s : State) : Result.Keeps s (execDieLinkAck link dir s) := by
  unfold execDieLinkAck
  split
  · trivial
  · split
    · trivial
    · exact Keeps.of_eq rfl

theorem execDieLinkNak_keeps (link : Nat) (dir : Bool) (s : State) : Result.Keeps s (execDieLinkNak link dir s) := by
  unfold execDieLinkNak
  split
  · trivial
  · split
    · exact Keeps.of_eq rfl
    · trivial

theorem execDieLinkReplayTimeout_keeps (link : Nat) (dir : Bool) (s : State) :
    Result.Keeps s (execDieLinkReplayTimeout link dir s) := by
  unfold execDieLinkReplayTimeout
  split
  · trivial
  · split
    · trivial
    · exact Keeps.of_eq rfl

/-! ### Units taken out of service (R441) -/

theorem State.loseCore_keeps (s : State) (c : Nat) : Keeps s (s.loseCore c) :=
  (Keeps.foldl _ (fun _ _ => State.killLaunch_keeps ..) _ _).trans
    ((Keeps.foldl _ (fun _ _ => State.forceEnd_keeps ..) _ _).trans (Keeps.of_eq rfl))

theorem State.loseDie_keeps (s : State) (d : Nat) : Keeps s (s.loseDie d) :=
  Keeps.pre ((Keeps.foldl _ (fun _ _ => State.killVf_keeps ..) _ _).trans (Keeps.of_eq rfl)) rfl

/-! ### Router links (R423) -/

theorem execLinkDown_keeps (die router port : Nat) (s : State) : Result.Keeps s (execLinkDown die router port s) := by
  unfold execLinkDown
  dsimp only
  split
  · trivial
  · split
    · exact Keeps.pre (State.loseCore_keeps ..) rfl
    · split
      · exact Keeps.pre (State.loseDie_keeps ..) rfl
      · exact Keeps.of_eq rfl

theorem execLinkRetry_keeps (die router port : Nat) (s : State) : Result.Keeps s (execLinkRetry die router port s) := by
  unfold execLinkRetry
  dsimp only
  split
  · trivial
  · exact Keeps.of_eq rfl

/-! ### Die links that go down (R424) -/

theorem State.switchPath_keeps (s : State) (l : LinkDir) : Keeps s (s.switchPath l) := by
  unfold State.switchPath
  dsimp only
  split
  · exact Keeps.foldl _ (fun _ _ => State.linkSend_keeps ..) _ _
  · exact (Keeps.foldl _ (fun _ _ => State.linkSend_keeps ..) _ _).trans (State.sendBeacon_keeps ..)

theorem execDieLinkDown_keeps (link : Nat) (s : State) : Result.Keeps s (execDieLinkDown link s) := by
  unfold execDieLinkDown
  split
  · split
    · trivial
    · exact Keeps.pre ((State.switchPath_keeps ..).trans ((State.switchPath_keeps ..).trans
        (Keeps.foldl _ (fun _ _ => State.loseDie_keeps ..) _ _))) rfl
  · trivial

theorem execLinkRetrain_keeps (dieLink : Bool) (a router port : Nat) (s : State) :
    Result.Keeps s (execLinkRetrain dieLink a router port s) := by
  unfold execLinkRetrain
  dsimp only
  split
  · split
    · split
      · trivial
      · exact Keeps.of_eq rfl
    · trivial
  · split
    · trivial
    · exact Keeps.of_eq rfl

end Sys2Proof.Machine
end

section
/-! PROOFS. The firmware, the host's requests and the care of memory keep memory in canonical form (R352-R381, R410, R420,
R446-R452). -/

namespace Sys2Proof.Machine

/-! ### The event arbiter (R158, R376, R378, R379) -/

theorem State.noteFailure_keeps (s : State) (seq : W64) (e : Event) : Keeps s (s.noteFailure seq e) := by
  unfold State.noteFailure
  split
  · exact Keeps.refl _
  · refine Keeps.trans ?_ (State.settleLaunch_keeps ..)
    split
    · split
      · exact Keeps.refl _
      · exact Keeps.of_eq rfl
    · exact Keeps.refl _

theorem State.noteStop_keeps (s : State) (e : Event) : Keeps s (s.noteStop e) := by
  unfold State.noteStop
  (repeat' split) <;> exact Keeps.of_eq rfl

theorem execEventStamp_keeps (s : State) : Result.Keeps s (execEventStamp s) := by
  unfold execEventStamp
  dsimp only
  split
  · trivial
  · split
    · trivial
    · split
      · exact Keeps.of_eq rfl
      · exact Keeps.pre ((State.noteFailure_keeps ..).trans (State.noteStop_keeps ..)) rfl

theorem execCorrectedReport_keeps (unit : Nat) (s : State) : Result.Keeps s (execCorrectedReport unit s) := by
  unfold execCorrectedReport
  dsimp only
  split
  · trivial
  · exact Keeps.of_eq rfl

/-! ### Error records and notices (R375, R377, R380, R381) -/

theorem State.fwStore_keeps (s : State) (a : Nat) (bs : List Byte) : Keeps s (s.fwStore a bs) := by
  unfold State.fwStore
  split
  · exact State.storeAll_keeps ..
  · exact State.hostStore_keeps ..

theorem State.writeRecord_keeps (s : State) (x : Stamped) : Keeps s (s.writeRecord x).1 := by
  unfold State.writeRecord
  extract_lets +onlyGivenNames cfg size head tail _ s1
  split
  · exact Keeps.of_eq rfl
  · have stored : Keeps s s1 := State.fwStore_keeps ..
    exact stored.upd

theorem State.writeNotice_keeps (s : State) (x : Stamped) (lost : Nat) : Keeps s (s.writeNotice x lost).1 := by
  unfold State.writeNotice
  dsimp only
  split
  · exact Keeps.refl _
  · split
    · exact Keeps.of_eq rfl
    · split
      all_goals
        rename_i hAgentWrites
        exact (Keeps.fst (State.agentWrites_keeps ..) hAgentWrites).trans (Keeps.of_eq rfl)

theorem execErrorRecord_keeps (s : State) : Result.Keeps s (execErrorRecord s) := by
  unfold execErrorRecord
  dsimp only
  split
  · trivial
  · split
    · trivial
    · show Keeps _ _
      split
      · exact Keeps.pre ((State.writeRecord_keeps ..).trans ((State.writeNotice_keeps ..).trans (Keeps.of_eq rfl))) rfl
      · exact Keeps.pre ((State.writeRecord_keeps ..).trans (State.writeNotice_keeps ..)) rfl

/-! ### The heartbeat and the takeover (R446-R452) -/

theorem State.replayTaken_keeps (s : State) (e : JEntry) : Keeps s (s.replayTaken e) := by
  unfold State.replayTaken
  dsimp only
  split
  · exact Keeps.refl _
  · split
    · exact Keeps.refl _
    · split
      · rename_i hQueueEntry
        exact Keeps.fst (State.queueEntry_keeps ..) hQueueEntry
      · rename_i hQueueEntry
        refine (Keeps.fst (State.queueEntry_keeps ..) hQueueEntry).trans ?_
        split
        · exact State.launchWith_keeps ..
        · exact State.doSelham_keeps ..
        · exact State.doPrio_keeps ..
        · exact State.doPreempt_keeps ..
        · exact State.doResume_keeps ..
        · exact State.doWait_keeps ..
        · exact State.doTlbinv_keeps ..
        · exact Keeps.of_eq rfl

theorem State.replayDone_keeps (s : State) (e : JEntry) : Keeps s (s.replayDone e) := by
  unfold State.replayDone
  split
  · exact Keeps.refl _
  · split
    · exact Keeps.refl _
    · split
      · rename_i hQueueEntry
        exact Keeps.fst (State.queueEntry_keeps ..) hQueueEntry
      · rename_i hQueueEntry
        exact (Keeps.fst (State.queueEntry_keeps ..) hQueueEntry).trans (State.cmdStore_keeps ..)

theorem State.replayEntry_keeps (s : State) (e : JEntry) : Keeps s (s.replayEntry e) := by
  unfold State.replayEntry
  split
  · exact State.replayTaken_keeps ..
  · split
    · exact State.replayDone_keeps ..
    · exact Keeps.refl _

theorem State.takeover_keeps (s : State) : Keeps s s.takeover := by
  unfold State.takeover
  extract_lets +onlyGivenNames new j _ s1 _ s2 s3 s4 s5 s6 held
  have scanned : Keeps s s3 := Keeps.of_eq rfl
  have replayed : Keeps s3 s4 := Keeps.foldl _ (fun _ _ => State.replayEntry_keeps ..) _ _
  have active : Keeps s4 s5 := (Keeps.refl s4).upd
  have noted : Keeps s5 s6 := (Keeps.refl s5).upd
  clear_value s3 s4 s5 s6
  refine scanned.trans (replayed.trans (active.trans (noted.trans ?_)))
  exact Keeps.foldl (fun s (c : Completion) => (s.journalAdd c.queue (s.journalOp c.queue c.index) 1 c.index []
    []).writeCompletion c
    (s.journalOp c.queue c.index)) (fun _ _ => (State.journalAdd_keeps ..).trans (State.writeCompletion_keeps ..)) held s6

theorem execHeartbeat_keeps (s : State) : Result.Keeps s (execHeartbeat s) := by
  unfold execHeartbeat
  split
  · exact Keeps.of_eq rfl
  · split
    · exact State.takeover_keeps ..
    · trivial

theorem State.failScheduler_keeps (s : State) : Keeps s s.failScheduler := by
  unfold State.failScheduler
  split <;> exact Keeps.of_eq rfl

theorem execHeartbeatTimeout_keeps (s : State) : Result.Keeps s (execHeartbeatTimeout s) := by
  unfold execHeartbeatTimeout
  dsimp only
  split
  · trivial
  · exact State.failScheduler_keeps ..

theorem execStandinReload_keeps (checkOk : Bool) (s : State) : Result.Keeps s (execStandinReload checkOk s) := by
  unfold execStandinReload
  dsimp only
  split
  · trivial
  · split <;> exact Keeps.of_eq rfl

theorem State.trapScheduler_keeps (s : State) : Keeps s s.trapScheduler := by
  unfold State.trapScheduler
  extract_lets +onlyGivenNames f
  have chosen : Keeps s (s.choice 2).2 := State.choice_keeps s 2
  split
  · rename_i hChosen
    split <;> exact (chosen.snd hChosen).trans (Keeps.of_eq rfl)
  · rename_i hChosen
    exact (chosen.snd hChosen).trans (Keeps.of_eq rfl)

theorem execFirmwareMemoryError_keeps (fw : Nat) (s : State) : Result.Keeps s (execFirmwareMemoryError fw s) := by
  unfold execFirmwareMemoryError
  split
  · trivial
  · split
    · exact Keeps.pre (State.trapScheduler_keeps ..) rfl
    · split
      · exact Keeps.of_eq rfl
      · split <;> exact Keeps.of_eq rfl

/-! ### Stage-2 faults (R408, R411, R456) -/

theorem execStage2FaultResolve_keeps (s : State) : Result.Keeps s (execStage2FaultResolve s) := by
  unfold execStage2FaultResolve
  split
  · trivial
  · split
    · trivial
    · exact State.answerHold_keeps ..

theorem State.debugOp_keeps (s : State) (c w : Nat) : Keeps s (s.debugOp c w) := by
  unfold State.debugOp
  dsimp only
  split
  · rename_i hRan
    split at hRan
    · exact (execDebugStop_keeps ..).next hRan
    · exact (execDebugStepGroup_keeps ..).next hRan
    · exact (execDebugStepEntry_keeps ..).next hRan
    · exact (execDebugResume_keeps ..).next hRan
    · cases hRan
      exact Keeps.refl s
  · exact Keeps.refl s
  · exact Keeps.refl s

theorem State.fwWrite_keeps (s : State) (reg : MmioReg) (value : W64) : Keeps s (s.fwWrite reg value) := by
  unfold State.fwWrite
  dsimp only
  split
  · exact Keeps.of_eq rfl
  · exact Keeps.of_eq rfl
  · split
    · exact Keeps.refl _
    · exact Keeps.pre (State.debugOp_keeps ..) rfl
  · exact Keeps.refl _
  · exact Keeps.refl _
  · exact Keeps.of_eq rfl
  · exact Keeps.of_eq rfl
  · exact Keeps.of_eq rfl
  · exact Keeps.of_eq rfl
  · exact State.ringDoorbell_keeps ..
  · exact Keeps.of_eq rfl
  · exact Keeps.of_eq rfl
  · exact Keeps.of_eq rfl
  · exact State.writeNotify_keeps ..
  · exact Keeps.refl _
  · exact Keeps.refl _
  · exact Keeps.refl _
  · exact Keeps.refl _
  · split <;> exact Keeps.of_eq rfl
  · exact Keeps.refl _
  · exact Keeps.of_eq rfl
  · exact Keeps.of_eq rfl
  · split
    · exact Keeps.of_eq rfl
    · exact Keeps.refl _
  · exact Keeps.of_eq rfl
  · exact Keeps.of_eq rfl
  · exact Keeps.refl _
  · exact Keeps.of_eq rfl
  · exact State.writePose_keeps ..

theorem State.writeKill_keeps (s : State) (value : W64) : Keeps s (s.writeKill value) := by
  unfold State.writeKill
  dsimp only
  split
  · exact Keeps.of_eq rfl
  · split
    · split
      · exact State.killAll_keeps ..
      · exact Keeps.refl s
    · split
      · rename_i hKilled
        exact (execContextKill_keeps ..).next hKilled
      · exact Keeps.refl s
      · exact Keeps.refl s

theorem State.hvWrite_keeps (s : State) (reg : MmioReg) (value : W64) : Keeps s (s.hvWrite reg value) := by
  unfold State.hvWrite
  split
  · exact Keeps.of_eq rfl
  · exact Keeps.of_eq rfl
  · exact State.writeKill_keeps ..
  · split
    · exact State.ringDoorbell_keeps ..
    · exact Keeps.refl _
  · exact Keeps.refl _

theorem State.tenantWrite_keeps (s : State) (v : Nat) (reg : MmioReg) (value : W64) : Keeps s (s.tenantWrite v reg value) := by
  unfold State.tenantWrite
  split
  · split
    · exact State.ringDoorbell_keeps ..
    · exact Keeps.refl _
  · split
    · exact State.fwWrite_keeps ..
    · exact Keeps.refl _
  · split
    · exact State.fwWrite_keeps ..
    · exact Keeps.refl _
  · exact State.fwWrite_keeps ..
  · exact State.fwWrite_keeps ..
  · exact Keeps.refl _

theorem execRegisterWrite_keeps (reg : MmioReg) (value : W64) (by_ : Writer) (s : State) :
    Result.Keeps s (execRegisterWrite reg value by_ s) := by
  unfold execRegisterWrite
  split
  · trivial
  · split
    · split
      · exact execL2sPwayWrite_keeps ..
      · exact execL2sVfwayWrite_keeps ..
      · exact State.fwWrite_keeps ..
    · exact State.hvWrite_keeps ..
    · split
      · trivial
      · exact State.tenantWrite_keeps ..

/-! ### Plug-ins and attestation (R362, R364) -/

theorem execPluginLoad_keeps (plugin : Nat) (code : List Byte) (s : State) : Result.Keeps s (execPluginLoad plugin code s) := by
  unfold execPluginLoad
  split
  · trivial
  · split <;> exact Keeps.of_eq rfl

theorem State.allCands_keeps (s : State) (c : Nat) : Keeps s (s.allCands c).1 := by
  unfold State.allCands
  split
  · exact Keeps.refl _
  · exact State.taskCands_keeps ..

theorem State.selectDefault_keeps (s : State) (core : Nat) : Keeps s (s.selectDefault core) := by
  unfold State.selectDefault
  split
  · rename_i hSelect
    exact (Keeps.fst (State.select_keeps ..) hSelect).trans (State.choose_keeps ..)
  · rename_i hSelect
    exact Keeps.fst (State.select_keeps ..) hSelect

theorem State.selectDecided_keeps (s : State) (core n : Nat) : Keeps s (s.selectDecided core n) := by
  unfold State.selectDecided
  dsimp only
  split
  · exact (State.allCands_keeps ..).trans (State.choose_keeps ..)
  · exact State.selectDefault_keeps ..

theorem execPluginCall_keeps (plugin core : Nat) (result : PluginResult) (s : State) :
    Result.Keeps s (execPluginCall plugin core result s) := by
  unfold execPluginCall
  split
  · trivial
  · split
    · trivial
    · split
      · exact State.selectDefault_keeps ..
      · show Keeps _ _
        split
        · exact State.selectDefault_keeps ..
        · exact State.selectDecided_keeps ..
      · show Keeps _ _
        split
        · exact Keeps.pre (State.selectDecided_keeps ..) rfl
        · exact Keeps.pre (State.selectDefault_keeps ..) rfl

theorem execAttestationReport_keeps (vf : Nat) (nonce : BitVec 512) (s : State) :
    Result.Keeps s (execAttestationReport vf nonce s) := by
  unfold execAttestationReport
  split
  · trivial
  · split <;> exact Keeps.of_eq rfl

/-! ### Boot, power and temperature (R23, R24, R31-R34, R363, R444) -/

theorem execBoot_keeps (image : FwImage) (signature : Nat × Nat) (dies : BitVec 5) (memdev : Byte) (s : State) :
    Result.Keeps s (execBoot image signature dies memdev s) := by
  have scrubbed : ∀ t : State, t.mem = [] → Keeps s t := fun t h => ⟨fun _ => by rw [h]; exact Memory.nil_wf⟩
  unfold execBoot
  split
  · trivial
  · split
    · exact Keeps.of_eq rfl
    · dsimp only
      split <;> exact scrubbed _ rfl

theorem execPowerLimitStep_keeps (up : Bool) (s : State) : Result.Keeps s (execPowerLimitStep up s) := by
  unfold execPowerLimitStep
  dsimp only
  split
  · trivial
  · exact Keeps.of_eq rfl

theorem execThermalStop_keeps (die : Nat) (s : State) : Result.Keeps s (execThermalStop die s) := by
  unfold execThermalStop
  split
  · trivial
  · exact Keeps.of_eq rfl

theorem State.reloadSelham_keeps (s : State) : Keeps s s.reloadSelham := by
  unfold State.reloadSelham
  split <;> exact Keeps.of_eq rfl

theorem execThermalHold_keeps (die : Nat) (s : State) : Result.Keeps s (execThermalHold die s) := by
  unfold execThermalHold
  split
  · trivial
  · exact Keeps.of_eq rfl

/-! ### Queues and virtual functions (R334, R355-R357, R456) -/

theorem execCreateQueue_keeps (queue base logn : Nat) (s : State) : Result.Keeps s (execCreateQueue queue base logn s) := by
  unfold execCreateQueue
  split
  · trivial
  · split <;> exact Keeps.of_eq rfl

theorem State.giveDomain_keeps (s : State) (k v : Nat) : Keeps s (s.giveDomain k v) :=
  Keeps.foldl _ (fun _ _ => State.assign_keeps ..) _ _

theorem execVfConfigWrite_keeps (vf : Nat) (cfg : VfCfgWords) (s : State) : Result.Keeps s (execVfConfigWrite vf cfg s) := by
  unfold execVfConfigWrite
  dsimp only
  split
  · trivial
  · split
    · exact Keeps.of_eq rfl
    · exact (Keeps.foldl _ (fun _ _ => State.giveDomain_keeps ..) _ _).trans (Keeps.of_eq rfl)

theorem execVfCreate_keeps (vf root1 root2 : Nat) (s : State) : Result.Keeps s (execVfCreate vf root1 root2 s) := by
  unfold execVfCreate
  split
  · trivial
  · split <;> exact Keeps.of_eq rfl

theorem execVfDestroy_keeps (vf : Nat) (s : State) : Result.Keeps s (execVfDestroy vf s) := by
  unfold execVfDestroy
  extract_lets +onlyGivenNames s1
  have killed : Keeps s s1 := State.killVf_keeps ..
  clear_value s1
  split
  · trivial
  · split
    · exact Keeps.of_eq rfl
    · split
      · trivial
      · refine Keeps.trans killed ?_
        split
        · exact Keeps.refl s1
        · exact Keeps.of_eq rfl

theorem State.rekeyFrame_keeps (s : State) (f : Nat) (old new : Option Nat) : Keeps s (s.rekeyFrame f old new) :=
  ⟨State.rekeyFrame_wf s f old new⟩

theorem execFrameOwnerChange_keeps (frame : Nat) (owner : Byte) (newKey : Bool) (s : State) :
    Result.Keeps s (execFrameOwnerChange frame owner newKey s) := by
  unfold execFrameOwnerChange
  dsimp only
  split
  · trivial
  · split
    · exact Keeps.of_eq rfl
    · show Keeps _ _
      split
      · split
        · exact (Keeps.foldl _ (fun _ _ => State.rekeyFrame_keeps ..) _ _).trans
            (Keeps.pre ((State.zeroFrame_keeps ..).trans (Keeps.of_eq rfl)) rfl)
        · exact (Keeps.foldl _ (fun _ _ => State.rekeyFrame_keeps ..) _ _).trans
            (Keeps.pre ((State.rekeyFrame_keeps ..).trans (Keeps.of_eq rfl)) rfl)
      · split
        · exact (State.zeroFrame_keeps ..).trans (Keeps.of_eq rfl)
        · exact (State.rekeyFrame_keeps ..).trans (Keeps.of_eq rfl)

theorem State.preemptCore_keeps (s : State) (c : Nat) : Keeps s (s.preemptCore c) :=
  (Keeps.foldl _ (fun _ _ => State.preemptWg_keeps ..) _ _).trans (Keeps.foldl _ (fun _ _ => State.parkTask_keeps ..) _ _)

theorem execDomainMove_keeps (domain toVf : Nat) (s : State) : Result.Keeps s (execDomainMove domain toVf s) := by
  unfold execDomainMove
  split
  · trivial
  · extract_lets +onlyGivenNames cs freed given
    split
    · exact Keeps.of_eq rfl
    · split
      · exact Keeps.refl s
      · extract_lets +onlyGivenNames work waiting owned s1
        have freed : Keeps s s1 := Keeps.of_eq rfl
        refine Keeps.result freed ?_
        split
        · split
          · trivial
          · exact Keeps.foldl _ (fun _ _ => State.preemptCore_keeps ..) _ _
        · extract_lets +onlyGivenNames s2
          have given : Keeps s1 s2 := State.giveDomain_keeps ..
          exact given.upd

theorem execIaRanges_keeps (vf : Nat) (ranges : List IaRange) (allowance : List Nat) (mmio : List (Nat × MmioPage)) (s : State) :
    Result.Keeps s (execIaRanges vf ranges allowance mmio s) := by
  unfold execIaRanges
  split
  · trivial
  · split <;> exact Keeps.of_eq rfl

/-! ### Accesses of the host and of peers (R32, R352-R354, R358) -/

theorem State.hostDo_keeps (s : State) (a : HostAccess) : Keeps s (s.hostDo a) := by
  unfold State.hostDo
  dsimp only
  split
  · exact Keeps.refl _
  · exact Keeps.refl _
  · exact Keeps.refl _
  · exact Keeps.refl _
  · exact Keeps.refl _
  · exact Keeps.refl _
  · split
    · refine Keeps.trans ?_ (State.storeAll_keeps ..)
      split
      · split
        · exact Keeps.refl _
        · exact Keeps.of_eq rfl
      · split <;> exact Keeps.of_eq rfl
    · split <;> exact Keeps.of_eq rfl

theorem State.barDo_keeps (s : State) (reg : MmioReg) (v : Option Nat) (write : Bool) (offset : Nat) (data : List Byte) :
    Keeps s (s.barDo reg v write offset data) := by
  unfold State.barDo
  split
  · split
    · exact Keeps.refl _
    · split
      · exact State.hvWrite_keeps ..
      · exact State.tenantWrite_keeps ..
  · exact Keeps.of_eq rfl

theorem State.configDo_keeps (s : State) (v : Option Nat) (write : Bool) (offset : Nat) (data : List Byte) :
    Keeps s (s.configDo v write offset data) := by
  unfold State.configDo
  dsimp only
  (repeat' split) <;> exact Keeps.of_eq rfl

theorem State.setIdeKey_keeps (s : State) (protocol : Nat) : Keeps s (s.setIdeKey protocol) := by
  unfold State.setIdeKey
  split <;> exact Keeps.of_eq rfl

theorem execHostMemAccess_keeps (port : Nat) (uio write : Bool) (space : HostSpace) (offset : Nat) (data : List Byte)
    (s : State) :
    Result.Keeps s (execHostMemAccess port uio write space offset data s) := by
  unfold execHostMemAccess
  split
  · split
    · trivial
    · split
      · exact State.hostDo_keeps ..
      · exact Keeps.of_eq rfl
  · split
    · trivial
    · exact State.barDo_keeps ..
  · split
    · trivial
    · exact State.barDo_keeps ..
  · split
    · trivial
    · exact State.configDo_keeps ..
  · split
    · trivial
    · exact Keeps.of_eq rfl
  · split
    · trivial
    · exact State.setIdeKey_keeps ..
  · split
    · trivial
    · exact Keeps.of_eq rfl

theorem execHostAccessTimeout_keeps (s : State) : Result.Keeps s (execHostAccessTimeout s) := by
  unfold execHostAccessTimeout
  split
  · trivial
  · split
    · trivial
    · exact Keeps.of_eq rfl

theorem execHostSnoop_keeps (addr : Nat) (invalidate : Bool) (s : State) : Result.Keeps s (execHostSnoop addr invalidate s) :=
  by
  unfold execHostSnoop
  split
  · trivial
  · split <;> exact Keeps.of_eq rfl

theorem execThermalRestart_keeps (s : State) : Result.Keeps s (execThermalRestart s) := by
  unfold execThermalRestart
  split
  · trivial
  · exact Keeps.pre ((State.reloadSelham_keeps ..).trans (Keeps.foldl _ (fun _ _ => State.hostDo_keeps ..) _ _)) rfl

/-! ### The sifter (R104, R361, R410) -/

theorem State.cleanSlice_keeps (s : State) (d f j : Nat) : Keeps s (s.cleanSlice d f j) :=
  Keeps.pre (Keeps.foldl _ (fun _ _ => State.sendWriteBack_keeps ..) _ _) rfl

theorem State.cleanFrame_keeps (s : State) (f : Nat) : Keeps s (s.cleanFrame f) :=
  Keeps.pre (Keeps.foldl _ (fun _ _ => State.cleanSlice_keeps ..) _ _) rfl

theorem State.openWindow_keeps (s : State) (w : MoveWindow) (frames : List Nat) : Keeps s (s.openWindow w frames) :=
  (Keeps.foldl _ (fun _ _ => State.poke64_keeps ..) _ _).trans
    (Keeps.pre (Keeps.foldl _ (fun _ _ => State.cleanFrame_keeps ..) _ _) rfl)

theorem State.endMerge_keeps (s : State) (v : Nat) (w : MoveWindow) (p1 p2 e1 e2 a1 a2 : Nat) :
    Keeps s (s.endMerge v w p1 p2 e1 e2 a1 a2) := by
  unfold State.endMerge
  extract_lets +onlyGivenNames f1 f2 lower s1 m1 known shared s2 x own kept s3
  have lowered : Keeps s s1 := (State.poke64_keeps ..).trans (State.poke64_keeps ..)
  exact lowered.trans (Keeps.of_eq rfl)

theorem execSifterMerge_keeps (ia1 ia2 : Nat) (s : State) : Result.Keeps s (execSifterMerge ia1 ia2 s) := by
  unfold execSifterMerge
  dsimp only
  split
  · trivial
  · split
    · split
      · split
        · trivial
        · split
          · split
            · exact Keeps.foldl _ (fun _ _ => State.cleanFrame_keeps ..) _ _
            · trivial
          · split
            · exact State.abandonMerge_keeps ..
            · exact State.endMerge_keeps ..
      · trivial
    · split
      · trivial
      · split
        · split
          · trivial
          · exact State.openWindow_keeps ..
        · trivial

/-! ### Scrubbers (R365, R376, R416, R419, R420) -/

theorem State.dropPlace_keeps (s : State) (p : ScrubPlace) : Keeps s (s.dropPlace p) := by
  unfold State.dropPlace
  split <;> exact Keeps.of_eq rfl

theorem State.markPlace_keeps (s : State) (p : ScrubPlace) : Keeps s (s.markPlace p).1 := by
  cases p with
  | l2 d j line =>
    unfold State.markPlace
    dsimp only
    split
    · exact Keeps.of_eq rfl
    · exact Keeps.pre (State.leaveClean_keeps ..) rfl
  | l1 c line =>
    unfold State.markPlace
    dsimp only
    split
    · exact Keeps.of_eq rfl
    · dsimp only
      exact State.dropPlace_keeps ..
  | gddrLink d line _ =>
    unfold State.markPlace
    dsimp only
    split <;> exact Keeps.of_eq rfl
  | gddrBit line b => exact State.poke_keeps ..
  | _ => exact Keeps.of_eq rfl

theorem State.countCorrected_keeps (s : State) (src : Nat) (p : ScrubPlace) : Keeps s (s.countCorrected src p) := by
  unfold State.countCorrected
  split <;> exact Keeps.of_eq rfl

theorem execPatrolScrub_keeps (place : ScrubPlace) (errors : ScrubResult) (s : State) :
    Result.Keeps s (execPatrolScrub place errors s) := by
  unfold execPatrolScrub
  dsimp only
  split
  · trivial
  · split
    · trivial
    · split
      · exact Keeps.refl _
      · exact (State.dropPlace_keeps ..).trans (State.countCorrected_keeps ..)
      · show Keeps _ _
        split
        · exact (State.markPlace_keeps ..).trans (Keeps.of_eq rfl)
        · exact State.markPlace_keeps ..

/-! ### Retirement of frames (R420) -/

theorem execFrameRetirement_keeps (frame spare : Nat) (s : State) : Result.Keeps s (execFrameRetirement frame spare s) := by
  unfold execFrameRetirement
  dsimp only
  split
  · trivial
  · split
    · split
      · trivial
      · split
        · split
          · exact State.cleanFrame_keeps ..
          · trivial
        · exact State.endRetirement_keeps ..
    · split
      · trivial
      · split
        · exact Keeps.of_eq rfl
        · split
          · trivial
          · exact Keeps.pre (State.openWindow_keeps ..) rfl

end Sys2Proof.Machine
end

section
/-! PROOFS. Every instruction, every fetch and every clock keeps memory in canonical form, and so does every step (R51, R88, R162). -/

namespace Sys2Proof.Machine

/-! ### Arithmetic (R181) -/

theorem intBinary_keeps (i : Instr) (o : V3) (types : List Nat) (lat : Nat) (f : ℤ → ℤ → ℤ) (s : State) :
    Result.Keeps s (intBinary i o types lat f s) :=
  issue_result_keeps fun _ _ => trivial

theorem intUnary_keeps (i : Instr) (o : V3) (types : List Nat) (lat : Nat) (f : ℤ → ℤ) (s : State) :
    Result.Keeps s (intUnary i o types lat f s) :=
  issue_result_keeps fun _ _ => trivial

/-! ### Logic and bits (R182) -/

theorem bitBinary_keeps (i : Instr) (o : V3) (f : Nat → Nat → Nat) (s : State) : Result.Keeps s (bitBinary i o f s) :=
  issue_result_keeps fun _ _ => trivial

theorem shiftOp_keeps (i : Instr) (o : V3) (funcs : List Nat) (f : Nat → Nat → Nat → ℤ) (s : State) :
    Result.Keeps s (shiftOp i o funcs f s) :=
  issue_result_keeps fun _ _ => trivial

theorem countOp_keeps (i : Instr) (o : V3) (f : Nat → Nat → Nat) (s : State) : Result.Keeps s (countOp i o f s) :=
  issue_result_keeps fun _ _ => trivial

/-! ### Select, compare, address and moves (R185, R186) -/

theorem execSetp_keeps (o : VI) (s : State) : Result.Keeps s (execSetp o s) := by
  unfold execSetp
  dsimp only
  split
  · exact issue_result_keeps fun _ _ => trivial
  · exact issue_result_keeps fun _ _ => trivial
  · exact issue_result_keeps fun _ _ => trivial
  · exact issue_result_keeps fun x s => Keeps.refl _

/-! ### The lane instructions -/

theorem execVote_keeps (o : V3) (s : State) : Result.Keeps s (execVote o s) := by
  refine issue_result_keeps fun x s => ?_
  split <;> trivial

theorem execRedl_keeps (o : V3) (s : State) : Result.Keeps s (execRedl o s) := by
  unfold execRedl
  dsimp only
  refine issue_result_keeps fun x s => ?_
  split
  · split <;> trivial
  · trivial

/-! ### The ring instructions -/

theorem execRini_keeps (o : SF) (s : State) : Result.Keeps s (execRini o s) := by
  unfold execRini
  dsimp only
  refine issue_result_keeps fun x s => ?_
  split
  · trivial
  · split
    · split
      · trivial
      · split
        · trivial
        · split
          · trivial
          · exact Keeps.of_eq rfl
    · split
      · trivial
      · split
        · trivial
        · split
          · trivial
          · exact Keeps.of_eq rfl

theorem execRclm_keeps (o : SF) (s : State) : Result.Keeps s (execRclm o s) := by
  unfold execRclm
  dsimp only
  refine issue_result_keeps fun x s => ?_
  split
  · trivial
  · split
    · trivial
    · split <;> exact Keeps.of_eq rfl

theorem execRpub_keeps (o : SF) (s : State) : Result.Keeps s (execRpub o s) := by
  refine issue_result_keeps fun x s => ?_
  dsimp only
  split
  · trivial
  · split
    · trivial
    · split
      · trivial
      · split
        · trivial
        · exact State.ringRegs_keeps _ _ _ _ _ (Res.keeps_done (Keeps.of_eq rfl))

theorem execRwfl_keeps (o : SF) (s : State) : Result.Keeps s (execRwfl o s) := by
  refine issue_result_keeps fun x s => ?_
  dsimp only
  split
  · trivial
  · split
    · trivial
    · refine State.ringRegs_keeps _ _ _ _ _ ?_
      split
      · exact Res.keeps_moved (State.adoptOrWait_keeps ..)
      · exact Res.keeps_done (Keeps.of_eq rfl)

theorem execRrel_keeps (o : SF) (s : State) : Result.Keeps s (execRrel o s) := by
  unfold execRrel
  dsimp only
  refine issue_result_keeps fun x s => ?_
  split
  · trivial
  · split
    · trivial
    · split
      · trivial
      · split
        · trivial
        · exact Keeps.of_eq rfl

theorem execRwfr_keeps (o : SF) (s : State) : Result.Keeps s (execRwfr o s) := by
  unfold execRwfr
  dsimp only
  refine issue_result_keeps fun x s => ?_
  split
  · trivial
  · split
    · trivial
    · split
      · exact Keeps.refl _
      · exact Keeps.of_eq rfl

/-! ### The meaning of every instruction -/

theorem exec_keeps (i : Instr) (s : State) : Result.Keeps s (exec i s) := by
  cases i <;> dsimp only [exec]
  case iadd | isub | iadd64 | isub64 | imul | imulh | imin | imax => exact intBinary_keeps ..
  case iadds | imad | imadw | fnl | bfx | bfi | brev | bilv | bdil | isel | icmp | lea | mov | movi | movl | sreg | fsel
      | fsplit3 | shfl | prmt | matchLanes | edge | viewx | packc | cwmk | barp | trap | wrc =>
    exact issue_result_keeps fun _ _ => trivial
  case iabs | ineg | not => exact intUnary_keeps ..
  case and | or | xor | andn => exact bitBinary_keeps ..
  case shl | shr | sar | rot => exact shiftOp_keeps ..
  case popc | clz | ctz => exact countOp_keeps ..
  case setp => exact execSetp_keeps ..
  case nop | prf | fence => exact issue_result_keeps fun _ _ => Keeps.refl _
  case bra => exact execBra_keeps ..
  case brx => exact execBrx_keeps ..
  case rcvt => exact execRcvt_keeps ..
  case rcvm => exact execRcvm_keeps ..
  case call => exact issue_result_keeps fun _ _ => callBody_keeps ..
  case callx => exact execCallx_keeps ..
  case ret => exact issue_result_keeps fun _ _ => retBody_keeps ..
  case unwind => exact execUnwind_keeps ..
  case exit => exact execExit_keeps ..
  case yield | idmc | lead | perfMark => exact issue_result_keeps fun _ _ => Keeps.of_eq rfl
  case fadd | fsub | fmul => exact fltBinary_keeps ..
  case ffma | frnd | fdot2 => exact issue_result_keeps fun _ _ => Iss.fltRes_keeps ..
  case fmin | fmax => exact fltMinMax_keeps ..
  case fcmp => exact execFcmp_keeps ..
  case frcp | frsq | fsqrt | fexp2 | flog2 | fsin | fcos => exact sfu_keeps ..
  case fcvt => exact execFcvt_keeps ..
  case cvtn => exact execCvtn_keeps ..
  case hadd2 | hmul2 | hfma2 => exact packed_keeps ..
  case vote => exact execVote_keeps ..
  case redl => exact execRedl_keeps ..
  case tex | texg => exact issue_result_keeps fun _ _ => texBody_keeps ..
  case ld | ldx | ldc => exact issue_result_keeps fun _ _ => loadBody_keeps ..
  case st | stx => exact issue_result_keeps fun _ _ => storeBody_keeps ..
  case lds => exact execLds_keeps ..
  case sts => exact execSts_keeps ..
  case ldb => exact execLdb_keeps ..
  case stb => exact execStb_keeps ..
  case atom | red | cas => exact issue_result_keeps fun _ _ => atomBody_keeps ..
  case waita => exact execWaita_keeps ..
  case copyt => exact execCopyt_keeps ..
  case copy16 => exact execCopy16_keeps ..
  case cwait => exact execCwait_keeps ..
  case bari => exact execBari_keeps ..
  case bara => exact execBara_keeps ..
  case barw => exact execBarw_keeps ..
  case bars => exact execBars_keeps ..
  case rini => exact execRini_keeps ..
  case rclm => exact execRclm_keeps ..
  case rpub => exact execRpub_keeps ..
  case rwfl => exact execRwfl_keeps ..
  case rrel => exact execRrel_keeps ..
  case rwfr => exact execRwfr_keeps ..
  case fnew => exact execFnew_keeps ..
  case fset => exact execFset_keeps ..
  case fwait => exact execFwait_keeps ..
  case tspn => exact execTspn_keeps ..
  case tend => exact execTend_keeps ..
  case lkaq => exact execLkaq_keeps ..
  case lkrl => exact execLkrl_keeps ..
  case ores => exact execOres_keeps ..
  case orel => exact execOrel_keeps ..
  case mseq => exact execMseq_keeps ..
  case bkpt => exact execBkpt_keeps ..
  case rdc => exact execRdc_keeps ..
  case rett => exact execRett_keeps ..
  case perfRd => exact execPerfRd_keeps ..
  case timeSliceSwap => exact execTimeSliceSwap_keeps ..
  case loadComplete => exact execLoadComplete_keeps ..
  case frameAllocation => exact execFrameAllocation_keeps ..
  case eseSpill => exact execEseSpill_keeps ..
  case eseRefill => exact execEseRefill_keeps ..
  case workgroupBind => exact execWorkgroupBind_keeps ..
  case taskStart => exact execTaskStart_keeps ..
  case taskRequeue => exact execTaskRequeue_keeps ..
  case copyComplete => exact execCopyComplete_keeps ..
  case copy16Complete => exact execCopy16Complete_keeps ..
  case engineOpEnded => exact execEngineOpEnded_keeps ..
  case matrixOpComplete => exact execMatrixOpComplete_keeps ..
  case lit | engineNop | ext | dup | drop | swap | overWord | add | addi | loop => exact stackWord_keeps ..
  case shape => exact execShape_keeps ..
  case mma | mmaz => exact mmaWord_keeps ..
  case drain | drainadd | drainaddo => exact drainWord_keeps ..
  case arrive => exact execArrive_keeps ..
  case waitb => exact execWaitb_keeps ..
  case halt => exact execHalt_keeps ..
  case dmma | dmmaz => exact dmmaWord_keeps ..
  case dout | dwt => exact dmeWord_keeps fun _ _ _ _ => Keeps.of_eq rfl
  case dline => exact execDline_keeps ..
  case cluNop => exact cluIssue_keeps fun _ _ => Keeps.refl _
  case cluIadd | cluIsub | cluAnd | cluOr | cluXor | cluShl | cluShr | cluSar | cluImin | cluImax | cluIcmp =>
    exact cluInt_keeps ..
  case cluXsel | cluMov | cluShuf | cluLerp | cluWarp | cluPack => exact cluData_keeps ..
  case cluBr | cluLoopr | cluSetlc | cluEndl | cluGlut | cluKpush => exact cluCtl_keeps fun _ _ => Keeps.of_eq rfl
  case cluGset | cluSdrv | cluLcpy | cluStl => exact cluIssue_keeps fun _ _ => Keeps.of_eq rfl
  case cluKpop => exact execCluKpop_keeps ..
  case cluQlen | cluPose => exact cluIssue_keeps fun _ _ => State.xPut_keeps ..
  case cluFadd | cluFmul | cluFfma | cluFmin | cluFmax | cluFcmp | cluFcvt => exact cluFloat_keeps ..
  case cluLdl => exact cluIssue_keeps fun _ _ => (State.lineUnit_keeps ..).trans (State.xPut_keeps ..)
  case fetch => exact execFetch_keeps ..
  case store | emit => exact storeWord_keeps ..
  case fetchRunComplete => exact execFetchRunComplete_keeps ..
  case lineCopyStart => exact execLineCopyStart_keeps ..
  case lineScheduleStart => exact execLineScheduleStart_keeps ..
  case scanOutLine => exact execScanOutLine_keeps ..
  case reelRead => exact execReelRead_keeps ..
  case frameReturn => exact execFrameReturn_keeps ..
  case lineCoreReload => exact execLineCoreReload_keeps ..
  case launch => exact cmdIssue_keeps fun _ _ _ => State.doLaunch_keeps ..
  case selham => exact cmdIssue_keeps fun _ _ _ => State.doSelham_keeps ..
  case prio => exact cmdIssue_keeps fun _ _ _ => State.doPrio_keeps ..
  case preempt => exact cmdIssue_keeps fun _ _ _ => State.doPreempt_keeps ..
  case resume => exact cmdIssue_keeps fun _ _ _ => State.doResume_keeps ..
  case waitCmd => exact cmdIssue_keeps fun _ _ _ => State.doWait_keeps ..
  case tlbinv => exact cmdIssue_keeps fun _ _ _ => State.doTlbinv_keeps ..
  case workgroupSave => exact execWorkgroupSave_keeps ..
  case launchCompletion => exact execLaunchCompletion_keeps ..
  case wayWalkComplete => exact execWayWalkComplete_keeps ..
  case sliceRequest => exact execSliceRequest_keeps ..
  case sideQueueRetry => exact execSideQueueRetry_keeps ..
  case lineFill => exact execLineFill_keeps ..
  case writeBackComplete => exact execWriteBackComplete_keeps ..
  case lineYield => exact execLineYield_keeps ..
  case drainAddArrive => exact execDrainAddArrive_keeps ..
  case orderedContribution => exact execOrderedContribution_keeps ..
  case sequenceTimeout => exact execSequenceTimeout_keeps ..
  case routerFlit => exact execRouterFlit_keeps ..
  case dieLinkFlitReceive => exact execDieLinkFlitReceive_keeps ..
  case dieLinkAck => exact execDieLinkAck_keeps ..
  case crossDieReceive => exact execCrossDieReceive_keeps ..
  case beacon => exact execBeacon_keeps ..
  case correctedReport => exact execCorrectedReport_keeps ..
  case swapthrExpiry => exact execSwapthrExpiry_keeps ..
  case unassignedOpcode => exact execUnassignedOpcode_keeps ..
  case unassignedEngineWord => exact execUnassignedEngineWord_keeps ..
  case doorbell => exact execDoorbell_keeps ..
  case contextKill => exact execContextKill_keeps ..
  case killAll => exact execKillAll_keeps ..
  case heartbeat => exact execHeartbeat_keeps ..
  case heartbeatTimeout => exact execHeartbeatTimeout_keeps ..
  case standinReload => exact execStandinReload_keeps ..
  case firmwareMemoryError => exact execFirmwareMemoryError_keeps ..
  case debugStop => exact execDebugStop_keeps ..
  case debugStepGroup => exact execDebugStepGroup_keeps ..
  case debugStepEntry => exact execDebugStepEntry_keeps ..
  case debugResume => exact execDebugResume_keeps ..
  case l2sPwayWrite => exact execL2sPwayWrite_keeps ..
  case l2sVfwayWrite => exact execL2sVfwayWrite_keeps ..
  case registerWrite => exact execRegisterWrite_keeps ..
  case createQueue => exact execCreateQueue_keeps ..
  case vfConfigWrite => exact execVfConfigWrite_keeps ..
  case vfCreate => exact execVfCreate_keeps ..
  case vfDestroy => exact execVfDestroy_keeps ..
  case domainMove => exact execDomainMove_keeps ..
  case iaRanges => exact execIaRanges_keeps ..
  case attestationReport => exact execAttestationReport_keeps ..
  case pluginLoad => exact execPluginLoad_keeps ..
  case pluginCall => exact execPluginCall_keeps ..
  case boot => exact execBoot_keeps ..
  case thermalStop => exact execThermalStop_keeps ..
  case thermalRestart => exact execThermalRestart_keeps ..
  case thermalHold => exact execThermalHold_keeps ..
  case hostAccessTimeout => exact execHostAccessTimeout_keeps ..
  case hostMemAccess => exact execHostMemAccess_keeps ..
  case hostSnoop => exact execHostSnoop_keeps ..
  case stage2FaultResolve => exact execStage2FaultResolve_keeps ..
  case sifterMerge => exact execSifterMerge_keeps ..
  case patrolScrub => exact execPatrolScrub_keeps ..
  case frameRetirement => exact execFrameRetirement_keeps ..
  case linkDown => exact execLinkDown_keeps ..
  case linkRetry => exact execLinkRetry_keeps ..
  case dieLinkDown => exact execDieLinkDown_keeps ..
  case linkRetrain => exact execLinkRetrain_keeps ..
  case frameOwnerChange => exact execFrameOwnerChange_keeps ..
  case powerLimitStep => exact execPowerLimitStep_keeps ..
  case poseCommit => exact execPoseCommit_keeps ..
  case selhamLaunchEnd => exact execSelhamLaunchEnd_keeps ..
  case dmeRestart => exact execDmeRestart_keeps ..
  case eventStamp => exact execEventStamp_keeps ..
  case errorRecord => exact execErrorRecord_keeps ..
  case dieLinkNak => exact execDieLinkNak_keeps ..
  case dieLinkReplayTimeout => exact execDieLinkReplayTimeout_keeps ..
  case preemptTimeout => exact execPreemptTimeout_keeps ..

/-! ### Compute words (R162, R187, R385) -/

theorem decodeWords_keeps {s t : State} {bs : List Byte} {i : Instr} (h : decodeWords s bs = .ok (t, i)) : Keeps s t := by
  unfold decodeWords at h
  split at h
  · cases h
    exact Keeps.refl s
  · cases h

theorem State.codeWord_keeps (s : State) (l pa : Nat) : Keeps s (s.codeWord l pa).2 := by
  unfold State.codeWord
  dsimp only
  (repeat' split) <;> exact Keeps.of_eq rfl

theorem State.fetchCompute_keeps {s t : State} {c v l : Nat} {pc : W64} {i : Instr} (h : s.fetchCompute c v l pc = .ok (t, i)) :
    Keeps s t := by
  unfold State.fetchCompute at h
  split at h
  · cases h
  · split at h
    rename_i hCodeWord
    refine ((State.noteXlate_keeps ..).trans (Keeps.snd (State.codeWord_keeps ..) hCodeWord)).trans ?_
    split at h
    · split at h
      · cases h
      · split at h
        rename_i hCodeWord
        exact ((State.noteXlate_keeps ..).trans (Keeps.snd (State.codeWord_keeps ..) hCodeWord)).trans (decodeWords_keeps h)
    · exact decodeWords_keeps h

theorem State.fetchEntry_keeps (s : State) (c slot : Nat) (id : EntId) : (s.fetchEntry c slot id).Keeps s := by
  unfold State.fetchEntry
  dsimp only
  split
  · exact Keeps.refl _
  · split
    · exact Keeps.refl _
    · split
      · exact Keeps.refl _
      · split
        · rename_i hFetchCompute
          exact Keeps.pre ((State.fetchCompute_keeps hFetchCompute).trans (Keeps.of_eq rfl)) rfl
        · exact Keeps.pre (State.deliver_keeps ..) rfl

/-! ### Engine words (R244, R325, R398) -/

theorem State.fetchContext_keeps (s : State) (c n : Nat) : (s.fetchContext c n).Keeps s := by
  unfold State.fetchContext
  split
  · exact Keeps.refl _
  · split
    · exact Keeps.refl _
    · split
      · rename_i hAgentAddr
        exact (Keeps.fst (State.agentAddr_keeps ..) hAgentAddr).trans (State.stopAt_keeps ..)
      · rename_i hAgentAddr
        exact (Keeps.fst (State.agentAddr_keeps ..) hAgentAddr).trans ((State.codeWord_keeps ..).trans (Keeps.of_eq rfl))

theorem State.fetchDme_keeps (s : State) : s.fetchDme.Keeps s := by
  unfold State.fetchDme
  split <;> exact Keeps.of_eq rfl

/-! ### Selham's words (R291, R309, R323) -/

theorem State.fetchCluster_keeps (s : State) (l c : Nat) : (s.fetchCluster l c).Keeps s := by
  unfold State.fetchCluster
  split
  · exact Keeps.refl _
  · split
    · exact Keeps.of_eq rfl
    · trivial

theorem State.fetchFetch_keeps (s : State) (l : Nat) : (s.fetchFetch l).Keeps s := by
  unfold State.fetchFetch
  split
  · exact Keeps.of_eq rfl
  · exact Keeps.refl _
  · trivial

theorem State.fetchStore_keeps (s : State) (l : Nat) : (s.fetchStore l).Keeps s := by
  unfold State.fetchStore
  split
  · exact Keeps.of_eq rfl
  · exact Keeps.refl _
  · trivial

/-! ### Commands (R334, R340, R453) -/

theorem State.fetchCommand_keeps (s : State) (q : Nat) : (s.fetchCommand q).Keeps s := by
  unfold State.fetchCommand
  split
  · exact Keeps.refl _
  · split
    · exact Keeps.refl _
    · split
      · rename_i hQueueEntry
        exact (Keeps.fst (State.queueEntry_keeps ..) hQueueEntry).trans (Keeps.of_eq rfl)
      · rename_i hQueueEntry
        refine Keeps.fetched (Keeps.fst (State.queueEntry_keeps ..) hQueueEntry) ?_
        split
        · exact Keeps.of_eq rfl
        · exact State.unknownCommand_keeps ..

theorem State.fetch_keeps (s : State) (a : Agent) : (s.fetch a).Keeps s := by
  unfold State.fetch
  split
  · exact State.fetchEntry_keeps ..
  · exact State.fetchContext_keeps ..
  · exact State.fetchDme_keeps ..
  · exact State.fetchCluster_keeps ..
  · exact State.fetchFetch_keeps ..
  · exact State.fetchStore_keeps ..
  · exact State.fetchCommand_keeps ..
  · exact Keeps.refl _
  · exact Keeps.refl _
  · exact Keeps.refl _

/-! ### The issue slots of a quarter (R51) -/

theorem State.holdBusy_keeps (s : State) (c q p : Nat) : Keeps s (s.holdBusy c q p) := by
  unfold State.holdBusy
  split
  · exact Keeps.refl s
  · split
    · exact Keeps.refl s
    · split
      · rename_i fetched
        split
        · rename_i ran
          split
          · exact ((State.fetchEntry_keeps ..).run fetched).trans ((exec_keeps ..).next ran)
          · exact Keeps.refl s
        · exact Keeps.refl s
      · exact Keeps.refl s

theorem State.coreIssue_keeps (s : State) (c : Nat) : Keeps s (s.coreIssue c) := by
  refine Keeps.foldl _ (fun s q => ?_) _ s
  split
  · exact Keeps.refl s
  · exact Keeps.upd ((Keeps.foldl _ (fun _ _ => State.holdBusy_keeps ..) _ _).trans (State.setCore_keeps ..))

theorem State.stepEnd_keeps (s : State) (c slot : Nat) : Keeps s (s.stepEnd c slot) := by
  unfold State.stepEnd
  split
  · exact Keeps.refl _
  · split
    · exact State.stopGroup_keeps ..
    · exact Keeps.refl _

/-! ### A compute clock -/

theorem State.fillPlace_keeps (s : State) (c q p : Nat) : Keeps s (s.fillPlace c q p) := by
  unfold State.fillPlace
  dsimp only
  (repeat' split) <;> exact Keeps.of_eq rfl

theorem State.swapWaiting_keeps (s : State) (c q p : Nat) : Keeps s (s.swapWaiting c q p) := by
  unfold State.swapWaiting
  split
  · exact Keeps.refl s
  · split
    · exact Keeps.getD (fun _ h => State.swapPlace_keeps h) (Keeps.refl s)
    · exact Keeps.refl s

theorem State.tendCore_keeps (s : State) (c : Nat) : Keeps s (s.tendCore c) :=
  Keeps.pre (Keeps.foldl _ (fun _ _ => (State.fillPlace_keeps ..).trans (State.swapWaiting_keeps ..)) _ _) rfl

theorem State.wakeParked_keeps (s : State) (c : Nat) : Keeps s (s.wakeParked c) := by
  refine Keeps.foldl _ (fun s r => ?_) _ s
  split
  · split
    · exact State.wakeTask_keeps ..
    · exact Keeps.refl s
  · exact Keeps.refl s
  · exact Keeps.refl s

theorem State.moveCopies_keeps (s : State) (c : Nat) : Keeps s (s.moveCopies c) := by
  refine Keeps.foldl _ (fun s x => ?_) _ s
  split
  · exact Keeps.pre (State.copySome_keeps ..) rfl
  · exact Keeps.refl s

theorem State.sequence_keeps (s : State) (c : Nat) : Keeps s (s.sequence c) := by
  unfold State.sequence
  dsimp only
  split <;> exact Keeps.of_eq rfl

theorem State.tickCore_keeps (s : State) (c : Nat) : Keeps s (s.tickCore c) := by
  unfold State.tickCore
  extract_lets +onlyGivenNames s1 s2 s3
  have tended : Keeps s s1 := (State.stopsDue_keeps ..).trans ((State.tendCore_keeps ..).trans
    ((State.wakeParked_keeps ..).trans (State.moveCopies_keeps ..)))
  have sequenced : Keeps s2 s3 := State.sequence_keeps ..
  have swapped : Keeps s1 s2 := (Keeps.refl s1).upd
  clear_value s1 s2 s3
  refine tended.trans (swapped.trans (sequenced.trans ?_))
  split
  · exact Keeps.refl s3
  · exact Keeps.of_eq rfl

theorem State.tickCompute_keeps (s : State) : Keeps s s.tickCompute :=
  Keeps.pre ((Keeps.foldl _ (fun _ _ => State.tickCore_keeps ..) _ _).trans (State.parkAgain_keeps ..)) rfl

/-! ### The other clocks -/

theorem State.tickFirmware_keeps (s : State) : Keeps s s.tickFirmware := by
  unfold State.tickFirmware
  dsimp only
  (repeat' split) <;> exact Keeps.of_eq rfl

theorem idleUnless_keeps {s t : State} {r : Result} (h : Keeps s t) (hr : Result.Keeps s r) :
    Result.Keeps s (idleUnless t r) := by
  unfold idleUnless
  split
  · exact h
  · exact hr
  · trivial
  · trivial

theorem State.clockFabric_keeps (s : State) : Keeps s s.clockFabric := Keeps.pre (State.beacons_keeps ..) rfl

theorem State.tickFabric_keeps (s : State) : Result.Keeps s s.tickFabric := by
  unfold State.tickFabric
  extract_lets +onlyGivenNames s1
  have clocked : Keeps s s1 := by
    unfold s1
    split
    · exact State.clockFabric_keeps ..
    · exact Keeps.refl s
  exact Keeps.result clocked (idleUnless_keeps (Keeps.refl s1) (execEventStamp_keeps s1))

/-! ### Steps that hardware and firmware take by themselves -/

theorem State.spontaneous_keeps (s : State) (k : Nat) (n : Nat → Nat) : Result.Keeps s (s.spontaneous k n) := by
  unfold State.spontaneous
  split
  · exact execLoadComplete_keeps ..
  · exact execFrameAllocation_keeps ..
  · exact execEseSpill_keeps ..
  · exact execEseRefill_keeps ..
  · exact execWorkgroupBind_keeps ..
  · exact execTaskStart_keeps ..
  · exact execTaskRequeue_keeps ..
  · exact execCopyComplete_keeps ..
  · exact execCopy16Complete_keeps ..
  · exact execEngineOpEnded_keeps ..
  · exact execMatrixOpComplete_keeps ..
  · exact execWorkgroupSave_keeps ..
  · split
    · trivial
    · exact execLaunchCompletion_keeps ..
  · exact execWayWalkComplete_keeps ..
  · exact execSliceRequest_keeps ..
  · exact execSideQueueRetry_keeps ..
  · exact execLineFill_keeps ..
  · exact execWriteBackComplete_keeps ..
  · exact execLineYield_keeps ..
  · exact execDrainAddArrive_keeps ..
  · exact execOrderedContribution_keeps ..
  · exact execSequenceTimeout_keeps ..
  · exact execRouterFlit_keeps ..
  · exact execDieLinkFlitReceive_keeps ..
  · exact execDieLinkAck_keeps ..
  · exact execDieLinkNak_keeps ..
  · exact execDieLinkReplayTimeout_keeps ..
  · exact execCrossDieReceive_keeps ..
  · exact execBeacon_keeps ..
  · exact execCorrectedReport_keeps ..
  · exact execErrorRecord_keeps ..
  · exact execHeartbeat_keeps ..
  · exact execHeartbeatTimeout_keeps ..
  · exact execPreemptTimeout_keeps ..
  · exact execStage2FaultResolve_keeps ..
  · split
    · split
      · exact execSifterMerge_keeps ..
      · exact execFrameRetirement_keeps ..
    · exact execSifterMerge_keeps ..
  · exact execFrameRetirement_keeps ..
  · exact execLinkDown_keeps ..
  · exact execLinkRetry_keeps ..
  · exact execDieLinkDown_keeps ..
  · exact execLinkRetrain_keeps ..

theorem State.byItself_keeps (s : State) : Result.Keeps s s.byItself := by
  unfold State.byItself
  extract_lets +onlyGivenNames n t k
  split
  · exact Keeps.of_eq rfl
  · exact Keeps.result (Keeps.of_eq (t := t) rfl) (idleUnless_keeps (Keeps.refl t) (State.spontaneous_keeps ..))

theorem State.goOn_keeps (s : State) : Result.Keeps s s.goOn := by
  unfold State.goOn
  split
  rename_i s1 hDrawn
  extract_lets +onlyGivenNames up
  refine Keeps.result ((State.choice_keeps s 6).snd hDrawn) ?_
  split
  · show Keeps s1 _
    split
    · exact State.tickCompute_keeps s1
    · exact Keeps.refl s1
  · exact State.tickFabric_keeps s1
  · show Keeps s1 _
    split
    · exact State.tickSelham_keeps s1
    · exact Keeps.refl s1
  · exact State.tickFirmware_keeps s1
  · exact Keeps.of_eq rfl
  · exact State.byItself_keeps s1

/-! ### Inputs during a thermal stop (R31, R32) -/

theorem State.nextInput_keeps {s t : State} {i : Instr} (h : s.nextInput = some (i, t)) : Keeps s t := by
  obtain ⟨x, -, hx⟩ := Option.map_eq_some_iff.mp h
  cases hx
  exact Keeps.of_eq rfl

theorem State.handOut_keeps {s t : State} {a : Agent} (h : s.handOut a = some t) : Keeps s t := by
  cases a with
  | selIssue =>
    cases h
    exact (State.selIssue_keeps s).trans (Keeps.of_eq rfl)
  | coreIssue c =>
    cases h
    exact State.coreIssue_keeps ..
  | stepEnd c slot =>
    cases h
    exact State.stepEnd_keeps ..
  | entry _ _ _ => cases h
  | context _ _ => cases h
  | dme => cases h
  | cluster _ _ => cases h
  | fetchEngine _ => cases h
  | storeEngine _ => cases h
  | queue _ => cases h

/-! ### One step of the machine, and the placing of one instruction where the next step fetches it -/

theorem State.runAgent_keeps (s : State) (a : Agent) : Result.Keeps s (s.runAgent a) := by
  unfold State.runAgent
  split
  · rename_i hHandOut
    exact State.handOut_keeps hHandOut
  · split
    · rename_i fetched
      exact Keeps.result ((State.fetch_keeps ..).run fetched) (exec_keeps ..)
    · rename_i fetched
      exact (State.fetch_keeps ..).idle fetched
    · trivial

theorem step_keeps (s : State) : Result.Keeps s (step s) := by
  unfold step
  split
  · trivial
  · split
    · rename_i input
      exact Keeps.result (State.nextInput_keeps input) (idleUnless_keeps (Keeps.refl _) (exec_keeps ..))
    · split
      · rename_i a rest _
        split
        · exact Keeps.result (Keeps.of_eq (t := { s with agenda := rest }) rfl) (State.runAgent_keeps ..)
        · exact State.goOn_keeps s
      · exact State.goOn_keeps s

end Sys2Proof.Machine

namespace Sys2Proof.Proofs

open Sys2Proof.Machine

/-- Settles O59: every step of the machine changes memory only by stores, zeroed, copied and rekeyed frames and the scrub at boot,
each of which keeps the canonical form. -/
theorem everyStepKeepsMemoryCanonical : Obligations.EveryStepKeepsMemoryCanonical :=
  fun s _ canonical stepped => ((step_keeps s).next stepped).wf canonical

end Sys2Proof.Proofs
end

section
/-! PROOFS. Record accesses: `LDB` and `STB` through the lanes' records (R98-R101, R115, R222). -/

namespace Sys2Proof.Machine

theorem SameMem.foldl_fst {α β : Type} (f : State × α → β → State × α) (same : ∀ p b, SameMem p.1 (f p b).1) (l : List β) :
    ∀ (s : State) (a : α), SameMem s (l.foldl f (s, a)).1 := by
  induction l with
  | nil => exact fun s _ => SameMem.refl s
  | cons b l ih => exact fun s a => (same (s, a) b).trans (ih ..)

theorem State.latchAll_same (s : State) (x : Iss) (rs : List Brec) : SameMem s (s.latchAll x rs) := State.setCore_same ..

/-- What an operation lets go when it ends is named by the handles of its records. -/
theorem State.latchKeys_handles (s : State) (x : Iss) (rs : List Brec) :
    (s.latchKeys x rs).map Prod.fst = rs.map Brec.handle := by
  simp only [State.latchKeys, List.map_map, Function.comp_def]

theorem DoneWith.of_body {i : Instr} {sp : Spec} {body : Iss → State → Res} (runs : ∀ s, exec i s = issue sp body s)
    {p : State → Iss → Prop} {q : State → Iss → State → Prop}
    (effect : ∀ s x, p s x → ∃ t, body x s = .done t ∧ q s x t) : DoneWith i sp p q := by
  intro s s1 x issues holds
  obtain ⟨t, done, gives⟩ := effect s1 x holds
  exact ⟨t, by rw [runs, issue_of_issues issues, done, finish_done], gives⟩

end Sys2Proof.Machine

namespace Sys2Proof.Proofs

open Sys2Proof.Machine Sys2Proof.Statements

/-- Settles O17: past the free choice of the record cache both words read their lanes' records and places and go on; what `LDB`
does besides its result (notes, latches, requests) leaves memory as it was. -/
theorem recordAccessesComplete : Obligations.RecordAccessesComplete := by
  intro o rs ps
  refine ⟨DoneWith.of_body (fun _ => rfl) fun s x => ?_, DoneWith.of_body (fun _ => rfl) fun s x => ?_⟩
  · have chosen : SameMem s (s.choice 2).2 := State.choice_same s 2
    simp only [afterChoice, cacheServes]
    generalize s.choice 2 = c at chosen ⊢
    obtain ⟨n, u⟩ := c
    rintro ⟨lanes, places⟩
    simp only [ldbSpec] at lanes ⊢
    simp only [lanes, places]
    refine ⟨_, rfl, _, _, _, _, _, ?_, State.latchKeys_handles .., rfl⟩
    refine SameMem.trans ?_ (SameMem.foldl_fst _ (fun _ _ => ?_) _ _ 0)
    · exact chosen.trans ((State.noteAll_same ..).trans (State.latchAll_same ..))
    · exact State.loadReqs_same ..
  · simp only [afterChoice, cacheServes]
    generalize s.choice 2 = c
    obtain ⟨n, u⟩ := c
    rintro ⟨lanes, places⟩
    simp only [stbSpec] at lanes ⊢
    simp only [lanes, places]
    exact ⟨_, rfl, _, State.sendReqs_same .., rfl⟩

end Sys2Proof.Proofs
end

section
/-! PROOFS. The care of memory: the sifter's merges, the checks of the scrubbers and the retirement of frames (R104, R365, R376,
R410, R419, R420). -/

namespace Sys2Proof.Machine

/-! ## The sifter (R104, R410) -/

section
variable {s : State} (booted : s.booted = true) (running : s.clk.thermal = .running)
include booted running

theorem execSifterMerge_of_may {ia1 ia2 root a1 a2 : Nat} (closed : s.fwc.window = none) (enabled : bit s.fwc.sift.toNat 0 = true)
    (allowed : (s.vf (bits s.fwc.sift.toNat 14 8)).hpol.getLsbD 3 = true)
    (rooted : (s.vf (bits s.fwc.sift.toNat 14 8)).root2 = some root)
    (leaf1 : s.leafAddr2 root ia1 = some a1) (leaf2 : s.leafAddr2 root ia2 = some a2)
    (may : s.maySift (bits s.fwc.sift.toNat 14 8) ia1 ia2 a1 a2 = true) :
    execSifterMerge ia1 ia2 s = .next (s.openWindow
      { merge := true, ia1 := ia1, ia2 := ia2, frame := 0, spare := 0
        entries := [(bits s.fwc.sift.toNat 14 8, ia1 / 65536, a1, s.readNat a1 8),
          (bits s.fwc.sift.toNat 14 8, ia2 / 65536, a2, s.readNat a2 8)] }
      [frameOf (s.readNat a1 8) / 65536, frameOf (s.readNat a2 8) / 65536]) := by
  simp [execSifterMerge, booted, running, closed, enabled, allowed, rooted, leaf1, leaf2, may]

section
variable {w : MoveWindow} {v p1 a1 e1 v2 p2 a2 e2 : Nat} (opened : s.fwc.window = some w) (merge : w.merge = true)
  (entries : w.entries = [(v, p1, a1, e1), (v2, p2, a2, e2)])
include opened merge entries

theorem execSifterMerge_of_dirty (dirty : [frameOf e1 / 65536, frameOf e2 / 65536].any s.frameDirty = true)
    (may : [frameOf e1 / 65536, frameOf e2 / 65536].any s.mayClean = true) :
    execSifterMerge w.ia1 w.ia2 s = .next ([frameOf e1 / 65536, frameOf e2 / 65536].foldl State.cleanFrame s) := by
  simp only [execSifterMerge, booted, running, opened, merge, entries, dirty, may]
  simp

variable (clean : [frameOf e1 / 65536, frameOf e2 / 65536].any s.frameDirty = false)
include clean

theorem execSifterMerge_of_alike
    (free : (s.fwc.holds.any fun h => decide (h.vf = v) && (decide (h.ia / 65536 = p1) || decide (h.ia / 65536 = p2))) = false)
    (alike : s.frameCells (frameOf e1 / 65536) = s.frameCells (frameOf e2 / 65536)) :
    execSifterMerge w.ia1 w.ia2 s = .next (s.endMerge v w p1 p2 e1 e2 a1 a2) := by
  simp [execSifterMerge, booted, running, opened, merge, entries, clean, free, alike]

theorem execSifterMerge_of_differ
    (differ : (s.fwc.holds.any fun h => decide (h.vf = v) && (decide (h.ia / 65536 = p1) || decide (h.ia / 65536 = p2))) = true ∨
      ¬ s.frameCells (frameOf e1 / 65536) = s.frameCells (frameOf e2 / 65536)) :
    execSifterMerge w.ia1 w.ia2 s = .next (s.abandonMerge w) := by
  simp only [execSifterMerge, booted, running, opened, merge, entries, clean, ne_eq, not_true_eq_false, decide_false, Bool.or_self,
    Bool.not_true, Bool.false_eq_true, if_false]
  exact if_pos (by simpa only [Bool.or_eq_true, decide_eq_true_eq] using differ)

end
end

/-! ## Scrubbers (R365, R376) -/

section
variable {s : State} {p : ScrubPlace} {src : Nat} (source : s.scrubSource p = some src) (running : s.clk.thermal = .running)
include source running

theorem execPatrolScrub_clean : execPatrolScrub p .clean s = .next s := by
  simp [execPatrolScrub, source, running, State.findable]

theorem execPatrolScrub_corrected (may : s.findable p .corrected = true) :
    execPatrolScrub p .corrected s = .next ((s.dropPlace p).countCorrected src p) := by
  simp [execPatrolScrub, source, running, may]

theorem execPatrolScrub_uncorrectable (may : s.findable p .uncorrectable = true) :
    execPatrolScrub p .uncorrectable s = .next (if (s.markPlace p).2 then (s.markPlace p).1.raise src
      { Event.blank with
        code := scrubCode p, cls := 1, block := (srcPlace src).1, die := (srcPlace src).2.1, unit := (srcPlace src).2.2
        addr := scrubAddr p } else (s.markPlace p).1) := by
  simp [execPatrolScrub, source, running, may]

end

/-! ## Corrected errors of a frame and its retirement (R420) -/

section
variable {s : State} {d f : Nat}

/-- A corrected error of the pass in which the frame's latest one fell is one more. -/
theorem State.countFrame_again (again : (KMap.getD s.fwc.corrected f (s.scrubPass d, 0)).1 = s.scrubPass d) :
    KMap.getD (s.countFrame d f).fwc.corrected f (0, 0) =
      (s.scrubPass d, (KMap.getD s.fwc.corrected f (s.scrubPass d, 0)).2 + 1) := by
  simp [State.countFrame, again]

/-- The first corrected error of a pass begins the count anew, where the frame is not due for retirement. -/
theorem State.countFrame_first (first : (KMap.getD s.fwc.corrected f (s.scrubPass d, 0)).1 ≠ s.scrubPass d)
    (few : s.retireLimit d = 0 ∨ (KMap.getD s.fwc.corrected f (s.scrubPass d, 0)).2 < s.retireLimit d) :
    KMap.getD (s.countFrame d f).fwc.corrected f (0, 0) = (s.scrubPass d, 1) := by
  have notDue : ¬ (0 < s.retireLimit d ∧ s.retireLimit d ≤ (KMap.getD s.fwc.corrected f (s.scrubPass d, 0)).2) := by omega
  simp [State.countFrame, first, notDue]

end

section
variable {s : State} {f spare : Nat} (booted : s.booted = true) (running : s.clk.thermal = .running)
include booted running

section
variable (closed : s.fwc.window = none) (limited : s.retireLimit (homeDie (65536 * f)) ≠ 0)
  (due : s.retireLimit (homeDie (65536 * f)) ≤ (KMap.getD s.fwc.corrected f (0, 0)).2)
include closed limited due

theorem execFrameRetirement_of_pinned (pinned : s.ownerOf f = 0xFF#8 ∨ s.pinnedFrame f = true) :
    execFrameRetirement f spare s = .next { s with fwc := { s.fwc with corrected := KMap.del s.fwc.corrected f } } := by
  rcases pinned with reserved | held
  · simp [execFrameRetirement, booted, running, closed, limited, due.not_gt, reserved]
  · simp [execFrameRetirement, booted, running, closed, limited, due.not_gt, held]

theorem execFrameRetirement_of_spare (owned : s.ownerOf f ≠ 0xFF#8) (free : s.pinnedFrame f = false)
    (placed : populated (65536 * spare) = true) (given : s.withheld (65536 * spare) = false)
    (unowned : KMap.get? s.fwc.owners spare = none) (other : spare ≠ f) :
    let t := { s with fwc := { s.fwc with corrected := KMap.del s.fwc.corrected f } }
    execFrameRetirement f spare s = .next (t.openWindow
      { merge := false, ia1 := 0, ia2 := 0, frame := f, spare := spare
        entries := (t.vfs.map Prod.fst).flatMap fun v => t.mapsOf v f } [f]) := by
  simp [execFrameRetirement, booted, running, closed, limited, due.not_gt, owned, free, placed, given, unowned, other]

end

section
variable {w : MoveWindow} (opened : s.fwc.window = some w) (retires : w.merge = false)
include opened retires

theorem execFrameRetirement_of_dirty (dirty : s.frameDirty w.frame = true) (may : s.mayClean w.frame = true) :
    execFrameRetirement w.frame w.spare s = .next (s.cleanFrame w.frame) := by
  simp [execFrameRetirement, booted, running, opened, retires, dirty, may]

theorem execFrameRetirement_of_clean (clean : s.frameDirty w.frame = false) :
    execFrameRetirement w.frame w.spare s = .next (s.endRetirement w) := by
  simp [execFrameRetirement, booted, running, opened, retires, clean]

end
end

/-- A retired frame is withdrawn. -/
theorem State.endRetirement_ownerOf_frame (s : State) (w : MoveWindow) : (s.endRetirement w).ownerOf w.frame = 0xFF :=
  KMap.getD_put_self ..

/-- The spare frame has the owner that the retired one had. -/
theorem State.endRetirement_ownerOf_spare (s : State) {w : MoveWindow} (moved : w.spare ≠ w.frame) :
    (s.endRetirement w).ownerOf w.spare = s.ownerOf w.frame :=
  (KMap.getD_put_ne _ _ _ moved).trans (KMap.getD_putD_self ..)

end Sys2Proof.Machine

namespace Sys2Proof.Proofs

open Sys2Proof.Machine

/-- Settles O49: each step of the sifter, the scrubbers and the retirement by its case, and the count of a frame's corrected errors
by what `State.countFrame` writes. -/
theorem memoryCareCompletes : Obligations.MemoryCareCompletes := by
  intro s
  refine ⟨?_, ?_, ?_, ?_, ?_, ?_⟩
  · intro ia1 ia2 root a1 a2 v e1 e2 booted running closed enabled allowed rooted leaf1 leaf2 may
    exact execSifterMerge_of_may booted running closed enabled allowed rooted leaf1 leaf2 may
  · intro w v p1 a1 e1 v2 p2 a2 e2 booted running opened merge entries
    refine ⟨execSifterMerge_of_dirty booted running opened merge entries, fun clean => ⟨?_, ?_⟩⟩
    · exact execSifterMerge_of_alike booted running opened merge entries clean
    · exact execSifterMerge_of_differ booted running opened merge entries clean
  · intro p src source running
    refine ⟨execPatrolScrub_clean source running, execPatrolScrub_corrected source running,
      fun may => ⟨fun silent => ?_, fun told => ?_⟩⟩
    · exact (execPatrolScrub_uncorrectable source running may).trans (by rw [silent]; rfl)
    · exact ⟨_, rfl, rfl, rfl, (execPatrolScrub_uncorrectable source running may).trans (by rw [told]; rfl)⟩
  · intro d f
    exact ⟨State.countFrame_again, State.countFrame_first⟩
  · intro f spare booted running closed limit limited due
    exact ⟨execFrameRetirement_of_pinned booted running closed limited due,
      execFrameRetirement_of_spare booted running closed limited due⟩
  · intro w booted running opened retires moved
    exact ⟨execFrameRetirement_of_dirty booted running opened retires, fun clean =>
      ⟨execFrameRetirement_of_clean booted running opened retires clean, s.endRetirement_ownerOf_frame w,
        s.endRetirement_ownerOf_spare moved⟩⟩

end Sys2Proof.Proofs
end

section
/-! PROOFS. The distributor's steps: workgroups and tasks are bound, requeued and saved (R71, R72, R81, R342-R344, R347, R419, R438,
R453, R454). -/

namespace Sys2Proof.Machine

/-! ## Selection and binding (R342, R343) -/

section
variable {s : State} {c l w key : Nat} {p : Plan}

theorem execWorkgroupBind_of_candidate {a : Cand} {t : State} (free : KMap.get? s.dist.chosen c = none)
    (candidate : s.select c = (t, some a)) : execWorkgroupBind c s = .next (t.choose c a) := by
  simp only [execWorkgroupBind, free, candidate]

section
variable (chosen : KMap.get? s.dist.chosen c = some (.fresh l w))
include chosen

theorem execWorkgroupBind_of_fresh (live : (s.launch l).live = true) (plan : s.freshPlan c l w = some p) :
    execWorkgroupBind c s = .next ((s.unchoose c).bindFresh c l w p) := by
  simp only [execWorkgroupBind, chosen, live, plan, if_true]

theorem execWorkgroupBind_of_no_fresh (gone : (s.launch l).live = false ∨ s.freshPlan c l w = none) :
    execWorkgroupBind c s = .next (s.giveUp c) := by
  rcases gone with dead | full
  · simp only [execWorkgroupBind, chosen, dead, Bool.false_eq_true, if_false]
  · simp only [execWorkgroupBind, chosen, full, ite_self]

end

section
variable (chosen : KMap.get? s.dist.chosen c = some (.saved l key))
include chosen

theorem execWorkgroupBind_of_saved (live : (s.launch l).live = true) (plan : s.savedPlan c l key = some p) :
    execWorkgroupBind c s = .next ((s.unchoose c).bindSaved c l key p) := by
  simp only [execWorkgroupBind, chosen, live, plan, if_true]

theorem execWorkgroupBind_of_no_saved (gone : (s.launch l).live = false ∨ s.savedPlan c l key = none) :
    execWorkgroupBind c s = .next (s.giveUp c) := by
  rcases gone with dead | full
  · simp only [execWorkgroupBind, chosen, dead, Bool.false_eq_true, if_false]
  · simp only [execWorkgroupBind, chosen, full, ite_self]

end
end

/-! ## The start of a task (R71, R72, R454) -/

section
variable {t u : State} {c v l : Nat} {h : W64} {ws : List W64} {pl : Plan}

/-- The won swap on the control word of a task that has no parked context starts its group. -/
theorem State.startTask_of_won
    (won : t.swapCtl c v h (ctlRun (getAt ws 1 0).toNat c (getAt pl.slots 0 0) false) = (u, true))
    (ready : ctlState (getAt ws 1 0).toNat ≠ 2) : t.startTask c v l h ws pl = u.bindTask c v l h ws none pl := by
  simp only [State.startTask, won, ready, if_false]

/-- A lost swap starts nothing. -/
theorem State.startTask_of_lost
    (lost : t.swapCtl c v h (ctlRun (getAt ws 1 0).toNat c (getAt pl.slots 0 0) false) = (u, false)) :
    t.startTask c v l h ws pl = u := by
  simp only [State.startTask, lost]

end

/-- A task queue that `TASK_START` serves: one of the first 16, in the table of a virtual function that exists. -/
theorem taskQueue_served {x : Vf} {q : Nat} (valid : x.valid = true) (inRange : q < 16) (inTable : q < x.tqCnt) :
    (decide (min 16 x.tqCnt ≤ q) || !x.valid) = false := by
  have inside : ¬ min 16 x.tqCnt ≤ q := by omega
  simp [inside, valid]

section
variable {s u t : State} {c v q p head tail : Nat} {tq : TaskQueue} {h : W64}
  (served : (decide (min 16 (s.vf v).tqCnt ≤ q) || !(s.vf v).valid) = false)
  (found : s.taskHead (c / 48) v q = (u, some (tq, p, h, head, tail)))
include served found

/-! Once the head entry is found, `TASK_START` goes by what its record says. -/

theorem execTaskStart_stale (check : u.startCheck (c / 48) v h = (t, .stale)) :
    execTaskStart c v q s = .next (t.dequeue (c / 48) v q tq p h head tail) := by
  simp only [execTaskStart, served, found, check, Bool.false_eq_true, if_false]

theorem execTaskStart_notice {code : Nat} (check : u.startCheck (c / 48) v h = (t, .notice code)) :
    execTaskStart c v q s =
      .next ((t.dequeue (c / 48) v q tq p h head tail).raise (srcFw u.activeFw) (dropNotice v code h)) := by
  simp only [execTaskStart, served, found, check, Bool.false_eq_true, if_false]

theorem execTaskStart_unread {code : Nat} (check : u.startCheck (c / 48) v h = (t, .unread code)) :
    execTaskStart c v q s = .next ((t.dequeue (c / 48) v q tq p h head tail).raise (srcFw u.activeFw)
      (distEvent v code (t.taskVa v h) h)) := by
  simp only [execTaskStart, served, found, check, Bool.false_eq_true, if_false]

section
variable {ws : List W64} (check : u.startCheck (c / 48) v h = (t, .ok ws))
  (chosen : KMap.get? s.dist.chosen c = some (.task q h)) (member : s.coreVf c = some v)
include check chosen member

theorem execTaskStart_planned {pl : Plan} {l : Nat} (plan : t.taskPlan c v ws (t.parkOf v h ws) = some pl)
    (launch : t.taskLaunch v = some l) : execTaskStart c v q s =
      .next (((t.unchoose c).dequeue (c / 48) v q tq p h head tail).startTask c v l h ws pl) := by
  simp only [execTaskStart, served, found, check, chosen, member, plan, launch, decide_true, Bool.and_self, Bool.false_eq_true, if_false,
    if_true]

theorem execTaskStart_unplanned (full : t.taskPlan c v ws (t.parkOf v h ws) = none) :
    execTaskStart c v q s = .next (t.giveUp c) := by
  simp only [execTaskStart, served, found, check, chosen, member, full, decide_true, Bool.and_self, Bool.false_eq_true, if_false,
    if_true]

end
end

/-! ## Requeued tasks (R72, R344) -/

section
variable {s t : State} {v i : Nat} (waiting : (v, BitVec.ofNat 64 i) ∈ s.dist.requeue)
include waiting

theorem execTaskRequeue_unread (unread : s.ownerRec 0 v (BitVec.ofNat 64 i) = (t, none)) : execTaskRequeue v i s =
    .next { t with dist := { t.dist with requeue := t.dist.requeue.erase (v, BitVec.ofNat 64 i) } } := by
  have held := List.contains_iff_mem.mpr waiting
  simp only [execTaskRequeue, held, unread, Bool.not_true, Bool.false_eq_true, if_false]

section
variable {ws : List W64} (read : s.ownerRec 0 v (BitVec.ofNat 64 i) = (t, some ws))
include read

theorem execTaskRequeue_unready
    (unready : ctlState (getAt ws 1 0).toNat ≠ 2 ∨ ctlReady (getAt ws 1 0).toNat = false) : execTaskRequeue v i s =
      .next { t with dist := { t.dist with requeue := t.dist.requeue.erase (v, BitVec.ofNat 64 i) } } := by
  have held := List.contains_iff_mem.mpr waiting
  simp only [execTaskRequeue, held, read, Bool.not_true, Bool.false_eq_true, if_false]
  exact if_pos (by simpa only [Bool.or_eq_true, decide_eq_true_eq, Bool.not_eq_true'] using unready)

theorem execTaskRequeue_ready {u : State} (parked : ctlState (getAt ws 1 0).toNat = 2)
    (ready : ctlReady (getAt ws 1 0).toNat = true)
    (put : t.enqueue (srcFw t.activeFw) 4 v (ctlQueue (getAt ws 1 0).toNat) (ctlPrio (getAt ws 1 0).toNat)
      (BitVec.ofNat 64 i) true = (u, true)) : execTaskRequeue v i s =
      .next { u with dist := { u.dist with requeue := u.dist.requeue.erase (v, BitVec.ofNat 64 i) } } := by
  have held := List.contains_iff_mem.mpr waiting
  simp only [execTaskRequeue, held, read, parked, ready, put, ne_eq, not_true_eq_false, decide_false, Bool.or_self, Bool.not_true,
    Bool.false_eq_true, if_false]

end
end

/-! ## Saves (R347, R419, R438) -/

theorem State.launch_setLaunch_self (s : State) (l : Nat) (x : Launch) : (s.setLaunch l x).launch l = x := KMap.getD_put_self ..

/-- The frames of the groups in `slots`, those that are spilled included. -/
def Core.heldFrames (k : Core) (slots : List Nat) : List (Nat × Frame) :=
  (k.frames.filter fun f => slots.contains f.2.slot) ++ slots.flatMap fun m => k.spilledFrames m

/-- The groups of a workgroup that hold a header cell in error. -/
def Core.badSlots (k : Core) (w : Workgroup) : List Nat :=
  w.slots.filter fun m => (k.heldFrames [m]).any fun f => f.2.hdr.any fun h => h.bad

/-- The record of workgroup `w` written on its core, and its address where it found room. -/
def State.writeSave (s : State) (c : Nat) (w : Workgroup) : State × Option Nat :=
  s.writeSpill c w.vf (s.launch w.launch).hdr 0 ((s.core c).heldFrames w.slots) (saveExtra ((s.core c).saveOf w))
    (.saved ((s.core c).saveOf w))

section
variable {s t : State} {c n : Nat} {w : Workgroup} (bound : (s.core c).wg? n = some w) (saving : w.saving = true)
  (quiet : (s.core c).quiet n = true)
include bound saving quiet

theorem execWorkgroupSave_of_bad (bad : (s.core c).badSlots w ≠ []) : execWorkgroupSave c n s =
    .next (((s.core c).badSlots w).foldl (fun s m => s.fatalGroup c m none .dataUncorrectable 0 0) s) := by
  simp only [execWorkgroupSave, bound, saving, quiet, Bool.not_true, Bool.or_self, Bool.false_eq_true, if_false]
  exact if_pos (by rw [Bool.not_eq_true', List.isEmpty_eq_false_iff]; exact bad)

variable (good : (s.core c).badSlots w = [])
include good

theorem execWorkgroupSave_of_no_room (full : s.writeSave c w = (t, none)) : execWorkgroupSave c n s =
    .next (t.setCore c ((t.core c).setWg n { (t.core c).wg n with saving := false, draining := true })) := by
  simp only [State.writeSave, Core.badSlots, Core.heldFrames] at good full
  simp only [execWorkgroupSave, bound, saving, quiet, good, full, List.isEmpty_nil, Bool.not_true, Bool.or_self,
    Bool.false_eq_true, if_false]

theorem execWorkgroupSave_of_room {a : Nat} (written : s.writeSave c w = (t, some a)) :
    ∃ u : State, execWorkgroupSave c n s = .next (u.dropWg c n) ∧ u.mem = t.mem ∧
      u.launch w.launch = { t.launch w.launch with
        saved := (t.launch w.launch).saved ++ [(c, (t.core c).nextSpill - 1)], saves := (t.launch w.launch).saves + 1 } := by
  simp only [State.writeSave, Core.badSlots, Core.heldFrames] at good written
  simp only [execWorkgroupSave, bound, saving, quiet, good, written, List.isEmpty_nil, Bool.not_true, Bool.or_self,
    Bool.false_eq_true, if_false]
  exact ⟨_, rfl, rfl, State.launch_setLaunch_self ..⟩

end

end Sys2Proof.Machine

namespace Sys2Proof.Statements

open Sys2Proof.Machine

theorem bindingCompletes : BindingCompletes := by
  intro s c l w key a p
  exact ⟨fun free candidate => execWorkgroupBind_of_candidate free (Prod.ext rfl candidate),
    fun chosen => ⟨execWorkgroupBind_of_fresh chosen, execWorkgroupBind_of_no_fresh chosen⟩,
    fun chosen => ⟨execWorkgroupBind_of_saved chosen, execWorkgroupBind_of_no_saved chosen⟩⟩

theorem taskStartCompletes : TaskStartCompletes := by
  intro s c v q tq p head tail h valid inRange inTable headed
  have served := taskQueue_served valid inRange inTable
  have found : s.taskHead (c / 48) v q = ((s.taskHead (c / 48) v q).1, some (tq, p, h, head, tail)) := Prod.ext rfl headed
  refine ⟨fun stale => ?_, fun code notice => ?_, fun code unread => ?_, fun ws pl l ok ⟨chosen, member⟩ plan launch => ?_,
    fun ws ok ⟨chosen, member⟩ full => ?_, fun t l ws pl => ⟨fun won ready => ?_, fun lost => ?_⟩⟩
  · exact execTaskStart_stale served found (Prod.ext rfl stale)
  · exact execTaskStart_notice served found (Prod.ext rfl notice)
  · exact execTaskStart_unread served found (Prod.ext rfl unread)
  · exact execTaskStart_planned served found (Prod.ext rfl ok) chosen member plan launch
  · exact execTaskStart_unplanned served found (Prod.ext rfl ok) chosen member full
  · exact State.startTask_of_won (Prod.ext rfl won) ready
  · exact State.startTask_of_lost (Prod.ext rfl lost)

theorem taskRequeueCompletes : TaskRequeueCompletes := by
  intro s v i waiting
  refine ⟨fun unread => execTaskRequeue_unread waiting (Prod.ext rfl unread), fun ws read => ⟨fun unready => ?_,
    fun parked ready put => ?_⟩⟩
  · exact execTaskRequeue_unready waiting (Prod.ext rfl read) unready
  · exact execTaskRequeue_ready waiting (Prod.ext rfl read) parked ready (Prod.ext rfl put)

theorem workgroupSaveCompletes : WorkgroupSaveCompletes := by
  intro s c n w bound saving quiet
  refine ⟨execWorkgroupSave_of_bad bound saving quiet, fun good full => ?_, fun good room => ?_⟩
  · exact execWorkgroupSave_of_no_room bound saving quiet good (Prod.ext rfl full)
  · obtain ⟨a, written⟩ := Option.isSome_iff_exists.mp room
    exact execWorkgroupSave_of_room bound saving quiet good (Prod.ext rfl written)

end Sys2Proof.Statements

namespace Sys2Proof.Proofs

/-- Settles O31: each step of the distributor by its case. -/
theorem bindingStepsComplete : Obligations.BindingStepsComplete :=
  ⟨Statements.bindingCompletes, Statements.taskStartCompletes, Statements.taskRequeueCompletes, Statements.workgroupSaveCompletes⟩

end Sys2Proof.Proofs
end

section
/-! PROOFS. The cache slices: requests and what they find, miss entries, fills and write-backs, additions, ordered sequences, and way
masks (R86, R87, R116, R150-R152, R253, R274-R278, R416, R421, R422). One lemma for each outcome of a function of the model, under
the conditions that lead to it; the parts of the statement are assembled from them. -/

namespace Sys2Proof.Machine

/-! ## What a request finds (R150, R274, R278) -/

/-- The state `t` with a miss of the request counted, where slice `j` of `s` does not hold its line. -/
def State.missed (s : State) (d j : Nat) (r : SReq) (t : State) : State :=
  if (s.slice d j).has r.line then t else t.perfAdd r.vf 5 1

section
variable {s : State} {d j : Nat} {r : SReq}

theorem State.tryServe_merged {m : Miss} (entry : (s.slice d j).miss? r.line = some m) (room : m.reqs.length < 16) :
    s.tryServe d j r = some (s.missed d j r (s.setSlice d j ((s.slice d j).putMiss r.line (m.reqs ++ [r])))) := by
  simp only [State.tryServe, State.missed, entry, Nat.not_le.mpr room, if_false]

theorem State.tryServe_of_full_entry {m : Miss} (entry : (s.slice d j).miss? r.line = some m) (full : 16 ≤ m.reqs.length) :
    s.tryServe d j r = none := by
  simp only [State.tryServe, entry, full, if_true]

section
variable (fresh : (s.slice d j).miss? r.line = none)
include fresh

theorem State.tryServe_of_held (held : s.lineHeld d j r = true) : s.tryServe d j r = none := by
  simp only [State.tryServe, fresh, held, if_true]

section
variable (free : s.lineHeld d j r = false)
include free

/-- A hit, or a request that no way may hold. -/
theorem State.tryServe_served (now : (s.slice d j).has r.line = true ∨ (s.die d).ways r.vf r.pres = 0) :
    s.tryServe d j r = some ((s.setSlice d j ((s.slice d j).touch r)).serve d j r) := by
  have serves : ((s.slice d j).has r.line || decide ((s.die d).ways r.vf r.pres = 0)) = true := by
    rcases now with hit | bypass
    · rw [hit, Bool.true_or]
    · rw [decide_eq_true bypass, Bool.or_true]
  simp only [State.tryServe, fresh, free, serves, Bool.false_eq_true, if_false, if_true]

section
variable (absent : (s.slice d j).has r.line = false) (cached : (s.die d).ways r.vf r.pres ≠ 0)
include absent cached

theorem State.tryServe_allocated (room : (s.slice d j).misses.length < 256) :
    s.tryServe d j r = some ((s.setSlice d j { s.slice d j with
      misses := (s.slice d j).misses ++ [{ line := r.line, reqs := [r] }] }).perfAdd r.vf 5 1) := by
  simp only [State.tryServe, fresh, free, absent, cached, Nat.not_le.mpr room, decide_false, Bool.or_self, Bool.false_eq_true,
    if_false]

theorem State.tryServe_of_full_table (full : 256 ≤ (s.slice d j).misses.length) : s.tryServe d j r = none := by
  simp only [State.tryServe, fresh, free, absent, cached, full, decide_false, Bool.or_self, Bool.false_eq_true, if_false, if_true]

end
end
end

/-! ## The head of the input queue -/

/-- The state in which slice `j` looks at the request `r` at the head of its input queue: `rest` is left in the queue, and an L1 that
owns the line is pressed. -/
def State.taken (s : State) (d j : Nat) (r : SReq) (rest : List SReq) : State :=
  (s.setSlice d j { s.slice d j with inq := rest }).pressOwner r

/-- The request waits in the side queue. -/
def State.putAside (s : State) (d j : Nat) (r : SReq) : State :=
  s.setSlice d j { s.slice d j with side := (s.slice d j).side ++ [r] }

section
variable {rest : List SReq} (head : (s.slice d j).inq = r :: rest) (room : (s.slice d j).side.length < 32)
include head room

theorem execSliceRequest_joins
    (named : (((s.taken d j r rest).slice d j).side.any fun q => decide (q.line = r.line)) = true) :
    execSliceRequest d j s = .next ((s.taken d j r rest).putAside d j r) := by
  simp only [State.taken] at named
  simp only [execSliceRequest, head, Nat.not_le.mpr room, named, if_false, if_true]
  rfl

theorem execSliceRequest_tries
    (unnamed : (((s.taken d j r rest).slice d j).side.any fun q => decide (q.line = r.line)) = false) :
    execSliceRequest d j s
      = .next (((s.taken d j r rest).tryServe d j r).getD ((s.taken d j r rest).putAside d j r)) := by
  simp only [State.taken] at unnamed
  simp only [execSliceRequest, head, Nat.not_le.mpr room, unnamed, Bool.false_eq_true, if_false]
  rfl

section
variable (unnamed : (((s.taken d j r rest).slice d j).side.any fun q => decide (q.line = r.line)) = false)
include unnamed

theorem execSliceRequest_served {t : State} (served : (s.taken d j r rest).tryServe d j r = some t) :
    execSliceRequest d j s = .next t := by
  rw [execSliceRequest_tries head room unnamed, served, Option.getD_some]

theorem execSliceRequest_waits (unserved : (s.taken d j r rest).tryServe d j r = none) :
    execSliceRequest d j s = .next ((s.taken d j r rest).putAside d j r) := by
  rw [execSliceRequest_tries head room unnamed, unserved, Option.getD_none]

end
end
end

/-! ## Miss entries and the side queue (R150, R274, R276) -/

section
variable {s : State} {d j line : Nat} {r : SReq} {rest : List SReq}

theorem State.serveMiss_of_held (held : s.lineHeld d j r = true) :
    s.serveMiss d j line (r :: rest) = (s.setSlice d j ((s.slice d j).putMiss line (r :: rest))).pressOwner r := by
  simp only [State.serveMiss, held, if_true]

theorem State.serveMiss_of_free (free : s.lineHeld d j r = false) :
    s.serveMiss d j line (r :: rest)
      = ((s.setSlice d j (((s.slice d j).putMiss line rest).touch r)).serve d j r).serveMiss d j line rest := by
  simp only [State.serveMiss, free, Bool.false_eq_true, if_false]

end

/-- A line's miss entry holds what was put there. -/
theorem Slice.reqs_of_mem_putMiss {x : Slice} {line : Nat} {rs : List SReq} {m : Miss} (mem : m ∈ (x.putMiss line rs).misses)
    (named : m.line = line) : m.reqs = rs := by
  obtain ⟨mapped, -⟩ := List.mem_filter.mp mem
  obtain ⟨old, -, rfl⟩ := List.mem_map.mp mapped
  by_cases same : old.line = line
  · rw [if_pos same]
  · rw [if_neg same] at named
    exact absurd named same

section
variable {s : State} {d j : Nat}

theorem execSideQueueRetry_of_miss {m : Miss} (ready : s.missReady d j = some m) :
    execSideQueueRetry d j s = .next (s.serveMiss d j m.line m.reqs) := by
  simp only [execSideQueueRetry, ready]

theorem execSideQueueRetry_of_side {r : SReq} {u : State} (unready : s.missReady d j = none)
    (ready : s.sideReady d j [] (s.slice d j).side = some (r, u)) :
    execSideQueueRetry d j s = .next (u.setSlice d j { u.slice d j with side := (u.slice d j).side.erase r }) := by
  simp only [execSideQueueRetry, unready, ready]

theorem execWriteBackComplete_next {l : Nat}
    (arrived : (s.slice d j).wbs.find? (fun l => !(s.die d).flits.any fun f => f.writesLine l) = some l) :
    execWriteBackComplete d j s = .next ((s.setSlice d j { s.slice d j with wbs := (s.slice d j).wbs.erase l }).writeBack l) := by
  simp only [execWriteBackComplete, arrived]

/-! ## Fills (R274, R275, R416) -/

/-- The line that stands in a way of the set of `line`. -/
def Slice.victim (x : Slice) (line way : Nat) : Option LineEnt :=
  x.lines.find? fun l => decide (l.way = way) && decide (cacheSet (l.line * 128) = cacheSet (line * 128))

/-- The slice once `line` has taken the way for the request `r`, with these write-backs. -/
def Slice.filled (x : Slice) (line way : Nat) (r : SReq) (wbs : List Nat) : Slice :=
  { x with
    lines := (x.lines.filter fun l => decide (some l ≠ x.victim line way))
      ++ [{ line := line, way := way, dirty := false, pres := r.pres, vf := r.vf }]
    wbs := wbs }

section
variable {line way : Nat} {m : Miss} {r : SReq} {rest : List SReq} (entry : (s.slice d j).miss? line = some m)
  (reqs : m.reqs = r :: rest) (absent : (s.slice d j).has line = false)
  (allowed : ((s.die d).ways r.vf r.pres).getLsbD way = true)
include entry reqs absent allowed

theorem execLineFill_of_empty_way (empty : (s.slice d j).victim line way = none) :
    execLineFill d j line way s
      = .next ((s.setSlice d j ((s.slice d j).filled line way r (s.slice d j).wbs)).serveMiss d j line m.reqs) := by
  simp only [Slice.filled, empty]
  simp only [Slice.victim] at empty
  simp only [execLineFill, entry, reqs, absent, allowed, empty, Option.any_none, Option.isSome_none, Bool.not_true, Bool.or_self,
    Bool.false_and, Bool.false_eq_true, if_false]

theorem execLineFill_of_clean_victim {v : LineEnt} (stands : (s.slice d j).victim line way = some v) (clean : v.dirty = false) :
    execLineFill d j line way s
      = .next ((((s.setSlice d j ((s.slice d j).filled line way r (s.slice d j).wbs)).recall v.line).leaveClean v.line).serveMiss
          d j line m.reqs) := by
  simp only [Slice.filled, stands]
  simp only [Slice.victim] at stands
  simp only [execLineFill, entry, reqs, absent, allowed, stands, clean, Option.any_some, Option.isSome_some, Option.map_some,
    Option.getD_some, Bool.not_true, Bool.or_self, Bool.false_and, Bool.false_eq_true, if_false, if_true]

theorem execLineFill_of_dirty_victim {v : LineEnt} (stands : (s.slice d j).victim line way = some v) (dirty : v.dirty = true)
    (room : (s.slice d j).wbs.length < 16) :
    execLineFill d j line way s
      = .next ((((s.setSlice d j ((s.slice d j).filled line way r ((s.slice d j).wbs ++ [v.line]))).recall v.line).sendWriteBack
          d j v.line).serveMiss d j line m.reqs) := by
  simp only [Slice.filled, stands]
  simp only [Slice.victim] at stands
  simp only [execLineFill, entry, reqs, absent, allowed, stands, dirty, Nat.not_le.mpr room, decide_false, Option.any_some,
    Option.isSome_some, Option.map_some, Option.getD_some, Bool.not_true, Bool.or_self, Bool.and_false, Bool.false_eq_true, if_false,
    if_true]

end
end

theorem execLineYield_next {s : State} {line owner left : Nat} (owned : KMap.get? s.l1own line = some (owner, left))
    (pressed : left ≤ 16) :
    execLineYield line s = .next { s.dropL1 owner line with l1own := KMap.del s.l1own line } := by
  simp only [execLineYield, State.recall, owned, Nat.not_lt.mpr pressed, if_false]

/-! ## Additions (R116, R151, R152, R253) -/

theorem State.nextAdd_spec {s : State} {d j : Nat} {c : Contribution} (next : s.nextAdd d j = some c) :
    s.codecBusy.contains c.line = false ∧ c ∈ (s.slice d j).adds := by
  have ready := List.find?_some next
  rw [Bool.and_eq_true, Bool.not_eq_true'] at ready
  exact ⟨(Bool.not_eq_true' _).mp ready.2, List.mem_of_find?_eq_some next⟩

/-- The ordinal that a line's sequence is to take next. -/
def Slice.nextOrdinal (x : Slice) (line : Nat) : Nat := ((x.seqOf line).map fun e => e.next).getD 0

/-- A line has a sequence entry, or can be given one. -/
def Slice.seqRoom (x : Slice) (line : Nat) : Bool := (x.seqOf line).isSome || decide (x.seqs.length < 256)

/-- An open sequence of the line has length `n`. -/
def Slice.sameLength (x : Slice) (line n : Nat) : Bool := (x.seqOf line).all fun e => decide (e.n = n)

theorem Slice.ordAct_eq (x : Slice) (line n k : Nat) :
    x.ordAct line n k =
      if !x.sameLength line n || decide (k < x.nextOrdinal line) then .reject
      else if k = x.nextOrdinal line then (if x.seqRoom line || x.nextOrdinal line + 1 = n then .apply else .waits)
      else if x.seqRoom line && decide (x.merges.length < 64) then .hold else .waits := by
  have differs : ((x.seqOf line).any fun y => decide (y.n ≠ n)) = !x.sameLength line n := by
    unfold Slice.sameLength
    cases x.seqOf line with
    | none => rfl
    | some e => exact decide_not
  rw [← differs]
  rfl

section
variable {x : Slice} {line n k : Nat}

theorem Slice.ordAct_reject (bad : x.sameLength line n = false ∨ k < x.nextOrdinal line) : x.ordAct line n k = .reject := by
  rw [Slice.ordAct_eq, if_pos]
  rcases bad with other | behind
  · rw [other, Bool.not_false, Bool.true_or]
  · rw [decide_eq_true behind, Bool.or_true]

theorem Slice.ordAct_apply (same : x.sameLength line n = true) (next : k = x.nextOrdinal line)
    (room : x.seqRoom line = true ∨ x.nextOrdinal line + 1 = n) : x.ordAct line n k = .apply := by
  have fits : (x.seqRoom line || decide (x.nextOrdinal line + 1 = n)) = true := by
    rwa [Bool.or_eq_true, decide_eq_true_eq]
  simp only [Slice.ordAct_eq, same, next, fits, Nat.lt_irrefl, decide_false, Bool.not_true, Bool.or_self, Bool.false_eq_true,
    if_false, if_true]

theorem Slice.ordAct_hold (same : x.sameLength line n = true) (ahead : x.nextOrdinal line < k) (room : x.seqRoom line = true)
    (space : x.merges.length < 64) : x.ordAct line n k = .hold := by
  simp only [Slice.ordAct_eq, same, room, space, Nat.not_lt.mpr ahead.le, ahead.ne', decide_false, decide_true, Bool.not_true,
    Bool.or_self, Bool.and_self, Bool.false_eq_true, if_false, if_true]

end

section
variable {s : State} {d j : Nat} {c : Contribution} (next : s.nextAdd d j = some c)
include next

theorem execDrainAddArrive_next (unordered : c.seq = none) :
    execDrainAddArrive d j s = .next ((s.dropAdd d j c).addTo d j c) := by
  simp only [execDrainAddArrive, next, unordered, Option.isSome_none, Bool.false_eq_true, if_false]

section
variable {n k : Nat} (ordered : c.seq = some (n, k))
include ordered

theorem execOrderedContribution_next {t : State} (taken : (s.dropAdd d j c).orderedArrive d j c n k = some t) :
    execOrderedContribution d j s = .next t := by
  simp only [execOrderedContribution, next, ordered, taken]

theorem execOrderedContribution_applies (act : ((s.dropAdd d j c).slice d j).ordAct c.line n k = .apply) :
    execOrderedContribution d j s
      = .next (State.advanceSeq 64 ((s.dropAdd d j c).addTo d j c) d j c.line n (k + 1)) :=
  execOrderedContribution_next next ordered (by simp only [State.orderedArrive, act])

theorem execOrderedContribution_holds (act : ((s.dropAdd d j c).slice d j).ordAct c.line n k = .hold) :
    let u := s.dropAdd d j c
    let y := u.slice d j
    execOrderedContribution d j s = .next (u.setSlice d j
      ({ y with merges := y.merges ++ [c] }.putSeq c.line n (y.nextOrdinal c.line) u.clk.fabric)) :=
  execOrderedContribution_next next ordered (by simp only [State.orderedArrive, act, Slice.nextOrdinal])

theorem execOrderedContribution_rejects (act : ((s.dropAdd d j c).slice d j).ordAct c.line n k = .reject) :
    execOrderedContribution d j s
      = .next (((s.dropAdd d j c).raise (srcSlice d j) (seqReject d j c.vf c.line k)).tookContrib c) :=
  execOrderedContribution_next next ordered (by simp only [State.orderedArrive, act])

end
end

/-! ## Sequences that time out (R422) -/

theorem execSequenceTimeout_next {s : State} {d j line : Nat} {e : SeqEnt} (stands : (s.slice d j).seqOf line = some e)
    (timed : (s.die d).seqto.toNat % 2 ^ 24 * 256 ≠ 0) (late : e.last + (s.die d).seqto.toNat % 2 ^ 24 * 256 ≤ s.clk.fabric) :
    let v := ((s.slice d j).lowestHeld line).map fun c => c.vf
    let u := State.flushSeq 64 s d j line
    execSequenceTimeout d j line s
      = .next ((u.setSlice d j { u.slice d j with seqs := (u.slice d j).seqs.filter fun y => decide (y ≠ e) }).raise (srcSlice d j)
          (seqReject d j (v.getD 127) line e.next)) := by
  have limit : bits (s.die d).seqto.toNat 23 0 = (s.die d).seqto.toNat % 2 ^ 24 := rfl
  simp only [execSequenceTimeout, stands, limit, timed, Nat.not_lt.mpr late, decide_false, Bool.or_self, Bool.false_eq_true, if_false]

/-! ## Way masks (R86, R87, R277, R421) -/

section
variable {s : State} {d : Nat} (part : d < 4)
include part

theorem execL2sPwayWrite_of_busy (w : W32) (busy : (s.die d).wmstat.getLsbD 0 = true) :
    execL2sPwayWrite d w s = .next (s.setDie d (s.die d).maskErr) := by
  simp only [execL2sPwayWrite, Nat.not_le.mpr part, busy, if_false, if_true]

theorem execL2sPwayWrite_of_idle (w : W32) (idle : (s.die d).wmstat.getLsbD 0 = false) :
    execL2sPwayWrite d w s = .next (s.setDie d ({ s.die d with pway := w &&& 0xFFFF }.startWalk
      (decide (w &&& 0xFFFF ≠ (s.die d).pway &&& 0xFFFF)) 0 true)) := by
  simp only [execL2sPwayWrite, Nat.not_le.mpr part, idle, Bool.false_eq_true, if_false]

section
variable {v : Nat} (vf : v < 128)
include vf

theorem execL2sVfwayWrite_of_busy (w : W32) (busy : (s.die d).wmstat.getLsbD 0 = true) :
    execL2sVfwayWrite d v w s = .next (s.setDie d (s.die d).maskErr) := by
  simp only [execL2sVfwayWrite, Nat.not_le.mpr part, Nat.not_le.mpr vf, busy, decide_false, Bool.or_self, Bool.false_eq_true,
    if_false, if_true]

theorem execL2sVfwayWrite_of_idle (w : W32) (idle : (s.die d).wmstat.getLsbD 0 = false) :
    execL2sVfwayWrite d v w s = .next (s.setDie d ({ s.die d with
      vfway := KMap.put (s.die d).vfway v (w &&& 0xFFFF) }.startWalk
        (decide (KMap.getD (s.die d).vfway v 0xFFFF &&& ~~~(w &&& 0xFFFF) ≠ 0)) v false)) := by
  simp only [execL2sVfwayWrite, Nat.not_le.mpr part, Nat.not_le.mpr vf, idle, decide_false, Bool.or_self, Bool.false_eq_true,
    if_false]

end
end

/-- The walk's next pass over the slices of its die. -/
def State.walkSlices (s : State) (d : Nat) : State := ((s.die d).slices.map Prod.fst).foldl (fun u j => u.walkSlice d j) s

section
variable {s : State} {d : Nat} (busy : (s.die d).wmstat.getLsbD 0 = true)
include busy

theorem execWayWalkComplete_eq :
    execWayWalkComplete d s =
      let u := s.walkSlices d
      if (u.die d).excluded.isEmpty then .next (u.setDie d { u.die d with wmstat := (u.die d).wmstat &&& 0x8000 })
      else if (u.die d).excluded.length = (s.die d).excluded.length then .refused (.notEnabled "WAY_WALK_COMPLETE")
      else .next u := by
  simp only [execWayWalkComplete, busy, Bool.not_true, Bool.false_eq_true, if_false]
  rfl

theorem execWayWalkComplete_ends (empty : ((s.walkSlices d).die d).excluded = []) :
    execWayWalkComplete d s = .next ((s.walkSlices d).setDie d
      { (s.walkSlices d).die d with wmstat := ((s.walkSlices d).die d).wmstat &&& 0x8000 }) := by
  simp only [execWayWalkComplete_eq busy, empty, List.isEmpty_nil, if_true]

theorem execWayWalkComplete_goes_on (left : ((s.walkSlices d).die d).excluded ≠ [])
    (moved : ((s.walkSlices d).die d).excluded.length ≠ (s.die d).excluded.length) :
    execWayWalkComplete d s = .next (s.walkSlices d) := by
  simp only [execWayWalkComplete_eq busy, List.isEmpty_iff, left, moved, if_false]

end

end Sys2Proof.Machine

namespace Sys2Proof.Statements

open Sys2Proof.Machine

theorem sliceRequestsComplete : SliceRequestsComplete := by
  intro s d j r rest x head room s1 y aside sided here missed
  refine ⟨execSliceRequest_joins head room, fun unnamed => ⟨fun m entry => ⟨fun merges => ?_, fun full => ?_⟩, fun fresh =>
    ⟨fun held => ?_, fun free => ⟨fun now => ?_, fun absent cached => ⟨fun space => ?_, fun full => ?_⟩⟩⟩⟩⟩
  · exact execSliceRequest_served head room unnamed (State.tryServe_merged entry merges)
  · exact execSliceRequest_waits head room unnamed (State.tryServe_of_full_entry entry full)
  · exact execSliceRequest_waits head room unnamed (State.tryServe_of_held fresh held)
  · exact execSliceRequest_served head room unnamed (State.tryServe_served fresh free now)
  · exact execSliceRequest_served head room unnamed (State.tryServe_allocated fresh free absent cached space)
  · exact execSliceRequest_waits head room unnamed (State.tryServe_of_full_table fresh free absent cached full)

theorem missesAreServedInOrder : MissesAreServedInOrder := fun _ _ _ _ =>
  ⟨rfl, fun _ _ => ⟨State.serveMiss_of_held, State.serveMiss_of_free, fun _ => ⟨fun _ => Slice.reqs_of_mem_putMiss, rfl⟩⟩⟩

theorem sliceLinesComplete : SliceLinesComplete := by
  intro s d j x
  refine ⟨fun m ready => execSideQueueRetry_of_miss ready, fun r u unready ready => execSideQueueRetry_of_side unready ready,
    fun l arrived => execWriteBackComplete_next arrived,
    fun line way m r rest entry reqs absent allowed => ⟨fun empty => ?_, fun v stands clean => ?_, fun v stands dirty room => ?_⟩,
    fun line owner left owned pressed => execLineYield_next owned pressed⟩
  · exact execLineFill_of_empty_way entry reqs absent allowed empty
  · exact execLineFill_of_clean_victim entry reqs absent allowed stands clean
  · exact execLineFill_of_dirty_victim entry reqs absent allowed stands dirty room

theorem additionsComplete : AdditionsComplete := by
  intro s d j c x next u y
  refine ⟨execDrainAddArrive_next next, fun n k ordered =>
    ⟨fun same turn fits => ?_, fun same ahead fits space => ?_, fun bad => ?_⟩, State.nextAdd_spec next⟩
  · exact execOrderedContribution_applies next ordered (Slice.ordAct_apply same turn fits)
  · exact execOrderedContribution_holds next ordered (Slice.ordAct_hold same ahead fits space)
  · exact execOrderedContribution_rejects next ordered (Slice.ordAct_reject bad)

theorem sequenceTimeoutCompletes : SequenceTimeoutCompletes := fun _ _ _ _ _ stands timed late =>
  execSequenceTimeout_next stands timed late

theorem wayMaskStepsComplete : WayMaskStepsComplete := by
  intro s d v w part x
  refine ⟨fun busy => ⟨?_, fun vf => ?_⟩, fun idle => ⟨?_, fun vf => ?_⟩, fun busy => ⟨fun empty => ?_, fun left moved => ?_⟩⟩
  · exact execL2sPwayWrite_of_busy part w busy
  · exact execL2sVfwayWrite_of_busy part vf w busy
  · exact execL2sPwayWrite_of_idle part w idle
  · exact execL2sVfwayWrite_of_idle part vf w idle
  · exact execWayWalkComplete_ends busy empty
  · exact execWayWalkComplete_goes_on busy left moved

end Sys2Proof.Statements

namespace Sys2Proof.Proofs

/-- Settles O42: each step of the slices by its case, and the outcome of an ordered addition by what `Slice.ordAct` answers. -/
theorem sliceStepsComplete : Obligations.SliceStepsComplete :=
  ⟨Statements.sliceRequestsComplete, Statements.missesAreServedInOrder, Statements.sliceLinesComplete, Statements.additionsComplete,
    Statements.sequenceTimeoutCompletes, Statements.wayMaskStepsComplete⟩

end Sys2Proof.Proofs
end

section
/-! PROOFS. Floating-point words and special functions: a word whose lanes raise no exception that the launch traps completes with
its rounded results (R123, R136, R137, R198-R203). -/

namespace Sys2Proof.Machine

/-! ## A word that issues completes with the results of its body -/

section
variable {i : Instr} {sp : Spec} {body : Iss → State → Res} (runs : ∀ s, exec i s = issue sp body s)
include runs

theorem Fixed.of_body {lat : Nat} {ws : State → Iss → List (Nat × Mask × Reg)} {ps : State → Iss → List (Nat × Mask × Mask)}
    (effect : ∀ s x, body x s = .fixed lat (ws s x) (ps s x)) : Fixed i sp lat ws ps := by
  intro s s1 x issues
  rw [runs, issue_of_issues issues, effect, finish_fixed]

theorem FixedF.of_body {lat : Nat} {r : Iss → Nat → FRes} {ws : Iss → List (Nat × Mask × Reg)} {ps : Iss → List (Nat × Mask × Mask)}
    (effect : ∀ s x, fpTrap (s.launch x.g.launch).hdr x (r x) = none → body x s = .fixed lat (ws x) (ps x)) :
    FixedF i sp lat r ws ps := by
  intro s s1 x issues untrapped
  rw [runs, issue_of_issues issues, effect s1 x untrapped, finish_fixed]

theorem LaterF.of_body {r : Iss → Nat → FRes} {ws : Iss → List (Nat × Reg)}
    (effect : ∀ s x, fpTrap (s.launch x.g.launch).hdr x (r x) = none → body x s = .later (ws x)) : LaterF i sp r ws := by
  intro s s1 x issues untrapped
  rw [runs, issue_of_issues issues, effect s1 x untrapped, finish_later]

end

/-! ## Floating-point results -/

theorem Iss.fltRes_of_untrapped {x : Iss} {s : State} {r : Nat → FRes} (untrapped : fpTrap (s.launch x.g.launch).hdr x r = none)
    (lat : Nat) (f : FFmt) (d : Nat) : x.fltRes s lat f d r = .fixed lat (x.putF f d fun l => (r l).bits) [] := by
  simp only [Iss.fltRes, untrapped]

/-- A word whose body is the floating-point result `r` of its lanes completes with the bits of `r` (R123, R198). -/
theorem FixedF.of_fltRes {i : Instr} {sp : Spec} {lat d : Nat} {f : FFmt} {r : Iss → Nat → FRes}
    (runs : ∀ s, exec i s = issue sp (fun x s => x.fltRes s lat f d (r x)) s) :
    FixedF i sp lat r (fun x => x.putF f d fun l => (r x l).bits) (fun _ => []) :=
  FixedF.of_body runs fun _ _ untrapped => Iss.fltRes_of_untrapped untrapped lat f d

/-- A special function completes with its lanes' bits as a variable-latency result (R198, R203). -/
theorem LaterF.of_sfu (g : FFmt → Rm → Nat → FRes) {i : Instr} {o : V3} {types : List Nat} {anyRm : Bool}
    (runs : ∀ s, exec i s = sfu i o types anyRm g s) :
    LaterF i (fltSpec o i fu1 types [0] { rm := anyRm, na := true, nb := false, nc := false, aa := true })
      (fun x l => g (fmtOf o.ty.toNat) (rmOf o.rm.toNat) (x.fA o l))
      (fun x => (x.putF (fmtOf o.ty.toNat) o.d.toNat fun l =>
        (g (fmtOf o.ty.toNat) (rmOf o.rm.toNat) (x.fA o l)).bits).map fun w => (w.1, w.2.2)) :=
  LaterF.of_body runs fun _ _ untrapped => by simp only [untrapped]

end Sys2Proof.Machine

namespace Sys2Proof.Statements

open Sys2Proof.Machine

theorem floatArithmeticCompletes : FloatArithmeticCompletes := by
  intro o t f rm lat d np put m2 un ty ar
  refine ⟨?fadd, ?fsub, ?fmul, ?ffma, ?fmin, ?fmax, ?frnd, ?fcmp, ?fsel⟩
  case fadd | fsub | fmul | ffma | fmin | fmax | frnd => exact FixedF.of_fltRes fun _ => rfl
  case fcmp =>
    refine FixedF.of_body (fun _ => rfl) fun s x untrapped => ?_
    simp only [f, t] at untrapped
    simp only [untrapped]
    rfl
  case fsel => exact Fixed.of_body (fun _ => rfl) fun _ _ => rfl

theorem specialFunctionsComplete : SpecialFunctionsComplete := fun _ =>
  ⟨LaterF.of_sfu (fun f _ => fRcp f) fun _ => rfl, LaterF.of_sfu (fun f _ => fRsq f) fun _ => rfl, LaterF.of_sfu fSqrt fun _ => rfl,
    LaterF.of_sfu (fun f _ => fExp2 f) fun _ => rfl, LaterF.of_sfu (fun f _ => fLog2 f) fun _ => rfl,
    LaterF.of_sfu (fun f _ => fSinCos false f) fun _ => rfl, LaterF.of_sfu (fun f _ => fSinCos true f) fun _ => rfl⟩

end Sys2Proof.Statements

namespace Sys2Proof.Proofs

/-- Settles O4: an arithmetic word's body is its lanes' rounded results, which complete where none of them traps; a comparison gives
a predicate, a selection moves bits, and a special function's result is one of variable latency. -/
theorem floatWordsComplete : Obligations.FloatWordsComplete :=
  ⟨Statements.floatArithmeticCompletes, Statements.specialFunctionsComplete⟩

end Sys2Proof.Proofs
end

section
/-! PROOFS. Stores, atomics, hints, the scratchpad and monitors: the words complete, and the bytes outside their lanes' places stay
(R82, R138, R142, R150, R155, R169, R220-R226). -/

namespace Sys2Proof.Machine

open Sys2Proof.Statements

/-! ## Words whose effect reads the core that the issue found -/

section
variable {i : Instr} {sp : Spec} {p : State → Iss → Prop} {q : State → Iss → State → Prop}

/-- A word that issues is over once its body is, which runs in the core that the issue found. -/
theorem DoneWith.of_issued_body {body : Iss → State → Res} (runs : ∀ s, exec i s = issue sp body s)
    (effect : ∀ s x, s.core x.c = x.k → p s x → ∃ t, body x s = .done t ∧ q s x t) : DoneWith i sp p q := by
  intro s s1 x issues holds
  obtain ⟨-, settled, -, -⟩ := State.issuer_eq_some issues.turn
  obtain ⟨t, done, gives⟩ := effect s1 x (by rw [settled, State.core_setCore_self]) holds
  exact ⟨t, by rw [runs, issue_of_issues issues, done, finish_done], gives⟩

/-- The issue of a word leaves memory as it was. -/
theorem Issues.same {s s1 : State} {x : Iss} (issues : Issues s sp s1 x) : SameMem s s1 := by
  obtain ⟨-, settled, -, -⟩ := State.issuer_eq_some issues.turn
  rw [settled]
  exact State.setCore_same ..

/-- A byte that the effect of a word leaves alone is after the word what it was before. -/
theorem DoneWith.byte (completes : DoneWith i sp p q) {s s1 t : State} {x : Iss} {a : Nat} (issues : Issues s sp s1 x)
    (holds : p s1 x) (kept : ∀ s2, q s1 x s2 → s2.byte a = s1.byte a) (runs : exec i s = .next t) : t.byte a = s.byte a := by
  obtain ⟨s2, done, effect⟩ := completes s s1 x issues holds
  rw [runs] at done
  cases done
  rw [(State.afterDone_same ..).byte, kept s2 effect, issues.same.byte]

end

/-! ## Loads and stores (R138, R220, R222) -/

section
variable {i : Instr} {sp : Spec} {z r : Nat} {addrs : Iss → List (Nat × Nat)}

theorem DoneWith.of_loadBody (runs : ∀ s, exec i s = issue sp (fun x s => loadBody z r (addrs x) x s) s) (ps : List (Nat × Reach)) :
    DoneWith i sp (fun s x => s.reachAll x (addrs x) (szBytes z) .rd = .ok ps) (fun s x s2 => Loaded z r (addrs x) ps s x s2) := by
  refine DoneWith.of_body runs fun s x reaches => ?_
  have noted := s.noteAll_same x ((addrs x).map Prod.snd) .rd
  unfold loadBody
  simp only [reaches]
  generalize s.noteAll x ((addrs x).map Prod.snd) .rd = u at noted ⊢
  have loaded := u.loadReqs_same x none (placeLines ps) (u.core x.c).nextId
  exact ⟨_, rfl, _, _, noted.trans loaded, rfl⟩

theorem ld_loads (o : MF) (ps : List (Nat × Reach)) :
    DoneWith (.ld o) (loadSpec (.ld o) o [2]) (fun s x => s.reachAll x (x.memAddrs o) (szBytes o.size.toNat) .rd = .ok ps)
      (fun s x s2 => Loaded o.size.toNat o.d.toNat (x.memAddrs o) ps s x s2) :=
  DoneWith.of_loadBody (addrs := fun x => x.memAddrs o) (fun _ => rfl) ps

theorem State.laneStores_same (s : State) (ps : List (Nat × Reach)) (data : Nat → List Byte) :
    SameMem (s.storeAll (laneStores ps data)) (s.storePlaces ps data) := s.storePlaces_same ps data

theorem DoneWith.of_storeBody (runs : ∀ s, exec i s = issue sp (fun x s => storeBody z r (addrs x) x s) s)
    (ps : List (Nat × Reach)) :
    DoneWith i sp (fun s x => s.reachAll x (addrs x) (szBytes z) .wr = .ok ps)
      (fun s x s2 => SameMem (s.storeAll (laneStores ps fun l => leBytes (szBytes z) (x.wide r (szRegs z) l))) s2) := by
  refine DoneWith.of_body runs fun s x reaches => ?_
  unfold storeBody
  simp only [reaches]
  exact ⟨_, rfl, ((State.laneStores_same ..).trans (State.noteAll_same ..)).trans (State.sendReqs_same ..)⟩

end

theorem mem_laneStores {ps : List (Nat × Reach)} {data : Nat → List Byte} {w : Nat × List Byte} :
    w ∈ laneStores ps data ↔ ∃ l pa pres, (l, Reach.mem pa pres) ∈ ps ∧ w = (pa, data l) := by
  simp only [laneStores, List.mem_filterMap]
  constructor
  · rintro ⟨⟨l, place⟩, listed, stored⟩
    cases place with
    | mem pa pres => exact ⟨l, pa, pres, listed, (Option.some.inj stored).symm⟩
    | mmio pg off => cases stored
  · rintro ⟨l, pa, pres, listed, rfl⟩
    exact ⟨_, listed, rfl⟩

/-- Stores of `n` bytes of each lane at its place leave a byte outside the places alone. -/
theorem SameMem.byte_of_outside {s s2 : State} {ps : List (Nat × Reach)} {n a : Nat} {val : Nat → Nat}
    (same : SameMem (s.storeAll (laneStores ps fun l => leBytes n (val l))) s2) (out : outside ps n a) : s2.byte a = s.byte a := by
  refine (same.byte a).trans (State.storeAll_reads s _ a fun w stored => ?_)
  obtain ⟨l, pa, pres, listed, rfl⟩ := mem_laneStores.mp stored
  rw [leBytes_length]
  exact out _ listed pa pres rfl

/-! ## The lanes of an atomic (R150, R223, R224) -/

theorem mem_atomLanes {x : Iss} {n id : Nat} {returns : Bool} {fn : Nat → AtomFn} {ps : List (Nat × Reach)} {b : AtomLane}
    (lane : b ∈ atomLanes x n returns fn id ps) : b.size = n ∧ ∃ l, (l, Reach.mem b.pa b.pres) ∈ ps := by
  obtain ⟨⟨l, place⟩, listed, made⟩ := List.mem_filterMap.mp lane
  cases place with
  | mem pa pres =>
    cases made
    exact ⟨rfl, l, listed⟩
  | mmio pg off => cases made

theorem atomLanes_outside {ps : List (Nat × Reach)} {n a : Nat} (out : outside ps n a) {x : Iss} {id : Nat} {returns : Bool}
    {fn : Nat → AtomFn} {b : AtomLane} (lane : b ∈ atomLanes x n returns fn id ps) : a < b.pa ∨ b.pa + b.size ≤ a := by
  obtain ⟨size, l, listed⟩ := mem_atomLanes lane
  rw [size]
  exact out _ listed _ _ rfl

theorem Owned.congr {s t : State} {c : Nat} {a : AtomLane} (owned : Owned s c a) (own : t.l1own = s.l1own)
    (atoms : (t.core c).atoms = (s.core c).atoms) (poisoned : t.poisoned a.pa = s.poisoned a.pa)
    (ways : t.bypasses a = s.bypasses a) : Owned t c a := by
  obtain ⟨free, alone, clean, served⟩ := owned
  refine ⟨by rw [own]; exact free, ?_, poisoned.trans clean, ways.trans served⟩
  rw [Core.atomsAt_nil, atoms]
  exact Core.atomsAt_nil.mp alone

/-- The lanes run line by line as their lines are taken in turn. -/
theorem ranLanes_byLine (lanes : List AtomLane) (s : State) :
    ranLanes (byLine lanes) s = ((lanes.map fun a => lineOf a.pa).eraseDups).foldl
      (fun s l => s.storeLanes (lanes.filter fun a => decide (lineOf a.pa = l))) s := by
  rw [ranLanes, byLine, List.foldl_flatMap]
  rfl

/-- Where the core's L1 owns the lines of an atomic's lanes, all of them run as the atomic starts. -/
theorem State.startAtoms_owned {s t : State} {c : Nat} {lanes : List AtomLane} (homes : SameHomes s t)
    (owned : ∀ a ∈ lanes, Owned t c a) : SameHomes (ranLanes (byLine lanes) s) (t.startAtoms c lanes) := by
  rw [ranLanes_byLine]
  refine State.startLines_owned c lanes _ t s (nodup_eraseDups _ _ le_rfl) homes (fun l line => ?_) fun a lane => ?_
  · obtain ⟨a, lane, rfl⟩ := List.mem_map.mp (List.mem_eraseDups.mp line)
    obtain ⟨free, alone, -, -⟩ := owned a lane
    exact ⟨free, alone⟩
  · obtain ⟨-, -, clean, served⟩ := owned a lane
    exact ⟨clean, served⟩

theorem laneIsDone : LaneIsDone := by
  intro s c a clean old
  refine ⟨(State.doLane_mem clean).mem, fun returns o out here => ?_⟩
  rw [State.doLane_good clean, if_pos returns, State.storeAll_outs, State.core_setCore_self]
  refine ⟨_, List.mem_map.mpr ⟨o, out, if_pos here⟩, here, fun i d dest => ?_⟩
  have numbered : o.dests.zipIdx[i]? = some (d, i) := by simp [List.getElem?_zipIdx, dest]
  exact ⟨_, (List.getElem?_map ..).trans (congrArg _ numbered), rfl, rfl, rfl⟩

/-! ## Atomics (R169, R223, R224) -/

/-- What an atomic word with the lanes' places `ps` does: its result is outstanding, and its lanes' atomics start. -/
def AtomStarted (o : MF) (d n : Nat) (fn : Iss → Nat → AtomFn) (ps : List (Nat × Reach)) (s : State) (x : Iss) (s2 : State) :
    Prop :=
  ∃ s3, SameMem s s3 ∧ s2 = (s3.addResult x d (List.replicate n 0) 0 (laneVas (x.atomAddrs o)) 0 false []).startAtoms x.c
    (atomLanes x (szBytes o.size.toNat) (decide (n ≠ 0)) (fn x) x.k.nextId ps)

theorem AtomStarted.byte {o : MF} {d n : Nat} {fn : Iss → Nat → AtomFn} {ps : List (Nat × Reach)} {s s2 : State} {x : Iss}
    (starts : AtomStarted o d n fn ps s x s2) {a : Nat} (out : outside ps (szBytes o.size.toNat) a) : s2.byte a = s.byte a := by
  obtain ⟨s3, same, rfl⟩ := starts
  rw [State.startAtoms_byte _ _ _ _ fun b lane => atomLanes_outside out lane, (State.addResult_same ..).byte, same.byte]

theorem atomBody_done {o : MF} {d n : Nat} {fn : Iss → Nat → AtomFn} {ps : List (Nat × Reach)} {s : State} {x : Iss}
    (core : s.core x.c = x.k) (reaches : s.reachAtoms x (x.atomAddrs o) (szBytes o.size.toNat) .wr = .ok ps) :
    atomBody o d n fn x s = .done (((s.noteAll x ((x.atomAddrs o).map Prod.snd) .wr).addResult x d (List.replicate n 0) 0
      (laneVas (x.atomAddrs o)) 0 false []).startAtoms x.c
        (atomLanes x (szBytes o.size.toNat) (decide (n ≠ 0)) (fn x) x.k.nextId ps)) := by
  simp only [atomBody, reaches, (s.noteAll_but x _ _).next, core]

section
variable {i : Instr} {sp : Spec} {o : MF} {d n : Nat} {fn : Iss → Nat → AtomFn}
  (runs : ∀ s, exec i s = issue sp (atomBody o d n fn) s) (ps : List (Nat × Reach))
include runs

theorem DoneWith.of_atomBody :
    DoneWith i sp (fun s x => s.reachAtoms x (x.atomAddrs o) (szBytes o.size.toNat) .wr = .ok ps) (AtomStarted o d n fn ps) :=
  DoneWith.of_issued_body runs fun _ _ core reaches => ⟨_, atomBody_done core reaches, _, State.noteAll_same .., rfl⟩

theorem exec_byte_of_atomBody {ps : List (Nat × Reach)} {a : Nat} (out : outside ps (szBytes o.size.toNat) a)
    {s s1 t : State} {x : Iss} (issues : Issues s sp s1 x)
    (reaches : s1.reachAtoms x (x.atomAddrs o) (szBytes o.size.toNat) .wr = .ok ps)
    (done : exec i s = .next t) : t.byte a = s.byte a :=
  (DoneWith.of_atomBody runs ps).byte issues reaches (fun _ starts => starts.byte out) done

/-- The lanes of an atomic all run in its issue where the core's L1 owns their lines. -/
theorem DoneWith.of_owned_atomBody {returns : Bool} (result : decide (n ≠ 0) = returns) :
    DoneWith i sp
      (fun s x => s.reachAtoms x (x.atomAddrs o) (szBytes o.size.toNat) .wr = .ok ps
        ∧ ∀ a ∈ atomLanes x (szBytes o.size.toNat) returns (fn x) x.k.nextId ps, Owned s x.c a)
      (fun s x s2 => SameMem (ranLanes (byLine (atomLanes x (szBytes o.size.toNat) returns (fn x) x.k.nextId ps)) s) s2) := by
  subst result
  refine DoneWith.of_issued_body runs fun s x core ⟨reaches, owned⟩ => ⟨_, atomBody_done core reaches, ?_⟩
  have noted := s.noteAll_but x ((x.atomAddrs o).map Prod.snd) .wr
  generalize s.noteAll x ((x.atomAddrs o).map Prod.snd) .wr = u at noted ⊢
  refine (State.startAtoms_owned (noted.homes.trans (SameHomes.of_eq (State.addResult_same ..) rfl)) fun a lane => ?_).mem
  exact Owned.congr (Owned.congr (owned a lane) noted.own noted.atoms (noted.poisoned _) (noted.ways a)) rfl
    (State.addResult_atoms ..) rfl rfl

end

theorem szRegs_ne_zero (z : Nat) : szRegs z ≠ 0 := by
  unfold szRegs
  split <;> decide

/-! ## `WAITA` (R225) -/

/-- The bytes of the lanes' places, as numbers. -/
def State.placeVals (s : State) (ps : List (Nat × Reach)) (n : Nat) : List (Nat × Nat) :=
  ps.map fun p => (p.1, leNat (s.placeBytes p.2 n))

/-- The state once `WAITA` has read the lanes' places: what it found is on its way to vD. -/
def State.waitaReads (s : State) (x : Iss) (o : MF) (ps : List (Nat × Reach)) : State :=
  let u := s.noteAll x ((x.atomAddrs o).map Prod.snd) .rd
  let loads := u.loadReqs x none (placeLines ps) (u.core x.c).nextId
  loads.1.addResult x o.d.toNat (laneRegs (szRegs o.size.toNat) (s.placeVals ps (szBytes o.size.toNat))) (s.poisonMask ps)
    (laneVas (x.atomAddrs o)) loads.2 false []

/-- The monitors that `WAITA` puts into its quarter's table, one for each line. -/
def waitaMonitors (x : Iss) (ps : List (Nat × Reach)) : List (Nat × Nat × EntId) :=
  (placeLines ps).map fun l => (l.1, x.slot, x.e.id)

/-- The quarter of an issue in state `t`. -/
def State.issueQuarter (t : State) (x : Iss) : Quarter := (t.core x.c).quarter (quarterOf x.slot)

/-- The entry past a `WAITA` in state `t`, with its monitors armed. -/
def State.waitaWaits (t : State) (x : Iss) (ps : List (Nat × Reach)) : State :=
  t.setCore x.c (((t.core x.c).setQuarter (quarterOf x.slot) { t.issueQuarter x with
    monitors := (t.issueQuarter x).monitors ++ waitaMonitors x ps }).setEntry x.slot { x.e with
      pc := x.e.pc + 8, wait := .monitor, waitFrom := x.now, retried := false })

/-- The facts of `WAITA`. -/
def waitaSpec (o : MF) : Spec :=
  { instr := .waita o, g := o.g, dsts := [(o.d.toNat, szRegs o.size.toNat)]
    srcs := [(o.a.toNat, 2), (o.b.toNat, szRegs o.size.toNat)]
    fields := atomOk o [0, 1, 2, 3] [o.d.toNat, o.b.toNat] [] && decide ((aopOf o) = 0) }

/-- Each value that `WAITA` found equals vB in its lane. -/
def WaitaSame (o : MF) (ps : List (Nat × Reach)) (s : State) (x : Iss) : Prop :=
  ∀ v ∈ s.placeVals ps (szBytes o.size.toNat), v.2 = x.wide o.b.toNat (szRegs o.size.toNat) v.1

section
variable {o : MF} {ps : List (Nat × Reach)} {s s1 : State} {x : Iss} (issues : Issues s (waitaSpec o) s1 x)
  (reaches : s1.reachAtoms x (x.atomAddrs o) (szBytes o.size.toNat) .rd = .ok ps)
include issues reaches

/-- A `WAITA` that reaches its places goes on, or waits for a write, as what it found and the monitor table say. -/
theorem exec_waita :
    exec (.waita o) s = s1.finish x (waitaSpec o) (
      let t := s1.waitaReads x o ps
      if !((s1.placeVals ps (szBytes o.size.toNat)).all fun v => decide (v.2 = x.wide o.b.toNat (szRegs o.size.toNat) v.1))
          || decide (32 < (t.issueQuarter x).monitors.length + (waitaMonitors x ps).length)
      then .done t else .moved (t.waitaWaits x ps)) := by
  refine (issue_of_issues issues _).trans ?_
  simp only [reaches]
  rfl

theorem exec_waita_of_differ (differ : ¬ WaitaSame o ps s1 x) :
    exec (.waita o) s = .next ((s1.waitaReads x o ps).afterDone x (waitaSpec o)) := by
  have found : ((s1.placeVals ps (szBytes o.size.toNat)).all fun v =>
      decide (v.2 = x.wide o.b.toNat (szRegs o.size.toNat) v.1)) = false := by
    rw [Bool.eq_false_iff, ne_eq, List.all_eq_true]
    simpa only [WaitaSame, decide_eq_true_eq] using differ
  rw [exec_waita issues reaches]
  simp only [found, Bool.not_false, Bool.true_or, if_true, finish_done]

theorem exec_waita_of_full (full : 32 < ((s1.waitaReads x o ps).issueQuarter x).monitors.length + (waitaMonitors x ps).length) :
    exec (.waita o) s = .next ((s1.waitaReads x o ps).afterDone x (waitaSpec o)) := by
  rw [exec_waita issues reaches]
  simp only [full, decide_true, Bool.or_true, if_true, finish_done]

theorem exec_waita_of_room (same : WaitaSame o ps s1 x)
    (room : ((s1.waitaReads x o ps).issueQuarter x).monitors.length + (waitaMonitors x ps).length ≤ 32) :
    exec (.waita o) s = .next (((s1.waitaReads x o ps).waitaWaits x ps).afterMoved x (waitaSpec o)) := by
  have found : ((s1.placeVals ps (szBytes o.size.toNat)).all fun v =>
      decide (v.2 = x.wide o.b.toNat (szRegs o.size.toNat) v.1)) = true := by
    rw [List.all_eq_true]
    simpa only [WaitaSame, decide_eq_true_eq] using same
  rw [exec_waita issues reaches]
  simp only [found, Nat.not_lt.mpr room, Bool.not_true, decide_false, Bool.or_self, Bool.false_eq_true, if_false, finish_moved]

end

end Sys2Proof.Machine

namespace Sys2Proof.Statements

open Sys2Proof.Machine

theorem prefetchAndFenceComplete : PrefetchAndFenceComplete :=
  ⟨fun _ => Done.of_body (fun _ => rfl) fun _ _ _ => rfl, fun _ => Done.of_body (fun _ => rfl) fun _ _ _ => rfl⟩

theorem scratchpadAccessesComplete : ScratchpadAccessesComplete := by
  intro o z n w
  refine ⟨DoneWith.of_body (fun _ => rfl) fun s x ⟨inside, unheld⟩ => ?_, Done.of_body (fun _ => rfl) fun s x inside => ?_⟩
  · simp only [w, n, z] at inside unheld ⊢
    simp only [inside, unheld]
    exact ⟨_, rfl, _, rfl⟩
  · simp only [w, n, z] at inside ⊢
    simp only [inside]

theorem waitaCompletes : WaitaCompletes := by
  intro o ps z n sp reaches vals found same
  have reads : ∀ s x, found s x (s.waitaReads x o ps) := fun s x =>
    ⟨_, _, (State.noteAll_same ..).trans (State.loadReqs_same ..), rfl⟩
  refine ⟨fun s s1 x issues ⟨reach, differ⟩ => ⟨_, exec_waita_of_differ issues reach differ, reads s1 x⟩,
    fun s s1 x issues reach equal => ⟨_, reads s1 x, ?_⟩⟩
  exact ⟨exec_waita_of_full issues reach, exec_waita_of_room issues reach equal⟩

end Sys2Proof.Statements

namespace Sys2Proof.Proofs

open Sys2Proof.Machine Sys2Proof.Statements

/-- Settles O13: both words store what their lanes hold at the places that the checks found. -/
theorem storesComplete : Obligations.StoresComplete :=
  ⟨fun _ => DoneWith.of_storeBody fun _ => rfl, fun _ => DoneWith.of_storeBody fun _ => rfl⟩

/-- Settles O14: each word completes with an effect on memory that stays within its lanes' places. -/
theorem memoryOutsideStoresUnchanged : Obligations.MemoryOutsideStoresUnchanged := by
  refine ⟨fun o ps s s1 x t a out => ⟨fun issues reaches => ?_, fun i sp word issues reaches => ?_⟩,
    fun o ps s s1 x t a out issues reaches => ?_, fun o ps s s1 x t a issues reaches => ?_⟩
  · exact (storesComplete.1 o ps).byte issues reaches fun _ same => same.byte_of_outside out
  · simp only [List.mem_cons, Prod.mk.injEq, List.not_mem_nil, or_false] at word
    rcases word with ⟨rfl, rfl⟩ | ⟨rfl, rfl⟩ | ⟨rfl, rfl⟩
    · exact exec_byte_of_atomBody (fun _ => rfl) out issues reaches
    · exact exec_byte_of_atomBody (fun _ => rfl) out issues reaches
    · exact exec_byte_of_atomBody (fun _ => rfl) out issues reaches
  · exact (storesComplete.2 o ps).byte issues reaches fun _ same => same.byte_of_outside out
  · exact (ld_loads o ps).byte issues reaches fun _ ⟨_, _, same, load⟩ => by rw [load, (State.addResult_same ..).byte, same.byte]

/-- Settles O15: the three words are `atomBody` with their functions; where the L1 owns the lines, `State.startAtoms_owned` runs all
the lanes. -/
theorem atomicsComplete : Obligations.AtomicsComplete := by
  refine ⟨fun o ps => ?_, laneIsDone⟩
  have returns : decide (szRegs o.size.toNat ≠ 0) = true := decide_eq_true (szRegs_ne_zero _)
  exact ⟨DoneWith.of_atomBody (fun _ => rfl) ps, DoneWith.of_atomBody (fun _ => rfl) ps, DoneWith.of_atomBody (fun _ => rfl) ps,
    DoneWith.of_owned_atomBody (fun _ => rfl) ps returns, DoneWith.of_owned_atomBody (fun _ => rfl) ps returns,
    DoneWith.of_owned_atomBody (fun _ => rfl) ps rfl⟩

/-- Settles O16: `PRF` and `FENCE` have no effect, `LDS` and `STS` no more than their own, and `WAITA` goes by what it finds. -/
theorem hintsScratchpadAndMonitorsComplete : Obligations.HintsScratchpadAndMonitorsComplete :=
  ⟨prefetchAndFenceComplete, scratchpadAccessesComplete, waitaCompletes⟩

end Sys2Proof.Proofs
end

section
/-! PROOFS. Routers and messages between dies: a flit follows its next turn, held messages are released by their counts, and beacons
say where a die's counts stand (R149, R266-R270). -/

namespace Sys2Proof.Machine

/-! ## The next turn of a flit (R266-R268, R270) -/

section
variable {s : State} {d : Nat} {f : Flit}

theorem State.turnFlit_of_waits (waits : f.waits = true) : s.turnFlit d f = s.startPacket d f := by
  simp only [State.turnFlit, waits, if_true]

section
variable (moving : f.waits = false)
include moving

theorem State.turnFlit_of_bad_list (bad : f.turns.getLsbD 15 = false ∨ 4 < f.turns.toNat % 8) :
    s.turnFlit d f = some (s.dropFlit d f) := by
  have dropped : (!f.turns.getLsbD 15 || decide (4 < f.turns.toNat % 8)) = true := by simpa using bad
  simp only [State.turnFlit, moving, dropped, Bool.false_eq_true, if_false, if_true]

variable (valid : f.turns.getLsbD 15 = true)
include valid

theorem State.turnFlit_inside (low : 1 ≤ f.turns.toNat % 8) (high : f.turns.toNat % 8 ≤ 3) :
    s.turnFlit d f = some (s.moveFlit d f (3 + f.turns.toNat % 8)) := by
  have known : ¬ 4 < f.turns.toNat % 8 := by omega
  have turns : f.turns.toNat % 8 ≠ 0 := by omega
  have inner : f.turns.toNat % 8 ≠ 4 := by omega
  simp [State.turnFlit, moving, valid, known, turns, inner]

theorem State.turnFlit_external (turn : f.turns.toNat % 8 = 4) :
    s.turnFlit d f = if f.router % 4 = 3 then s.leavePort d f else some (s.moveFlit d f 7) := by
  simp [State.turnFlit, moving, valid, turn]

theorem State.turnFlit_end (turn : f.turns.toNat % 8 = 0) (first : (s.die d).behind f = false) :
    s.turnFlit d f =
      if f.dstDie = d then
        if f.dstRouter = f.router then s.deliverFlit d f
        else some (if (s.die d).anyDown then s.putFlit d f (s.onward d f) else s.dropFlit d f)
      else if f.router ≠ gatewayRouter d (s.nextHop d f.dstDie) then some (s.putFlit d f (s.fresh d f))
      else s.crossGateway d f := by
  simp [State.turnFlit, moving, valid, turn, first]

end

theorem State.leavePort_of_gateway (gateway : f.router ≠ 15) :
    s.leavePort d f = some ((s.setDie d { s.die d with flits := (s.die d).flits.erase f }).linkSend d (gatewayDie d f.router) f
      f.stamp) := by
  simp only [State.leavePort, gateway, if_false]

theorem State.leavePort_of_write {a : Nat} {w : List W32} (memc : f.router = 15) (write : f.msg = .write a w) :
    s.leavePort d f = some (s.setDie d { s.die d with flits := (s.die d).flits.erase f }) := by
  simp only [State.leavePort, memc, write, if_true]

theorem State.leavePort_of_not_write (memc : f.router = 15) (other : ∀ a w, f.msg ≠ .write a w) :
    s.leavePort d f = some (s.dropFlit d f) := by
  rw [State.leavePort, if_pos memc]
  split
  case h_1 a w write => exact absurd write (other a w)
  case h_2 => rfl

/-! ## A flit at its router -/

section
variable {id : Nat} (here : (s.die d).flits.find? (fun f => decide (f.id = id)) = some f)
  (up : ((s.die d).link f.via).down = false) (serves : (s.die d).failed f.via = false) (good : f.crc = flitCrc f)
include here up serves good

/-- A bad CRC makes the link send the flit again. -/
theorem execRouterFlit_resent {e : BitVec 16} (err : e ≠ 0#16) :
    execRouterFlit d id e s = .next (((s.setDie d
      ((s.die d).setRLink f.via (((s.die d).link f.via).resent 1 s.clk.time))).putFlit d f { f with resends := f.resends + 1 }).noteCorrection (srcRouter d f.router)) := by
  have bad : (f.crc ^^^ e) ≠ flitCrc f := by
    rw [← good]
    simpa using err
  simp only [execRouterFlit, here, up, serves, Bool.or_self, Bool.false_eq_true, if_false, if_pos bad]

/-- A flit with a good CRC follows its next turn. -/
theorem execRouterFlit_turns {v : State} (turn : s.turnFlit d f = some v) : execRouterFlit d id 0 s = .next v := by
  have intact : ¬ (f.crc ^^^ 0) ≠ flitCrc f := by simpa using good
  simp only [execRouterFlit, here, up, serves, Bool.or_self, Bool.false_eq_true, if_false, if_neg intact, turn]

end
end

/-! ## Messages between dies (R149) -/

section
variable {s : State}

theorem execCrossDieReceive_next {d : Nat} {h : Held}
    (first : (s.die d).heldMsgs.find? (fun h => (s.die d).mayRelease d h) = some h) :
    execCrossDieReceive d s = .next (s.release d h) := by
  simp only [execCrossDieReceive, first]

theorem execBeacon_next {d e : Nat} (src : d < 5) (dst : e < 5) (apart : d ≠ e)
    (moved : (s.die d).ownCount d e ≠ getAt (s.die d).sent e 0) : execBeacon d e s = .next (s.sendBeacon d e) := by
  have due : (s.die d).beaconDue d e = true := decide_eq_true moved
  simp only [execBeacon, Nat.not_le.mpr src, Nat.not_le.mpr dst, apart, due, decide_false, Bool.or_self, Bool.not_true,
    Bool.false_eq_true, if_false]

end

end Sys2Proof.Machine

namespace Sys2Proof.Statements

open Sys2Proof.Machine

theorem routerFlitsComplete : RouterFlitsComplete := by
  intro s d id f here x l t up serves good
  have turns : ∀ v, s.turnFlit d f = some v → exec (.routerFlit d id 0) s = .next v :=
    fun v => execRouterFlit_turns here up serves good
  refine ⟨fun e err => execRouterFlit_resent here up serves good err, fun waits v starts => ?_, fun moving => ⟨fun bad => ?_,
    fun valid => ⟨fun low high => ?_, fun turn inner => ?_, fun turn port gateway => ?_, fun turn memc => ?_,
      fun turn first => ?_⟩⟩⟩
  · exact turns v ((State.turnFlit_of_waits waits).trans starts)
  · exact turns _ (State.turnFlit_of_bad_list moving bad)
  · exact turns _ (State.turnFlit_inside moving valid low high)
  · exact turns _ ((State.turnFlit_external moving valid turn).trans (if_neg inner))
  · exact turns _ (((State.turnFlit_external moving valid turn).trans (if_pos port)).trans (State.leavePort_of_gateway gateway))
  · have leaves := (State.turnFlit_external (s := s) (d := d) moving valid turn).trans (if_pos (by rw [memc]))
    exact ⟨fun a w write => turns _ (leaves.trans (State.leavePort_of_write memc write)),
      fun other => turns _ (leaves.trans (State.leavePort_of_not_write memc other))⟩
  · have ends := State.turnFlit_end moving valid turn first
    refine ⟨fun same here v delivered => ?_, fun same away up => ?_, fun same away down => ?_, fun other away => ?_,
      fun other gateway v crossed => ?_⟩
    · exact turns v (by rw [ends, if_pos same, if_pos here, delivered])
    · exact turns _ (by rw [ends, if_pos same, if_neg away, if_neg (Bool.eq_false_iff.mp up)])
    · exact turns _ (by rw [ends, if_pos same, if_neg away, if_pos down])
    · exact turns _ (by rw [ends, if_neg other, if_pos away])
    · exact turns v (by rw [ends, if_neg other, if_neg (not_not.mpr gateway), crossed])

theorem crossDieStepsComplete : CrossDieStepsComplete := fun _ _ _ _ => ⟨execCrossDieReceive_next, execBeacon_next⟩

end Sys2Proof.Statements

namespace Sys2Proof.Proofs

/-- Settles O43: a flit whose CRC is good goes where `State.turnFlit` says, which is taken apart turn by turn. -/
theorem flitsAndCrossDieStepsComplete : Obligations.FlitsAndCrossDieStepsComplete :=
  ⟨Statements.routerFlitsComplete, Statements.crossDieStepsComplete⟩

end Sys2Proof.Proofs
end

section
/-! PROOFS. Events and recovery: the arbiter numbers events, firmware records them, and the stand-in takes the place of a scheduler
that has failed (R158, R375-R381, R446-R450). -/

namespace Sys2Proof.Machine

/-! ## The arbiter (R158, R376, R378) -/

/-- The arbiter once it has taken the first event of input `i`, before the others `t`. -/
def Eva.taken (a : Eva) (i : Nat) (t : List Event) : Eva :=
  { a with inputs := if t.isEmpty then KMap.del a.inputs i else KMap.put a.inputs i t, ptr := i, seq := a.seq + 1 }

theorem Eva.taken_input (a : Eva) (i : Nat) (t : List Event) : KMap.getD (a.taken i t).inputs i [] = t := by
  cases t with
  | nil => simp [Eva.taken, KMap.getD]
  | cons e t => simp [Eva.taken]

/-- The completion of command `n` of queue `q` learns the number of its event. -/
def Completion.numbered (q n : Nat) (seq : W64) (c : Completion) : Completion :=
  if c.queue = q && c.index = n && c.evseq.isNone then { c with evseq := some seq } else c

section
variable {s : State} {i : Nat} {e : Event} {t : List Event} (next : s.eva.nextInput = some i)
  (head : KMap.getD s.eva.inputs i [] = e :: t)
include next head

theorem execEventStamp_of_completion {q n : Nat} (kind : e.kind = .completion q n) :
    execEventStamp s = .next { s with
      eva := s.eva.taken i t
      dist := { s.dist with completions := s.dist.completions.map (Completion.numbered q n s.eva.seq) } } := by
  simp only [execEventStamp, next, head, kind]
  rfl

theorem execEventStamp_of_record (kind : e.kind = .record) :
    execEventStamp s = .next ((({ s with eva := { s.eva.taken i t with
      stamped := s.eva.stamped ++ [{ evseq := s.eva.seq, ev := e }] } } : State).noteFailure s.eva.seq e).noteStop e) := by
  simp only [execEventStamp, next, head, kind]
  rfl

end

/-- A launch that ends raises events, and gives none its number. -/
theorem State.settleLaunch_seq (s : State) (l : Nat) : (s.settleLaunch l).eva.seq = s.eva.seq := by
  unfold State.settleLaunch
  split
  · rfl
  · split
    · rfl
    · simp only
      split <;> rfl

theorem State.noteFailure_seq (s : State) (seq : W64) (e : Event) : (s.noteFailure seq e).eva.seq = s.eva.seq := by
  unfold State.noteFailure
  split
  · rfl
  · simp only [State.settleLaunch_seq]
    split
    · split <;> rfl
    · rfl

/-- The event of no launch fails none. -/
theorem State.noteFailure_of_no_launch (s : State) (seq : W64) {e : Event} (launchless : e.launch = none) :
    s.noteFailure seq e = s := by
  simp only [State.noteFailure, launchless]

theorem State.noteStop_eva (s : State) (e : Event) : (s.noteStop e).eva = s.eva := by
  unfold State.noteStop
  (repeat' split) <;> rfl

theorem execCorrectedReport_next {s : State} {unit : Nat} (due : KMap.getD s.eva.corrections unit 0 ≠ 0)
    (apart : ∀ t, KMap.get? s.eva.reported unit = some t → t + 1000000 ≤ s.clk.time) :
    execCorrectedReport unit s = .next { s with eva := { (s.eva.push unit
      [correctedEvent unit (KMap.getD s.eva.corrections unit 0)]) with
        corrections := KMap.del s.eva.corrections unit, reported := KMap.put s.eva.reported unit s.clk.time } } := by
  have late : ((KMap.get? s.eva.reported unit).any fun t => decide (s.clk.time < t + 1000000)) = false := by
    cases found : KMap.get? s.eva.reported unit with
    | none => rfl
    | some t =>
      -- rewritten, not reduced: the kernel would count to 1,000,000 in the comparison
      rw [Option.any_some]
      exact decide_eq_false (Nat.not_lt.mpr (apart t found))
  simp only [execCorrectedReport, due, late, decide_false, Bool.or_self, Bool.false_eq_true, if_false]

/-! ## Error records (R375, R377, R380, R381) -/

theorem execErrorRecord_next {s : State} {x : Stamped} {t : List Stamped} (oldest : s.eva.stamped = x :: t)
    (booted : s.booted = true) (runs : s.fwRuns fwManagement = true ∨ s.fwRuns s.activeFw = true) :
    execErrorRecord s =
      let a := { s with eva := { s.eva with stamped := t } }.writeRecord x
      let b := a.1.writeNotice x s.fwc.lostCount
      .next (if (a.2 || b.2) && recordMessage x.ev then
        { b.1 with fwc := { b.1.fwc with msix := b.1.fwc.msix ++ [8 * (x.ev.vf % 128)] } } else b.1) := by
  have served : (s.fwRuns fwManagement || s.fwRuns s.activeFw) = true := by simpa using runs
  simp only [execErrorRecord, oldest, booted, served, Bool.not_true, Bool.or_self, Bool.false_eq_true, if_false]

/-! ## STATE and ACTIVE of FWC_SCHED (R447) -/

theorem State.setSched_low (s : State) (takeovers state active : Nat) :
    (s.setSched takeovers state active).fwc.sched.toNat % 2 ^ 4 = state % 4 * 4 + active % 2 := by
  have kept : (0x00FF0000 : W32).toNat % 2 ^ 4 = 0 := rfl
  simp only [State.setSched, BitVec.toNat_or, BitVec.toNat_and, Nat.or_mod_two_pow, Nat.and_mod_two_pow, kept, Nat.and_zero,
    Nat.zero_or, BitVec.toNat_ofNat]
  omega

theorem State.setSched_schedState (s : State) (takeovers state active : Nat) :
    (s.setSched takeovers state active).schedState = state % 4 := by
  have low := s.setSched_low takeovers state active
  rw [State.schedState, bits_eq_div_mod]
  omega

theorem State.setSched_activeFw (s : State) (takeovers state active : Nat) :
    (s.setSched takeovers state active).activeFw = active % 2 := by
  have low := s.setSched_low takeovers state active
  rw [State.activeFw]
  omega

theorem getAt_setAt_self {α : Type} (v d : α) (l : List α) : ∀ i, i < l.length → getAt (setAt l i v) i d = v := by
  induction l with
  | nil => exact fun i here => absurd here (Nat.not_lt_zero i)
  | cons h t ih =>
    intro i here
    cases i with
    | zero => rfl
    | succ i => exact ih i (Nat.lt_of_succ_lt_succ here)

/-! ## The handover (R450) -/

theorem State.handover_schedState (s : State) : s.handover.schedState = 1 := State.setSched_schedState ..

theorem State.handover_activeFw (s : State) : s.handover.activeFw = s.activeFw :=
  (State.setSched_activeFw ..).trans (Nat.mod_mod ..)

/-- No command is accepted and no completion is written while STATE is 1. -/
theorem State.handover_schedulerUp (s : State) : s.handover.schedulerUp = false := by
  have state : bits s.handover.fwc.sched.toNat 3 2 = 1 := s.handover_schedState
  simp only [State.schedulerUp, state, ne_eq, not_true_eq_false, decide_false, Bool.and_false, Bool.false_and]

theorem State.handover_core (s : State) (known : s.activeFw < s.fwc.cores.length) :
    getAt s.handover.fwc.cores s.activeFw .halted = .inReset := getAt_setAt_self _ _ _ _ known

/-! ## The heartbeat (R447, R450) -/

section
variable {s : State} (booted : s.booted = true)
include booted

theorem execHeartbeat_of_active (runs : s.fwRuns s.activeFw = true) : execHeartbeat s = .next s.beat := by
  simp only [execHeartbeat, booted, runs, Bool.and_self, if_true]

theorem execHeartbeat_of_standin (fails : s.fwRuns s.activeFw = false) (handed : s.schedState = 1)
    (runs : s.fwRuns (1 - s.activeFw) = true) : execHeartbeat s = .next s.takeover := by
  simp [execHeartbeat, booted, fails, handed, runs]

theorem execHeartbeatTimeout_next (alive : s.fwRuns s.activeFw = true ∨ getAt s.fwc.cores s.activeFw .halted = .stuck)
    (security : s.fwRuns fwSecurity = true)
    (late : s.fwc.lastBeat + max 1 (bits s.fwc.sched.toNat 23 16) * 1000000 ≤ s.clk.time) :
    execHeartbeatTimeout s = .next s.failScheduler := by
  have found : (decide (getAt s.fwc.cores s.activeFw .halted ≠ .running) && decide (getAt s.fwc.cores s.activeFw .halted ≠ .stuck))
      = false := by
    rcases alive with runs | stuck
    · simp [of_decide_eq_true runs]
    · simp [stuck]
  simp only [execHeartbeatTimeout, booted, found, security, Nat.not_lt.mpr late, Bool.not_true, decide_false, Bool.or_self,
    Bool.false_eq_true, if_false]

end

theorem State.failScheduler_of_standin {s : State} (normal : s.schedState = 0) (ready : s.fwRuns (1 - s.activeFw) = true) :
    s.failScheduler = s.handover := by
  simp [State.failScheduler, normal, ready]

theorem State.failScheduler_of_none {s : State} (unready : s.schedState ≠ 0 ∨ s.fwRuns (1 - s.activeFw) = false) :
    s.failScheduler = (s.setFw s.activeFw .halted).raise (srcFw s.activeFw) (fwEvent s.activeFw codeUncorrected 1) := by
  rcases unready with state | core
  · simp [State.failScheduler, state]
  · simp [State.failScheduler, core]

/-! ## The failed core's reload, and errors in a core's memory (R446, R450) -/

section
variable {s : State} (replaced : s.schedState = 2) (failed : getAt s.fwc.cores (1 - s.activeFw) .halted = .inReset)
  (runs : s.fwRuns fwManagement = true)
include replaced failed runs

theorem execStandinReload_next (ok : Bool) :
    execStandinReload ok s = if ok then
      .next ((s.setFw (1 - s.activeFw) .running).setSched (bits s.fwc.sched.toNat 31 24) 0 s.activeFw)
      else .next (s.setFw (1 - s.activeFw) .halted) := by
  simp only [execStandinReload, replaced, failed, runs, ne_eq, not_true_eq_false, decide_false, Bool.not_true, Bool.or_self,
    Bool.false_eq_true, if_false]

end

section
variable {s : State} {n : Nat} (known : n < 4) (booted : s.booted = true) (runs : s.fwRuns n = true)
include known booted runs

/-- The event of an uncorrectable error in the core's memory is raised; the rest goes by which core it is. -/
theorem execFirmwareMemoryError_eq :
    execFirmwareMemoryError n s =
      let told := s.raise (srcFw n) (fwEvent n codeUncorrected 1)
      if n = s.activeFw then .next told.trapScheduler
      else if n < 2 then
        .next ((told.setFw n (if s.schedState = 1 then .halted else .inReset)).setSched (bits s.fwc.sched.toNat 31 24) 2 s.activeFw)
      else if n = fwManagement then
        .next { (told.setFw n .halted) with clk := { s.clk with arithMhz := 1800, fabMhz := 1200 } }
      else .next (told.setFw n .halted) := by
  simp only [execFirmwareMemoryError, Nat.not_le.mpr known, booted, runs, decide_false, Bool.not_true, Bool.or_self,
    Bool.false_eq_true, if_false]

end

/-- A scheduler that traps hands over, halts or stands still, as its free choice and the stand-in say. -/
theorem State.trapScheduler_eq (s : State) :
    s.trapScheduler =
      let (c, u) := s.choice 2
      if c = 0 then (if u.schedState = 0 && u.fwRuns (1 - u.activeFw) then u.handover else u.setFw u.activeFw .halted)
      else u.setFw u.activeFw .stuck := by
  have active : (s.choice 2).2.activeFw = s.activeFw := rfl
  unfold State.trapScheduler
  generalize s.choice 2 = p at active ⊢
  obtain ⟨c, u⟩ := p
  cases c with
  | zero => simp only [if_true, active]
  | succ c => simp only [Nat.succ_ne_zero, if_false, active]

end Sys2Proof.Machine

namespace Sys2Proof.Statements

open Sys2Proof.Machine

theorem arbiterStepsComplete : ArbiterStepsComplete := by
  refine fun s => ⟨fun i e t next head => ?_, fun unit due apart => execCorrectedReport_next due apart⟩
  cases kind : e.kind with
  | completion q n =>
    refine ⟨_, execEventStamp_of_completion next head kind, rfl, fun q' n' same => ?_, nofun⟩
    cases same
    exact ⟨rfl, rfl, Eva.taken_input .., rfl⟩
  | record =>
    refine ⟨_, execEventStamp_of_record next head kind, ?_, nofun, fun _ alone => ?_⟩
    · rw [State.noteStop_eva, State.noteFailure_seq]
      rfl
    · rw [State.noteStop_eva, State.noteFailure_of_no_launch _ _ alone]
      exact ⟨rfl, rfl, Eva.taken_input ..⟩

theorem errorRecordsComplete : ErrorRecordsComplete := fun _ _ _ oldest booted runs => execErrorRecord_next oldest booted runs

theorem schedulerRecoveryCompletes : SchedulerRecoveryCompletes := by
  intro s f late
  refine ⟨execHeartbeat_of_active, execHeartbeat_of_standin, fun booted alive security overdue => ⟨fun normal ready => ?_,
      fun unready => ?_⟩,
    ⟨s.handover_schedState, s.handover_schedulerUp, s.handover_activeFw, s.handover_core⟩,
    fun replaced failed runs => ⟨execStandinReload_next replaced failed runs true,
      execStandinReload_next replaced failed runs false⟩,
    fun n known booted runs => ?_⟩
  · exact (execHeartbeatTimeout_next booted alive security overdue).trans (congrArg _ (State.failScheduler_of_standin normal ready))
  · exact (execHeartbeatTimeout_next booted alive security overdue).trans (congrArg _ (State.failScheduler_of_none unready))
  · have errs := execFirmwareMemoryError_eq known booted runs
    refine ⟨fun active => ?_, fun other scheduler => ?_, fun other security => ?_, fun other management => ?_⟩
    · exact errs.trans ((if_pos active).trans (congrArg _ (State.trapScheduler_eq _)))
    · exact errs.trans ((if_neg other).trans (if_pos scheduler))
    · subst security
      exact errs.trans (if_neg other)
    · subst management
      exact errs.trans (if_neg other)

end Sys2Proof.Statements

namespace Sys2Proof.Proofs

/-- Settles O45: the arbiter by the kind of the event that it takes, and each step of the recovery by the schedulers' state. -/
theorem eventsAndRecoveryComplete : Obligations.EventsAndRecoveryComplete :=
  ⟨Statements.arbiterStepsComplete, Statements.errorRecordsComplete, Statements.schedulerRecoveryCompletes⟩

end Sys2Proof.Proofs
end

section
/-! PROOFS. Decode and encode agree: one lemma for each word stream says when an instruction decodes from its own bytes, and each
format's fields, opcode and literal rule give what that lemma asks for (R160-R174, R245, R246, R309, R314, R323, R336). -/

namespace Sys2Proof

/-- The bytes that an instruction encodes to decode to it, and what follows them is left alone. -/
def DecodesBack (i : Instr) : Prop :=
  ∀ (st : Stream) (bs rest : List Byte), encode i = some (st, bs) → decode st (bs ++ rest) = .ok (i, rest)

theorem DecodesBack.of_none {i : Instr} (encodes : encode i = none) : DecodesBack i := by
  intro st bs rest other
  rw [encodes] at other
  cases other

theorem DecodesBack.of_some {i : Instr} {st : Stream} {bs : List Byte} (encodes : encode i = some (st, bs))
    (decodes : ∀ rest, decode st (bs ++ rest) = .ok (i, rest)) : DecodesBack i := by
  intro st' bs' rest other
  rw [encodes] at other
  cases other
  exact decodes rest

/-- A check that finds nothing wrong. -/
theorem of_illIf {bad : Bool} {e : Ill} (ok : illIf bad e none = none) : bad = false := by
  cases bad with
  | false => rfl
  | true => cases ok

theorem of_illIf_not {good : Bool} {e : Ill} (ok : illIf (!good) e none = none) : good = true := by simpa using of_illIf ok

/-! ## Compute words (R160-R174) -/

/-- The opcodes that always have a literal word: `MOVL`, `CALL` and `CALLX` (R164, R174). -/
def literalOpcodes : List (BitVec 8) := [0x35#8, 0x45#8, 0x46#8]

/-- An opcode with no literal word, whatever the other fields. -/
def noLiteral (opc : BitVec 8) : Bool := !isV3 opc && !decide (opc ∈ literalOpcodes)

theorem isV3_of_literalOpcodes : ∀ opc ∈ literalOpcodes, isV3 opc = false := by decide

theorem hasLiteral_eq (w : W64) :
    hasLiteral w = (isV3 (opcOf w) && w.getLsbD 15 || decide (opcOf w ∈ literalOpcodes)) := by
  simp [hasLiteral, literalOpcodes, Bool.or_assoc]

theorem hasLiteral_of_isV3 {w : W64} (v3 : isV3 (opcOf w) = true) : hasLiteral w = w.getLsbD 15 := by
  have other : opcOf w ∉ literalOpcodes := fun listed => Bool.false_ne_true ((isV3_of_literalOpcodes _ listed).symm.trans v3)
  simp only [hasLiteral_eq, v3, other, Bool.true_and, decide_false, Bool.or_false]

theorem hasLiteral_of_literalOpcodes {w : W64} (listed : opcOf w ∈ literalOpcodes) : hasLiteral w = true := by
  simp only [hasLiteral_eq, listed, decide_true, Bool.or_true]

theorem hasLiteral_of_noLiteral {w : W64} (plain : noLiteral (opcOf w) = true) : hasLiteral w = false := by
  simp only [noLiteral, Bool.and_eq_true, Bool.not_eq_true'] at plain
  obtain ⟨notV3, other⟩ := plain
  rw [hasLiteral_eq, notV3, other, Bool.false_and, Bool.or_false]

/-- A compute word with the literal word that it has is decoded by the opcode map. -/
theorem decodeCompute_computeBytes {w : W64} {lit : Bool} (literal : hasLiteral w = lit) (l : W64) (rest : List Byte) :
    decodeCompute (computeBytes w lit l ++ rest) = .ok (computeOf w (if lit then l else 0#64), rest) := by
  cases lit <;> simp [decodeCompute, computeBytes, List.append_assoc, takeBytes_word, literal]

theorem DecodesBack.of_computeBytes {i : Instr} {w l : W64} {lit : Bool}
    (encodes : encode i = some (.compute, computeBytes w lit l)) (literal : hasLiteral w = lit)
    (decodes : computeOf w (if lit then l else 0#64) = i) : DecodesBack i :=
  .of_some encodes fun rest => (decodeCompute_computeBytes literal l rest).trans (by rw [decodes])

/-- A word whose opcode has no literal word. -/
theorem DecodesBack.of_word {i : Instr} {w : W64} {opc : BitVec 8} (opcode : opcOf w = opc) (plain : noLiteral opc = true)
    (encodes : encode i = some (.compute, computeBytes w false 0#64)) (decodes : computeOf w 0#64 = i) : DecodesBack i :=
  .of_computeBytes encodes (hasLiteral_of_noLiteral (opcode ▸ plain)) decodes

/-- A word whose opcode always has a literal word. -/
theorem DecodesBack.of_words {i : Instr} {w l : W64} {opc : BitVec 8} (opcode : opcOf w = opc) (listed : opc ∈ literalOpcodes)
    (encodes : encode i = some (.compute, computeBytes w true l)) (decodes : computeOf w l = i) : DecodesBack i :=
  .of_computeBytes encodes (hasLiteral_of_literalOpcodes (opcode ▸ listed)) decodes

/-! ### Format V3: LIT says whether there is a literal word (R165) -/

theorem literal_of_checkV3 {o : V3} (ok : checkV3 o = none) : (if o.lit then o.literal else 0#64) = o.literal := by
  have stray := of_illIf ok
  cases lit : o.lit with
  | true => rfl
  | false =>
    have zero : o.literal = 0#64 := by simpa [lit] using stray
    exact zero.symm

theorem putV3_lit (opc : BitVec 8) (o : V3) : (putV3 opc o).getLsbD 15 = o.lit := congrArg V3.lit (getV3_putV3 opc o 0#64)

theorem DecodesBack.of_putV3 {i : Instr} {opc : BitVec 8} {o : V3} (ok : checkV3 o = none) (v3 : isV3 opc = true)
    (encodes : encode i = some (.compute, computeBytes (putV3 opc o) o.lit o.literal))
    (decodes : computeOf (putV3 opc o) o.literal = i) : DecodesBack i :=
  .of_computeBytes encodes ((hasLiteral_of_isV3 (by rw [opcOf_putV3, v3])).trans (putV3_lit opc o))
    (by rw [literal_of_checkV3 ok, decodes])

/-! ### Format VI: only `MOVL` has a literal word (R164) -/

theorem literal_of_checkVI {o : VI} (ok : checkVI o = none) : o.literal = 0#64 := by
  simpa using of_illIf ok

theorem getVI_of_checkVI (opc : BitVec 8) {o : VI} (ok : checkVI o = none) : getVI (putVI opc o) 0#64 = o := by
  rw [getVI_putVI, ← literal_of_checkVI ok]

/-! ### `PERF`: C[0] says which of the two (R236) -/

theorem putSF_perf (opc : BitVec 8) (o : SF) : (putSF opc o).getLsbD 16 = o.c.getLsbD 0 := by
  simp only [putSF_getLsbD]
  rfl

/-! ### Unassigned opcodes (R388) -/

theorem noLiteral_of_unassigned {opc : BitVec 8} (unassigned : inRanges unassignedRanges opc.toNat = true) :
    noLiteral opc = true := by
  revert opc
  decide

theorem computeOf_of_unassigned {w : W64} (unassigned : inRanges unassignedRanges (opcOf w).toNat = true) (l : W64) :
    computeOf w l = .unassignedOpcode w := by
  unfold computeOf
  generalize (opcOf w).toNat = n at unassigned
  split
  rotate_right
  · rfl
  all_goals exact absurd unassigned (by decide)

/-! ## Engine words (R245, R246, R325) -/

theorem putEngine_tag (op : BitVec 5) (f : BitVec 10) : (putEngine op f).getLsbD 15 = true := by
  simp only [putEngine, BitVec.getLsbD_append]
  simp

theorem putEngine_op (op : BitVec 5) (f : BitVec 10) : (putEngine op f).extractLsb' 10 5 = op := by
  simp (disch := omega) only [putEngine, BitVec.extractLsb'_append_eq_of_le, BitVec.extractLsb'_append_eq_of_add_le]
  simp

theorem putEngine_field (op : BitVec 5) (f : BitVec 10) : (putEngine op f).extractLsb' 0 10 = f := by
  simp (disch := omega) only [putEngine, BitVec.extractLsb'_append_eq_of_add_le]
  simp

theorem engineOf_lit (v : BitVec 15) : engineOf (0#1 ++ v) = .lit v := by
  have tag : (0#1 ++ v).getLsbD 15 = false := by
    simp only [BitVec.getLsbD_append]
    simp
  have value : (0#1 ++ v).extractLsb' 0 15 = v := by
    rw [BitVec.extractLsb'_append_eq_of_add_le (le_refl _), BitVec.extractLsb'_eq_self]
  rw [engineOf, if_pos tag, value]

theorem engineOf_of_unassigned {w : BitVec 16} (tag : w.getLsbD 15 = true)
    (unassigned : inRanges [(0x12, 0x17), (0x1D, 0x1F)] (w.extractLsb' 10 5).toNat = true) : engineOf w = .unassignedEngineWord w := by
  rw [engineOf, if_neg (by simp [tag])]
  generalize (w.extractLsb' 10 5).toNat = n at unassigned
  simp only
  split
  rotate_right
  · rfl
  all_goals exact absurd unassigned (by decide)

theorem DecodesBack.of_engineBytes {i : Instr} {w : BitVec 16} (encodes : encode i = some (.engine, engineBytes w))
    (decodes : engineOf w = i) : DecodesBack i := by
  refine .of_some encodes fun rest => ?_
  rw [decode, decodeEngine, takeBytes_engine]
  simp only [BitVec.ofNat_toNat, BitVec.setWidth_eq, decodes]

/-! ## Cluster words (R309, R314) -/

theorem getCW_putCW (opc : BitVec 7) (o : CW) : getCW (putCW opc o) = o := by
  show CW.mk _ _ _ _ _ _ _ _ _ _ = CW.mk o.s o.p o.d o.a o.b o.c o.gn o.gp o.fn o.imm
  congr 1
  all_goals
    simp (disch := omega) only [putCW, BitVec.extractLsb'_append_eq_of_le, BitVec.extractLsb'_append_eq_of_add_le,
      BitVec.getLsbD_append, Nat.reduceSub, Nat.reduceLT, reduceIte]
    simp

theorem putCW_opcode (opc : BitVec 7) (o : CW) : (putCW opc o).extractLsb' 55 7 = opc := by
  simp (disch := omega) only [putCW, BitVec.extractLsb'_append_eq_of_le, BitVec.extractLsb'_append_eq_of_add_le]
  simp

theorem DecodesBack.of_cluster {i : Instr} {w : W64} (encodes : encode i = some (.cluster, wordBytes w))
    (decodes : clusterOf w = some i) : DecodesBack i := by
  refine .of_some encodes fun rest => ?_
  rw [decode, decodeCluster, takeBytes_word]
  simp only [BitVec.ofNat_toNat, BitVec.setWidth_eq, decodes]

/-! ## Fetch and store engine words (R323) -/

theorem getEW_put (op : BitVec 4) (o : EW) : getEW (putEW0 op o) (putEW1 o) = o := by
  show EW.mk _ _ _ _ _ _ _ _ = EW.mk o.k o.tk o.lso o.lenm o.atClk o.lstride o.roff o.ia
  congr 1
  all_goals
    simp (disch := omega) only [putEW0, putEW1, BitVec.extractLsb'_append_eq_of_le,
      BitVec.extractLsb'_append_eq_of_add_le, BitVec.getLsbD_append, Nat.reduceSub, Nat.reduceLT, reduceIte]
    simp

theorem putEW0_op (op : BitVec 4) (o : EW) : (putEW0 op o).extractLsb' 60 4 = op := by
  simp (disch := omega) only [putEW0, BitVec.extractLsb'_append_eq_of_le]
  simp

theorem decodeSel_fetch (o : EW) (rest : List Byte) :
    decodeSel false (wordBytes (putEW0 1#4 o) ++ wordBytes (putEW1 o) ++ rest) = .ok (.fetch o, rest) := by
  simp [decodeSel, List.append_assoc, takeBytes_word, getEW_put, putEW0_op]

theorem decodeSel_store (o : EW) (rest : List Byte) :
    decodeSel true (wordBytes (putEW0 1#4 o) ++ wordBytes (putEW1 o) ++ rest) = .ok (.store o, rest) := by
  simp [decodeSel, List.append_assoc, takeBytes_word, getEW_put, putEW0_op]

theorem decodeSel_emit (o : EW) (rest : List Byte) :
    decodeSel true (wordBytes (putEW0 2#4 o) ++ wordBytes (putEW1 o) ++ rest) = .ok (.emit o, rest) := by
  simp [decodeSel, List.append_assoc, takeBytes_word, getEW_put, putEW0_op]

/-! ## Command entries (R336) -/

/-- Word 0 of a command entry. -/
def putCmd0 (op : BitVec 8) (c : Cmd) : W64 := c.w0 ++ op

theorem putCmd0_op (op : BitVec 8) (c : Cmd) : (putCmd0 op c).extractLsb' 0 8 = op := by
  rw [putCmd0, BitVec.extractLsb'_append_eq_of_add_le (le_refl _), BitVec.extractLsb'_eq_self]

theorem putCmd0_fields (op : BitVec 8) (c : Cmd) : (putCmd0 op c).extractLsb' 8 56 = c.w0 := by
  rw [putCmd0, BitVec.extractLsb'_append_eq_of_le (le_refl _), Nat.sub_self, BitVec.extractLsb'_eq_self]

theorem DecodesBack.of_commandBytes {i : Instr} {op : BitVec 8} {c : Cmd} (encodes : encode i = some (.command, commandBytes op c))
    (decodes : commandOf (putCmd0 op c) c.addr c.arg c.done = some i) : DecodesBack i := by
  refine .of_some encodes fun rest => ?_
  rw [commandBytes, ← putCmd0, decode, decodeCommand]
  simp only [List.append_assoc, takeBytes_word, BitVec.ofNat_toNat, BitVec.setWidth_eq, decodes]

/-! ## Every instruction -/

theorem decodesBack_of_wellFormed {i : Instr} (ok : WellFormed i) : DecodesBack i := by
  cases i with
  | iadd o | isub o | iadds o | iadd64 o | isub64 o | imul o | imulh o | imad o | imadw o | imin o | imax o | iabs o | ineg o | and o
  | or o | xor o | andn o | not o | shl o | shr o | sar o | rot o | fnl o | bfx o | bfi o | popc o | clz o | ctz o | brev o | bilv o
  | bdil o | isel o | icmp o | lea o | mov o | fadd o | fsub o | fmul o | ffma o | fmin o | fmax o | fcmp o | fsel o | frnd o
  | fdot2 o | frcp o | frsq o | fsqrt o | fexp2 o | flog2 o | fsin o | fcos o | fcvt o | cvtn o | fsplit3 o | hadd2 o | hmul2 o
  | hfma2 o | shfl o | vote o | redl o | prmt o | matchLanes o | tex o | texg o | edge o | viewx o | packc o =>
    exact .of_putV3 ok (by decide) rfl (by rw [computeOf, opcOf_putV3, getV3_putV3]; rfl)
  | movi o | sreg o | setp o =>
    exact .of_word (opcOf_putVI _ o) (by decide) rfl (by rw [computeOf, opcOf_putVI, getVI_of_checkVI _ ok]; rfl)
  | movl o =>
    exact .of_words (opcOf_putVI _ o) (by decide) rfl (by rw [computeOf, opcOf_putVI, getVI_putVI _ _ o.literal]; rfl)
  | call o | callx o =>
    exact .of_words (opcOf_putCF _ o) (by decide) rfl (by rw [computeOf, opcOf_putCF, getCF_putCF]; rfl)
  | nop o | rcvm o | ret o | unwind o | exit o | yield o | idmc o | lead o | fence o | copyt o | copy16 o | cwait o | cwmk o | bari o
  | bara o | barw o | bars o | barp o | rini o | rclm o | rpub o | rwfl o | rrel o | rwfr o | fnew o | fset o | fwait o | tspn o
  | tend o | lkaq o | lkrl o | ores o | orel o | mseq o | trap o | bkpt o | rdc o | wrc o | rett o =>
    exact .of_word (opcOf_putSF _ o) (by decide) rfl (by rw [computeOf, opcOf_putSF, getSF_putSF]; rfl)
  | perfRd o =>
    have other : o.c.getLsbD 0 = false := of_illIf ok
    exact .of_word (opcOf_putSF _ o) (by decide) rfl (by rw [computeOf, opcOf_putSF, putSF_perf, getSF_putSF, other]; rfl)
  | perfMark o =>
    have mark : o.c.getLsbD 0 = true := of_illIf_not ok
    exact .of_word (opcOf_putSF _ o) (by decide) rfl (by rw [computeOf, opcOf_putSF, putSF_perf, getSF_putSF, mark]; rfl)
  | bra o | brx o | rcvt o =>
    exact .of_word (opcOf_putJF _ o) (by decide) rfl (by rw [computeOf, opcOf_putJF, getJF_putJF]; rfl)
  | ld o | st o | lds o | sts o | ldc o | prf o | atom o | red o | cas o | waita o =>
    exact .of_word (opcOf_putMF _ o) (by decide) rfl (by rw [computeOf, opcOf_putMF, getMF_putMF]; rfl)
  | ldb o | stb o | ldx o | stx o =>
    exact .of_word (opcOf_putXF _ o) (by decide) rfl (by rw [computeOf, opcOf_putXF, getXF_putXF]; rfl)
  | unassignedOpcode w =>
    have unassigned : inRanges unassignedRanges (opcOf w).toNat = true := of_illIf_not ok
    exact .of_word rfl (noLiteral_of_unassigned unassigned) rfl (computeOf_of_unassigned unassigned _)
  | lit v => exact .of_engineBytes rfl (engineOf_lit v)
  | engineNop f | ext f | dup f | drop f | swap f | overWord f | add f | addi f | shape f | mma f | mmaz f | drain f | drainadd f
  | drainaddo f | arrive f | waitb f | loop f | halt f | dmma f | dmmaz f | dout f | dwt f | dline f =>
    exact .of_engineBytes rfl (by rw [engineOf, putEngine_tag, putEngine_op, putEngine_field]; rfl)
  | unassignedEngineWord w =>
    obtain ⟨tag, unassigned⟩ := (Bool.and_eq_true_iff ..).mp (of_illIf_not ok)
    exact .of_engineBytes rfl (engineOf_of_unassigned tag unassigned)
  | cluNop o | cluIadd o | cluIsub o | cluAnd o | cluOr o | cluXor o | cluShl o | cluShr o | cluSar o | cluImin o | cluImax o
  | cluIcmp o | cluXsel o | cluMov o | cluBr o | cluLoopr o | cluSetlc o | cluEndl o | cluGset o | cluGlut o | cluKpop o | cluKpush o
  | cluQlen o | cluFadd o | cluFmul o | cluFfma o | cluFmin o | cluFmax o | cluFcmp o | cluFcvt o | cluShuf o | cluLerp o | cluWarp o
  | cluPose o | cluSdrv o | cluPack o | cluLcpy o | cluLdl o | cluStl o =>
    exact .of_cluster rfl (by rw [clusterOf, putCW_opcode, getCW_putCW]; rfl)
  | fetch o => exact .of_some rfl (decodeSel_fetch o)
  | store o => exact .of_some rfl (decodeSel_store o)
  | emit o => exact .of_some rfl (decodeSel_emit o)
  | launch c | selham c | prio c | preempt c | resume c | waitCmd c | tlbinv c =>
    exact .of_commandBytes rfl (by rw [commandOf, putCmd0_op, putCmd0_fields]; rfl)
  | _ =>
    -- a step of another agent, which has no word
    exact .of_none rfl

end Sys2Proof

namespace Sys2Proof.Proofs

/-- Settles O52: stream by stream, from the fields, the opcode and the literal rule of each format. -/
theorem decodeOfEncode : Obligations.DecodeOfEncode := fun _ st bs rest ok => decodesBack_of_wellFormed ok st bs rest

end Sys2Proof.Proofs
end

section
/-! PROOFS. A step and the word that it runs (R32, R162, R163, R385). -/

namespace Sys2Proof.Machine

/-- The bytes of the number that bytes stand for are those bytes. -/
theorem leBytes_leNat (bs : List Byte) : leBytes bs.length (leNat bs) = bs := by
  induction bs with
  | nil => rfl
  | cons b t ih =>
    have low : BitVec.ofNat 8 (b.toNat + 256 * leNat t) = b :=
      BitVec.eq_of_toNat_eq (by rw [BitVec.toNat_ofNat]; omega)
    have high : (b.toNat + 256 * leNat t) / 256 = leNat t := by omega
    rw [List.length_cons, leNat, leBytes, low, high, ih]

theorem leNat_lt (bs : List Byte) : leNat bs < 256 ^ bs.length := by
  induction bs with
  | nil => exact Nat.one_pos
  | cons b t ih =>
    rw [leNat, List.length_cons, pow_succ']
    omega

/-- The word at an address is made of the eight bytes there. -/
theorem State.wordBytes_word (s : State) (pa : Nat) : wordBytes (s.word pa) = s.bytes pa 8 := by
  have eight : (s.bytes pa 8).length = 8 := by simp [State.bytes]
  have back := leBytes_leNat (s.bytes pa 8)
  have bound := leNat_lt (s.bytes pa 8)
  rw [eight] at back bound
  have whole : (s.word pa).toNat = leNat (s.bytes pa 8) := (BitVec.toNat_ofNat ..).trans (Nat.mod_eq_of_lt bound)
  rw [wordBytes, whole, back]

/-- Where no store has replaced the word since a launch was accepted, a fetch gives the word in memory (R163). -/
theorem State.codeWord_of_unreplaced {s : State} {pa : Nat} (unreplaced : ∀ o ∈ s.oldCode, o.word ≠ pa / 8) (l : Nat) :
    s.codeWord l pa = (s.word pa, s) := by
  have none_old : (s.oldCode.filter fun o => decide (o.word = pa / 8) && decide (l < o.before)) = [] :=
    List.filter_eq_nil_iff.mpr fun o old => by simp [unreplaced o old]
  simp [State.codeWord, none_old]

theorem decodeWords_of_decode {s : State} {bs rest : List Byte} {i : Instr} (decodes : decode .compute bs = .ok (i, rest)) :
    decodeWords s bs = .ok (s, i) := by
  simp only [decodeWords, decodes]

section
variable {s : State} {c v l pa : Nat} {pc : W64} {i : Instr} (place : s.fetchPa c v pc.toNat = .ok pa)
include place

/-- A word without a literal word is decoded by itself. -/
theorem State.fetchCompute_of_word {w : W64 × State} (word : (s.noteXlate c v pc.toNat .ex).codeWord l pa = w)
    (plain : hasLiteral w.1 = false) (decodes : decode .compute (wordBytes w.1) = .ok (i, [])) :
    s.fetchCompute c v l pc = .ok (w.2, i) := by
  simp only [State.fetchCompute, place, word, plain, Bool.false_eq_true, if_false, decodeWords_of_decode decodes]

/-- A word with a literal word is decoded with the word at the PC plus 8 (R162). -/
theorem State.fetchCompute_of_literal {w x : W64 × State} {pb : Nat}
    (word : (s.noteXlate c v pc.toNat .ex).codeWord l pa = w) (literal : hasLiteral w.1 = true)
    (place' : w.2.fetchPa c v (pc + 8).toNat = .ok pb)
    (word' : (w.2.noteXlate c v (pc + 8).toNat .ex).codeWord l pb = x)
    (decodes : decode .compute (wordBytes w.1 ++ wordBytes x.1) = .ok (i, [])) :
    s.fetchCompute c v l pc = .ok (x.2, i) := by
  simp only [State.fetchCompute, place, word, literal, if_true, place', word', decodeWords_of_decode decodes]

end

/-- An entry that may issue runs what the words at its PC decode to (R385). -/
theorem State.fetchEntry_of_fetchCompute {s t : State} {c slot : Nat} {id : EntId} {g : Group} {e : Entry} {i : Instr}
    (group : (s.core c).group? slot = some g) (entry : g.entry? id = some e) (may : s.mayIssue c slot g e = true)
    (fetched : (s.setCore c ((s.core c).setEntry slot e.issuing)).fetchCompute c g.vf g.launch e.pc = .ok (t, i)) :
    s.fetchEntry c slot id = .run i { t with turn := some (.entry c slot id) } := by
  simp only [State.fetchEntry, group, entry, may, Bool.not_true, Bool.false_eq_true, if_false, fetched]

/-! ## Which step comes -/

theorem State.nextInput_of_running {s : State} {i : Instr} {rest : List Instr} (running : s.clk.thermal = .running)
    (waiting : s.inbox = i :: rest) : s.nextInput = some (i, { s with inbox := rest }) := by
  simp only [State.nextInput, running, if_true, waiting, Option.map_some]

theorem State.nextInput_of_empty {s : State} (running : s.clk.thermal = .running) (empty : s.inbox = []) :
    s.nextInput = none := by
  simp only [State.nextInput, running, if_true, empty, Option.map_none]

section
variable {s : State} (secure : s.fwc.securityOk = true)
include secure

theorem step_of_nextInput {i : Instr} {t : State} (input : s.nextInput = some (i, t)) : step s = idleUnless t (exec i t) := by
  simp only [step, secure, Bool.not_true, Bool.false_eq_true, if_false, input]

/-- While the clocks are stopped no agent has a turn (R32). -/
theorem step_of_stopped (stopped : s.clk.thermal ≠ .running) (input : s.nextInput = none) : step s = s.goOn := by
  cases agenda : s.agenda <;> simp only [step, secure, Bool.not_true, Bool.false_eq_true, if_false, input, agenda, stopped]

theorem step_of_agenda {a : Agent} {rest : List Agent} (running : s.clk.thermal = .running) (empty : s.inbox = [])
    (agenda : s.agenda = a :: rest) : step s = ({ s with agenda := rest } : State).runAgent a := by
  simp only [step, secure, Bool.not_true, Bool.false_eq_true, if_false, State.nextInput_of_empty running empty, agenda, running,
    if_true]

end

/-- The turn of an agent with a word of its own runs what its fetch gives. -/
theorem State.runAgent_of_fetch {s t : State} {a : Agent} {i : Instr} (own : s.handOut a = none) (fetched : s.fetch a = .run i t) :
    s.runAgent a = exec i t := by
  simp only [State.runAgent, own, fetched]

end Sys2Proof.Machine

namespace Sys2Proof.Proofs

open Sys2Proof.Machine Sys2Proof.Statements

/-- Settles O12: the three words are `loadBody` with their addresses. -/
theorem loadsComplete : Obligations.LoadsComplete :=
  ⟨fun o ps => ⟨ld_loads o ps, DoneWith.of_loadBody (addrs := fun x => x.memAddrs o) (fun _ => rfl) ps⟩,
    fun o ps => DoneWith.of_loadBody (addrs := fun x => x.gatherAddrs o) (fun _ => rfl) ps⟩

/-- Settles O50: an input is taken first; else the agent at the head runs what its fetch gives, which for an entry is what its
words at the PC decode to. -/
theorem stepRunsDecoded : Obligations.StepRunsDecoded := by
  intro s secure
  refine ⟨fun i t => step_of_nextInput secure, fun i rest => State.nextInput_of_running, step_of_stopped secure,
    fun l pa unreplaced => ⟨State.codeWord_of_unreplaced unreplaced l, s.wordBytes_word pa⟩, ?_⟩
  intro a rest running empty agenda t
  have turn : step s = t.runAgent a := step_of_agenda secure running empty agenda
  refine ⟨fun i u own fetched => turn.trans (State.runAgent_of_fetch own fetched), ?_⟩
  rintro c slot id g e i rfl group entry may - u pa place w
  have runs : ∀ v, u.fetchCompute c g.vf g.launch e.pc = .ok (v, i) → step s = exec i { v with turn := some (.entry c slot id) } :=
    fun v fetched => turn.trans (State.runAgent_of_fetch rfl (State.fetchEntry_of_fetchCompute group entry may fetched))
  refine ⟨fun plain decodes => runs _ (State.fetchCompute_of_word place rfl plain decodes), ?_⟩
  intro pb literal place' x decodes
  exact runs _ (State.fetchCompute_of_literal place rfl literal place' rfl decodes)

/-- Settles O51: the bytes of each word are taken apart by the decoder of its stream. -/
theorem wordsDecodeAsTheSpecSays : Obligations.WordsDecodeAsTheSpecSays := by
  refine ⟨rfl, rfl, rfl, rfl, rfl, rfl, ⟨_, rfl, ?_⟩, ⟨_, rfl, ?_⟩, rfl, rfl⟩
  · decide
  · decide

end Sys2Proof.Proofs
end

section
/-! PROOFS. Integer, logic, field, select and move words: a word that issues completes with the results of its body (R180-R186). -/

namespace Sys2Proof.Machine

/-! ## Bits of a natural number -/

/-- `a - (a &&& b)` has the bits of `a` that are not in `b`. -/
theorem testBit_sub_and (i : Nat) : ∀ a b : Nat, (a - (a &&& b)).testBit i = (a.testBit i && !b.testBit i) := by
  induction i with
  | zero =>
    intro a b
    have low := Nat.and_mod_two_eq_one (a := a) (b := b)
    have le : a &&& b ≤ a := Nat.and_le_left
    rw [Bool.eq_iff_iff]
    simp only [Nat.testBit_zero, Bool.and_eq_true, Bool.not_eq_true', decide_eq_true_eq, decide_eq_false_iff_not]
    omega
  | succ i ih =>
    intro a b
    have half : (a - (a &&& b)) / 2 = a / 2 - (a / 2 &&& b / 2) := by
      have low := Nat.and_mod_two_eq_one (a := a) (b := b)
      have le : a &&& b ≤ a := Nat.and_le_left
      rw [← Nat.and_div_two]
      omega
    simp only [Nat.testBit_succ, half, ih]

/-- Taking away the common bits of a number below `2 ^ n` is masking with the complement in `n` bits. -/
theorem sub_and_eq_and_compl {n a b : Nat} (ha : a < 2 ^ n) (hb : b < 2 ^ n) : a - (a &&& b) = a &&& (2 ^ n - 1 - b) := by
  apply Nat.eq_of_testBit_eq
  intro i
  rw [testBit_sub_and, Nat.testBit_and, Nat.sub_sub, Nat.add_comm 1, Nat.testBit_two_pow_sub_succ hb]
  by_cases h : i < n
  · simp [h]
  · simp [Nat.testBit_lt_two_pow (ha.trans_le (Nat.pow_le_pow_right (by decide) (not_lt.mp h)))]

theorem ofBits_succ (n : Nat) (f : Nat → Bool) : ofBits (n + 1) f = ofBits n f + if f n then 2 ^ n else 0 := by
  cases h : f n <;> simp [ofBits, List.range_succ, h]

theorem ofBits_lt (n : Nat) (f : Nat → Bool) : ofBits n f < 2 ^ n := by
  induction n with
  | zero => exact Nat.one_pos
  | succ n ih =>
    rw [ofBits_succ, pow_succ]
    split <;> omega

theorem testBit_ofBits (n : Nat) (f : Nat → Bool) (i : Nat) : (ofBits n f).testBit i = (decide (i < n) && f i) := by
  induction n with
  | zero => simp [ofBits]
  | succ n ih =>
    have next : (ofBits (n + 1) f).testBit i = ((ofBits n f).testBit i || (decide (n = i) && f n)) := by
      rw [ofBits_succ]
      split
      next one => rw [← Nat.or_two_pow_eq_add_of_lt (ofBits_lt n f), Nat.testBit_or, Nat.testBit_two_pow, one, Bool.and_true]
      next zero => simp [zero]
    rw [next, ih]
    by_cases here : n = i
    · simp [here]
    · simp [here, show i < n + 1 ↔ i < n by omega]

/-- The bits of a field of `n` bits at `p`. -/
theorem testBit_fieldMask (n p i : Nat) : ((2 ^ n - 1) <<< p).testBit i = decide (p ≤ i ∧ i < p + n) := by
  rw [Nat.testBit_shiftLeft, Nat.testBit_two_pow_sub_one, ← Bool.decide_and]
  exact decide_eq_decide.mpr (by omega)

/-- A field of `a` of `n` bits put over `c` at `p` (R183). -/
theorem insertField_eq {n p a c : Nat} (fits : p + n ≤ 32) (hc : c < 2 ^ 32) :
    (c - (c &&& ((2 ^ n - 1) <<< p) % 2 ^ 32)) ||| (a <<< p &&& ((2 ^ n - 1) <<< p) % 2 ^ 32)
      = ofBits 32 fun i => if p ≤ i ∧ i < p + n then a.testBit (i - p) else c.testBit i := by
  apply Nat.eq_of_testBit_eq
  intro i
  rw [Nat.testBit_or, Nat.testBit_and, testBit_sub_and, Nat.testBit_mod_two_pow, testBit_fieldMask, Nat.testBit_shiftLeft,
    testBit_ofBits]
  by_cases inside : i < 32
  · by_cases field : p ≤ i ∧ i < p + n
    · simp [inside, field]
    · simp [inside, field]
  · have out : ¬(p ≤ i ∧ i < p + n) := by omega
    simp [inside, out, Nat.testBit_lt_two_pow (hc.trans_le (Nat.pow_le_pow_right (by decide) (not_lt.mp inside)))]

/-! ## Operands of integer words (R180) -/

theorem Iss.raw_lt (x : Iss) (f n i : Nat) : x.raw f n i < 2 ^ n := by
  unfold Iss.raw
  split
  next h => rw [h]; exact BitVec.isLt _
  next => exact Nat.mod_lt _ (Nat.two_pow_pos n)

theorem Iss.rawB_lt (x : Iss) (o : V3) (n i : Nat) : x.rawB o n i < 2 ^ n := by
  unfold Iss.rawB
  split
  · exact Nat.mod_lt _ (Nat.two_pow_pos n)
  · split
    · exact Nat.mod_lt _ (Nat.two_pow_pos n)
    · exact x.raw_lt ..

/-- A word whose body is `Put` of a number of each lane completes with it. -/
theorem Fixed.of_intRes {i : Instr} {sp : Spec} {lat : Nat} {o : V3} {f : Iss → Nat → Int}
    (runs : ∀ s, exec i s = issue sp (fun x _ => x.intRes lat o (f x)) s) :
    Fixed i sp lat (fun _ x => x.putT o.ty.toNat o.d.toNat (f x)) (fun _ _ => []) :=
  Fixed.of_body runs fun _ _ => rfl

/-- The same, where the body spells the number of a lane in another way. -/
theorem Fixed.of_intRes_eq {i : Instr} {sp : Spec} {lat : Nat} {o : V3} {f g : Iss → Nat → Int}
    (runs : ∀ s, exec i s = issue sp (fun x _ => x.intRes lat o (f x)) s) (same : ∀ x l, f x l = g x l) :
    Fixed i sp lat (fun _ x => x.putT o.ty.toNat o.d.toNat (g x)) (fun _ _ => []) :=
  (funext fun x => funext (same x) : f = g) ▸ Fixed.of_intRes runs

/-- A word whose body is a 32-bit number of each lane, in one register whatever TYPE says, completes with it. -/
theorem Fixed.of_put1 {i : Instr} {sp : Spec} {lat d : Nat} {f : Iss → Nat → Nat}
    (runs : ∀ s, exec i s = issue sp (fun x _ => .fixed lat (x.put1 d (f x)) []) s) :
    Fixed i sp lat (fun _ x => x.put1 d (f x)) (fun _ _ => []) :=
  Fixed.of_body runs fun _ _ => rfl

end Sys2Proof.Machine

namespace Sys2Proof.Statements

open Sys2Proof.Machine

theorem logicAndBitsComplete : LogicAndBitsComplete := by
  intro o n np put one all a b cnt
  refine ⟨?and, ?or, ?xor, ?andn, ?not, ?shl, ?shr, ?sar, ?rot, ?popc, ?clz, ?ctz, ?brev⟩
  case and | or | xor | not | sar | rot | brev => exact Fixed.of_intRes fun _ => rfl
  case popc | clz | ctz => exact Fixed.of_put1 fun _ => rfl
  case andn => exact Fixed.of_intRes_eq (fun _ => rfl) fun x l => congrArg _ (sub_and_eq_and_compl (x.raw_lt ..) (x.rawB_lt ..))
  case shl | shr => exact Fixed.of_intRes_eq (fun _ => rfl) fun x l => (apply_ite Nat.cast ..).symm

theorem fieldInstructionsComplete : FieldInstructionsComplete := by
  intro o d np one va vc f4 code
  refine ⟨?fnl, ?bfx, ?bfi, ?bilv, ?bdil⟩
  case fnl | bfx | bdil => exact Fixed.of_put1 fun _ => rfl
  case bfi =>
    refine Fixed.of_body (fun _ => rfl) fun s x => congrArg (Res.fixed 6 · []) (congrArg (x.put1 d) (funext fun l => ?_))
    have short : fieldPos (x.amount o l) < 32 := Nat.mod_lt _ (by decide)
    exact insertField_eq (by unfold fieldLen; omega) (BitVec.isLt _)
  case bilv => exact Fixed.of_body (fun _ => rfl) fun _ _ => rfl

end Sys2Proof.Statements

namespace Sys2Proof.Proofs

open Sys2Proof.Machine

/-- Settles O1: each body is `Put` of the result of the statement; the absolute value is chosen by the sign. -/
theorem integerArithmeticCompletes : Obligations.IntegerArithmeticCompletes := by
  intro o ty d put np
  refine ⟨?iadd, ?isub, ?iadds, ?iadd64, ?isub64, ?imul, ?imulh, ?imad, ?imadw, ?imin, ?imax, ?iabs, ?ineg⟩
  case iadd | isub | iadds | iadd64 | isub64 | imul | imulh | imad | imin | imax | ineg => exact Fixed.of_intRes fun _ => rfl
  case imadw => exact Fixed.of_body (fun _ => rfl) fun _ _ => rfl
  case iabs =>
    refine Fixed.of_intRes_eq (fun _ => rfl) fun x l => ?_
    show (if x.opdA o l < 0 then -x.opdA o l else x.opdA o l) = _
    split <;> omega

/-- Settles O2: the bodies give the results of the statement but for `ANDN`, which takes the common bits away, and `BFI`, which
inserts under a mask. -/
theorem logicAndFieldWordsComplete : Obligations.LogicAndFieldWordsComplete :=
  ⟨Statements.logicAndBitsComplete, Statements.fieldInstructionsComplete⟩

/-- Settles O3: each body is the result of the statement, `SETP` by its mode. -/
theorem selectAndMoveComplete : Obligations.SelectAndMoveComplete := by
  refine ⟨fun o => ⟨?isel, ?icmp, ?lea, ?mov⟩, fun o => ⟨?movi, ?movl, ?sreg, ?lookup, ?bit, ?number⟩⟩
  case isel | mov => exact Fixed.of_intRes fun _ => rfl
  case icmp | lea | movi | movl | sreg => exact Fixed.of_body (fun _ => rfl) fun _ _ => rfl
  case lookup | bit | number =>
    intro mode
    refine Fixed.of_body (fun s => ?_) fun _ _ => rfl
    show execSetp o s = _
    simp only [execSetp, mode, Iss.predRes]

end Sys2Proof.Proofs
end

section
/-! PROOFS. Branches, and the words that end, yield or mark an entry (R44-R46, R56, R187-R189, R193-R196, R373, R391, R396). -/

namespace Sys2Proof.Machine

open Sys2Proof.Statements

/-! ## Branches (R46, R187, R188, R391) -/

theorem aligned8_eq_false {t : W64} (odd : t.toNat % 8 ≠ 0) : aligned8 t = false := decide_eq_false odd

section
variable {s : State} {x : Iss} {stall : Nat} {t : Mask} {tpc npc : W64}

theorem State.branch_of_split {k : Core}
    (splits : x.k.split x.slot { x.e with wait := .none, retried := false } t tpc (x.e.mask &&& ~~~t) npc x.now (x.now + 1 + stall)
      = some k) : s.branch x stall t tpc npc = .moved (s.setCore x.c k) := by
  simp only [State.branch, splits]

theorem State.branch_of_full
    (full : x.k.split x.slot { x.e with wait := .none, retried := false } t tpc (x.e.mask &&& ~~~t) npc x.now (x.now + 1 + stall)
      = none) : s.branch x stall t tpc npc = .trap (depthTrap .reconvDepth x) := by
  simp only [State.branch, full]
  rfl

end

/-- A split with lanes on both sides needs a fragment entry or room on the token stack. -/
theorem Core.split_of_full {k : Core} {slot : Nat} {g : Group} (e : Entry) {t n : Mask} (tpc npc : W64) (now next : Nat)
    (group : k.group? slot = some g) (noFrag : k.freeFrag (quarterOf slot) = none) (full : 16 ≤ g.items.length) (taken : t ≠ 0#8)
    (others : n ≠ 0#8) : k.split slot e t tpc n npc now next = none := by
  simp only [Core.split, others, taken, group, noFrag, Group.pushItem_full _ _ _ _ full, if_false]

/-! ## A predicate written with the effect (R56, R196) -/

section
variable {k : Core} {x : Iss} {g : Group} (group : k.group? x.slot = some g) (p : Nat) (m v : Mask)
include group

theorem Core.putPred_of_settled (settled : g.pend.all (fun q => decide (q.tgt ≠ .pred p)) = true) :
    k.putPred x p m v = k.setGroup x.slot (g.setPred p m v) := by
  have noOlder : g.pend.filter (fun q => decide (q.tgt = .pred p)) = [] := by
    simpa [List.filter_eq_nil_iff] using settled
  have bits : (v.setWidth 256).extractLsb' 0 8 = v := by
    rw [← BitVec.setWidth_eq_extractLsb' (by decide), BitVec.setWidth_setWidth_of_le _ (by decide), BitVec.setWidth_eq]
  simp only [Core.putPred, Core.putNow, group, noOlder, List.isEmpty_nil, if_true, Core.applyPend, bits]

theorem Core.putPred_of_pending (pending : g.pend.any (fun q => decide (q.tgt = .pred p)) = true) :
    k.putPred x p m v =
      let older := g.pend.filter fun q => decide (q.tgt = .pred p)
      k.setGroup x.slot { g with pend := g.pend ++
        [{ by_ := x.e.id, ready := older.foldl (fun n q => max n q.ready) x.now, tgt := .pred p, mask := m
           val := v.setWidth 256 }] } := by
  have someOlder : (g.pend.filter fun q => decide (q.tgt = .pred p)).isEmpty = false := by
    simpa [List.filter_eq_nil_iff] using pending
  simp only [Core.putPred, Core.putNow, group, someOlder, Bool.false_eq_true, if_false]

end

end Sys2Proof.Machine

namespace Sys2Proof.Statements

open Sys2Proof.Machine

theorem branchesComplete : BranchesComplete := by
  intro o bra f brx stall e0
  refine ⟨?_, fun k => ?_, ?_, fun k => ?_⟩
  · refine Moved.of_body (fun _ => rfl) fun s x ⟨aligned, handler⟩ => ?_
    simp only [aligned, handler, Bool.not_true, Bool.false_eq_true, if_false, if_true]
  · refine Moved.of_body (fun _ => rfl) fun s x ⟨aligned, plain, splits⟩ => ?_
    simp only [aligned, plain, Option.isSome_none, Bool.not_true, Bool.false_eq_true, if_false]
    exact State.branch_of_split splits
  · refine Moved.of_body (fun _ => rfl) fun s x ⟨aligned, handler⟩ => ?_
    simp only [f] at aligned ⊢
    simp only [aligned, handler, if_true]
  · refine Moved.of_body (fun _ => rfl) fun s x ⟨aligned, plain, splits⟩ => ?_
    simp only [f] at aligned splits
    simp only [aligned, plain, Option.isSome_none, Bool.not_true, Bool.false_eq_true, if_false]
    exact State.branch_of_split splits

theorem branchToMisalignedTargetTraps : BranchToMisalignedTargetTraps := by
  intro o
  refine ⟨?_, ?_, ?_⟩
  · refine Traps.of_body (fun _ => rfl) fun s x odd => ?_
    simp only [aligned8_eq_false odd, Bool.not_false, if_true]
  · refine Traps.of_body (fun _ => rfl) fun s x ⟨plain, odd⟩ => ?_
    simp only [plain, aligned8_eq_false odd, Option.isSome_none, Bool.not_false, Bool.false_eq_true, if_false, if_true]
  · refine Traps.of_body (fun _ => rfl) fun s x ⟨handler, odd⟩ => ?_
    simp only [handler, aligned8_eq_false odd, Bool.false_eq_true, if_false, if_true]

theorem branchWithoutARecordTraps : BranchWithoutARecordTraps := by
  intro o stall e0
  refine ⟨?_, ?_, fun k slot g e t n tpc npc now next group noFrag full taken others => ?_⟩
  · refine Traps.of_body (fun _ => rfl) fun s x ⟨aligned, plain, full⟩ => ?_
    simp only [aligned, plain, Option.isSome_none, Bool.not_true, Bool.false_eq_true, if_false]
    exact State.branch_of_full full
  · refine Traps.of_body (fun _ => rfl) fun s x ⟨aligned, plain, full⟩ => ?_
    simp only [aligned, plain, Option.isSome_none, Bool.not_true, Bool.false_eq_true, if_false]
    exact State.branch_of_full full
  · exact Core.split_of_full e tpc npc now next group noFrag full taken others

end Sys2Proof.Statements

namespace Sys2Proof.Proofs

open Sys2Proof.Machine Sys2Proof.Statements

/-- Settles O8: past the check of its target a branch is `State.branch`, which goes by the split of the entry, or in a handler a
jump of the whole entry. -/
theorem branchesCompleteOrTrap : Obligations.BranchesCompleteOrTrap :=
  ⟨branchesComplete, branchToMisalignedTargetTraps, branchWithoutARecordTraps⟩

/-- Settles O11: the words have their effects at once; `LEAD` writes its predicate in the group, or behind the result that is
pending for it. -/
theorem entryControlCompletes : Obligations.EntryControlCompletes := by
  intro o
  refine ⟨?nop, ?exit, ?yield, ?idmc, fun i ts => ?fatal, fun g => ?lead, fun g => ?leadPending⟩
  case nop | idmc => exact Done.of_body (fun _ => rfl) fun _ _ _ => rfl
  case yield => exact Moved.of_body (fun _ => rfl) fun _ _ _ => rfl
  case exit =>
    refine Moved.of_body (fun _ => rfl) fun s x plain => ?_
    simp only [plain]
  case fatal =>
    refine Moved.of_body (fun _ => rfl) fun s x ⟨handler, frame⟩ => ?_
    simp only [handler, frame]
  case lead =>
    refine Done.of_body (fun _ => rfl) fun s x ⟨group, settled⟩ => ?_
    simp only [Core.putPred_of_settled group _ _ _ settled]
  case leadPending =>
    refine Done.of_body (fun _ => rfl) fun s x ⟨group, pending⟩ => ?_
    simp only [Core.putPred_of_pending group _ _ _ pending]

end Sys2Proof.Proofs
end

section
/-! PROOFS. Calls, returns and unwinds (R61, R65, R68, R171, R191, R192, R396). -/

namespace Sys2Proof.Machine

open Sys2Proof.Statements

/-! ## The checks of a call (R61, R191) -/

/-- The registers that a call copies lie in the caller's frame and in the callee's (R61, R191). -/
def CallFits (o : CF) (x : Iss) : Prop :=
  o.vbase.toNat + o.args.toNat ≤ x.k.frameSize x.e.frame ∧ o.vbase.toNat + o.res.toNat ≤ x.k.frameSize x.e.frame
    ∧ o.args.toNat ≤ (o.fsize.toNat + 1) * 8 ∧ o.res.toNat ≤ (o.fsize.toNat + 1) * 8

theorem callRange_of_misfit {o : CF} {x : Iss} (outside : ¬CallFits o x) : callRange o x = some (rangeTrap x o.vbase.toNat) := by
  refine if_pos ?_
  simp only [CallFits, Bool.or_eq_true, decide_eq_true_eq] at outside ⊢
  omega

theorem callRange_of_fits {o : CF} {x : Iss} (fits : CallFits o x) : callRange o x = none := by
  obtain ⟨argsCaller, resCaller, argsCallee, resCallee⟩ := fits
  refine if_neg ?_
  simp only [Bool.or_eq_true, decide_eq_true_eq]
  omega

/-- The halves of the literal that a call does not use are 0 (R171, R191). -/
def CallHalvesClear (o : CF) (indirect : Bool) : Prop :=
  (o.lp = true ∨ hi32 o.literal = 0#32) ∧ (indirect = true → lo32 o.literal = 0#32)

section
variable {o : CF} {i : Instr} {ind : Bool} {x : Iss}

theorem not_callHalvesClear_iff : ¬CallHalvesClear o ind ↔
    ((!o.lp && decide (hi32 o.literal ≠ 0#32)) || (ind && decide (lo32 o.literal ≠ 0#32))) = true := by
  simp only [CallHalvesClear, not_and_or, not_or, Classical.not_imp, Bool.or_eq_true, Bool.and_eq_true, Bool.not_eq_true',
    Bool.not_eq_true, decide_eq_true_eq, ne_eq]

theorem callField_of_reserved (reserved : ¬CallHalvesClear o ind) :
    callField o i ind x = some (fieldTrap x { instr := i, g := o.g }) := if_pos (not_callHalvesClear_iff.mp reserved)

theorem callField_of_clear (clear : CallHalvesClear o ind) : callField o i ind x = none :=
  if_neg fun reserved => not_callHalvesClear_iff.mpr reserved clear

theorem callEarly_of_misfit (outside : ¬CallFits o x) : callEarly o i ind x = some (rangeTrap x o.vbase.toNat) := by
  simp only [callEarly, callRange_of_misfit outside, Option.orElse_some]

theorem callEarly_of_deep (fits : CallFits o x) (deep : ¬(x.act = 0#8 ∨ x.e.depth < 64)) :
    callEarly o i ind x
      = some (trapPlain .frameDemand (BitVec.ofNat 32 ((o.fsize.toNat + 1) * 8)) (BitVec.ofNat 32 x.e.depth) x.act) := by
  obtain ⟨lanes, depth⟩ := not_or.mp deep
  simp only [callEarly, callRange_of_fits fits, lanes, Nat.not_lt.mp depth, ne_eq, not_false_eq_true, decide_true, Bool.and_self,
    if_true, Option.orElse_none, Option.orElse_some]

theorem callEarly_of_shallow (fits : CallFits o x) (shallow : x.act = 0#8 ∨ x.e.depth < 64) :
    callEarly o i ind x = callField o i ind x := by
  have near : (decide (x.act ≠ 0#8) && decide (64 ≤ x.e.depth)) = false := by
    rw [Bool.and_eq_false_iff, decide_eq_false_iff_not, decide_eq_false_iff_not, not_not, Nat.not_le]
    exact shallow
  simp only [callEarly, callRange_of_fits fits, near, Bool.false_eq_true, if_false, Option.orElse_none]

end

/-- A call that finds room moves the entry into its new frame (R191). -/
theorem callBody_of_runs {o : CF} {tgt : W64} {p : Nat × Option (Nat × Nat)} {x : Iss} (runs : CallRuns o tgt p x) (s : State) :
    callBody o tgt x s = .moved (s.setCore x.c (callCore o tgt p x)) := by
  obtain ⟨aligned, clean, may, room⟩ := runs
  have unpoisoned : poisonRead x (callArgs o) = none := clean
  simp only [callBody, aligned8, aligned, unpoisoned, may, room, decide_true, Bool.not_true, Bool.false_eq_true, if_false]
  rfl

/-! ## Returns (R68, R192) -/

section
variable {x : Iss} (s : State)

theorem retBody_of_task (outer : x.e.depth = 0) (task : (runningTask x.k x.g x.e).isSome = true) :
    retBody x s = .trap (depthTrap .unwindEmpty x) := by
  simp only [retBody, outer, task, if_true]
  rfl

theorem retBody_of_outermost (outer : x.e.depth = 0) (plain : runningTask x.k x.g x.e = none) :
    retBody x s = .moved ((s.setCore x.c x.k).exitEntry x.c x.slot { x.e with wait := .none } x.e.mask) := by
  simp only [retBody, outer, plain, Option.isSome_none, Bool.false_eq_true, if_false, if_true]

section
variable {fr : Frame} {h : Hdr} {caller : Nat} (inner : x.e.depth ≠ 0) (frame : x.k.frame? x.e.frame = some fr)
  (header : fr.hdr = some h) (parent : fr.parent = some caller) (good : h.bad = false)
include inner frame header parent good

theorem retBody_of_adoption (adoption : h.adoption = true) : retBody x s = .trap (depthTrap .unwindEmpty x) := by
  simp only [retBody, inner, frame, header, parent, good, adoption, Bool.false_eq_true, if_false, if_true]
  rfl

variable (call : h.adoption = false)
include call

theorem retBody_of_record (record : x.g.cutTo x.e.tok h.tokh = none) : retBody x s = .trap (depthTrap .reconvDepth x) := by
  simp only [retBody, inner, frame, header, parent, good, call, record, Bool.false_eq_true, if_false]
  rfl

/-- The registers of the frame that a return copies. -/
def Hdr.results (h : Hdr) : List (Nat × Nat) := if h.res = 0 then [] else [(0, h.res)]

/-- The core with the results of a return in the caller's window, each behind the older results of its register. -/
def Core.copyResults (k : Core) (x : Iss) (h : Hdr) (caller : Nat) : Core :=
  (List.range h.res).foldl (fun k i =>
      k.putNow x (.reg (.frame caller (h.vbase + i))) x.e.mask (k.readLoc (.frame x.e.frame i)))
    (k.settle x.slot fun p => match p.tgt with
      | .reg l => (rangeLocs k x.e h.results).contains l
      | .pred _ => false)

theorem retBody_of_return {tok : Option Nat} (cut : x.g.cutTo x.e.tok h.tokh = some tok)
    (resident : (KMap.get? x.k.frames caller).isSome = true) (ready : anyBusy x.k x.e h.results = false)
    (window : ((List.range h.res).map fun i => RegLoc.frame caller (h.vbase + i)).any (fun l => x.k.busy l) = false)
    (clean : poisonRead x h.results = none) :
    retBody x s = .moved (s.leaveTo x (x.k.copyResults x h caller) caller tok h.rpc) := by
  have here : (KMap.get? x.k.frames caller).isNone = false := by
    rw [Option.isNone_eq_false_iff, resident]
  unfold Hdr.results at ready clean
  simp only [retBody, inner, frame, header, parent, good, call, cut, here, ready, window, clean, Bool.or_self, Bool.false_eq_true,
    if_false]
  rfl

end
end

/-! ## Unwinds (R68, R192) -/

/-- No header that `UNWIND` reads is bad. -/
theorem walked_any_bad {k : Core} {chain : List Nat} (good : (walked k chain).all (fun h => !h.bad) = true) :
    (walked k chain).any (fun h => h.bad) = false := by
  rw [← Bool.not_eq_true', List.not_any_eq_all_not, good]

end Sys2Proof.Machine

namespace Sys2Proof.Statements

open Sys2Proof.Machine

theorem callsComplete : CallsComplete := by
  refine fun o p => ⟨Moved.of_body (fun _ => rfl) fun s x runs => callBody_of_runs runs s,
    Moved.of_body (fun _ => rfl) fun s x ⟨one, runs⟩ => ?_⟩
  simp only [one, ne_eq, not_true_eq_false, if_false]
  exact callBody_of_runs runs s

theorem callChecksInOrder : CallChecksInOrder := fun _ =>
  ⟨checksInOrder_of_issue fun _ => rfl, checksInOrder_of_issue fun _ => rfl, fun _ _ _ =>
    ⟨callEarly_of_misfit, callEarly_of_deep,
      fun fits shallow reserved => (callEarly_of_shallow fits shallow).trans (callField_of_reserved reserved),
      fun fits shallow clear => (callEarly_of_shallow fits shallow).trans (callField_of_clear clear)⟩⟩

theorem returnAndUnwindComplete : ReturnAndUnwindComplete := by
  refine ⟨fun o fr h caller tok => ?ret, fun o => ?outermost, fun o i h tok => ?unwind⟩
  case ret =>
    refine Moved.of_body (fun _ => rfl) fun s x
      ⟨inner, frame, header, parent, good, call, cut, resident, ready, window, clean⟩ => ?_
    exact retBody_of_return s inner frame header parent good call cut resident ready window clean
  case outermost => exact Moved.of_body (fun _ => rfl) fun s x ⟨outer, plain⟩ => retBody_of_outermost s outer plain
  case unwind =>
    refine Moved.of_body (fun _ => rfl) fun s x ⟨good, lands, cut, free⟩ => ?_
    simp only [walked_any_bad good, lands, cut, free, Bool.false_eq_true, if_false]

theorem leavingTooFarTraps : LeavingTooFarTraps := by
  refine ⟨fun o => ?task, fun o fr h caller => ⟨?adoption, ?record⟩, fun o => ⟨?noPad, fun i h => ?cut⟩⟩
  case task => exact Traps.of_body (fun _ => rfl) fun s x ⟨outer, task⟩ => retBody_of_task s outer task
  case adoption =>
    refine Traps.of_body (fun _ => rfl) fun s x ⟨⟨inner, frame, header, parent, good⟩, adoption⟩ => ?_
    exact retBody_of_adoption s inner frame header parent good adoption
  case record =>
    refine Traps.of_body (fun _ => rfl) fun s x ⟨⟨inner, frame, header, parent, good⟩, call, record⟩ => ?_
    exact retBody_of_record s inner frame header parent good call record
  case noPad =>
    refine Traps.of_body (fun _ => rfl) fun s x ⟨good, noPad⟩ => ?_
    simp only [walked_any_bad good, noPad, Bool.false_eq_true, if_false]
    rfl
  case cut =>
    refine Traps.of_body (fun _ => rfl) fun s x ⟨good, lands, record⟩ => ?_
    simp only [walked_any_bad good, lands, record, Bool.false_eq_true, if_false]
    rfl

end Sys2Proof.Statements

namespace Sys2Proof.Proofs

open Sys2Proof.Statements

/-- Settles O10: the checks of a call are its own early check; past them call, return and unwind go by what their bodies find. -/
theorem callsAndReturnsComplete : Obligations.CallsAndReturnsComplete :=
  ⟨callsComplete, callChecksInOrder, returnAndUnwindComplete, leavingTooFarTraps⟩

end Sys2Proof.Proofs
end

section
/-! PROOFS. Conversions, packed forms, lane words, textures and graphics arithmetic: a word that issues completes with the results of
its body (R204-R217). -/

namespace Sys2Proof.Machine

open Sys2Proof.Statements

/-! ## Textures (R213, R214) -/

/-- A word whose body samples or gathers is over once its lanes' records and texels are reached; what it does besides its result
(notes, latches, requests) leaves memory as it was. -/
theorem DoneWith.of_texBody {i : Instr} {sp : Spec} {o : V3} {t : TexOp} (runs : ∀ s, exec i s = issue sp (texBody o t sp.word) s)
    (q : TexReads) :
    DoneWith i sp (fun s x => (afterChoice s).texReads x o t sp.word (cacheServes s) = .ok q) fun s x s2 =>
      ∃ s3 pz lv reqs la, SameMem s s3 ∧ la.map Prod.fst = (accessRecords (q.recs.map fun r => (r.1, r.2, 0))).map Brec.handle
        ∧ s2 = s3.addResult x o.d.toNat ((afterChoice s).texRegs x o t q) pz lv reqs true la := by
  refine DoneWith.of_body runs fun s x reads => ?_
  have chosen : SameMem s (afterChoice s) := State.choice_same s 2
  simp only [afterChoice, cacheServes] at reads
  simp only [texBody, reads]
  refine ⟨_, rfl, _, _, _, _, _, ?_, State.latchKeys_handles .., rfl⟩
  exact chosen.trans ((State.noteAll_same ..).trans ((State.latchAll_same ..).trans (State.loadReqs_same ..)))

end Sys2Proof.Machine

namespace Sys2Proof.Proofs

open Sys2Proof.Machine

/-- Settles O5: a packed form's body is its lanes' rounded results; `FCVT` and `CVTN` choose the registers that they write by
the format, or the direction, before they complete. -/
theorem conversionsAndPackedFormsComplete : Obligations.ConversionsAndPackedFormsComplete := by
  intro o t f rm d a np va vc pk other dir src dst cv tw n w sc pack sp3
  refine ⟨?hadd2, ?hmul2, ?hfma2, ?fdot2, ?fcvt, ?cvtn, ?fsplit3⟩
  case hadd2 | hmul2 | hfma2 | fdot2 => exact FixedF.of_fltRes fun _ => rfl
  case fcvt =>
    refine FixedF.of_body (fun _ => rfl) fun s x untrapped => ?_
    simp only [cv, src, dst, dir, other, t, rm, a] at untrapped
    simp only [untrapped]
    exact (apply_ite (Res.fixed _ · []) ..).symm
  case cvtn => exact Fixed.of_body (fun _ => rfl) fun _ _ => (apply_ite (Res.fixed 5 · []) ..).symm
  case fsplit3 => exact Fixed.of_body (fun _ => rfl) fun _ _ => rfl

/-- Settles O6: each body is the result of the statement, `VOTE` by its FUNC and `REDL` by its TYPE; a floating-point reduction is
one result for all lanes, so it traps in all or in none. -/
theorem laneInstructionsComplete : Obligations.LaneInstructionsComplete := by
  intro o t d func np nw bal vote m same flt redl tree
  refine ⟨?shfl, ?all, ?any, ?uniform, ?ballot, ?matchLanes, ?float, ?integer, ?prmt⟩
  case shfl | matchLanes | prmt => exact Fixed.of_body (fun _ => rfl) fun _ _ => rfl
  case all | any | uniform | ballot =>
    intro mode
    refine Fixed.of_body (fun _ => rfl) fun _ _ => ?_
    simp only [show o.func.toNat = _ from mode]
    rfl
  case float =>
    intro (isFloat : isFloatTy o.ty.toNat = true)
    refine FixedF.of_body (fun _ => rfl) fun s x untrapped => ?_
    simp only [tree, func, t] at untrapped
    simp only [isFloat, if_true, untrapped]
    rfl
  case integer =>
    intro (isInteger : isFloatTy o.ty.toNat = false)
    refine Fixed.of_body (fun _ => rfl) fun _ _ => ?_
    simp only [isInteger, Bool.false_eq_true, if_false]
    rfl

/-- Settles O7: each body is the result of the statement; `VIEWX` names as many registers as the launch has views. -/
theorem graphicsArithmeticCompletes : Obligations.GraphicsArithmeticCompletes := by
  intro o d a
  refine ⟨?edge, ?viewx, ?packc⟩
  case edge | packc => exact Fixed.of_body (fun _ => rfl) fun _ _ => rfl
  case viewx =>
    intro s s1 x issues
    exact (issue_of_issues issues _).trans (finish_later ..)

/-- Settles O18: both words run the body of a texture word, `TEX` to sample and `TEXG` to gather. -/
theorem textureInstructionsComplete : Obligations.TextureInstructionsComplete := fun _ q =>
  ⟨DoneWith.of_texBody (fun _ => rfl) q, DoneWith.of_texBody (fun _ => rfl) q⟩

end Sys2Proof.Proofs
end

section
/-! PROOFS. Barriers, rings and futures: the words that synchronise entries (R73, R230-R233, R371). -/

namespace Sys2Proof.Machine

open Sys2Proof.Statements

/-! ## Words that wait, and words whose result arrives later -/

section
variable {i : Instr} {sp : Spec} {body : Iss → State → Res} (runs : ∀ s, exec i s = issue sp body s)
include runs

theorem Waits.of_body {p : State → Iss → Prop} {w : State → Iss → Wait} (effect : ∀ s x, p s x → body x s = .wait s (w s x)) :
    Waits i sp p w := by
  intro s s1 x issues holds
  rw [runs, issue_of_issues issues, effect s1 x holds, finish_wait]

theorem exec_of_later {s s1 : State} {x : Iss} (issues : Issues s sp s1 x) {ws : List (Nat × Reg)} (later : body x s1 = .later ws) :
    exec i s = .next (s1.afterLater x sp ws) := by
  rw [runs, issue_of_issues issues, later, finish_later]

end

/-! ## Barriers (R230) -/

section
variable {b : Barrier} {n : Nat}

theorem Barrier.arrive_of_no_count (unset : b.expected = 0) : b.arrive n = none := by
  simp only [Barrier.arrive, unset, decide_true, Bool.true_or, if_true]

theorem Barrier.arrive_of_more (more : b.expected < b.arrival + n) : b.arrive n = none := by
  simp only [Barrier.arrive, more, decide_true, Bool.or_true, if_true]

theorem Barrier.arrive_of_last (counts : b.expected ≠ 0) (last : b.arrival + n = b.expected) :
    b.arrive n = some { expected := b.expected, arrival := 0, phase := b.phase + 1 } := by
  simp only [Barrier.arrive, counts, last, lt_irrefl, decide_false, Bool.or_self, Bool.false_eq_true, if_false, if_true]

theorem Barrier.arrive_of_fewer (fewer : b.arrival + n < b.expected) :
    b.arrive n = some { expected := b.expected, arrival := b.arrival + n, phase := b.phase } := by
  have counts : b.expected ≠ 0 := Nat.ne_zero_of_lt fewer
  simp only [Barrier.arrive, counts, fewer.not_gt, fewer.ne, decide_false, Bool.or_self, Bool.false_eq_true, if_false]

end

/-! ## Rings (R231, R232) -/

theorem ringOwned_of_own {x : Iss} {r : Ring} (own : r.vf = x.v) (id : W32) : ringOwned x id r = none := if_pos own

/-- A ring word goes on once the registers of its slot pass their checks. -/
theorem State.ringRegs_of_ok {s : State} {x : Iss} {rs : List (Nat × Nat)} {reads : Bool} (ok : RingRegsOk rs reads s x)
    (k : Unit → Res) : s.ringRegs x rs reads k = k () := by
  obtain ⟨inRange, free, sources⟩ := ok
  cases reads with
  | false => simp only [State.ringRegs, inRange, free, Bool.false_eq_true, if_false]
  | true =>
    obtain ⟨visible, clean⟩ := sources rfl
    simp only [State.ringRegs, inRange, free, visible, clean, Bool.false_eq_true, if_false, if_true]

end Sys2Proof.Machine

namespace Sys2Proof.Statements

open Sys2Proof.Machine

theorem barriersComplete : BarriersComplete := by
  intro o b n bar misuse
  refine ⟨?bari, fun s' => ?bara, ?barw, ?barwWaits, ?bariTraps, ?baraTraps, ?barsTraps, fun s' => ?bars, fun s' => ?barsWaits,
    ?barp⟩
  case bari =>
    refine Done.of_body (fun _ => rfl) fun s x ⟨idle, counts⟩ => ?_
    simp only [bar, b] at idle
    simp only [idle, counts, ne_eq, not_true_eq_false, decide_false, Bool.or_self, Bool.false_eq_true, if_false]
    rfl
  case bara =>
    refine Done.of_body (fun _ => rfl) fun s x arrives => ?_
    simp only [b, n] at arrives
    simp only [barCount, arrives]
  case barw =>
    refine Done.of_body (fun _ => rfl) fun s x moved => ?_
    simp only [bar, b] at moved
    simp only [moved, if_false]
  case barwWaits =>
    refine Waits.of_body (fun _ => rfl) fun s x same => ?_
    simp only [bar, b] at same ⊢
    simp only [same, if_true]
  case bariTraps =>
    refine Traps.of_body (fun _ => rfl) fun s x refused => ?_
    refine if_pos ?_
    simpa only [Bool.or_eq_true, decide_eq_true_eq] using refused
  case baraTraps =>
    refine Traps.of_body (fun _ => rfl) fun s x refused => ?_
    simp only [b, n] at refused
    simp only [barCount, refused]
    rfl
  case barsTraps =>
    refine Traps.of_body (fun _ => rfl) fun s x refused => ?_
    simp only [b, n] at refused
    simp only [barCount, refused]
    rfl
  case bars =>
    refine Done.of_body (fun _ => rfl) fun s x ⟨arrives, moved⟩ => ?_
    simp only [bar, b, n] at arrives moved
    simp only [barCount, arrives, moved, ne_eq, not_false_eq_true, if_true]
  case barsWaits =>
    refine Moved.of_body (fun _ => rfl) fun s x ⟨arrives, same⟩ => ?_
    simp only [bar, b, n] at arrives same ⊢
    simp only [barCount, arrives, same, ne_eq, not_true_eq_false, if_false]
  case barp => exact fun s s1 x issues => exec_of_later (fun _ => rfl) issues rfl

theorem barrierArrivalRule : BarrierArrivalRule := fun _ _ =>
  ⟨Barrier.arrive_of_no_count, fun _ => Barrier.arrive_of_more, Barrier.arrive_of_last, Barrier.arrive_of_fewer⟩

end Sys2Proof.Statements

namespace Sys2Proof.Proofs

open Sys2Proof.Machine Sys2Proof.Statements

/-- Settles O19: each word goes by the barrier's counts and phase, and `Barrier.arrive` has one case for each way that the count
can go. -/
theorem barriersCompleteByTheirRule : Obligations.BarriersCompleteByTheirRule := ⟨barriersComplete, barrierArrivalRule⟩

/-- Settles O20: past the ring that its id names and the state of the slot, each word has its effect. -/
theorem ringsComplete : Obligations.RingsComplete := by
  intro o h i r v rini rclm
  refine ⟨fun i => ?rini, ?full, ?rclm, ?rpub, ?rwfl, ?rrel, ?rwfr⟩
  case rini =>
    refine Done.of_body (fun _ => rfl) fun s x ⟨place, fresh, aligned, inside⟩ => ?_
    simp only [place, fresh, aligned, inside.not_gt, ne_eq, not_true_eq_false, decide_false, Bool.or_self, Option.bind_none,
      Bool.false_eq_true, if_false]
  case full =>
    refine Done.of_body (fun _ => rfl) fun s x ⟨⟨ring, own⟩, full⟩ => ?_
    simp only [ring, ringOwned_of_own own, full, if_true]
  case rclm =>
    refine Done.of_body (fun _ => rfl) fun s x ⟨⟨ring, own⟩, room⟩ => ?_
    simp only [ring, ringOwned_of_own own, room, Bool.false_eq_true, if_false]
  case rpub =>
    refine Done.of_body (fun _ => rfl) fun s x ⟨⟨ring, own⟩, slot, claimed, registers⟩ => ?_
    simp only [v] at slot claimed ⊢
    simp only [ring, slot.not_ge, claimed, ringOwned_of_own own, State.ringRegs_of_ok registers, ne_eq, not_true_eq_false, if_false]
  case rwfl =>
    refine Done.of_body (fun _ => rfl) fun s x ⟨⟨ring, own⟩, registers, ready⟩ => ?_
    simp only [ring, ringOwned_of_own own, State.ringRegs_of_ok registers, ready, Bool.not_true, Bool.false_eq_true, if_false]
  case rrel =>
    refine Done.of_body (fun _ => rfl) fun s x ⟨⟨ring, own⟩, slot, taken⟩ => ?_
    simp only [v] at slot taken ⊢
    simp only [ring, slot.not_ge, taken, ringOwned_of_own own, ne_eq, not_true_eq_false, if_false]
  case rwfr =>
    refine Done.of_body (fun _ => rfl) fun s x ⟨⟨ring, own⟩, room⟩ => ?_
    simp only [ring, ringOwned_of_own own, room, Bool.false_eq_true, if_false]

/-- Settles O21: `FNEW` passes its checks in every lane, `FSET` and `FWAIT` go by the futures that their handles name. -/
theorem futuresComplete : Obligations.FuturesComplete := by
  intro o pas prs fs pa w at_ fnew fset fwait fut
  refine ⟨?fnew, ?fset, ?value, ?failed, ?empty⟩
  case fnew =>
    refine Done.of_body (fun _ => rfl) fun s x good => ?_
    simp only [at_, imp_and, forall_and] at good ⊢
    obtain ⟨aligned, below, reaches⟩ := good
    rw [overLanes_ok _ _ (fun _ => ()) fun l lane => if_pos (aligned l lane)]
    dsimp only
    rw [overLanes_ok _ _ pas fun l lane => by simp only [(below l lane).not_ge, reaches l lane, if_false]]
    simp only [List.map_map, Function.comp_def]
  case fset =>
    refine Done.of_body (fun _ => rfl) fun s x named => ?_
    simp only [named]
  case value =>
    refine Done.of_body (fun _ => rfl) fun s x ⟨named, set⟩ => ?_
    simp only [fut] at named
    simp only [named, set, one_ne_zero, if_false, if_true]
    rfl
  case failed =>
    refine Done.of_body (fun _ => rfl) fun s x ⟨named, failed⟩ => ?_
    simp only [fut] at named
    simp only [named, failed]
    rfl
  case empty =>
    refine Moved.of_body (fun _ => rfl) fun s x ⟨named, empty⟩ => ?_
    simp only [fut] at named
    simp only [named, empty, if_true]

end Sys2Proof.Proofs
end

section
/-! PROOFS. Copies and the matrix interface: the words that start copies, wait for them and reserve operands, and how copies and
matrix operations end (R228, R229, R235, R237, R241, R243, R409). -/

namespace Sys2Proof.Machine

/-! ## The matrix interface (R235, R243) -/

/-- The tokens of an `MSEQ` are the phases at its first issue. -/
theorem Iss.seqTokens_eq {x : Iss} {tokens : List (BitVec 16)}
    (first : x.e.wait = .sequencer tokens
      ∨ (∀ t, x.e.wait ≠ .sequencer t) ∧ tokens = (List.range 16).map fun b => ((x.k.wg x.g.wg).barrier b).phase) :
    x.seqTokens = tokens := by
  unfold Iss.seqTokens
  rcases first with waits | ⟨fresh, rfl⟩
  · simp only [waits]
  · split
    next t waits => exact (fresh t waits).elim
    next => rfl

/-! ## Copies that start (R228) -/

theorem Core.chan_latchRec (k : Core) (h : W32) (table : Nat) (words : List W64) (region : Option (List W64)) (ch : Nat) :
    (k.latchRec h table words region).chan ch = k.chan ch := by
  unfold Core.latchRec
  split <;> rfl

theorem Core.chan_setChan_self (k : Core) (ch : Nat) (y : CopyChan) : (k.setChan ch y).chan ch = y := KMap.getD_put_self ..

/-! ## Copies and matrix operations that end (R228, R229, R237, R409) -/

section
variable {s : State} {c ch : Nat}

theorem execCopyComplete_next {op op' : CopyOp} (copies : ((s.core c).chan ch).op = some op)
    (left : (((State.copySome (op.total - op.pos) s c ch).core c).chan ch).op = some op') (ended : op'.pos = op'.total) :
    execCopyComplete c ch s = .next ((State.copySome (op.total - op.pos) s c ch).copyOver c ch) := by
  simp only [execCopyComplete, copies, left, ended, if_true]

section
variable {s1 : State} {op : CopyOp} {va : Nat} (copies : ((s.core c).chan ch).op = some op) (element : op.source op.pos = some va)
  (unread : s.copyData c op op.pos = none)
include copies element unread

theorem execEngineOpEnded_resolved {pa : Nat} (resolved : s.agentAddr (c / 48) op.vf va .rd = (s1, .ok pa)) :
    execEngineOpEnded c ch s = .next s1 := by
  simp only [execEngineOpEnded, State.copyFault, copies, element, unread, resolved]

theorem execEngineOpEnded_declined {code : Nat} (declined : s.agentAddr (c / 48) op.vf va .rd = (s1, .error code)) :
    execEngineOpEnded c ch s = .next ((s1.raise (srcCore c)
      { copyEvent c op.vf code with addrVa := true, addr := BitVec.ofNat 64 va }).copyOver c ch) := by
  simp only [execEngineOpEnded, State.copyFault, copies, element, unread, declined]

end

/-- The operation that the free choice picks among those that may end next leaves the core. -/
theorem execMatrixOpComplete_next {o : MatOp}
    (picked : let ops := (Core.shiftDrains 16 (s.core c)).readyOps
      ops[Config.choose s.choices % ops.length]? = some o) :
    execMatrixOpComplete c s
      = .next (State.completeOp { s.setCore c (Core.shiftDrains 16 (s.core c)) with choices := s.choices + 1 } c o) := by
  have ready : (Core.shiftDrains 16 (s.core c)).readyOps.isEmpty = false := by
    rw [List.isEmpty_eq_false_iff]
    intro empty
    simp only [empty, List.getElem?_nil] at picked
    cases picked
  have unchosen : (s.setCore c (Core.shiftDrains 16 (s.core c))).choices = s.choices := rfl
  simp only [execMatrixOpComplete, State.core_setCore_self, ready, State.choice, unchosen, picked, Bool.false_eq_true, if_false]

end

end Sys2Proof.Machine

namespace Sys2Proof.Statements

open Sys2Proof.Machine

theorem matrixInterfaceCompletes : MatrixInterfaceCompletes := by
  intro o w n q mseq atFirst
  refine ⟨?ores, ?orel, fun i tokens => ?mseq, fun tokens => ?waits⟩
  case ores =>
    refine Done.of_body (fun _ => rfl) fun s x allowed => ?_
    simp only [w, n, q] at allowed ⊢
    simp only [allowed]
  case orel =>
    refine Done.of_body (fun _ => rfl) fun s x ⟨present, unread⟩ => ?_
    simp only [w, n] at present unread ⊢
    simp only [Option.isNone_eq_false_iff.mpr present, unread, Bool.false_eq_true, if_false]
  case mseq =>
    refine Done.of_body (fun _ => rfl) fun s x ⟨even, idle, free, first⟩ => ?_
    simp only [w] at idle ⊢
    simp only [even, idle, free, Iss.seqTokens_eq first, ne_eq, not_true_eq_false, if_false]
  case waits =>
    refine Waits.of_body (fun _ => rfl) fun s x ⟨even, held, first⟩ => ?_
    simp only [w] at held
    simp only [even, Iss.seqTokens_eq first, ne_eq, not_true_eq_false, if_false]
    split
    next i idle free => exact (held.elim (· idle) fun busy => by rw [free] at busy; cases busy).elim
    next => rfl

theorem copiesStart : CopiesStart := by
  intro o ws pas prs imm ch bst copyt copy16 org box dst r n w s0 src place
  refine ⟨?copyt, ?copy16, ?cwait, ?cwmk⟩
  case copyt =>
    refine DoneWith.of_body (fun _ => rfl) fun s x => ?_
    have chosen : SameMem s (s.choice 2).2 := State.choice_same s 2
    simp only [s0, copyt, org, box, dst, r, n, w, ch, bst, imm]
    generalize s.choice 2 = c at chosen ⊢
    obtain ⟨cached, u⟩ := c
    rintro ⟨record, plain, extents, target, idle⟩
    simp only [record, plain, extents, target, idle, Option.isSome_none, Bool.false_eq_true, if_false]
    refine ⟨_, rfl, chosen.trans (State.setCore_same ..), ?_⟩
    rw [State.core_setCore_self, Core.chan_latchRec, Core.chan_setChan_self]
    refine ⟨_, (apply_ite CopyChan.op ..).trans (ite_self _), rfl, rfl, rfl, rfl, rfl, rfl, fun pool => ?_⟩
    rw [if_neg (Bool.eq_false_iff.mp pool)]
  case copy16 =>
    refine DoneWith.of_body (fun _ => rfl) fun s x good => ?_
    simp only [src, place, w, imp_and, forall_and] at good ⊢
    obtain ⟨sources, targets, inside, reaches⟩ := good
    rw [overLanes_ok _ _ (fun _ => ()) fun l lane => by
      simp only [sources l lane, targets l lane, ne_eq, not_true_eq_false, if_false]]
    dsimp only
    rw [overLanes_ok _ _ (fun _ => ()) fun l lane => if_pos (inside l lane)]
    dsimp only
    rw [overLanes_ok _ _ (fun l => (pas l, prs l)) reaches]
    refine ⟨_, rfl, (State.noteAll_same ..).trans (State.setCore_same ..), ?_⟩
    rw [State.core_setCore_self]
    exact ⟨_, List.mem_append_right _ (List.mem_singleton_self _), rfl, List.map_map⟩
  case cwait =>
    refine Done.of_body (fun _ => rfl) fun s x past => ?_
    simp only [past, if_true]
  case cwmk =>
    intro s s1 x sp issues
    refine exec_of_later (fun _ => rfl) issues ?_
    rfl

theorem copyCompletionsComplete : CopyCompletionsComplete := by
  refine fun s c ch op op' => ⟨execCopyComplete_next, fun o found => ?_⟩
  show execCopy16Complete c o.id s = _
  simp only [execCopy16Complete, found]

theorem copyFaultCompletes : CopyFaultCompletes := fun _ _ _ _ _ _ copies element unread =>
  ⟨fun _ => execEngineOpEnded_resolved copies element unread, fun _ => execEngineOpEnded_declined copies element unread⟩

theorem matrixOperationsComplete : MatrixOperationsComplete := by
  intro s c o s1 ops picked
  simp only [ops, s1, State.core_setCore_self] at picked
  exact execMatrixOpComplete_next picked

end Sys2Proof.Statements

namespace Sys2Proof.Proofs

open Sys2Proof.Statements

/-- Settles O23: past their checks the words go by the workgroup's context and records, and by the channel of the copy. -/
theorem copiesAndMatrixInterfaceComplete : Obligations.CopiesAndMatrixInterfaceComplete := ⟨matrixInterfaceCompletes, copiesStart⟩

/-- Settles O32: each end is its step's one branch; the operation that ends next is the one that the free choice picks. -/
theorem engineOperationsComplete : Obligations.EngineOperationsComplete :=
  ⟨copyCompletionsComplete, copyFaultCompletes, matrixOperationsComplete⟩

end Sys2Proof.Proofs
end

section
/-! PROOFS. System words: traps, control registers, the return from a handler, counters and marks (R236, R359, R360, R372, R383,
R388). -/

namespace Sys2Proof.Machine

section
variable {n : Nat}

theorem cregReadable_of_lt (tenant : n < 2) : cregReadable n = true := decide_eq_true tenant

theorem cregReadable_of_ge (firmware : 2 ≤ n) : cregReadable n = false := decide_eq_false firmware.not_gt

/-- The registers that a tenant reads are 64 bits wide. -/
theorem cregWide_of_lt (tenant : n < 2) : cregWide n = true := decide_eq_true (by omega)

end

/-- `RETT` in a handler is the issue of a return. -/
theorem execRett_of_handler {o : SF} {s s1 : State} {x : Iss} (turn : s.issuer o.g = some (s1, x))
    (handler : x.e.handler.isSome = true) :
    execRett o s = issue { instr := .rett o, g := o.g, fields := sfZero o false false false false false }
      (fun x s => .moved (s.returnFromTrap x.c x.slot x.e)) s := by
  have inside : x.e.handler.isNone = false := by rw [Option.isNone_eq_false_iff, handler]
  simp only [execRett, turn, inside, Bool.false_and, Bool.false_eq_true, if_false]

end Sys2Proof.Machine

namespace Sys2Proof.Proofs

open Sys2Proof.Machine

/-- Settles O24: each word takes its trap, or has its effect, by the one condition of its body. -/
theorem systemInstructionsComplete : Obligations.SystemInstructionsComplete := by
  intro o n d imm rdc perf
  refine ⟨?trap, ?bkpt, ?stops, ?rdc, ?unreadable, ?wrc, ?rett, ?perfRd, ?perfMark, ?unassigned⟩
  case trap | wrc => exact Traps.of_body (fun _ => rfl) fun _ _ _ => rfl
  case perfMark => exact Done.of_body (fun _ => rfl) fun _ _ _ => rfl
  case bkpt =>
    refine Traps.of_body (fun _ => rfl) fun s x runs => ?_
    simp only [runs, Bool.false_eq_true, if_false]
  case stops =>
    refine Moved.of_body (fun _ => rfl) fun s x stops => ?_
    simp only [stops, if_true]
  case rdc =>
    intro s s1 x issues tenant
    refine exec_of_later (fun _ => rfl) issues ?_
    simp only [n] at tenant
    simp only [cregReadable_of_lt tenant, cregWide_of_lt tenant, Bool.not_true, Bool.false_eq_true, if_false, if_true]
    rfl
  case unreadable =>
    refine Traps.of_body (fun _ => rfl) fun s x firmware => ?_
    simp only [n] at firmware
    simp only [cregReadable_of_ge firmware, Bool.not_false, if_true]
    rfl
  case rett =>
    intro s s1 x issues handler
    exact (execRett_of_handler issues.turn handler).trans ((issue_of_issues issues _).trans (finish_moved ..))
  case perfRd =>
    intro s s1 x issues permitted
    refine exec_of_later (fun _ => rfl) issues ?_
    simp only [permitted, Bool.not_true, Bool.false_eq_true, if_false]
    rfl
  case unassigned =>
    intro w s s1 x turn unclaimed
    show execUnassignedOpcode w s = _
    simp only [execUnassignedOpcode, turn, unclaimed, finish_trap]

end Sys2Proof.Proofs
end

section
/-! PROOFS. The step of an entry keeps memory in canonical form (R88, R385). -/

namespace Sys2Proof.Proofs

/-- Settles O58: the step in which an entry issues is a step of the machine, and every step keeps the canonical form. -/
theorem entryStepsKeepMemoryCanonical : Obligations.EntryStepsKeepMemoryCanonical :=
  fun s t _ _ _ _ canonical _ _ _ stepped => everyStepKeepsMemoryCanonical s t canonical stepped

end Sys2Proof.Proofs
end

section
/-! PROOFS. Engine words: the stack words of a context and of the display matrix engine, the words of a context, the drains, and the
words of the display matrix engine (R246-R253, R325, R326, R398). -/

namespace Sys2Proof.Machine

theorem leNat_engineBytes (w : BitVec 16) : leNat ((engineBytes w).take 2) = w.toNat := by
  rw [engineBytes, List.take_of_length_le (leBytes_length ..).le, leNat_leBytes]
  exact Nat.mod_eq_of_lt w.isLt

/-- A word that encodes to `w` is reported as `w`. -/
theorem engineWord_of_encode (i : Instr) {w : BitVec 16} (encodes : encode i = some (.engine, engineBytes w)) : engineWord i = w := by
  simp only [engineWord, encodes, leNat_engineBytes, BitVec.ofNat_toNat, BitVec.setWidth_eq]

/-! ## Fields of a word -/

theorem putEngine_eq_or (op : BitVec 5) (f : BitVec 10) : putEngine op f = putEngine op 0 ||| f.setWidth 16 := by
  ext j
  rw [BitVec.getElem_or, BitVec.getElem_setWidth, putEngine, putEngine, BitVec.getElem_append, BitVec.getElem_append]
  split
  · simp [*]
  · rename_i past
    rw [BitVec.getLsbD_of_ge f j (Nat.le_of_not_lt past), Bool.or_false]

theorem bits_toNat_ofNat {w x hi lo : Nat} (fits : x < 2 ^ w) : bits (BitVec.ofNat w x).toNat hi lo = bits x hi lo := by
  rw [BitVec.toNat_ofNat, Nat.mod_eq_of_lt fits]

/-- The bits above a number's highest are 0. -/
theorem bits_of_lt {x hi lo : Nat} (above : x < 2 ^ lo) : bits x hi lo = 0 := by
  rw [bits_eq_div_mod, Nat.div_eq_of_lt above, Nat.zero_mod]

/-- The lowest field of a number that it takes up alone. -/
theorem bits_low {x hi : Nat} (fits : x < 2 ^ (hi + 1)) : bits x hi 0 = x := by
  rw [bits_eq_div_mod, Nat.pow_zero, Nat.div_one]
  exact Nat.mod_eq_of_lt fits

/-- The highest field of a number. -/
theorem bits_high {x y hi lo : Nat} (below : x < 2 ^ lo) (fits : y < 2 ^ (hi + 1 - lo)) : bits (x + 2 ^ lo * y) hi lo = y := by
  rw [bits_eq_div_mod, Nat.add_mul_div_left x y (Nat.two_pow_pos lo), Nat.div_eq_of_lt below, Nat.zero_add, Nat.mod_eq_of_lt fits]

/-- A field does not see what stands above it. -/
theorem bits_add_above {x y k hi lo : Nat} (inside : lo ≤ hi) (above : hi < k) : bits (x + 2 ^ k * y) hi lo = bits x hi lo := by
  obtain ⟨d, rfl⟩ := Nat.exists_eq_add_of_le above
  have split : 2 ^ (hi + 1 + d) * y = 2 ^ lo * (2 ^ (hi + 1 - lo) * (2 ^ d * y)) := by
    rw [← Nat.mul_assoc, ← Nat.mul_assoc, ← Nat.pow_add, ← Nat.pow_add, Nat.add_sub_cancel' (Nat.le_succ_of_le inside)]
  rw [bits_eq_div_mod, bits_eq_div_mod, split, Nat.add_mul_div_left _ _ (Nat.two_pow_pos lo), Nat.add_mul_mod_self_left]

/-- A field within the lowest bits, of which the value is known. -/
theorem bits_of_lowest {v x top hi lo : Nat} (lowest : bits v top 0 = x) (inside : lo ≤ hi) (above : hi ≤ top) :
    bits v hi lo = bits x hi lo := by
  rw [← Nat.mod_add_div v (2 ^ (top + 1)), bits_add_above inside (Nat.lt_succ_of_le above), ← lowest, bits_eq_div_mod v,
    Nat.pow_zero, Nat.div_one, Nat.sub_zero]

theorem add_mul_lt_two_pow {x y k j : Nat} (hx : x < 2 ^ k) (hy : y < 2 ^ j) : x + 2 ^ k * y < 2 ^ (k + j) :=
  calc x + 2 ^ k * y < 2 ^ k + 2 ^ k * y := Nat.add_lt_add_right hx _
    _ = 2 ^ k * (y + 1) := by rw [Nat.mul_succ, Nat.add_comm]
    _ ≤ 2 ^ k * 2 ^ j := Nat.mul_le_mul_left _ hy
    _ = 2 ^ (k + j) := (Nat.pow_add ..).symm

/-- The fields of a word that holds `x` in bits `lo` down, `y` in bits `mid` to `next` above them, and nothing more. -/
theorem bits_of_two_fields (lo next mid free : Nat) {x y m n : Nat} (hx : x < m) (hy : y < n)
    (layout : next = lo + 1 ∧ m = 2 ^ next ∧ free = mid + 1 ∧ n = 2 ^ (free - next) ∧ next ≤ free ∧ free ≤ 10) :
    bits (BitVec.ofNat 10 (x + m * y)).toNat lo 0 = x ∧ bits (BitVec.ofNat 10 (x + m * y)).toNat mid next = y
      ∧ bits (BitVec.ofNat 10 (x + m * y)).toNat 9 free = 0 := by
  obtain ⟨rfl, rfl, rfl, rfl, order, fits⟩ := layout
  have small := add_mul_lt_two_pow hx hy
  rw [Nat.add_sub_cancel' order] at small
  have small10 := small.trans_le (Nat.pow_le_pow_right Nat.two_pos fits)
  rw [bits_toNat_ofNat small10, bits_toNat_ofNat small10, bits_toNat_ofNat small10]
  exact ⟨(bits_add_above (Nat.zero_le lo) (Nat.lt_succ_self lo)).trans (bits_low hx), bits_high hx hy, bits_of_lt small⟩

theorem putEngine_eq_ofNat (op : BitVec 5) (f : BitVec 10) :
    putEngine op f = BitVec.ofNat 16 (32768 + op.toNat * 1024 + f.toNat) := by
  have value : (putEngine op f).toNat = 32768 + op.toNat * 1024 + f.toNat := by
    rw [putEngine, BitVec.toNat_append, BitVec.toNat_append, ← Nat.shiftLeft_add_eq_or_of_lt op.isLt,
      ← Nat.shiftLeft_add_eq_or_of_lt f.isLt, Nat.shiftLeft_eq, Nat.shiftLeft_eq, Nat.add_mul]
    rfl
  rw [← value, BitVec.ofNat_toNat, BitVec.setWidth_eq]

/-! ## Words that only move the stack (R246, R398) -/

section
variable {i : Instr} {fieldOk : Bool} {pops : Nat} {f : List W64 → List W64} {jump : List W64 → Nat} {s : State} {c n : Nat}
  {x : SeqCtx}

/-- What a stack word of clear fields does in a context. -/
theorem stackWord_of_context (turn : Statements.CtxTurn s c n x) (clear : fieldOk = true) :
    stackWord i fieldOk pops f jump s = if (decide (x.stack.length < pops) || decide (8 < (f x.stack).length)) = true
      then .next (s.stopAt c n x Cause.engineStack.code (engineWord i)).endTurn
      else .next (s.setCtx c n { x with
        stack := f x.stack, pc := if jump x.stack = 0 then x.pc + 2 else x.pc - BitVec.ofNat 64 (2 * jump x.stack) }).endTurn := by
  obtain ⟨turn, stands⟩ := turn
  subst clear
  delta stackWord
  rw [turn]
  dsimp only
  rw [stands]
  exact rfl

theorem stackWord_of_unused (turn : Statements.CtxTurn s c n x) (unused : fieldOk = false) :
    stackWord i fieldOk pops f jump s = .next (s.stopAt c n x Cause.engineWord.code (engineWord i)).endTurn := by
  obtain ⟨turn, stands⟩ := turn
  subst unused
  delta stackWord
  rw [turn]
  dsimp only
  rw [stands]
  exact rfl

theorem stackWord_of_bad_stack (turn : Statements.CtxTurn s c n x) (clear : fieldOk = true)
    (bad : x.stack.length < pops ∨ 8 < (f x.stack).length) :
    stackWord i fieldOk pops f jump s = .next (s.stopAt c n x Cause.engineStack.code (engineWord i)).endTurn :=
  (stackWord_of_context turn clear).trans (if_pos (Bool.or_eq_true .. ▸ bad.imp decide_eq_true decide_eq_true))

theorem stack_checks_pass {before after : List W64} (enough : pops ≤ before.length) (fits : after.length ≤ 8) :
    ¬(decide (before.length < pops) || decide (8 < after.length)) = true := by
  rw [decide_eq_false enough.not_gt, decide_eq_false fits.not_gt]
  exact Bool.false_ne_true

theorem stackWord_in_context (turn : Statements.CtxTurn s c n x) (clear : fieldOk = true) (enough : pops ≤ x.stack.length)
    (fits : (f x.stack).length ≤ 8) :
    stackWord i fieldOk pops f jump s = .next (s.setCtx c n { x with
      stack := f x.stack, pc := if jump x.stack = 0 then x.pc + 2 else x.pc - BitVec.ofNat 64 (2 * jump x.stack) }).endTurn :=
  (stackWord_of_context turn clear).trans (if_neg (stack_checks_pass enough fits))

theorem stackWord_in_dme (turn : s.turn = some .dme) (clear : fieldOk = true) (enough : pops ≤ s.sel.dme.stack.length)
    (fits : (f s.sel.dme.stack).length ≤ 8) :
    stackWord i fieldOk pops f jump s = .next (s.setSel { s.sel with dme := { s.sel.dme with
      stack := f s.sel.dme.stack
      pc := if jump s.sel.dme.stack = 0 then s.sel.dme.pc + 1 else s.sel.dme.pc - jump s.sel.dme.stack } }).endTurn := by
  subst clear
  delta stackWord
  rw [turn]
  exact if_neg (stack_checks_pass enough fits)

end

/-! ## The words of a context (R247-R250) -/

section
variable {i : Instr} {fieldOk : Bool} {pops : Nat} {body : Nat → Nat → SeqCtx → BitVec 16 → State → State} {s : State}
  {c n : Nat} {x : SeqCtx}

theorem contextWord_of_turn {t : State} (turn : Statements.CtxTurn s c n x) (clear : fieldOk = true) (enough : pops ≤ x.stack.length)
    (runs : body c n x (engineWord i) s = t) : contextWord i fieldOk pops body s = .next t.endTurn := by
  obtain ⟨turn, stands⟩ := turn
  subst runs
  simp only [contextWord, turn, stands, clear, Bool.not_true, Bool.false_eq_true, if_false, if_neg enough.not_gt]

end

/-! ## The words of the display matrix engine (R325, R326) -/

theorem dmeWord_of_turn {i : Instr} {fieldOk : Bool} {pops : Nat} {body : Dme → Nat → BitVec 16 → State → State} {s : State}
    (turn : s.turn = some .dme) (clear : fieldOk = true) (enough : pops ≤ s.sel.dme.stack.length) :
    dmeWord i fieldOk pops body s = .next (body s.sel.dme s.clk.selham (engineWord i) s).endTurn := by
  simp only [dmeWord, turn, clear, Bool.not_true, Bool.false_eq_true, if_false, if_neg enough.not_gt]

theorem dmmaWord_of_turn {s : State} (turn : s.turn = some .dme) {fmt c : Nat} {w kk a : W64} {t : List W64} (hf : fmt < 2)
    (hc : c < 16) (items : s.sel.dme.stack = w :: kk :: a :: t) (some : kk.toNat ≠ 0)
    (step : kk.toNat % (if fmt = 0 then 32 else 64) = 0) (inside : a.toNat + 64 ≤ 8192)
    (weights : w.toNat * 64 + 32 * kk.toNat * (if fmt = 0 then 2 else 1) ≤ 2 ^ 20) (i : Instr) (zero : Bool) :
    dmmaWord i (BitVec.ofNat 10 (fmt + 2 * c)) zero s = .next (s.dmePast s.sel.dme 3
      (.mma zero fmt c a.toNat kk.toNat w.toNat s.clk.selham none [] (if zero then List.replicate 64 0 else []) false
        (dmeAt s s.sel.dme c 7))).endTurn := by
  have top : getAt s.sel.dme.stack 0 0 = w := by rw [items]; rfl
  have second : getAt s.sel.dme.stack 1 0 = kk := by rw [items]; rfl
  have third : getAt s.sel.dme.stack 2 0 = a := by rw [items]; rfl
  have enough : 3 ≤ s.sel.dme.stack.length := by rw [items]; exact Nat.le_add_left ..
  obtain ⟨fieldFmt, fieldCore, unused⟩ := bits_of_two_fields 0 1 4 5 hf hc (by decide)
  rw [dmmaWord, dmeWord_of_turn turn (decide_eq_true unused) enough]
  simp only [fieldFmt, fieldCore, top, second, third, Bool.or_eq_true, decide_eq_true_eq]
  rw [if_neg]
  rintro (((bad | bad) | bad) | bad)
  · exact some bad
  · exact bad step
  · exact bad.not_ge inside
  · exact bad.not_ge weights

end Sys2Proof.Machine

namespace Sys2Proof.Statements

open Sys2Proof.Machine

theorem StackEffect.of_stackWord {i : Instr} (run : State → Result) {fieldOk : Bool} {pops : Nat} {f : List W64 → List W64}
    {jump : List W64 → Nat} {pre post : List W64} {back : Nat} (runs : ∀ s, exec i s = run s)
    (moves : ∀ s, run s = stackWord i fieldOk pops f jump s) (clear : fieldOk = true) (enough : (pre.take pops).length = pops)
    (effect : f pre = post) (jumps : jump pre = back) : StackEffect i pre post back := by
  subst effect jumps
  have enough : pops ≤ pre.length := enough ▸ List.length_take_le' ..
  intro fits
  constructor
  · rintro s c n x turn rfl
    rw [runs, moves, stackWord_in_context turn clear enough fits]
  · rintro s turn rfl
    rw [runs, moves, stackWord_in_dme turn clear enough fits]

theorem stackWordsComplete : StackWordsComplete := by
  intro x y t f
  refine ⟨fun v => ?lit, ?nop, ?ext, ?dup, ?drop, ?swap, ?copySecond, ?add, ?addi, fun distance more => ?again,
    fun distance last => ?last⟩
  case lit => refine .of_stackWord (execLit v) (fun _ => rfl) (fun _ => rfl) ?_ ?_ ?_ ?_ <;> rfl
  case nop => refine .of_stackWord (execEngineNop 0) (fun _ => rfl) (fun _ => rfl) ?_ ?_ ?_ ?_ <;> rfl
  case ext => refine .of_stackWord (execExt f) (fun _ => rfl) (fun _ => rfl) ?_ ?_ ?_ ?_ <;> rfl
  case dup => refine .of_stackWord (execDup 0) (fun _ => rfl) (fun _ => rfl) ?_ ?_ ?_ ?_ <;> rfl
  case drop => refine .of_stackWord (execDrop 0) (fun _ => rfl) (fun _ => rfl) ?_ ?_ ?_ ?_ <;> rfl
  case swap => refine .of_stackWord (execSwap 0) (fun _ => rfl) (fun _ => rfl) ?_ ?_ ?_ ?_ <;> rfl
  case copySecond => refine .of_stackWord (execOver 0) (fun _ => rfl) (fun _ => rfl) ?_ ?_ ?_ ?_ <;> rfl
  case add => refine .of_stackWord (execAdd 0) (fun _ => rfl) (fun _ => rfl) ?_ ?_ ?_ ?_ <;> rfl
  case addi => refine .of_stackWord (execAddi f) (fun _ => rfl) (fun _ => rfl) ?_ ?_ ?_ ?_ <;> rfl
  case again =>
    refine .of_stackWord (execLoop f) (fun _ => rfl) (fun _ => rfl) (decide_eq_true distance) ?_ ?_ ?_
    · rfl
    · exact if_pos more
    · exact if_pos more
  case last =>
    refine .of_stackWord (execLoop f) (fun _ => rfl) (fun _ => rfl) (decide_eq_true distance) ?_ ?_ ?_
    · rfl
    · exact if_neg last.not_gt
    · exact if_neg last.not_gt

theorem engineStackFaultsStop : EngineStackFaultsStop := by
  intro s c n x v f turn
  refine ⟨fun full => ?lit, fun empty => ?ext, fun short => ?add, fun unused => ?dup⟩
  case lit =>
    have past : 8 < (v.setWidth 64 :: x.stack).length := by rw [List.length_cons, full]; decide
    rw [← engineWord_of_encode (.lit v) rfl]
    exact stackWord_of_bad_stack turn rfl (.inr past)
  case ext =>
    have under : x.stack.length < 1 := by rw [empty]; decide
    have word : engineWord (.ext f) = 0x8400#16 ||| f.setWidth 16 := (engineWord_of_encode _ rfl).trans (putEngine_eq_or ..)
    rw [← word]
    exact stackWord_of_bad_stack turn rfl (.inl under)
  case add =>
    have word : engineWord (.add 0) = 0x9800#16 := engineWord_of_encode _ rfl
    rw [← word]
    show execAdd 0 s = _
    exact stackWord_of_bad_stack turn rfl (.inl short)
  case dup =>
    have word : engineWord (.dup f) = 0x8800#16 ||| f.setWidth 16 := (engineWord_of_encode _ rfl).trans (putEngine_eq_or ..)
    rw [← word]
    show execDup f s = _
    exact stackWord_of_unused turn (decide_eq_false unused)

theorem CtxRuns.of_contextWord {i : Instr} (run : State → Result) {fieldOk : Bool} {pops : Nat}
    {body : Nat → Nat → SeqCtx → BitVec 16 → State → State}
    {p : State → Nat → Nat → SeqCtx → Prop} {r : State → Nat → Nat → SeqCtx → State} (runs : ∀ s, exec i s = run s)
    (contextOnly : ∀ s c n, s.turn = some (.context c n) → run s = contextWord i fieldOk pops body s) (clear : fieldOk = true)
    (effect : ∀ s c n x, p s c n x → pops ≤ x.stack.length ∧ body c n x (engineWord i) s = r s c n x) : CtxRuns i p r := by
  intro s c n x turn holds
  obtain ⟨enough, effect⟩ := effect s c n x holds
  rw [runs, contextOnly s c n turn.1, contextWord_of_turn turn clear enough effect]

theorem MmaFits.mmaOk {w : Workgroup} {x : SeqCtx} {ra rb : Resv} {slot kk k0 : Nat} (fits : MmaFits w x ra rb slot kk k0) :
    mmaOk w x ra rb slot kk k0 = true := by
  obtain ⟨⟨spaceA, spaceB⟩, format, ⟨extentA, extentB⟩, slotHeld, ⟨some, step, start⟩, ⟨lengthA, lengthB⟩, tiling⟩ := fits
  have whole : (ra.scaled && (ra.tilingBroken || rb.tilingBroken)) = false := by
    cases scaled : ra.scaled
    · rfl
    · rw [(tiling scaled).1, (tiling scaled).2]
      rfl
  simp [Machine.mmaOk, spaceA, spaceB, ← format, extentA, extentB, slotHeld, some, step, start, lengthA, lengthB, whole]

theorem items_of_three {x : SeqCtx} {a b c : W64} {t : List W64} (items : x.stack = a :: b :: c :: t) :
    3 ≤ x.stack.length ∧ x.item 0 = a ∧ x.item 1 = b ∧ x.item 2 = c := by
  simp only [SeqCtx.item, items]
  exact ⟨Nat.le_add_left .., rfl, rfl, rfl⟩

/-- An operation enters the launch queue where it has room. -/
theorem launchOp_of_room {s : State} {c n pops : Nat} {x : SeqCtx} {op : MatOp} {k' : Core} (room : (s.core c).enqueue op = some k') :
    s.launchOp c n x pops op = s.setCore c { k' with nextId := k'.nextId + 1, ctxs := KMap.put k'.ctxs n (x.past pops) } := by
  rw [State.launchOp, room]

theorem mmaWord_completes {a b : Nat} (ha : a < 16) (hb : b < 16) (i : Instr) (zero : Bool) {s : State} {c n : Nat} {x : SeqCtx}
    {slot kk k0 : W64} {t : List W64} {ra rb : Resv} {k' : Core} (turn : CtxTurn s c n x) (items : x.stack = slot :: kk :: k0 :: t)
    (resA : KMap.get? ((s.core c).wg x.wg).res a = some ra) (resB : KMap.get? ((s.core c).wg x.wg).res b = some rb)
    (fits : MmaFits ((s.core c).wg x.wg) x ra rb slot.toNat kk.toNat k0.toNat)
    (room : (s.core c).enqueue (.mma n x.wg x.vf a b ra rb ((s.core c).wg x.wg).scratchBase
      (getAt ((s.core c).wg x.wg).acc slot.toNat 0) k0.toNat kk.toNat x.m x.n zero) = some k') :
    mmaWord i (BitVec.ofNat 10 (a + 16 * b)) zero s
      = .next (s.setCore c { k' with nextId := k'.nextId + 1, ctxs := KMap.put k'.ctxs n (x.past 3) }).endTurn := by
  obtain ⟨fieldA, fieldB, unused⟩ := bits_of_two_fields 3 4 7 8 ha hb (by decide)
  obtain ⟨enough, top, second, third⟩ := items_of_three items
  refine contextWord_of_turn turn (decide_eq_true unused) enough ?_
  dsimp only
  rw [fieldA, fieldB, resA, resB, top, second, third]
  exact (if_pos fits.mmaOk).trans (launchOp_of_room room)

theorem contextWordsComplete : ContextWordsComplete := by
  intro a b m' n' f ra rb k0 kk slot t k' s'
  refine ⟨fun hm hn => ?shape, fun ha hb zero => ?mma, fun barrier => ?arrive, fun barrier => ?waitb, ?halt⟩
  case shape =>
    obtain ⟨low, high, rest⟩ := bits_of_two_fields 1 2 3 4 (Nat.lt_succ_of_lt hm) (Nat.lt_succ_of_lt hn) (by decide)
    refine .of_contextWord (execShape _) (fun _ => rfl) (fun s c n turn => by rw [execShape, turn]) ?_ ?_
    · rw [low, high, rest, decide_eq_true hm.ne, decide_eq_true hn.ne]
      rfl
    · intro s c n x _
      rw [low, high]
      exact ⟨Nat.zero_le _, rfl⟩
  case mma =>
    intro s c n x turn ⟨items, resA, resB, fits, room⟩
    cases zero with
    | false => exact mmaWord_completes ha hb _ false turn items resA resB fits room
    | true => exact mmaWord_completes ha hb _ true turn items resA resB fits room
  case arrive =>
    have field : bits f.toNat 3 0 = f.toNat := bits_low barrier
    have unused : bits f.toNat 9 4 = 0 := bits_of_lt barrier
    refine .of_contextWord (execArrive f) (fun _ => rfl) (fun _ _ _ _ => rfl) (decide_eq_true unused) ?_
    rintro s c n x ⟨idle, arrives⟩
    exact ⟨Nat.zero_le _, (if_neg (by rw [idle]; exact Bool.false_ne_true)).trans (by rw [field, arrives])⟩
  case waitb =>
    have field : bits f.toNat 3 0 = f.toNat := bits_low barrier
    have unused : bits f.toNat 9 4 = 0 := bits_of_lt barrier
    refine .of_contextWord (execWaitb f) (fun _ => rfl) (fun _ _ _ _ => rfl) (decide_eq_true unused) ?_
    intro s c n x complete
    exact ⟨Nat.zero_le _, (if_neg (by rwa [field])).trans (by rw [field])⟩
  case halt =>
    refine .of_contextWord (execHalt 0) (fun _ => rfl) (fun s c n turn => by rw [execHalt, turn]) (decide_eq_true rfl) ?_
    intro s c n x idle
    exact ⟨Nat.zero_le _, if_neg (by rw [idle]; exact Bool.false_ne_true)⟩

theorem unassignedEngineWordStops : UnassignedEngineWordStops := by
  intro s c n x w turn
  obtain ⟨turn, stands⟩ := turn
  show execUnassignedEngineWord w s = _
  simp only [execUnassignedEngineWord, turn, stands]
  rfl

/-! ## Drains (R248, R253) -/

theorem drainField_fields {scope cvt : Nat} {scr : Bool} (hs : scope ≤ 6) (hc : cvt < 3) :
    bits (drainField scope scr cvt).toNat 9 7 = scope ∧ bits (drainField scope scr cvt).toNat 1 0 = cvt
      ∧ (drainField scope scr cvt).getLsbD 2 = scr ∧ bits (drainField scope scr cvt).toNat 6 3 = 0 := by
  have every : ∀ scope < 7, ∀ cvt < 3, ∀ scr : Bool, bits (drainField scope scr cvt).toNat 9 7 = scope
      ∧ bits (drainField scope scr cvt).toNat 1 0 = cvt ∧ (drainField scope scr cvt).getLsbD 2 = scr
      ∧ bits (drainField scope scr cvt).toNat 6 3 = 0 := by decide
  exact every scope (Nat.lt_succ_of_le hs) cvt hc scr

/-- The word of `i` in an operation's information, in place of its value. -/
theorem room_of_word {k k' : Core} {f : BitVec 10} {depth : Nat} {op : W64 → MatOp} (i : Instr) (code : BitVec 5)
    (encodes : encode i = some (.engine, engineBytes (putEngine code f)))
    (room : k.enqueue (op (engineInfo (BitVec.ofNat 16 (32768 + code.toNat * 1024 + f.toNat)) depth)) = some k') :
    k.enqueue (op (engineInfo (engineWord i) depth)) = some k' := by
  rwa [engineWord_of_encode i encodes, putEngine_eq_ofNat]

/-- A drain into scratch touches no page. -/
theorem pages_of_scratch {scr : Bool} {s s' : State} {translated : State × Option Nat}
    (pages : if scr = true then s' = s else translated = (s', none)) :
    (if scr = true then (s, none) else translated) = (s', none) := by
  cases scr with
  | false => exact pages
  | true => exact congrArg (·, none) pages.symm

/-- A drain of kind `kind` that passes the checks of R248 is handed to the launch queue; its stack holds the slot, the sequence
item where it takes one, the pitch and the address. -/
theorem drainWord_launches {i : Instr} {f : BitVec 10} {kind scope cvt : Nat} {scr : Bool} {s s' : State} {c n : Nat} {x : SeqCtx}
    {slot q pitch addr : W64} (turn : CtxTurn s c n x) (plain : kind = 0 ∨ scr = false ∧ cvt = 0)
    (fields : bits f.toNat 9 7 = scope ∧ bits f.toNat 1 0 = cvt ∧ f.getLsbD 2 = scr ∧ bits f.toNat 6 3 = 0)
    (enough : (if kind = 2 then 4 else 3) ≤ x.stack.length) (top : x.item 0 = slot)
    (sequence : (if kind = 2 then x.item 1 else 0) = q) (seqOk : kind = 2 → seqItemOk q = true)
    (second : x.item ((if kind = 2 then 4 else 3) - 2) = pitch) (last : x.item ((if kind = 2 then 4 else 3) - 1) = addr)
    (fits : DrainFits s ((s.core c).wg x.wg) x scope cvt (cvtBytes cvt) scr slot.toNat addr pitch)
    (pages : (if scr = true then (s, none)
      else State.drainPages (c / 48) x.vf s (drainTouches addr pitch x.m x.n (cvtBytes cvt))) = (s', none))
    (same : (s'.core c).wg x.wg = (s.core c).wg x.wg) {k' : Core}
    (room : (s'.core c).enqueue (.drain n x.wg x.vf (s'.core c).nextId kind scr cvt addr pitch q ((s'.core c).wg x.wg).scratchBase
      (getAt ((s'.core c).wg x.wg).acc slot.toNat 0) x.m x.n none x.pc (engineInfo (engineWord i) x.stack.length)) = some k') :
    drainWord i f kind s = .next (s'.setCore c { k' with
      nextId := k'.nextId + 1, ctxs := KMap.put k'.ctxs n (x.past (if kind = 2 then 4 else 3)) }).endTurn := by
  obtain ⟨rfl, rfl, rfl, unused⟩ := fields
  subst top sequence second last
  have clear : (decide (bits f.toNat 6 3 = 0) && (decide (kind = 0) || decide (bits f.toNat 1 0 = 0))) = true := by
    rw [unused]
    simpa using plain.imp_right And.right
  delta drainWord
  refine contextWord_of_turn turn clear enough ?_
  refine (if_neg ?_).trans ((if_neg ?_).trans ((if_neg ?_).trans ((if_neg ?_).trans ?_)))
  · simp only [Bool.or_eq_true, Bool.and_eq_true, decide_eq_true_eq, Bool.not_eq_true']
    rintro ((((((bad | bad) | bad) | ⟨bad, inScr⟩) | bad) | bad) | ⟨two, bad⟩)
    · exact bad.not_gt fits.slotHeld
    · exact bad.not_ge fits.row
    · exact fits.conversion.ne bad
    · exact absurd inScr (by rw [(plain.resolve_left bad).1]; exact Bool.false_ne_true)
    · exact (Nat.ne_of_gt fits.scopeNamed.1) bad
    · exact absurd fits.scopeNamed.2 (by rw [bad]; decide)
    · exact Bool.false_ne_true (bad.symm.trans (seqOk two))
  · exact Bool.eq_false_iff.mp fits.scopePermitted
  · simp only [Bool.or_eq_true, decide_eq_true_eq]
    exact not_or.mpr ⟨not_not.mpr fits.aligned.1, not_not.mpr fits.aligned.2⟩
  · simp only [Bool.and_eq_true, decide_eq_true_eq]
    exact fun outside => outside.2.not_ge (fits.inScratch outside.1)
  · rw [pages, ← same]
    exact launchOp_of_room room

end Sys2Proof.Statements

namespace Sys2Proof.Proofs

open Sys2Proof.Machine Sys2Proof.Statements

/-- Settles O25: each stack word is its function of the stack, run through `stackWord`, whose checks stop the context. -/
theorem stackWordsCompleteOrStop : Obligations.StackWordsCompleteOrStop := ⟨stackWordsComplete, engineStackFaultsStop⟩

/-- Settles O27: the three drains are `drainWord` of their kinds; the fields of the word and each of its checks are read off
`DrainFits`. -/
theorem drainWordsComplete : Obligations.DrainWordsComplete := by
  intro scope cvt scr slot q pitch addr t s' k'
  refine ⟨?drain, ?add, ?ordered⟩
  case drain =>
    rintro s c n x turn ⟨items, fits, pages, same, room⟩
    obtain ⟨enough, top, second, third⟩ := items_of_three items
    exact drainWord_launches (kind := 0) turn (.inl rfl) (drainField_fields fits.scopeNamed.2 fits.conversion) enough top rfl nofun second
      third fits (pages_of_scratch pages) same (room_of_word (.drain _) 0x0B#5 rfl room)
  case add =>
    rintro s c n x turn ⟨items, fits, pages, same, room⟩
    obtain ⟨enough, top, second, third⟩ := items_of_three items
    exact drainWord_launches (kind := 1) turn (.inr ⟨rfl, rfl⟩) (drainField_fields fits.scopeNamed.2 fits.conversion) enough top rfl nofun
      second third fits pages same (room_of_word (.drainadd _) 0x0C#5 rfl room)
  case ordered =>
    rintro s c n x turn ⟨items, seqOk, fits, pages, same, room⟩
    have enough : 4 ≤ x.stack.length := by rw [items]; exact Nat.le_add_left ..
    refine drainWord_launches (kind := 2) turn (.inr ⟨rfl, rfl⟩) (drainField_fields fits.scopeNamed.2 fits.conversion) enough ?_ ?_
      (fun _ => seqOk) ?_ ?_ fits pages same (room_of_word (.drainaddo _) 0x0D#5 rfl room)
    all_goals rw [SeqCtx.item, items]; rfl

/-- Settles O28: each word runs its body through `dmeWord`, past its field, stack and operand checks. -/
theorem dmeWordsComplete : Obligations.DmeWordsComplete := by
  intro s turn
  refine ⟨fun m' n' hm hn short => ?shape, fun fmt c w kk a t zero hf hc items some step inside weights => ?mma,
    fun cvt c q a t hv hc hq items => ?dout, fun k t items => ?dwt, fun c hc => ?dline, ?halt⟩
  case shape =>
    obtain ⟨low, high, rest⟩ := bits_of_two_fields 1 2 3 4 (Nat.lt_succ_of_lt hm) (Nat.lt_succ_of_lt hn) (by decide)
    show execShape _ s = _
    rw [execShape, turn]
    exact stackWord_in_dme turn (by rw [low, high, rest, decide_eq_true hm.ne, decide_eq_true hn.ne]; rfl) (Nat.zero_le _) short
  case mma =>
    have runs := dmmaWord_of_turn turn hf hc items some step inside weights
    cases zero with
    | false => exact runs (.dmma _) false
    | true => exact runs (.dmmaz _) true
  case dout =>
    have top : getAt s.sel.dme.stack 0 0 = a := by rw [items]; rfl
    have enough : 1 ≤ s.sel.dme.stack.length := by rw [items]; exact Nat.le_add_left ..
    have low : cvt + 2 * c < 32 := add_mul_lt_two_pow (k := 1) (j := 4) hv hc
    obtain ⟨fields, fieldQueue, unused⟩ := bits_of_two_fields 4 5 7 8 low hq (by decide)
    have fieldCvt := (bits_of_lowest fields le_rfl (Nat.zero_le 4)).trans
      ((bits_add_above (k := 1) le_rfl Nat.one_pos).trans (bits_low (hi := 0) hv))
    have fieldCore := (bits_of_lowest fields (by decide) le_rfl).trans (bits_high (lo := 1) (hi := 4) hv hc)
    show execDout _ s = _
    rw [execDout, dmeWord_of_turn turn (decide_eq_true unused) enough, fieldCvt, fieldCore, fieldQueue, top]
    rfl
  case dwt =>
    have top : getAt s.sel.dme.stack 0 0 = k := by rw [items]; rfl
    have enough : 1 ≤ s.sel.dme.stack.length := by rw [items]; exact Nat.le_add_left ..
    show execDwt 0 s = _
    rw [execDwt, dmeWord_of_turn turn (decide_eq_true rfl) enough, top]
    rfl
  case dline =>
    have ten : c < 2 ^ 10 := hc.trans (by decide)
    have field : bits c 3 0 = c := bits_low hc
    have unused : bits c 9 4 = 0 := bits_of_lt hc
    show execDline _ s = _
    rw [execDline, dmeWord_of_turn turn (by rw [bits_toNat_ofNat ten, unused]; rfl) (Nat.zero_le _), bits_toNat_ofNat ten, field]
    rfl
  case halt =>
    show execHalt 0 s = _
    simp only [execHalt, turn]
    rfl

/-- Settles O26: each context word runs its body through `contextWord`, past its field and stack checks. -/
theorem contextWordsCompleteOrStop : Obligations.ContextWordsCompleteOrStop := ⟨contextWordsComplete, unassignedEngineWordStops⟩

end Sys2Proof.Proofs
end

section
/-! PROOFS. Selham's cluster words: the checks at their issue, their results, rotation, and the words of the fetch and store engines
(R283-R289, R310-R324, R402, R403). -/

namespace Sys2Proof.Machine

/-! ## The issue of a cluster word (R283, R312) -/

section
variable {i : Instr} {o : CW} {u : XUnit} {uses : XUses} {drive : Bool} {bank : Option Nat} {s s1 : State} {x : XIss}

/-! What the conditions of `cluIssue` say. -/

theorem marked_iff {a b d : Bool} : (a && b && d) = true ↔ a = true ∧ b = true ∧ d = true := by
  rw [Bool.and_eq_true, Bool.and_eq_true, and_assoc]

theorem clash_iff {now : Nat} {engines : List Nat} : (bank.any fun b => decide (b = now) || engines.contains b) = true
    ↔ ∃ b, bank = some b ∧ (b = now ∨ engines.contains b = true) := by
  cases bank with
  | none => exact ⟨nofun, nofun⟩
  | some b => simp only [Option.any_some, Bool.or_eq_true, decide_eq_true_eq, Option.some.injEq, exists_eq_left']

theorem apart_iff {a b : Bool} : (!a && b) = true ↔ a = false ∧ b = true := by
  rw [Bool.and_eq_true, Bool.not_eq_true']

theorem idle_iff {α : Type} {a : Bool} {b : Option α} : ¬(a && b.isSome) = true ↔ a = false ∨ b = none := by
  rw [Bool.not_eq_true, Bool.and_eq_false_iff, Option.isSome_eq_false_iff, Option.isNone_iff_eq_none]

/-- The stop of a cluster word for `cause`, with cluster `c` of line core `l` left as `k`. -/
def cluFails (i : Instr) (l c : Nat) (s : State) (cause : Cause) (k : Cluster) : Result :=
  .next ((s.setLcr l (((s.lcr l).setCluster c k).stop cause
    { unit := c, addr := BitVec.ofNat 64 (s.load.compPc l + 8 * (((s.lcr l).cluster c).settle s.clk.selham).pc)
      info := cluWord i })).endTurn)

/-- The cluster of a word that issues, settled at the clock, its PC past the word. -/
def cluPast (l c : Nat) (s : State) : Cluster :=
  let k := ((s.lcr l).cluster c).settle s.clk.selham
  { k with pc := k.pc + 1 }

section
variable {effect : XIss → State → State} {copies : Bool} {l c : Nat} (turn : s.turn = some (.cluster l c))
include turn

theorem cluIssue_of_marked (marked : (o.s && o.p && (s.lcr l).holdsData) = true) :
    cluIssue i o u uses drive bank effect s copies = cluFails i l c s .tokenMisuse (cluPast l c s) := by
  delta cluIssue
  rw [turn]
  exact if_pos marked

theorem cluIssue_of_occupied (unmarked : ¬(o.s && o.p && (s.lcr l).holdsData) = true)
    (occupied : (cluPast l c s).take u s.clk.selham = none) :
    cluIssue i o u uses drive bank effect s copies = cluFails i l c s .scheduleViolation (cluPast l c s) := by
  delta cluIssue
  rw [turn]
  refine (if_neg unmarked).trans ?_
  dsimp only [cluPast] at occupied
  rw [occupied]
  rfl

/-- The checks of a word whose unit is free, and its issue. -/
theorem cluIssue_of_taken (unmarked : ¬(o.s && o.p && (s.lcr l).holdsData) = true) {k : Cluster}
    (taken : (cluPast l c s).take u s.clk.selham = some k) :
    cluIssue i o u uses drive bank effect s copies
      = if (bank.any fun b => decide (b = s.clk.selham % 16) || (s.lcr l).banks.contains b) = true
          then cluFails i l c s .scheduleViolation k
        else if (!o.s && namesStream o uses drive) = true then cluFails i l c s .streamApart k
        else if unbound s.load l c o uses = true then cluFails i l c s .scheduleViolation k
        else if (copies && (s.lcr l).lcpy.isSome) = true then cluFails i l c s .scheduleViolation k
        else if (!k.guard o) = true then .next (s.setLcr l ((s.lcr l).setCluster c k)).endTurn
        else
          let at_ : SelAt :=
            { unit := c, addr := BitVec.ofNat 64 (s.load.compPc l + 8 * (((s.lcr l).cluster c).settle s.clk.selham).pc)
              info := cluWord i }
          let read := (s.setLcr l ((s.lcr l).setCluster c k)).xReads l c k o uses at_
          .next (effect { l := l, c := c, t := s.clk.selham, k := k, a := read.2.1, b := read.2.2.1, cv := read.2.2.2, at_ := at_ }
            read.1).endTurn := by
  delta cluIssue
  rw [turn]
  refine (if_neg unmarked).trans ?_
  dsimp only [cluPast] at taken
  rw [taken]
  rfl

end

/-- The issue of a word that passes its checks is its effect; a copy (`copies`) must find the copy engine idle as well. -/
theorem cluIssue_of_issues (issues : Statements.CluIssues i o u uses drive bank s s1 x) (effect : XIss → State → State)
    {copies : Bool} (idle : copies = true → (s.lcr x.l).lcpy = none) :
    cluIssue i o u uses drive bank effect s copies = .next (effect x s1).endTurn := by
  obtain ⟨l, c, t, k, a, b, cv, at_'⟩ := x
  obtain ⟨turn, clock, mark, unit, at_, bankFree, apart, bound, guard, sources⟩ := issues
  dsimp only at clock at_
  subst clock at_
  refine (cluIssue_of_taken turn (Bool.eq_false_iff.mp mark) unit).trans ((if_neg fun clash => ?_).trans
    ((if_neg fun alone => ?_).trans ((if_neg (Bool.eq_false_iff.mp bound)).trans ((if_neg (idle_iff.mpr ?_)).trans
    ((if_neg fun off => ?_).trans ?_)))))
  · obtain ⟨b, named, taken⟩ := clash_iff.mp clash
    exact taken.elim (bankFree b named).1 (Bool.eq_false_iff.mp (bankFree b named).2)
  · exact Bool.eq_false_iff.mp (apart (apart_iff.mp alone).1) (apart_iff.mp alone).2
  · cases copies with
    | false => exact .inl rfl
    | true => exact .inr (idle rfl)
  · exact Bool.false_ne_true (((Bool.not_eq_true' _).mp off).symm.trans guard)
  · dsimp only at sources ⊢
    rw [sources]

end

/-! ## Rotation (R289) -/

theorem testBit_setBit (g : BitVec 16) (p : Nat) (b : Bool) (n : Nat) :
    (BitVec.ofNat 16 (ofBits 16 fun i => if i = p then b else g.getLsbD i)).getLsbD n
      = if n = p then decide (n < 16) && b else g.getLsbD n := by
  rw [BitVec.getLsbD_ofNat, testBit_ofBits]
  split
  · simp
  · by_cases low : n < 16
    · simp [low]
    · simp [low, BitVec.getLsbD_of_ge g n (not_lt.mp low)]

theorem Cluster.readG_eq (k : Cluster) (n : Nat) : k.readG n = (decide (n = 0) || k.g.getLsbD (k.physG n)) := rfl

theorem Cluster.physX_add (k : Cluster) (n : Nat) : k.physX (32 + n) = 32 + (n + k.rbase) % 32 := by
  rw [physX, if_neg (Nat.le_add_right 32 n).not_gt, Nat.add_sub_cancel_left]

theorem Cluster.physG_add (k : Cluster) (n : Nat) : k.physG (8 + n) = 8 + (n + k.rbase) % 8 := by
  rw [physG, if_neg (Nat.le_add_right 8 n).not_gt, Nat.add_sub_cancel_left]

/-- One name further on, at the rotation base of the turn. -/
theorem turn_mod {m : Nat} (divides : m ∣ 32) (n base : Nat) : (n + 1 + (base + 31) % 32) % m = (n + base) % m := by
  have shifted : n + 1 + (base + 31) = n + base + 32 := by rw [Nat.add_add_add_comm, Nat.add_comm 1 31]
  rw [Nat.add_mod, Nat.mod_mod_of_dvd _ divides, ← Nat.add_mod, shifted, Nat.add_mod, Nat.mod_eq_zero_of_dvd divides, Nat.add_zero,
    Nat.mod_mod]

/-- The place of the predicate that a turn writes. -/
def Cluster.turnPlace (k : Cluster) : Nat := 8 + (k.rbase + 31) % 32 % 8

theorem Cluster.turn_eq (k : Cluster) (b : Bool) : k.turn b = { k with
    rbase := (k.rbase + 31) % 32
    g := BitVec.ofNat 16 (ofBits 16 fun i => if i = k.turnPlace then b else k.g.getLsbD i) } := by
  rw [turn, physG_add _ 0, Nat.zero_add]
  exact if_neg (Nat.ne_of_gt (Nat.add_pos_left (by decide) _))

@[simp] theorem Cluster.turn_rbase (k : Cluster) (b : Bool) : (k.turn b).rbase = (k.rbase + 31) % 32 := by rw [turn_eq]

@[simp] theorem Cluster.turn_x (k : Cluster) (b : Bool) : (k.turn b).x = k.x := by rw [turn_eq]

theorem Cluster.turn_g (k : Cluster) (b : Bool) (n : Nat) :
    (k.turn b).g.getLsbD n = if n = k.turnPlace then b else k.g.getLsbD n := by
  have low : k.turnPlace < 16 := Nat.add_lt_add_left (Nat.mod_lt _ (by decide)) 8
  rw [turn_eq, testBit_setBit]
  split
  · rename_i written
    rw [written, decide_eq_true low, Bool.true_and]
  · rfl

/-! ## Comparison codes and integers (R185, R315, R316) -/

theorem cluCompare_eq (natural : Bool) {cc : Nat} (small : cc < 6) (a b : W32) :
    cluCompare natural cc a b = getAt [decide (a = b), decide (a ≠ b), cluLess natural a b, !cluLess natural b a, cluLess natural b a,
      !cluLess natural a b] cc false := by
  obtain _ | _ | _ | _ | _ | _ | cc := cc
  case succ.zero => exact decide_not.symm
  case succ.succ.succ.succ.succ.succ => exact absurd small (Nat.le_add_left 6 cc).not_gt
  all_goals rfl

theorem signExt_toNat (a : W32) : signExt a.toNat 32 = a.toInt := by
  have half : a.toNat < 2 ^ 31 ↔ 2 * a.toNat < 2 ^ 32 := (Nat.mul_lt_mul_left (a := 2) (by decide)).symm
  rw [signExt, if_neg (by decide), Nat.mod_eq_of_lt a.isLt, BitVec.toInt_eq_toNat_cond]
  exact if_congr half rfl rfl

end Sys2Proof.Machine

namespace Sys2Proof.Statements

open Sys2Proof.Machine

section
variable {i : Instr} {o : CW} {u : XUnit} {uses : XUses} {drive : Bool} {bank : Option Nat}

theorem CluRuns.of_cluIssue {effect : XIss → State → State} (run : State → Result) (runs : ∀ s, exec i s = run s)
    (issues : ∀ s, run s = cluIssue i o u uses drive bank effect s) : CluRuns i o u uses drive bank effect :=
  fun s _ _ passes => (runs s).trans ((issues s).trans (cluIssue_of_issues passes effect nofun))

/-- The checks of a word, and its idleness under a guard of 0, are those of `cluIssue`. -/
theorem CluChecksInOrder.of_cluIssue {effect : XIss → State → State} {copies : Bool} (run : State → Result)
    (runs : ∀ s, exec i s = run s) (issues : ∀ s, run s = cluIssue i o u uses drive bank effect s copies) :
    CluChecksInOrder i o u uses drive bank copies := by
  intro s l c turn
  have runs := (runs s).trans (issues s)
  refine ⟨fun marked => runs.trans (cluIssue_of_marked turn (marked_iff.mpr marked)),
    fun unmarked occupied => runs.trans (cluIssue_of_occupied turn (mt marked_iff.mp unmarked) occupied), fun unmarked k taken => ?_⟩
  have free := runs.trans (cluIssue_of_taken turn (mt marked_iff.mp unmarked) taken)
  refine ⟨fun clash => free.trans (if_pos (clash_iff.mpr clash)), fun noClash apart => ?apart, fun noClash together outside => ?bound,
    fun noClash together bound => ?_⟩
  case apart => exact free.trans ((if_neg (mt clash_iff.mp noClash)).trans (if_pos (apart_iff.mpr apart)))
  case bound =>
    exact free.trans ((if_neg (mt clash_iff.mp noClash)).trans ((if_neg (mt apart_iff.mp together)).trans (if_pos outside)))
  have bound := free.trans ((if_neg (mt clash_iff.mp noClash)).trans ((if_neg (mt apart_iff.mp together)).trans
    (if_neg (Bool.eq_false_iff.mp bound))))
  exact ⟨fun busy => bound.trans (if_pos ((Bool.and_eq_true ..).mpr busy)), fun idle off => bound.trans ((if_neg (idle_iff.mpr idle)).trans
    (if_pos ((Bool.not_eq_true' _).mpr off)))⟩

end

section
variable {i : Instr} {o : CW} {lat : Nat} {b c : Bool}

theorem CluLanes.of_cluData {u : XUnit} {g : XIss → X512} {f : W32 → W32 → W32 → W32} (run : State → Result)
    (runs : ∀ s, exec i s = run s) (data : ∀ s, run s = cluData i o u lat true b c g s)
    (lanes : ∀ x, g x = mkX fun l => f (xlane x.a l) (xlane x.b l) (xlane x.cv l)) : CluLanes i o u lat b c f := by
  obtain rfl : g = fun x => mkX fun l => f (xlane x.a l) (xlane x.b l) (xlane x.cv l) := funext lanes
  exact .of_cluIssue run runs data

theorem CluLanes.of_cluInt {f g : W32 → W32 → W32} (run : State → Result) (runs : ∀ s, exec i s = run s)
    (data : ∀ s, run s = cluInt i o g s) (same : ∀ a b, g a b = f a b) : CluLanes i o .alu 2 true false fun a b _ => f a b := by
  obtain rfl : g = f := funext fun a => funext fun b => same a b
  exact .of_cluData run runs data fun _ => rfl

theorem CluLanes.of_cluFloat {f : Nat → Nat → Nat → Nat} {h : W32 → W32 → W32 → W32} (run : State → Result)
    (runs : ∀ s, exec i s = run s) (data : ∀ s, run s = cluFloat i o b c f s)
    (same : ∀ x y z, BitVec.ofNat 32 (f x.toNat y.toNat z.toNat) = h x y z) : CluLanes i o .fma 4 b c h := by
  obtain rfl : (fun x y z => BitVec.ofNat 32 (f x.toNat y.toNat z.toNat)) = h :=
    funext fun x => funext fun y => funext fun z => same x y z
  exact .of_cluData run runs data fun _ => rfl

theorem CluLanes.of_fcvt {n : BitVec 6} {h : W32 → W32 → W32 → W32} (fn : o.fn = n) (second : decide (n = 2#6) = b)
    (same : ∀ x y z, BitVec.ofNat 32 (cluConvert n.toNat x.toNat y.toNat) = h x y z) :
    CluLanes (.cluFcvt o) o .fma 4 b false h :=
  .of_cluFloat (f := fun x y _ => cluConvert n.toNat x y) (execCluFcvt o) (fun _ => rfl)
    (fun s => by rw [execCluFcvt, fn, second]) same

end

theorem clusterIntegerWordsComplete : ClusterIntegerWordsComplete := by
  intro o less word
  have lt : ∀ n a b, cluLess n a b = less n a b := fun n a b => by cases n <;> rfl
  refine ⟨?add, ?sub, ?and, ?or, ?xor, ?shl, ?shr, ?sar, ?min, ?max, fun cc code small => ?icmp, ?xsel, ?mov⟩
  case add => exact .of_cluInt (execCluIadd o) (fun _ => rfl) (fun _ => rfl) fun _ _ => rfl
  case sub => exact .of_cluInt (execCluIsub o) (fun _ => rfl) (fun _ => rfl) fun _ _ => rfl
  case and => exact .of_cluInt (execCluAnd o) (fun _ => rfl) (fun _ => rfl) fun _ _ => rfl
  case or => exact .of_cluInt (execCluOr o) (fun _ => rfl) (fun _ => rfl) fun _ _ => rfl
  case xor => exact .of_cluInt (execCluXor o) (fun _ => rfl) (fun _ => rfl) fun _ _ => rfl
  case shl =>
    refine .of_cluInt (execCluShl o) (fun _ => rfl) (fun _ => rfl) fun a b => ?_
    apply BitVec.eq_of_toNat_eq
    rw [BitVec.toNat_shiftLeft, Nat.shiftLeft_eq, BitVec.toNat_ofNat]
  case shr =>
    refine .of_cluInt (execCluShr o) (fun _ => rfl) (fun _ => rfl) fun a b => ?_
    rw [← Nat.shiftRight_eq_div_pow, ← BitVec.toNat_ushiftRight, BitVec.ofNat_toNat, BitVec.setWidth_eq]
  case sar =>
    refine .of_cluInt (execCluSar o) (fun _ => rfl) (fun _ => rfl) fun a b => ?_
    rw [BitVec.sshiftRight, Int.shiftRight_eq_div_pow, Nat.cast_pow]
    rfl
  case min => exact .of_cluInt (execCluImin o) (fun _ => rfl) (fun _ => rfl) fun a b => by rw [lt]
  case max => exact .of_cluInt (execCluImax o) (fun _ => rfl) (fun _ => rfl) fun a b => by rw [lt]
  case icmp =>
    refine .of_cluInt (execCluIcmp o) (fun _ => rfl) (fun _ => rfl) fun a b => ?_
    rw [code, cluCompare_eq _ small, lt, lt]
  case xsel =>
    refine .of_cluData (execCluXsel o) (fun _ => rfl) (fun _ => rfl) fun x => ?_
    simp only [ne_eq, ite_not]
  case mov => exact .of_cluIssue (execCluMov o) (fun _ => rfl) fun _ => rfl

theorem clusterFloatWordsComplete : ClusterFloatWordsComplete := by
  intro o
  refine ⟨?fadd, ?fmul, ?ffma, ?fmin, ?fmax, ?fcmp, fun fn => ?toInt, fun fn => ?ofInt, fun fn => ?pack, fun fn => ?unpack⟩
  case fadd => exact .of_cluFloat (execCluFadd o) (fun _ => rfl) (fun _ => rfl) fun _ _ _ => rfl
  case fmul => exact .of_cluFloat (execCluFmul o) (fun _ => rfl) (fun _ => rfl) fun _ _ _ => rfl
  case ffma => exact .of_cluFloat (execCluFfma o) (fun _ => rfl) (fun _ => rfl) fun _ _ _ => rfl
  case fmin => exact .of_cluFloat (execCluFmin o) (fun _ => rfl) (fun _ => rfl) fun _ _ _ => rfl
  case fmax => exact .of_cluFloat (execCluFmax o) (fun _ => rfl) (fun _ => rfl) fun _ _ _ => rfl
  case fcmp => exact .of_cluFloat (execCluFcmp o) (fun _ => rfl) (fun _ => rfl) fun _ _ _ => rfl
  case toInt => exact .of_fcvt fn rfl fun _ _ _ => rfl
  case ofInt =>
    refine .of_fcvt fn rfl fun x y _ => ?_
    show _ = BitVec.ofNat 32 (intToF f32 .rn (BitVec.ofNat 32 x.toNat).toInt).bits
    rw [BitVec.ofNat_toNat, BitVec.setWidth_eq, ← signExt_toNat]
    rfl
  case pack => exact .of_fcvt fn rfl fun _ _ _ => rfl
  case unpack => exact .of_fcvt fn rfl fun _ _ _ => rfl

/-! ## Control words and rotation (R289, R322) -/

theorem clusterControlWordsComplete : Statements.ClusterControlWordsComplete := by
  intro o
  refine ⟨?nop, ?br, ?loopr, ?setlc, ?endl, ?gset, ?glut⟩
  case nop => exact .of_cluIssue (execCluNop o) (fun _ => rfl) fun _ => rfl
  case br => exact .of_cluIssue (execCluBr o) (fun _ => rfl) fun _ => rfl
  case loopr => exact .of_cluIssue (execCluLoopr o) (fun _ => rfl) fun _ => rfl
  case setlc => exact .of_cluIssue (execCluSetlc o) (fun _ => rfl) fun _ => rfl
  case endl => exact .of_cluIssue (execCluEndl o) (fun _ => rfl) fun _ => rfl
  case gset => exact .of_cluIssue (execCluGset o) (fun _ => rfl) fun _ => rfl
  case glut => exact .of_cluIssue (execCluGlut o) (fun _ => rfl) fun _ => rfl

theorem rotationTurns : RotationTurns := by
  intro k b small
  refine ⟨?g8, fun n low high => ?x, ?wrap, fun n low high => ?g, fun n low => ?plainX, fun n low => ?plainG⟩
  case g8 =>
    have place : (k.turn b).physG 8 = k.turnPlace := by
      rw [Cluster.physG_add _ 0, Cluster.turn_rbase, Cluster.turnPlace, Nat.zero_add]
    rw [Cluster.readG_eq, place, Cluster.turn_g, if_pos rfl, decide_eq_false (by decide), Bool.false_or]
  case x =>
    obtain ⟨a, rfl⟩ := Nat.exists_eq_add_of_le low
    have place : (k.turn b).physX (32 + (a + 1)) = k.physX (32 + a) := by
      rw [Cluster.physX_add, Cluster.physX_add, Cluster.turn_rbase, turn_mod (Nat.dvd_refl 32)]
    rw [Nat.add_assoc, Cluster.readX, place, Cluster.turn_x, ← Cluster.readX]
  case wrap =>
    have place : (k.turn b).physX 32 = k.physX 63 := by
      rw [Cluster.physX_add _ 0, Cluster.physX_add _ 31, Cluster.turn_rbase, Nat.zero_add, Nat.mod_mod, Nat.add_comm 31]
    rw [Cluster.readX, place, Cluster.turn_x, ← Cluster.readX]
  case g =>
    obtain ⟨a, rfl⟩ := Nat.exists_eq_add_of_le low
    have place : (k.turn b).physG (8 + (a + 1)) = k.physG (8 + a) := by
      rw [Cluster.physG_add, Cluster.physG_add, Cluster.turn_rbase, turn_mod (by decide)]
    have kept : k.physG (8 + a) ≠ k.turnPlace := by
      rw [Cluster.physG_add, Cluster.turnPlace, Nat.mod_mod_of_dvd _ (by decide), Nat.add_comm k.rbase]
      intro same
      have last : a ≡ 31 [MOD 8] := Nat.ModEq.add_right_cancel' k.rbase (Nat.add_left_cancel same)
      have small : a < 7 := Nat.lt_of_add_lt_add_left high
      exact small.ne (last.eq_of_lt_of_lt (b := 7) (small.trans (by decide)) (by decide))
    rw [Nat.add_assoc, Cluster.readG_eq, place, Cluster.turn_g, if_neg kept, Cluster.readG_eq,
      decide_eq_false (Nat.ne_of_gt (Nat.add_pos_left (by decide) _)), decide_eq_false (Nat.ne_of_gt (Nat.add_pos_left (by decide) _))]
  case plainX =>
    have place : (k.turn b).physX n = k.physX n := by rw [Cluster.physX, Cluster.physX, if_pos low, if_pos low]
    rw [Cluster.readX, place, Cluster.turn_x, ← Cluster.readX]
  case plainG =>
    have place : (k.turn b).physG n = n := if_pos low
    have same : k.physG n = n := if_pos low
    have kept : n ≠ k.turnPlace := (low.trans_le (Nat.le_add_right 8 _)).ne
    rw [Cluster.readG_eq, place, Cluster.turn_g, if_neg kept, Cluster.readG_eq, same]

/-! ## Memory words, fetch and store engine words (R319-R324) -/

theorem clusterMemoryWordsComplete : ClusterMemoryWordsComplete := by
  intro o
  refine ⟨?kpop, ?kpush, ?qlen, fun s s1 x issues idle => ?lcpy, fun s s1 x issues good => ?ldl, ?stl⟩
  case kpop =>
    intro s s1 x issues
    show execCluKpop o s = _
    rw [execCluKpop, cluIssue_of_issues (copies := false) issues _ nofun]
    dsimp only
    generalize s1.tokenPop x.l (o.imm.toNat % 8) = popped
    obtain ⟨t, _ | v⟩ := popped <;> rfl
  case kpush => exact .of_cluIssue (execCluKpush o) (fun _ => rfl) fun _ => rfl
  case qlen => exact .of_cluIssue (execCluQlen o) (fun _ => rfl) fun _ => rfl
  case lcpy =>
    have mode : ∀ n < 4, (if n = 2 then 16384 else if n = 3 then 24576 else 8192) = getAt [8192, 8192, 16384, 24576] n 0 := by decide
    rw [← mode _ (Nat.mod_lt _ (by decide))]
    show execCluLcpy o s = _
    exact cluIssue_of_issues issues _ fun _ => idle
  case ldl =>
    show execCluLdl o s = _
    rw [execCluLdl, cluIssue_of_issues (copies := false) issues _ nofun]
    simp only [State.lineUnit, good, Bool.false_eq_true, if_false]
  case stl => exact .of_cluIssue (execCluStl o) (fun _ => rfl) fun _ => rfl

/-- A line clamped between 0 and the last one. -/
theorem clamp_eq (y top : Int) : (if y < 0 then 0 else if top < y then (if top < 0 then 0 else top) else y) = max 0 (min y top) := by
  split
  case isTrue below => exact (max_eq_left ((min_le_left y top).trans below.le)).symm
  case isFalse up =>
    split
    case isTrue past =>
      rw [min_eq_right past.le]
      split
      case isTrue empty => exact (max_eq_left empty.le).symm
      case isFalse some => exact (max_eq_right (not_lt.mp some)).symm
    case isFalse inside => rw [min_eq_left (not_lt.mp inside), max_eq_right (not_lt.mp up)]

theorem runAddr_eq (height line : Nat) (o : EW) : runAddr height line o
    = o.ia.toNat + (max 0 (min ((line : Int) + o.roff.toInt) ((height : Int) - 1))).toNat * o.lstride.toNat * 64 := by
  rw [runAddr, clamp_eq]

theorem lineEngineWordsComplete : LineEngineWordsComplete := by
  intro s l o
  dsimp only
  rw [← runAddr_eq]
  refine ⟨fun turn room => ⟨engineAt s l 4 (s.load.fetchPc l) (s.lcr l).fetchPos o.k.toNat, ?fetch⟩, fun turn =>
    ⟨⟨engineAt s l 5 (s.load.storePc l) (s.lcr l).storePos o.k.toNat, ?store⟩,
      ⟨engineAt s l 5 (s.load.storePc l) (s.lcr l).storePos o.k.toNat, ?emit⟩⟩⟩
  case fetch =>
    show execFetch o s = _
    delta execFetch
    rw [turn]
    exact (if_neg room.not_ge).trans
      (congrArg (fun n => Host.Outcome.next (State.hRequests _ _ _ (64 * n) _).endTurn) List.length_range)
  case store =>
    show execStore o s = _
    delta execStore storeWord
    rw [turn]
    rfl
  case emit =>
    show execEmit o s = _
    delta execEmit storeWord
    rw [turn]
    rfl

/-! ## Causes that arise at the end of a clock (R295-R297, R402, R403) -/

/-- The line core stops for `best`, the cause of the clock that is reported. -/
def stopFor (s : State) (l : Nat) (best : SelStop) : State :=
  let s1 := s.markLate l 4
  let s2 := s1.setLcr l { s1.lcr l with stops := [], stopped := true, reported := false, lcpy := none }
  (s2.setSel { s2.sel with lastCause := best.cause.code }).raise (selSource 13 l)
    { selEvent 13 l best.cause.code 3 s2.load.vf with
      slot := best.by_.unit, addrVa := true, addr := best.by_.addr, info := best.by_.info }

theorem stopClock_of_cause {s : State} {l : Nat} {c : SelStop} {t : List SelStop} (causes : (s.lcr l).stops = c :: t)
    (runs : (s.lcr l).stopped = false) :
    s.stopClock l = stopFor s l (t.foldl (fun (a b : SelStop) => if b.by_.unit < a.by_.unit then b else a) c) := by
  simp only [State.stopClock, causes, runs, Bool.false_eq_true, if_false]
  rfl

/-- The cause that a fold over the causes of a clock picks comes from the lowest-numbered unit. -/
theorem foldl_lowestUnit (t : List SelStop) : ∀ c : SelStop,
    let best := t.foldl (fun (a b : SelStop) => if b.by_.unit < a.by_.unit then b else a) c
    best ∈ c :: t ∧ ∀ b ∈ c :: t, best.by_.unit ≤ b.by_.unit := by
  induction t with
  | nil => simp
  | cons d t ih =>
    intro c
    rw [List.foldl_cons]
    by_cases lower : d.by_.unit < c.by_.unit
    · obtain ⟨among, lowest⟩ := ih d
      rw [if_pos lower]
      refine ⟨List.mem_cons_of_mem c among, List.forall_mem_cons.mpr ⟨?_, lowest⟩⟩
      exact (lowest d List.mem_cons_self).trans lower.le
    · obtain ⟨among, lowest⟩ := ih c
      obtain ⟨first, rest⟩ := List.forall_mem_cons.mp lowest
      rw [if_neg lower]
      refine ⟨(List.mem_cons.mp among).elim (fun eq => List.mem_cons.mpr (.inl eq)) fun later => ?_,
        List.forall_mem_cons.mpr ⟨first, List.forall_mem_cons.mpr ⟨first.trans (not_lt.mp lower), rest⟩⟩⟩
      exact List.mem_cons_of_mem c (List.mem_cons_of_mem d later)

theorem and_ne_true {p : Prop} [Decidable p] {b : Bool} (fails : ¬p) : ¬(decide p && b) = true := by
  rw [decide_eq_false fails]
  exact Bool.false_ne_true

/-- A FIFO that is full counts the push and drops the token. -/
theorem KFifo.push_of_full {f : KFifo} {v : W32} (early : f.late.contains f.pushes = false) (full : 16 ≤ f.toks.length) :
    f.push v = ({ f with pushes := f.pushes + 1 }, true) :=
  (if_neg (Bool.eq_false_iff.mp early)).trans (if_pos full)

theorem runTimeCausesStop : RunTimeCausesStop := by
  intro s l
  refine ⟨fun q at_ other empty => ?underflow, fun q at_ e t other full => ?pop, fun p other full => ?overflow,
    fun p other room => ?push, fun p early full cluster => ?token, fun c t causes runs => ?stop⟩
  case underflow =>
    delta State.queuePop
    refine (if_neg (and_ne_true other)).trans ?_
    rw [empty]
    exact if_neg (and_ne_true other)
  case pop =>
    delta State.queuePop
    refine (if_neg (and_ne_true other)).trans ?_
    rw [full]
    rfl
  case overflow =>
    refine (if_neg fun dme => and_ne_true other ((Bool.and_eq_true ..).mp dme).1).trans (if_pos full)
  case push =>
    refine (if_neg fun dme => and_ne_true other ((Bool.and_eq_true ..).mp dme).1).trans (if_neg room.not_ge)
  case token =>
    intro s1
    delta State.kpushClock
    dsimp only
    rw [KFifo.push_of_full early full]
    exact if_pos cluster
  case stop =>
    obtain ⟨among, lowest⟩ := foldl_lowestUnit t c
    refine ⟨_, among, lowest, ?_⟩
    exact stopClock_of_cause causes runs

section
variable {i : Instr} {o : CW} (run : State → Result) (runs : ∀ s, exec i s = run s)
include run runs

theorem CluChecksInOrder.of_cluData {u : XUnit} {lat : Nat} {a b c : Bool} {f : XIss → X512}
    (data : ∀ s, run s = cluData i o u lat a b c f s) : CluChecksInOrder i o u { a := a, b := b, c := c, d := true } false none false :=
  .of_cluIssue run runs fun s => data s

theorem CluChecksInOrder.of_cluInt {f : W32 → W32 → W32} (data : ∀ s, run s = cluInt i o f s) :
    CluChecksInOrder i o .alu { a := true, b := true, c := false, d := true } false none false :=
  .of_cluData run runs fun s => data s

theorem CluChecksInOrder.of_cluFloat {b c : Bool} {f : Nat → Nat → Nat → Nat} (data : ∀ s, run s = cluFloat i o b c f s) :
    CluChecksInOrder i o .fma { a := true, b := b, c := c, d := true } false none false :=
  .of_cluData run runs fun s => data s

theorem CluChecksInOrder.of_cluCtl {effect : XIss → State → State} (data : ∀ s, run s = cluCtl i o effect s) :
    CluChecksInOrder i o .alu { a := false, b := false, c := false, d := false } false none false :=
  .of_cluIssue run runs fun s => data s

end

theorem clusterChecksInOrder : ClusterChecksInOrder := by
  intro o
  refine ⟨?plain, fun fn => ?one, fun fn => ?two, ?sdrv, ?ldl, ?stl, ?lcpy⟩
  case plain =>
    refine List.forall_mem_cons.mpr ⟨.of_cluInt (execCluIadd o) (fun _ => rfl) fun _ => rfl, ?_⟩
    refine List.forall_mem_cons.mpr ⟨.of_cluInt (execCluIsub o) (fun _ => rfl) fun _ => rfl, ?_⟩
    refine List.forall_mem_cons.mpr ⟨.of_cluInt (execCluAnd o) (fun _ => rfl) fun _ => rfl, ?_⟩
    refine List.forall_mem_cons.mpr ⟨.of_cluInt (execCluOr o) (fun _ => rfl) fun _ => rfl, ?_⟩
    refine List.forall_mem_cons.mpr ⟨.of_cluInt (execCluXor o) (fun _ => rfl) fun _ => rfl, ?_⟩
    refine List.forall_mem_cons.mpr ⟨.of_cluInt (execCluShl o) (fun _ => rfl) fun _ => rfl, ?_⟩
    refine List.forall_mem_cons.mpr ⟨.of_cluInt (execCluShr o) (fun _ => rfl) fun _ => rfl, ?_⟩
    refine List.forall_mem_cons.mpr ⟨.of_cluInt (execCluSar o) (fun _ => rfl) fun _ => rfl, ?_⟩
    refine List.forall_mem_cons.mpr ⟨.of_cluInt (execCluImin o) (fun _ => rfl) fun _ => rfl, ?_⟩
    refine List.forall_mem_cons.mpr ⟨.of_cluInt (execCluImax o) (fun _ => rfl) fun _ => rfl, ?_⟩
    refine List.forall_mem_cons.mpr ⟨.of_cluInt (execCluIcmp o) (fun _ => rfl) fun _ => rfl, ?_⟩
    refine List.forall_mem_cons.mpr ⟨.of_cluData (execCluXsel o) (fun _ => rfl) fun _ => rfl, ?_⟩
    refine List.forall_mem_cons.mpr ⟨.of_cluData (execCluMov o) (fun _ => rfl) fun _ => rfl, ?_⟩
    refine List.forall_mem_cons.mpr ⟨.of_cluFloat (execCluFadd o) (fun _ => rfl) fun _ => rfl, ?_⟩
    refine List.forall_mem_cons.mpr ⟨.of_cluFloat (execCluFmul o) (fun _ => rfl) fun _ => rfl, ?_⟩
    refine List.forall_mem_cons.mpr ⟨.of_cluFloat (execCluFfma o) (fun _ => rfl) fun _ => rfl, ?_⟩
    refine List.forall_mem_cons.mpr ⟨.of_cluFloat (execCluFmin o) (fun _ => rfl) fun _ => rfl, ?_⟩
    refine List.forall_mem_cons.mpr ⟨.of_cluFloat (execCluFmax o) (fun _ => rfl) fun _ => rfl, ?_⟩
    refine List.forall_mem_cons.mpr ⟨.of_cluFloat (execCluFcmp o) (fun _ => rfl) fun _ => rfl, ?_⟩
    refine List.forall_mem_cons.mpr ⟨.of_cluData (execCluShuf o) (fun _ => rfl) fun _ => rfl, ?_⟩
    refine List.forall_mem_cons.mpr ⟨.of_cluData (execCluLerp o) (fun _ => rfl) fun _ => rfl, ?_⟩
    refine List.forall_mem_cons.mpr ⟨.of_cluData (execCluPack o) (fun _ => rfl) fun _ => rfl, ?_⟩
    refine List.forall_mem_cons.mpr ⟨.of_cluData (execCluWarp o) (fun _ => rfl) fun _ => rfl, ?_⟩
    refine List.forall_mem_cons.mpr ⟨.of_cluIssue (execCluPose o) (fun _ => rfl) fun _ => rfl, ?_⟩
    refine List.forall_mem_cons.mpr ⟨.of_cluIssue (execCluNop o) (fun _ => rfl) fun _ => rfl, ?_⟩
    refine List.forall_mem_cons.mpr ⟨.of_cluCtl (execCluBr o) (fun _ => rfl) fun _ => rfl, ?_⟩
    refine List.forall_mem_cons.mpr ⟨.of_cluCtl (execCluLoopr o) (fun _ => rfl) fun _ => rfl, ?_⟩
    refine List.forall_mem_cons.mpr ⟨.of_cluCtl (execCluSetlc o) (fun _ => rfl) fun _ => rfl, ?_⟩
    refine List.forall_mem_cons.mpr ⟨.of_cluCtl (execCluEndl o) (fun _ => rfl) fun _ => rfl, ?_⟩
    refine List.forall_mem_cons.mpr ⟨.of_cluIssue (execCluGset o) (fun _ => rfl) fun _ => rfl, ?_⟩
    refine List.forall_mem_cons.mpr ⟨.of_cluCtl (execCluGlut o) (fun _ => rfl) fun _ => rfl, ?_⟩
    refine List.forall_mem_cons.mpr ⟨.of_cluIssue (execCluKpop o) (fun _ => rfl) fun _ => rfl, ?_⟩
    refine List.forall_mem_cons.mpr ⟨.of_cluCtl (execCluKpush o) (fun _ => rfl) fun _ => rfl, ?_⟩
    refine List.forall_mem_cons.mpr ⟨.of_cluIssue (execCluQlen o) (fun _ => rfl) fun _ => rfl, ?_⟩
    exact List.forall_mem_nil _
  case one =>
    have single : decide (o.fn = 2#6) = false := by
      refine decide_eq_false fun two => ?_
      rw [two] at fn
      revert fn
      decide
    exact .of_cluFloat (execCluFcvt o) (fun _ => rfl) fun _ => by rw [execCluFcvt, single]
  case two =>
    have both : decide (o.fn = 2#6) = true := decide_eq_true fn
    exact .of_cluFloat (execCluFcvt o) (fun _ => rfl) fun _ => by rw [execCluFcvt, both]
  case sdrv => exact .of_cluIssue (execCluSdrv o) (fun _ => rfl) fun _ => rfl
  case ldl => exact .of_cluIssue (execCluLdl o) (fun _ => rfl) fun _ => rfl
  case stl => exact .of_cluIssue (execCluStl o) (fun _ => rfl) fun _ => rfl
  case lcpy => exact .of_cluIssue (execCluLcpy o) (fun _ => rfl) fun _ => rfl

end Sys2Proof.Statements

namespace Sys2Proof.Proofs

open Sys2Proof.Machine Sys2Proof.Statements

/-- Settles O33: every data word of the two units issues through `cluIssue` with its function of the lanes. -/
theorem clusterArithmeticWordsComplete : Obligations.ClusterArithmeticWordsComplete :=
  ⟨clusterIntegerWordsComplete, clusterFloatWordsComplete⟩

/-- Settles O35: the control words issue through `cluIssue`, and a turn renames by the rotation base. -/
theorem clusterControlWordsComplete : Obligations.ClusterControlWordsComplete :=
  ⟨Statements.clusterControlWordsComplete, rotationTurns⟩

/-- Settles O36: the memory words issue through `cluIssue`, and the engine words enter their runs and units. -/
theorem clusterMemoryAndEngineWordsComplete : Obligations.ClusterMemoryAndEngineWordsComplete :=
  ⟨clusterMemoryWordsComplete, lineEngineWordsComplete⟩

/-- Settles O37: the checks are those of `cluIssue`, in its order, and the causes of a clock are what each of its parts raises. -/
theorem clusterChecksAndCausesStop : Obligations.ClusterChecksAndCausesStop := ⟨clusterChecksInOrder, runTimeCausesStop⟩

/-- Settles O34: every word of the interpolation and shuffle unit issues through `cluIssue` with its effect. -/
theorem clusterIsuWordsComplete : Obligations.ClusterIsuWordsComplete := by
  intro o
  refine ⟨?shuf, ?lerp, ?pack, ?warp, ?pose, ?sdrv⟩
  case shuf => exact .of_cluIssue (execCluShuf o) (fun _ => rfl) fun _ => rfl
  case lerp => exact .of_cluData (execCluLerp o) (fun _ => rfl) (fun _ => rfl) fun _ => rfl
  case pack => exact .of_cluData (execCluPack o) (fun _ => rfl) (fun _ => rfl) fun _ => rfl
  case warp => exact .of_cluIssue (execCluWarp o) (fun _ => rfl) fun _ => rfl
  case pose => exact .of_cluIssue (execCluPose o) (fun _ => rfl) fun _ => rfl
  case sdrv => exact .of_cluIssue (execCluSdrv o) (fun _ => rfl) fun _ => rfl

end Sys2Proof.Proofs
end

section
/-! PROOFS. Selham's lines and launches: schedules, scan-out and the safety reel, fetch runs and line copies, restarts, the end of a
launch and the pose mailbox (R291-R307, R324, R328, R350, R442-R444). -/

namespace Sys2Proof.Machine

/-! ## Heads and line cores -/

theorem length_setAt {α : Type} (v : α) (l : List α) : ∀ i : Nat, (setAt l i v).length = l.length := by
  induction l with
  | nil => exact fun _ => rfl
  | cons x t ih =>
    rintro (_ | i)
    · rfl
    · exact congrArg (· + 1) (ih i)

theorem State.selHead_setSelHead {s : State} {h : Nat} (x : Head) (stands : h < s.sel.heads.length) :
    (s.setSelHead h x).selHead h = x := getAt_setAt_self x Head.reset s.sel.heads h stands

@[simp] theorem State.lcr_setLcr (s : State) (l : Nat) (x : Lcr) : (s.setLcr l x).lcr l = x := KMap.getD_put_self ..

theorem SelLoad.headOf_lt (x : SelLoad) (l : Nat) : x.headOf l < 4 := Nat.mod_lt _ (by decide)

/-- The heads of the two states are the same. -/
def SameHeads (s t : State) : Prop := t.sel.heads = s.sel.heads

theorem SameHeads.trans {a b c : State} (h : SameHeads a b) (h' : SameHeads b c) : SameHeads a c := Eq.trans h' h

theorem SameHeads.selHead {s t : State} (same : SameHeads s t) (h : Nat) : t.selHead h = s.selHead h :=
  congrArg (getAt · h Head.reset) same

theorem SameHeads.foldl {β : Type} {f : State → β → State} (same : ∀ s b, SameHeads s (f s b)) (l : List β) :
    ∀ s, SameHeads s (l.foldl f s) := by
  induction l with
  | nil => exact fun _ => rfl
  | cons b t ih => exact fun s => (same s b).trans (ih _)

/-! ## What a write of the safety reel leaves as it was -/

theorem State.noteOld_heads (s : State) (ws : List (Nat × List Byte)) : SameHeads s (s.noteOld ws) := by
  unfold noteOld
  split <;> rfl

theorem State.backInvalidate_heads (s : State) (ws : List (Nat × List Byte)) : SameHeads s (s.backInvalidate ws) := by
  unfold backInvalidate
  split <;> rfl

theorem State.storeAll_heads (s : State) (ws : List (Nat × List Byte)) : SameHeads s (s.storeAll ws) := by
  unfold storeAll
  extract_lets s0 ws0 s1 s2
  have lost : SameHeads s s0 := by
    cases found : ws.find? fun w => s.lostHome w.1 <;> simp only [s0, found] <;> rfl
  have poked : SameHeads s0 s1 :=
    (State.noteOld_heads ..).trans (SameHeads.foldl (f := fun a (w : Nat × List Byte) => a.poke w.1 w.2) (fun _ _ => rfl) ..)
  have clean : SameHeads s1 s2 := by
    dsimp only [s2]
    split <;> rfl
  exact lost.trans (poked.trans (clean.trans (State.backInvalidate_heads ..)))

theorem State.linkSend_heads (s : State) (d e : Nat) (f : Flit) (stamp : List Nat) : SameHeads s (s.linkSend d e f stamp) := by
  unfold linkSend
  split
  · rfl
  · split <;> rfl

theorem State.hRequest_heads (s : State) (v ia : Nat) (kind : ReqKind) : SameHeads s (s.hRequest v ia kind) := by
  unfold hRequest
  split
  · extract_lets x out msg vec f
    have sent : SameHeads s (s.setDie 4 { x with vec := vec }) := rfl
    exact sent.trans (SameHeads.foldl (f := fun s f => s.crossOut 4 f) (fun _ _ => State.linkSend_heads ..) ..)
  · rfl
  · rfl

theorem State.hRequests_heads (s : State) (v ia n : Nat) (kind : ReqKind) : SameHeads s (s.hRequests v ia n kind) := by
  unfold hRequests
  split
  · rfl
  · exact SameHeads.foldl (fun _ _ => State.hRequest_heads ..) _ _

theorem State.selAccess_heads (s : State) (block unit v : Nat) (frame : Nat × Nat) (code ia : Nat) :
    SameHeads s (s.selAccess block unit v frame code ia) := by
  unfold selAccess
  dsimp only
  split <;> rfl

theorem State.selWriteFuel_heads (n : Nat) : ∀ (s t : State) (v ia : Nat) (bs : List Byte),
    State.selWriteFuel n s v ia bs = .ok t → SameHeads s t := by
  induction n with
  | zero =>
    rintro s t v ia bs ⟨⟩
    rfl
  | succ n ih =>
    intro s t v ia bs written
    unfold selWriteFuel at written
    split at written
    · cases written
      rfl
    · split at written
      · cases written
      · exact (State.storeAll_heads ..).trans (ih _ _ _ _ _ written)

theorem State.reelWrite_heads (s : State) (h : Nat) (w : Show) (g : Nat) (px : List W32) (r : PoseRec) :
    SameHeads s (s.reelWrite h w g px r).1 := by
  unfold reelWrite
  dsimp only
  split
  · rename_i written
    exact (State.selWriteFuel_heads _ _ _ _ _ _ written).trans (State.hRequests_heads ..)
  · exact State.selAccess_heads ..

/-! ## The head that scan-out serves -/

@[simp] theorem Head.putScanning_glass (hd : Head) (w : Show) (old : Bool) : (hd.putScanning w old).glass = hd.glass := by
  unfold putScanning
  split
  · split <;> rfl
  · rfl

@[simp] theorem Head.putScanning_stat (hd : Head) (w : Show) (old : Bool) : (hd.putScanning w old).stat = hd.stat := by
  unfold putScanning
  split
  · split <;> rfl
  · rfl

theorem State.sendLine_glass (s : State) {h : Nat} (w past : Show) (old : Bool) (g : Nat) (px : List W32) (r : PoseRec)
    (stands : h < s.sel.heads.length) : ((s.sendLine h w past old g px r).selHead h).glass = (g % w.vtotal, px) := by
  unfold sendLine
  have same := s.reelWrite_heads h w g px r
  rw [State.selHead_setSelHead _ (same ▸ stands)]
  exact Head.putScanning_glass ..

theorem State.sendLine_stat (s : State) {h : Nat} (w past : Show) (old : Bool) (g : Nat) (px : List W32) (r : PoseRec)
    (stands : h < s.sel.heads.length) : ((s.sendLine h w past old g px r).selHead h).stat = (s.selHead h).stat := by
  unfold sendLine
  have same := s.reelWrite_heads h w g px r
  rw [State.selHead_setSelHead _ (same ▸ stands), Head.putScanning_stat]
  show ((s.reelWrite h w g px r).1.selHead h).stat = _
  rw [same.selHead]

theorem State.sendLine_stands (s : State) {h : Nat} (w past : Show) (old : Bool) (g : Nat) (px : List W32) (r : PoseRec)
    (stands : h < s.sel.heads.length) : h < (s.sendLine h w past old g px r).sel.heads.length := by
  have same := s.reelWrite_heads h w g px r
  exact Nat.lt_of_lt_of_eq stands ((congrArg List.length same).symm.trans (length_setAt ..).symm)

theorem State.asStored_eq_true {s : State} {w : Show} {old : Bool} {g : Nat} :
    s.asStored w old g = true ↔ (∃ n, w.upto = some n ∧ n ≤ g) ∧ (old = true ∨ s.sel.running = false) := by
  simp [asStored, Option.any_eq_true]

/-- The show after the line that scan-out sends, with the record that the line's deadline latches. -/
def State.showAfter (s : State) (w : Show) : Show :=
  { w with gov := KMap.put w.gov (w.nextScan + w.latch) (KMap.getD s.sel.pmbCommit w.pslot poseZero) }.past (w.nextScan + 1)

theorem not_not_true {b : Bool} (holds : b = true) : ¬(!b) = true := by
  rw [holds]
  exact Bool.false_ne_true

/-- The choice of scan-out for a line that is in place and not late. -/
theorem match_of_built {α : Type} {built : Option (List W32)} {late : Nat} {sends : List W32 → α} {reels : Option (List W32) → Nat → α}
    {px : List W32} (shown : built = some px) (intime : late = 0) :
    (match (generalizing := false) built, late with
      | some px, 0 => sends px
      | built, n => reels built n) = sends px := by
  subst shown intime
  rfl

/-- The choice of scan-out for a line that is not in place or is late. -/
theorem match_of_bad {α : Type} {built : Option (List W32)} {late : Nat} {sends : List W32 → α} {reels : Option (List W32) → Nat → α}
    (bad : built = none ∨ late ≠ 0) :
    (match (generalizing := false) built, late with
      | some px, 0 => sends px
      | built, n => reels built n) = reels built late := by
  split
  next => exact (bad.elim nofun fun late => late rfl).elim
  · rfl

/-- Where the reel's line is due as it is stored, nothing but the head changes. -/
theorem execScanOutLine_of_asStored {s : State} {h : Nat} {w : Show} {old : Bool} (due : (s.selHead h).scanDue s.clk.selham = true)
    (scanning : (s.selHead h).scanning = (w, old)) (plays : s.asStored w old w.nextScan = true) :
    execScanOutLine h s = .next (s.setSelHead h { (s.selHead h).putScanning (s.showAfter w) old with
      glass := (w.nextScan % w.vtotal, match KMap.getD w.reel w.nextScan none with
        | some (px, _) => px
        | none => List.replicate w.width w.border) }) := by
  delta execScanOutLine
  extract_lets hd
  rw [show hd.scanning = (w, old) from scanning]
  exact (if_neg (not_not_true due)).trans (if_pos plays)

/-- A line that is in place and not late is sent, and ends the late run. -/
theorem execScanOutLine_of_built {s : State} {h : Nat} {w : Show} {old : Bool} {px : List W32}
    (due : (s.selHead h).scanDue s.clk.selham = true) (scanning : (s.selHead h).scanning = (w, old))
    (plays : s.asStored w old w.nextScan = false) (built : w.builtLine w.nextScan = some px)
    (intime : KMap.getD w.late w.nextScan 0 = 0) :
    let t := s.sendLine h w (s.showAfter w) old w.nextScan px (KMap.getD w.gov w.nextScan poseZero)
    execScanOutLine h s = .next (t.setSelHead h { t.selHead h with lateRun := false }) := by
  intro t
  delta execScanOutLine
  extract_lets hd
  rw [show hd.scanning = (w, old) from scanning]
  exact (if_neg (not_not_true due)).trans ((if_neg (Bool.eq_false_iff.mp plays)).trans (match_of_built built intime))

/-- The reel's pixels for the line that scan-out sends. -/
def Show.reelNow (w : Show) : List W32 :=
  let held : Bool × List W32 × PoseRec := match KMap.getD w.reel w.nextScan none with
    | some (px, r) => (true, px, r)
    | none => (false, [], poseZero)
  w.reelLine (held.1 && w.reeled.contains (w.nextScan % w.vtotal)) held.2.1 held.2.2 (KMap.getD w.gov w.nextScan poseZero)

theorem Show.reelNow_eq (w : Show) : w.reelNow = match KMap.getD w.reel w.nextScan none with
    | some (px, r) => w.reelLine (w.reeled.contains (w.nextScan % w.vtotal)) px r (KMap.getD w.gov w.nextScan poseZero)
    | none => w.reelLine false [] poseZero (KMap.getD w.gov w.nextScan poseZero) := by
  unfold reelNow
  cases KMap.getD w.reel w.nextScan none <;> rfl

/-- The state after the reel's line is sent for one that is not in place or is late, with the report that begins a late run. -/
def State.lateLine (s : State) (h : Nat) (w : Show) (old : Bool) : State :=
  let sent := s.sendLine h w (s.showAfter w) old w.nextScan w.reelNow (KMap.getD w.gov w.nextScan poseZero)
  if (s.selHead h).lateRun = true then sent
  else sent.raise (selSource 15 h) (lateEvent h w.vf (w.nextScan % w.vtotal)
    (KMap.getD w.nums (w.nextScan / w.vtotal) (s.selHead h).sampled)
    ((if (w.builtLine w.nextScan).isNone = true then 1 else 0) ||| (KMap.getD w.late w.nextScan 0 &&& 6)))

theorem State.lateLine_heads (s : State) (h : Nat) (w : Show) (old : Bool) :
    SameHeads (s.sendLine h w (s.showAfter w) old w.nextScan w.reelNow (KMap.getD w.gov w.nextScan poseZero))
      (s.lateLine h w old) := by
  unfold lateLine
  dsimp only
  split <;> rfl

/-- Any other line is the safety reel's, and begins or goes on with a late run. -/
theorem execScanOutLine_of_late {s : State} {h : Nat} {w : Show} {old : Bool}
    (due : (s.selHead h).scanDue s.clk.selham = true) (scanning : (s.selHead h).scanning = (w, old))
    (plays : s.asStored w old w.nextScan = false)
    (bad : w.builtLine w.nextScan = none ∨ KMap.getD w.late w.nextScan 0 ≠ 0) :
    let t := s.lateLine h w old
    execScanOutLine h s = .next (t.setSelHead h { t.selHead h with
      lateRun := true, stat := lateStat (t.selHead h).stat (bit (KMap.getD w.late w.nextScan 0) 1) }) := by
  intro t
  delta execScanOutLine
  extract_lets hd
  rw [show hd.scanning = (w, old) from scanning]
  exact (if_neg (not_not_true due)).trans ((if_neg (Bool.eq_false_iff.mp plays)).trans (match_of_bad bad))

/-! ## The schedule of a line -/

/-- A head whose next line is scheduled, sampled where that is line 0. -/
def Head.atLine (hd : Head) : Head := if hd.show_.nextLine % hd.show_.vtotal = 0 then hd.sample else hd

theorem Head.atLine_vtotal (hd : Head) : hd.atLine.show_.vtotal = hd.show_.vtotal := by
  unfold atLine
  split <;> rfl

/-- The head of a line core once its next line is scheduled. -/
def State.headAfter (s : State) (l : Nat) : Head :=
  let hd := s.selHead (s.load.headOf l)
  let g := hd.show_.nextLine
  let w := hd.atLine.show_
  { hd.atLine with show_ := { w with
    nextLine := g + 1, late := if (s.lcr l).stopped = true then KMap.put w.late g (KMap.getD w.late g 0 ||| 4) else w.late } }

/-- The display matrix engine goes on where it waits for a line of this line core. -/
def State.wakeDme (s : State) (l : Nat) : State :=
  if s.sel.dme.busy = .waitLine l then s.setBusy (.waitClk (s.clk.selham + 1)) else s

theorem State.wakeDme_heads (s : State) (l : Nat) : SameHeads s (s.wakeDme l) := by
  unfold wakeDme
  split <;> rfl

theorem State.wakeDme_load (s : State) (l : Nat) : (s.wakeDme l).load = s.load := by
  unfold wakeDme
  split <;> rfl

/-- The state after the schedule of the next line of a line core's head. -/
def State.scheduleLine (s : State) (l : Nat) : State := (s.setSelHead (s.load.headOf l) (s.headAfter l)).wakeDme l

theorem State.wakeDme_clk (s : State) (l : Nat) : (s.wakeDme l).clk = s.clk := by
  unfold wakeDme
  split <;> rfl

theorem State.scheduleLine_clk (s : State) (l : Nat) : (s.scheduleLine l).clk = s.clk := State.wakeDme_clk ..

theorem State.scheduleLine_load (s : State) (l : Nat) : (s.scheduleLine l).load = s.load := State.wakeDme_load ..

theorem execLineScheduleStart_of_runs {s : State} {l : Nat} (starts : s.startsNow l = true) (stopped : (s.lcr l).stopped = false)
    (done : (s.lcr l).done = false) :
    let g := (s.selHead (s.load.headOf l)).show_.nextLine
    execLineScheduleStart l s = .next ((s.scheduleLine l).setLcr l ((s.lcr l).startLine (s.scheduleLine l).load l
      (g % (s.selHead (s.load.headOf l)).atLine.show_.vtotal) g (s.scheduleLine l).clk.selham)) := by
  have runs : ¬((s.lcr l).stopped || (s.lcr l).done) = true := by
    rw [stopped, done]
    exact Bool.false_ne_true
  exact (if_neg (not_not_true starts)).trans (congrArg Host.Outcome.next (if_neg runs))

theorem State.scheduleLine_head (s : State) (l : Nat) (stands : s.load.headOf l < s.sel.heads.length) :
    (s.scheduleLine l).selHead (s.load.headOf l) = s.headAfter l :=
  ((State.wakeDme_heads ..).selHead _).trans (s.selHead_setSelHead _ stands)

/-! ## Line copies -/

/-- The state after the line copy engine has taken up the copy of a line core, to be written at the earliest 8 clocks on. -/
def State.takeCopy (s : State) (l : Nat) (c : LineCopy) : State :=
  let taken := s.setLcr l { s.lcr l with lcpy := none, bankTaken := true }
  taken.setSel { taken.sel with copies := s.sel.copies ++ [{
    lcr := l, clk := s.clk.selham + 8, dst := c.dst, mode := c.mode, lcrDst := c.lcrDst, val := (s.lcr l).unit c.unit, by_ := c.by_ }] }

theorem execLineCopyStart_of_due {s : State} {l : Nat} {c : LineCopy} (copies : (s.lcr l).lcpy = some c) (due : s.copyDue l = true)
    (good : (s.lcr l).storeBad.contains c.unit = false) : execLineCopyStart l s = .next (s.takeCopy l c) := by
  have held : s.lineUnit l c.unit = (s, (s.lcr l).unit c.unit) := if_neg (good ▸ Bool.false_ne_true)
  unfold execLineCopyStart
  rw [copies, due]
  dsimp only
  rw [held]
  rfl

/-! ## The end of a launch -/

/-- The launch that stood is over and reported, and the heads go on with the reel. -/
def State.selEnded (s : State) : State :=
  let ended := fun (t : State) (status cause : Nat) => t.endCommand s.load.queue s.load.index status cause 0 0 s.load.cdone
  let stop := s.setSel { s.sel with running := false, stopping := false, failing := none, killed := false }
  match s.sel.failing with
  | some c => ended stop.reelOnly 3 c
  | none => ended (if (s.framesShown && !s.sel.killed) = true then stop.returnLast else stop.reelOnly) 1 0

theorem State.selEnded_eq (s : State) : ∃ t : State,
    s.selEnded = t.endCommand s.load.queue s.load.index (if s.sel.failing = none then 1 else 3) (s.sel.failing.getD 0) 0 0 s.load.cdone
      ∧ t.sel.running = false ∧ t.sel.next = s.sel.next ∧ t.dist = s.dist := by
  unfold selEnded
  cases s.sel.failing with
  | some c => exact ⟨_, rfl, rfl, rfl, rfl⟩
  | none => refine ⟨_, rfl, ?_⟩; split <;> exact ⟨rfl, rfl, rfl⟩

theorem execSelhamLaunchEnd_of_stands {s : State} (running : s.sel.running = true) (stopping : s.sel.stopping = true)
    (stands : s.selStopped = true) : execSelhamLaunchEnd s = match s.selEnded.sel.next with
      | some y => .next (s.selEnded.startSelham y)
      | none => .next s.selEnded := by
  have stood : (s.sel.running && s.sel.stopping && s.selStopped) = true := by
    rw [running, stopping, stands]
    rfl
  exact if_neg (not_not_true stood)

theorem State.endCommand_reports (t : State) (q i status cause field : Nat) (info done : W64) :
    ∃ u, (t.endCommand q i status cause field info done).dist.completions = t.dist.completions ++ [u] ∧ u.queue = q ∧ u.index = i
      ∧ u.status = status ∧ u.cause = cause := ⟨_, rfl, rfl, rfl, rfl, rfl⟩

end Sys2Proof.Machine

namespace Sys2Proof.Statements

open Machine

theorem lineScheduleStarts : LineScheduleStarts := by
  intro s l heads starts h w x stopped done
  have stands : h < s.sel.heads.length := heads ▸ s.load.headOf_lt l
  have run := execLineScheduleStart_of_runs starts stopped done
  rw [State.scheduleLine_load, State.scheduleLine_clk, Head.atLine_vtotal] at run
  have head := s.scheduleLine_head l stands
  refine ⟨_, run, State.lcr_setLcr .., congrArg (fun hd => hd.show_.nextLine) head, fun zero => ?_⟩
  exact (congrArg Head.sampled head).trans (congrArg Head.sampled (if_pos zero))

theorem scanOutSendsALine : ScanOutSendsALine := by
  intro s h w old heads lt due scanning g now ended
  have stands : h < s.sel.heads.length := heads ▸ lt
  have judged : s.asStored w old g = true ↔ ended := State.asStored_eq_true
  refine ⟨fun px shown built intime => ?_, fun shown bad => ?_, fun shown => ?_⟩
  · have run := execScanOutLine_of_built due scanning (eq_false_of_ne_true (shown ∘ judged.1)) built intime
    refine ⟨_, run, ?_, ?_, ?_⟩ <;> rw [State.selHead_setSelHead _ (State.sendLine_stands _ _ _ _ _ _ _ stands)]
    · exact State.sendLine_glass _ _ _ _ _ _ _ stands
    · exact State.sendLine_stat _ _ _ _ _ _ _ stands
  · have run := execScanOutLine_of_late due scanning (eq_false_of_ne_true (shown ∘ judged.1)) bad
    have same := s.lateLine_heads h w old
    have still : h < (s.lateLine h w old).sel.heads.length := same ▸ State.sendLine_stands _ _ _ _ _ _ _ stands
    refine ⟨_, run, ?_, ?_, ?_⟩ <;> rw [State.selHead_setSelHead _ still]
    · show lateStat ((s.lateLine h w old).selHead h).stat _ = _
      rw [same.selHead, State.sendLine_stat _ _ _ _ _ _ _ stands]
    · exact (congrArg Head.glass (same.selHead h)).trans ((State.sendLine_glass _ _ _ _ _ _ _ stands).trans
        (congrArg (Prod.mk _) w.reelNow_eq))
  · have run := execScanOutLine_of_asStored due scanning (judged.2 shown)
    have after := fun x => s.selHead_setSelHead x stands
    exact ⟨_, run, rfl, (congrArg Head.stat (after _)).trans (Head.putScanning_stat ..), congrArg Head.glass (after _)⟩

theorem reelAndReturnComplete : ReelAndReturnComplete := by
  refine fun s h => ⟨fun old g due => ?_, fun clk last n rest first passed fetched => ?_⟩
  · show execReelRead h s = _
    unfold execReelRead
    rw [due]
  · have returns : s.returnDue h = some n := by
      unfold State.returnDue
      rw [first]
      cases last with
      | none => simp [passed]
      | some g =>
        have free : ((s.coresOf h).any fun c => (s.lcr c).runs.any fun r => decide (r.line ≤ g)) = false := by
          simpa using fetched g rfl
        simp only [free, passed]
        rfl
    show execFrameReturn h s = _
    unfold execFrameReturn
    rw [returns]
    simp only [first]
    rfl

theorem lineTransfersComplete : LineTransfersComplete := by
  refine fun s l => ⟨fun r whole => ?_, fun c copies slot issued good => ?_⟩
  · show execFetchRunComplete l s = _
    unfold execFetchRunComplete
    dsimp only
    rw [whole]
    dsimp only
    cases r.tok <;> rfl
  · have due : s.copyDue l = true := by simp [State.copyDue, copies, slot, issued]
    exact ⟨_, execLineCopyStart_of_due copies due good, congrArg Lcr.lcpy (State.lcr_setLcr ..), rfl⟩

theorem selhamRestartsComplete : SelhamRestartsComplete := by
  refine fun s l => ⟨fun due => ?_, fun due => ?_, rfl, fun limit => ?_, fun limit => ?_, ?_⟩
  · show execLineCoreReload l s = _
    unfold execLineCoreReload
    rw [due]
    cases s.restartLimit <;> rfl
  · show execDmeRestart s = _
    unfold execDmeRestart
    rw [due]
    cases s.restartLimit <;> rfl
  · exact if_pos limit
  · exact if_neg (by simp [limit])
  · simp [State.restartLimit]

theorem selhamLaunchEnds : SelhamLaunchEnds := by
  intro s running stopping stands
  have run : exec .selhamLaunchEnd s = _ := execSelhamLaunchEnd_of_stands running stopping stands
  obtain ⟨t, ended, idle, waiting, sent⟩ := s.selEnded_eq
  rw [ended] at run
  have next : (t.endCommand s.load.queue s.load.index (if s.sel.failing = none then 1 else 3) (s.sel.failing.getD 0) 0 0
      s.load.cdone).sel.next = s.sel.next := waiting
  rw [next] at run
  rw [← sent]
  cases waits : s.sel.next with
  | none =>
    rw [waits] at run
    exact ⟨_, run, fun _ => idle, nofun, t.endCommand_reports ..⟩
  | some y =>
    rw [waits] at run
    refine ⟨_, run, nofun, ?_, t.endCommand_reports ..⟩
    rintro _ ⟨⟩
    exact ⟨rfl, rfl⟩

theorem poseCommitCompletes : PoseCommitCompletes := by
  intro s slot seq lt
  show execPoseCommit slot seq s = _
  rw [execPoseCommit, if_pos lt, State.writePose, Nat.mul_add_div (by decide), Nat.mul_add_mod]
  rfl

end Sys2Proof.Statements

namespace Sys2Proof.Proofs

open Sys2Proof.Statements

/-- Settles O38: each event is unfolded once, into a named state or a lemma of what it sends; that a write of the reel leaves the
heads alone (`State.reelWrite_heads`) makes the line that is sent the line on the glass. -/
theorem linesTransfersAndRestartsComplete : Obligations.LinesTransfersAndRestartsComplete :=
  ⟨lineScheduleStarts, scanOutSendsALine, reelAndReturnComplete, lineTransfersComplete, selhamRestartsComplete, selhamLaunchEnds,
    poseCommitCompletes⟩

end Sys2Proof.Proofs
end

section
/-! PROOFS. The return from a trap (R372). -/

namespace Sys2Proof.Machine

/-- The entry after its return from the trap whose frame is `ts`. -/
def Entry.returned (e : Entry) (ts : TrapState) : Entry := { e with handler := none, pc := ts.resume, wait := .none }

/-- The core after the return of an entry of group `g` from the trap of frame `i`. -/
def Core.leaveHandler (k : Core) (slot i : Nat) (g : Group) (e : Entry) (ts : TrapState) : Core :=
  (k.freeTrap i).setGroup slot ({ g with preds := ts.pred }.setEntry (e.returned ts))

theorem State.returnFromTrap_of_handler {s : State} {c slot i : Nat} {e : Entry} {g : Group} {ts : TrapState}
    (handler : e.handler = some i) (group : ((s.core c).settleAll slot).group? slot = some g)
    (frame : KMap.get? ((s.core c).settleAll slot).traps i = some ts) :
    s.returnFromTrap c slot e = s.setCore c (((s.core c).settleAll slot).leaveHandler slot i g e ts) := by
  simp only [State.returnFromTrap, handler, group, frame]
  rfl

theorem Core.freeTrap_readLoc_ne (k : Core) {i : Nat} {l : RegLoc} (other : ∀ r, l ≠ .trap i r) :
    (k.freeTrap i).readLoc l = k.readLoc l := by
  cases l with
  | frame f r => rfl
  | trap j r =>
    have apart : j ≠ i := fun same => other r (same ▸ rfl)
    simp only [Core.readLoc, Core.freeTrap, KMap.getD, KMap.get?_del_ne _ apart]

end Sys2Proof.Machine

namespace Sys2Proof.Proofs

open Sys2Proof.Machine Sys2Proof.Statements

/-- Settles O55: the return puts back the entry, the predicates and the frame of `Core.leaveHandler`. -/
theorem trapReturnRestores : Obligations.TrapReturnRestores := by
  intro s c slot i e g ts k handler group entry frame u
  have returned : u = s.setCore c (k.leaveHandler slot i g e ts) := State.returnFromTrap_of_handler handler group frame
  obtain ⟨e0, entry⟩ := entry
  rw [returned, State.core_setCore_self]
  refine ⟨State.setCore_same .., fun d other => State.core_setCore_ne _ _ other, ?_, ?_, fun l other => ?_⟩
  · have back : ({ g with preds := ts.pred }.setEntry (e.returned ts)).entry? e.id = some (e.returned ts) :=
      Group.entry?_setEntry { g with preds := ts.pred } (e.returned ts) e0 entry
    exact ⟨_, _, Core.group?_setGroup_self .., rfl, back, rfl, rfl, rfl, rfl⟩
  · exact KMap.get?_del_self ..
  · rw [Core.leaveHandler, Core.readLoc_setGroup, Core.freeTrap_readLoc_ne k other]

end Sys2Proof.Proofs
end

section
/-! PROOFS. Commands of the queues: the journal, the start of launches, the commands that act on a launch, completion records, kills
and doorbells (R334-R351, R435-R439, R448, R449). -/

namespace Sys2Proof.Machine

/-! ## Entries of the journal (R448, R449) -/

theorem length_padWords (n : Nat) (ws : List W64) : (padWords n ws).length = n := by
  rw [padWords, List.length_take, List.length_append, List.length_replicate]
  exact Nat.min_eq_left (Nat.le_add_left ..)

theorem JEntry.length_words (e : JEntry) : e.words.length = 31 := by
  simp only [JEntry.words, List.length_append, length_padWords, List.length_cons, List.length_nil, List.length_replicate]

theorem JEntry.length_bytes (e : JEntry) : e.bytes.length = 256 := by
  have each : ∀ ws : List W64, (ws.flatMap fun w => leBytes 8 w.toNat).length = ws.length * 8 := by
    intro ws
    induction ws with
    | nil => rfl
    | cons w t ih => rw [List.flatMap_cons, List.length_append, leBytes_length, ih, List.length_cons, Nat.succ_mul, Nat.add_comm]
  rw [JEntry.bytes, each, List.length_append, e.length_words]
  rfl

/-- A state that differs from `s` in memory and its poison alone. -/
def SameButMemory (s t : State) : Prop := ∃ m p, t = { s with mem := m, poison := p }

theorem SameButMemory.refl (s : State) : SameButMemory s s := ⟨_, _, rfl⟩

theorem SameButMemory.trans {a b c : State} : SameButMemory a b → SameButMemory b c → SameButMemory a c := by
  rintro ⟨_, _, rfl⟩ ⟨_, _, rfl⟩
  exact ⟨_, _, rfl⟩

theorem State.journalPut_same (s : State) (b : Nat) (e : JEntry) : SameButMemory s (s.journalPut b e) := by
  unfold journalPut
  dsimp only
  split
  · exact .refl s
  · exact ⟨_, _, rfl⟩

theorem State.foldl_journalPut_same (e : JEntry) (bases : List Nat) :
    ∀ s : State, SameButMemory s (bases.foldl (fun s b => s.journalPut b e) s) := by
  induction bases with
  | nil => exact .refl
  | cons b t ih => exact fun s => (s.journalPut_same b e).trans (ih _)

theorem State.journalPut_mem (s : State) (b : Nat) (e : JEntry) : (s.journalPut b e).mem
    = if s.lostHome (journalPlace b e.seq) then s.mem else Memory.write s.mem (journalPlace b e.seq) e.bytes := by
  unfold journalPut
  dsimp only
  split <;> rfl

theorem State.journalPut_byte_same {s : State} {b : Nat} {e : JEntry} (here : s.lostHome (journalPlace b e.seq) = false) {i : Nat}
    (inside : i < 256) : Memory.byte (s.journalPut b e).mem (journalPlace b e.seq + i) = getAt e.bytes i 0 := by
  have fits : i < e.bytes.length := e.length_bytes.symm ▸ inside
  rw [State.journalPut_mem, if_neg (Bool.eq_false_iff.mp here), Memory.byte_write_in _ _ _ _ fits, getAt,
    List.getElem?_eq_getElem fits, Option.getD_some]

/-- A byte of an entry's place lies below the place of the same entry in a copy that starts 1 MB or more above. -/
theorem journalPlace_lt {b b' seq i : Nat} (below : b + 2 ^ 20 ≤ b') (ring : 256 * (seq % 4096) + 256 ≤ 2 ^ 20) (inside : i < 256) :
    journalPlace b seq + i < journalPlace b' seq :=
  calc journalPlace b seq + i < b + 256 * (seq % 4096) + 256 := Nat.add_lt_add_left inside _
    _ ≤ b + 2 ^ 20 := (Nat.add_assoc ..).le.trans (Nat.add_le_add_left ring b)
    _ ≤ journalPlace b' seq := below.trans (Nat.le_add_right ..)

theorem journalPlace_le {b b' seq i : Nat} (above : b' + 2 ^ 20 ≤ b) (ring : 256 * (seq % 4096) + 256 ≤ 2 ^ 20) :
    journalPlace b' seq + 256 ≤ journalPlace b seq + i :=
  calc journalPlace b' seq + 256 ≤ b' + 2 ^ 20 := (Nat.add_assoc ..).le.trans (Nat.add_le_add_left ring b')
    _ ≤ b := above
    _ ≤ journalPlace b seq + i := (Nat.le_add_right ..).trans (Nat.le_add_right ..)

theorem State.journalPut_byte_ne {s : State} {b b' : Nat} {e : JEntry} (apart : b' + 2 ^ 20 ≤ b ∨ b + 2 ^ 20 ≤ b') {i : Nat}
    (inside : i < 256) :
    Memory.byte (s.journalPut b' e).mem (journalPlace b e.seq + i) = Memory.byte s.mem (journalPlace b e.seq + i) := by
  have outside : journalPlace b e.seq + i < journalPlace b' e.seq
      ∨ journalPlace b' e.seq + e.bytes.length ≤ journalPlace b e.seq + i := by
    have ring : 256 * (e.seq % 4096) + 256 ≤ 2 ^ 20 := Nat.mul_le_mul_left 256 (Nat.mod_lt e.seq (by decide))
    rw [e.length_bytes]
    exact apart.symm.imp (fun below => journalPlace_lt below ring inside) fun above => journalPlace_le above ring
  rw [State.journalPut_mem]
  split
  · rfl
  · exact Memory.byte_write_out _ _ _ _ outside

/-- The copies of an entry do not disturb each other: a byte that one of them has written stays as written. -/
theorem State.foldl_journalPut_byte {b : Nat} {e : JEntry} {i : Nat} (inside : i < 256) (bases : List Nat) : ∀ s : State,
    s.lostHome (journalPlace b e.seq) = false → (∀ b' ∈ bases, b' = b ∨ b' + 2 ^ 20 ≤ b ∨ b + 2 ^ 20 ≤ b') →
    (b ∈ bases ∨ Memory.byte s.mem (journalPlace b e.seq + i) = getAt e.bytes i 0) →
    Memory.byte (bases.foldl (fun s b => s.journalPut b e) s).mem (journalPlace b e.seq + i) = getAt e.bytes i 0 := by
  induction bases with
  | nil => exact fun s _ _ written => written.resolve_left List.not_mem_nil
  | cons b' t ih =>
    intro s here apart written
    obtain ⟨first, rest⟩ := List.forall_mem_cons.mp apart
    have still : (s.journalPut b' e).lostHome (journalPlace b e.seq) = false := by
      obtain ⟨_, _, eq⟩ := s.journalPut_same b' e
      rw [eq]
      exact here
    refine ih _ still rest ?_
    rcases first with rfl | first
    · exact .inr (State.journalPut_byte_same here inside)
    · rw [State.journalPut_byte_ne first inside]
      rcases written with mem | written
      · have other : b ≠ b' := by
          rintro rfl
          exact first.elim (Nat.not_le_of_lt (Nat.lt_add_of_pos_right (by decide))) (Nat.not_le_of_lt (Nat.lt_add_of_pos_right (by decide)))
        exact .inl ((List.mem_cons.mp mem).resolve_left other)
      · exact .inr written

/-- One more entry of the journal changes memory, its poison and the next number alone. -/
theorem State.journalAdd_eq (s : State) (q op kind index : Nat) (record header : List W64) :
    ∃ m p, s.journalAdd q op kind index record header
      = { s with mem := m, poison := p, fwc := { s.fwc with journalSeq := s.fwc.journalSeq + 1 } } := by
  obtain ⟨m, p, eq⟩ := s.foldl_journalPut_same
    { seq := s.fwc.journalSeq, queue := q, op := op, kind := kind, index := index, record := record, header := header } s.fwc.journalAt
  refine ⟨m, p, ?_⟩
  unfold journalAdd
  dsimp only
  rw [eq]

/-- The state after TAKEN of the command at the read index of a queue that firmware has created. -/
theorem State.takeCommand_eq {s : State} {q : Nat} {x : CmdQueue} (queue : KMap.get? s.dist.queues q = some x) (op index : Nat)
    (header : List W64) : ∃ m p, s.takeCommand q op index header
      = { s with
          mem := m, poison := p, fwc := { s.fwc with journalSeq := s.fwc.journalSeq + 1 }
          dist := { s.dist with queues := KMap.put s.dist.queues q { x with r := index + 1 } } } := by
  obtain ⟨m, p, eq⟩ := s.journalAdd_eq q op 1 index [] header
  refine ⟨m, p, ?_⟩
  unfold takeCommand
  rw [eq]
  dsimp only
  rw [queue]
  rfl

theorem State.takeCommand_mem {s : State} (q op index : Nat) (header : List W64) :
    (s.takeCommand q op index header).mem = (s.journalAdd q op 1 index [] header).mem := by
  unfold takeCommand
  dsimp only
  split <;> rfl

/-! ## The issue of a command -/

section
variable {s : State} {q : Nat} {x : CmdQueue} (turn : s.turn = some (.queue q)) (queue : KMap.get? s.dist.queues q = some x)
include turn queue

theorem cmdIssue_of_queue (op : Nat) (f : State → Nat → Nat → State) :
    cmdIssue s op f = .next { f (if op = 1 then s else s.takeCommand q op x.r []) q x.r with turn := none } := by
  delta cmdIssue
  rw [turn]
  dsimp only
  rw [queue]

theorem cmdIssue_of_launch {f : State → Nat → Nat → State} {u : State} (acts : f s q x.r = u) :
    cmdIssue s 1 f = .next { u with turn := none } := acts ▸ cmdIssue_of_queue turn queue 1 f

theorem cmdIssue_of_taken {op : Nat} (other : op ≠ 1) {f : State → Nat → Nat → State} {u : State}
    (acts : f (s.takeCommand q op x.r []) q x.r = u) : cmdIssue s op f = .next { u with turn := none } := by
  have issued := cmdIssue_of_queue turn queue op f
  rw [if_neg other, acts] at issued
  exact issued

end

end Sys2Proof.Machine

namespace Sys2Proof.Statements

open Sys2Proof.Machine

theorem takingACommandMovesTheReadIndex : TakingACommandMovesTheReadIndex := by
  intro s q op x header queue t e
  obtain ⟨m, p, eq⟩ := State.takeCommand_eq queue op x.r header
  have taken : t = _ := eq
  refine ⟨?_, ?_, e.length_bytes, fun b copy here apart i inside => ?_⟩
  · rw [taken]
    exact KMap.get?_put_self ..
  · rw [taken]
  · show Memory.byte (s.takeCommand q op x.r header).mem _ = _
    rw [State.takeCommand_mem]
    exact State.foldl_journalPut_byte inside _ s here apart (.inl copy)

theorem launchCompletes : LaunchCompletes := by
  intro s s1 q x c ws turn queue ok part read t part' fresh sound
  have done : s.doLaunch q x.r c = (t.startLaunch q x.r ⟨ws⟩ c.done).handCommand q 1 x.r := by
    rw [State.doLaunch, ok, part, read]
    show t.launchWith q x.r c (some ws) = _
    rw [State.launchWith, ok, part']
    show t.handLaunch q x.r ⟨ws⟩ c.done = _
    rw [State.handLaunch, fresh, sound]
    rfl
  exact cmdIssue_of_launch turn queue (f := fun s q i => s.doLaunch q i c) done

/-- A `SELHAM` whose block the loader passes is accepted once one that waited already has ended (`u`). -/
theorem State.doSelham_of_loaded {t u : State} {q i : Nat} {c : Cmd} {y : SelLoad} (ok : cmdOk q 2 c = true)
    (part : t.wrongPart = false) (loaded : t.loadSelham (q / 8) q i c.addr.toNat c.done = .ok y) (domain : t.noDomain (q / 8) = false)
    (fresh : t.isHanded q i = false)
    (ended : (match t.sel.running, t.sel.next with
      | true, some z => t.endCommand z.queue z.index 1 0 0 0 z.cdone
      | _, _ => t) = u) : t.doSelham q i c = (u.acceptSelham y).handCommand q 2 i := by
  rw [State.doSelham, ok, part, loaded, domain, fresh, ← ended]
  rfl

theorem State.acceptSelham_of_idle {u : State} {y : SelLoad} (idle : u.sel.running = false) : u.acceptSelham y = u.startSelham y :=
  if_neg (Bool.eq_false_iff.mp idle)

theorem State.acceptSelham_of_running {u : State} {y : SelLoad} (runs : u.sel.running = true) :
    u.acceptSelham y = u.setSel { u.sel with next := some y, stopping := true } := if_pos runs

theorem selhamCompletes : SelhamCompletes := by
  rintro s t q x c y ⟨turn, queue, taken⟩ ok part loaded domain fresh
  have acts : ∀ {u v : State}, t.doSelham q x.r c = (u.acceptSelham y).handCommand q 2 x.r → u.acceptSelham y = v →
      exec (.selham c) s = .next { v.handCommand q 2 x.r with turn := none } := fun done accepted =>
    cmdIssue_of_taken turn queue (by decide) (f := fun s q i => s.doSelham q i c) (taken ▸ (accepted ▸ done))
  refine ⟨fun idle => ?_, fun runs waits => ?_, fun z runs waits => ?_⟩
  · refine acts (State.doSelham_of_loaded ok part loaded domain fresh ?_) (State.acceptSelham_of_idle idle)
    rw [idle]
  · refine acts (State.doSelham_of_loaded ok part loaded domain fresh ?_) (State.acceptSelham_of_running runs)
    rw [runs, waits]
  · intro u
    refine acts (State.doSelham_of_loaded (u := u) ok part loaded domain fresh ?_) (State.acceptSelham_of_running runs)
    rw [runs, waits]

/-! ## Commands that act on a launch, waits and invalidations -/

theorem State.onTarget_of_ready {t : State} {q op index low l : Nat} {c : Cmd} (ok : cmdOk q op c = true)
    (target : t.target q index low = some l) (domain : t.noDomain (q / 8) = false) (fresh : t.isHanded q index = false)
    (f : State → Nat → State) : t.onTarget q op index low c f = (f t l).handCommand q op index := by
  rw [State.onTarget, ok, target, domain, fresh]
  rfl

theorem launchCommandsComplete : LaunchCommandsComplete := by
  rintro s q l x c ⟨turn, queue⟩ t ready done
  refine ⟨?prio, ?preempt, ?resume⟩
  case prio =>
    rintro ⟨ok, target, domain, fresh⟩
    exact cmdIssue_of_taken turn queue (by decide) (f := fun s q i => s.doPrio q i c)
      (State.onTarget_of_ready ok target domain fresh _)
  case preempt =>
    rintro ⟨ok, target, domain, fresh⟩
    exact cmdIssue_of_taken turn queue (by decide) (f := fun s q i => s.doPreempt q i c)
      (State.onTarget_of_ready ok target domain fresh _)
  case resume =>
    rintro ⟨ok, target, domain, fresh⟩
    exact cmdIssue_of_taken turn queue (by decide) (f := fun s q i => s.doResume q i c)
      (State.onTarget_of_ready ok target domain fresh _)

/-- The facts of a state that taking a command leaves as they were, and the queue that it moves on. -/
theorem State.takeCommand_facts {s : State} {q : Nat} {x : CmdQueue} (queue : KMap.get? s.dist.queues q = some x) (op index : Nat)
    (header : List W64) :
    let t := s.takeCommand q op index header
    KMap.get? t.dist.queues q = some { x with r := index + 1 } ∧ t.dist.launches = s.dist.launches
      ∧ (∀ v, t.noDomain v = s.noDomain v) ∧ ∀ i, t.isHanded q i = s.isHanded q i := by
  obtain ⟨m, p, eq⟩ := State.takeCommand_eq queue op index header
  intro t
  rw [show t = _ from eq]
  exact ⟨KMap.get?_put_self .., rfl, fun _ => rfl, fun _ => rfl⟩

theorem waitAndInvalidateComplete : WaitAndInvalidateComplete := by
  rintro s q x c ⟨turn, queue⟩ owned y
  refine ⟨?wait, ?tlbinv⟩
  case wait =>
    intro ok t all
    obtain ⟨moved, launches, domain, _⟩ := State.takeCommand_facts queue 6 x.r []
    have owns : ¬ (decide (q < 1016) && t.noDomain (q / 8)) = true := by
      rw [domain]
      simpa using owned
    have waits : KMap.get? (t.setQueue q { y with waiting := some c.done }).dist.queues q = some { y with waiting := some c.done } :=
      KMap.get?_put_self ..
    have written : (t.setQueue q { y with waiting := some c.done }).dist.launches = s.dist.launches := launches
    have settled : t.doWait q x.r c = if all then
        ((t.setQueue q { y with waiting := some c.done }).setQueue q { y with waiting := none }).endCommand q x.r 1 0 0 0 c.done
      else t.setQueue q { y with waiting := some c.done } := by
      rw [State.doWait, ok, if_neg (by decide), if_neg owns, moved]
      show State.settleWait _ q = _
      rw [State.settleWait, waits]
      show (if _ then _ else _) = _
      rw [written]
      rfl
    exact cmdIssue_of_taken turn queue (by decide) (f := fun s q i => s.doWait q i c) settled
  case tlbinv =>
    intro ok fresh t v page hit
    obtain ⟨_, _, domain, handed⟩ := State.takeCommand_facts queue 7 x.r []
    have owns : ¬ (decide (q < 1016) && t.noDomain (q / 8)) = true := by
      rw [domain]
      simpa using owned
    have count : bits c.arg.toNat 31 0 = c.arg.toNat % 2 ^ 32 := by simp [bits_eq_div_mod]
    have dropped : t.doTlbinv q x.r c = ((t.dropTlb hit).handCommand q 7 x.r).endCommand q x.r 1 0 0 0 c.done := by
      rw [State.doTlbinv, ok, count, handed, fresh]
      dsimp only
      rw [if_neg (by decide), if_neg owns, if_neg (by decide)]
    exact cmdIssue_of_taken turn queue (by decide) (f := fun s q i => s.doTlbinv q i c) dropped

/-! ## Completion records, kills and doorbells -/

/-- BUSY of FWC_KILL is still needed. -/
theorem State.settleKill_kill (s : State) : s.settleKill.fwc.kill = (if s.sel.killed = true
    ∨ (∃ e ∈ s.dist.launches, e.2.killed = some 0 ∧ e.2.written = false)
    ∨ (∃ c ∈ s.dist.completions, c.status = 4 ∧ c.cause = 0) then s.fwc.kill else s.fwc.kill &&& 0xFFFFFFFFFFFFFFFD) := by
  unfold State.settleKill
  simp only [Bool.or_eq_true, List.any_eq_true, Bool.and_eq_true, decide_eq_true_eq, Bool.not_eq_true', or_assoc]
  split <;> rfl

theorem completionRecordsComplete : CompletionRecordsComplete := by
  intro s c rest first stamped up made
  refine ⟨?_, State.settleKill_kill⟩
  show execLaunchCompletion c.queue c.index s = _
  rw [execLaunchCompletion, first]
  dsimp only
  rw [if_neg (by simp [up, made, Option.isSome_iff_ne_none.mp stamped])]

section
variable {s : State} (booted : s.booted = true)
include booted

theorem execContextKill_of_busy (busy : s.killBusy = true) (q : Nat) (index : BitVec 16) : execContextKill q index s = .next s := by
  rw [execContextKill, if_neg (by simp [booted]), if_pos busy]

theorem execKillAll_of_busy (busy : s.killBusy = true) {q : Nat} (few : q < 1024) : execKillAll q s = .next s := by
  rw [execKillAll, if_neg (by simp [booted, few]), if_pos busy]

variable (idle : s.killBusy = false)
include idle

theorem execContextKill_of_target {q : Nat} {index : BitVec 16} {l : Nat} (target : s.killTarget q index.toNat = some l) :
    execContextKill q index s = .next ((s.setKill (killWord q index.toNat false)).killLaunch l 0).settleKill := by
  rw [execContextKill, if_neg (by simp [booted]), if_neg (Bool.eq_false_iff.mp idle), target]

theorem execContextKill_of_no_target {q : Nat} {index : BitVec 16} (target : s.killTarget q index.toNat = none) :
    execContextKill q index s = .next s.killNotice := by
  rw [execContextKill, if_neg (by simp [booted]), if_neg (Bool.eq_false_iff.mp idle), target]

theorem execKillAll_of_idle {q : Nat} (few : q < 1024) :
    execKillAll q s = .next (s.killAll q (bits s.fwc.kill.toNat 47 32)) := by
  rw [execKillAll, if_neg (by simp [booted, few]), if_neg (Bool.eq_false_iff.mp idle)]

end

theorem killsComplete : KillsComplete := by
  intro s q index booted word
  refine ⟨fun busy => ⟨execContextKill_of_busy booted busy q index, execKillAll_of_busy booted busy⟩,
    fun idle => ⟨fun _ => execContextKill_of_target booted idle, execContextKill_of_no_target booted idle,
      execKillAll_of_idle booted idle⟩, fun p waits => ?_⟩
  intro ws t
  have run : execPreemptTimeout q s = .next ((if ws.any fun b => !((s.core b.1).wg b.2).isTask then t.killBound p.launch 1 ws
      else ws.foldl (fun s b => s.killWg b.1 b.2) t).settlePreempts p.launch) := by
    rw [execPreemptTimeout, waits]
  refine ⟨fun own => ?_, fun tasks => ?_⟩
  · have some_ : (ws.any fun b => !((s.core b.1).wg b.2).isTask) = true := by simpa using own
    rw [if_pos some_] at run
    exact run
  · have no : ¬ (ws.any fun b => !((s.core b.1).wg b.2).isTask) = true := by simpa using tasks
    rw [if_neg no] at run
    exact run

theorem doorbellCompletes : DoorbellCompletes := by
  intro s v k w vf own q
  have rung : exec (.doorbell v k w) s = .next (s.ringDoorbell v k w) := by
    show execDoorbell v k w s = _
    rw [execDoorbell, if_pos (by simp [vf, own])]
  refine ⟨fun none_ => ?_, fun x queue => ?_⟩
  · rw [rung, State.ringDoorbell]
    dsimp only
    rw [none_]
  · refine ⟨_, rung, ?_⟩
    rw [State.ringDoorbell]
    dsimp only
    rw [queue]
    exact ⟨KMap.get?_put_self .., KMap.getD_put_self .., fun j other => KMap.get?_put_ne _ _ other⟩

end Sys2Proof.Statements

namespace Sys2Proof.Proofs

open Sys2Proof.Statements

/-- Settles O39: taking a command changes memory, the journal's number and the queue alone, and the two copies of an entry do not
overlap; a launch that passes the judgement starts. -/
theorem commandsAreTakenAndStart : Obligations.CommandsAreTakenAndStart :=
  ⟨takingACommandMovesTheReadIndex, launchCompletes, selhamCompletes⟩

/-- Settles O40: a command runs on the state in which it is taken, whose launches and virtual functions are as before. -/
theorem queueCommandsComplete : Obligations.QueueCommandsComplete := ⟨launchCommandsComplete, waitAndInvalidateComplete⟩

/-- Settles O41, by the branches of the events. -/
theorem recordsKillsAndDoorbellsComplete : Obligations.RecordsKillsAndDoorbellsComplete :=
  ⟨completionRecordsComplete, killsComplete, doorbellCompletes⟩

end Sys2Proof.Proofs
end

section
/-! PROOFS. A `SELHAM` command that starts (R350): the statement that settles it, applied to the state of its test. -/

namespace Sys2Proof.Tests

open Sys2Proof.Machine Sys2Proof.Statements

theorem selReady_cases {s : State} {p : State → SelLoad → Bool} (ready : selReady s p = true) :
    let t := s.takeCommand 0 2 5 []
    cmdOk 0 2 (cmdOf 0) = true ∧ t.wrongPart = false ∧ t.noDomain 0 = false ∧ t.isHanded 0 5 = false
      ∧ ∃ y, t.loadSelham 0 0 5 0x8000 0x9000 = .ok y ∧ p t y = true := by
  intro t
  rw [selReady, Bool.and_eq_true, Bool.and_eq_true, Bool.and_eq_true, Bool.and_eq_true, Bool.not_eq_true', Bool.not_eq_true',
    Bool.not_eq_true'] at ready
  obtain ⟨⟨⟨⟨ok, part⟩, domain⟩, fresh⟩, loaded⟩ := ready
  split at loaded
  next y block => exact ⟨ok, part, domain, fresh, y, block, loaded⟩
  next => cases loaded

/-- In the test's state, where no Selham launch runs, the block of the command passes every check of R350. -/
theorem selham_block_passes_all_checks_when_nothing_runs :
    let t := mQueue.takeCommand 0 2 5 []
    cmdOk 0 2 (cmdOf 0) = true ∧ t.wrongPart = false ∧ t.noDomain 0 = false ∧ t.isHanded 0 5 = false
      ∧ ∃ y, t.loadSelham 0 0 5 0x8000 0x9000 = .ok y ∧ (!t.sel.running) = true := selReady_cases witness_selham.1

end Sys2Proof.Tests

namespace Sys2Proof.Statements

open Sys2Proof.Machine Sys2Proof.Tests

/-- The hypotheses of `SelhamCompletes` are met: in the test's state, where no Selham launch runs, the command starts one. -/
theorem selham_starts_of_idle : ∃ y, exec (.selham (cmdOf 0)) mQueue
    = .next { ((mQueue.takeCommand 0 2 5 []).startSelham y).handCommand 0 2 5 with turn := none } := by
  obtain ⟨ok, part, domain, fresh, y, loaded, idle⟩ := selham_block_passes_all_checks_when_nothing_runs
  exact ⟨y, (selhamCompletes mQueue _ 0 queue0 (cmdOf 0) y (witness_commandTaken 2) ok part loaded domain fresh).1
    ((Bool.not_eq_true' _).mp idle)⟩

end Sys2Proof.Statements
end

section
/-! PROOFS. Die links and router links: receiving, acknowledgement and replay, links that go out of service and come back
(R272, R273, R423, R424, R441). -/

namespace Sys2Proof.Machine

/-! ## Die links at work (R272, R273) -/

section
variable {s : State} {link : Nat} {dir : Bool} {l : LinkDir} (up : s.linkDir link dir = some l)
include up

section
variable {c : CFlit} {rest : List CFlit} {e : W32} (wire : l.wire = c :: rest)
include wire

theorem execDieLinkFlitReceive_of_bad_crc (bad : c.crc ^^^ e ≠ linkCrc c.seq c.syms) :
    execDieLinkFlitReceive link dir e s = .next (s.setLink (linkDirPos link dir) { l with wire := rest, nak := true }) := by
  rw [execDieLinkFlitReceive, up]
  dsimp only
  rw [wire]
  exact if_pos bad

variable (good : c.crc ^^^ e = linkCrc c.seq c.syms)
include good

theorem execDieLinkFlitReceive_of_other (other : c.seq ≠ l.recvSeq % 256) :
    execDieLinkFlitReceive link dir e s = .next (s.setLink (linkDirPos link dir) { l with wire := rest }) := by
  rw [execDieLinkFlitReceive, up]
  dsimp only
  rw [wire]
  exact (if_neg (not_not.mpr good)).trans (if_pos other)

theorem execDieLinkFlitReceive_of_next (next : c.seq = l.recvSeq % 256) :
    execDieLinkFlitReceive link dir e s =
      let t := applyOldest l.recvTable l.recvPend
      let crcOf := fun (ws : List W32) => BitVec.ofNat 16 (crc16 (ws.flatMap fun w => leBytes 4 w.toNat))
      .next ((s.setLink (linkDirPos link dir) { l with
        wire := rest, recvTable := t.1, recvPend := t.2 ++ [c.syms], recvSeq := l.recvSeq + 1 }).arriveDie l.dst l.src
        { c.flit with crc := c.flit.crc ^^^ crcOf c.words ^^^ crcOf (c.syms.map (decodeSym t.1)) } c.stamp) := by
  rw [execDieLinkFlitReceive, up]
  dsimp only
  rw [wire]
  exact (if_neg (not_not.mpr good)).trans (if_neg (not_not.mpr next))

end

theorem execDieLinkAck_of_ackable (some_ : l.ackable ≠ 0) : execDieLinkAck link dir s = .next (s.setLink (linkDirPos link dir)
    ({ l with replay := l.replay.drop l.ackable, lastAck := s.clk.fabric, resends := 0 }.pump)) := by
  rw [execDieLinkAck, up]
  exact if_neg some_

theorem execDieLinkNak_of_nak (asked : l.nak = true) : execDieLinkNak link dir s = .next (s.replay link dir l) := by
  rw [execDieLinkNak, up]
  exact if_pos asked

theorem execDieLinkReplayTimeout_of_late (held : l.replay ≠ []) (late : l.lastAck + 512 ≤ s.clk.fabric) :
    execDieLinkReplayTimeout link dir s = .next (s.replay link dir l) := by
  rw [execDieLinkReplayTimeout, up]
  exact if_neg (by simp [held, late])

end

/-! ## Links out of service (R423, R424) -/

/-- The state in which port `p` of router `r` of die `d` has gone down, with its event. -/
def State.portDown (s : State) (d r p : Nat) : State :=
  (s.setDie d ((s.die d).setRLink (8 * r + p) { (s.die d).link (8 * r + p) with down := true })).raise (srcRouter d r)
    (routerEvent d r codeLinkDown 1)

section
variable {s : State} {d r p : Nat} (compute : d < 4) (router : r < 16) (up : ((s.die d).link (8 * r + p)).down = false)
  (worn : (s.die d).failed (8 * r + p) = true)
include compute router up worn

theorem execLinkDown_of_worn (mesh : p < 7 ∨ (p = 7 ∧ r % 4 ≠ 3)) : execLinkDown d r p s =
    let t := s.portDown d r p
    if p < 3 then .next ((t.setDie d { t.die d with
      flits := (t.die d).flits.filter fun f => decide (f.via ≠ 8 * r + p) }).loseCore (48 * d + 12 * (r / 4) + 3 * (r % 4) + p))
    else if p = 3 then .next (t.loseDie d)
    else .next ((t.setDie d { t.die d with flits := (t.die d).flits.map fun f =>
      if f.via = 8 * r + p then { f with router := r, via := f.src, resends := 0 } else f }).reroute d) := by
  have port : p < 8 ∧ ¬ (p = 7 ∧ r % 4 = 3) := by
    obtain below | ⟨rfl, inner⟩ := mesh
    · exact ⟨below.trans (by decide), fun outer => below.ne outer.1⟩
    · exact ⟨by decide, fun outer => inner outer.2⟩
  unfold execLinkDown
  dsimp only
  rw [if_neg (by simpa [compute, router, up, worn] using port)]
  rfl

end

/-- A direction of a die link that is out of service. -/
def State.linkDown (s : State) (q : Nat) : Prop := ∃ l, s.dlinks[q]? = some l ∧ l.down = true

theorem LinkDir.pump_down (l : LinkDir) : l.pump.down = l.down := by
  have sent : ∀ (fs : List (Flit × List Nat)) (a : LinkDir), (fs.foldl (fun a x => a.sendOne x.1 x.2) a).down = a.down := by
    intro fs
    induction fs with
    | nil => exact fun _ => rfl
    | cons f t ih => exact fun a => (ih _).trans rfl
  exact sent _ l

theorem getElem?_setAt_self {α : Type} (v w : α) (l : List α) : ∀ i : Nat, l[i]? = some w → (setAt l i v)[i]? = some v := by
  induction l with
  | nil => exact nofun
  | cons x t ih =>
    rintro (_ | i) here
    · rfl
    · exact ih i here

theorem getElem?_setAt_ne {α : Type} (v : α) (l : List α) : ∀ i j : Nat, j ≠ i → (setAt l i v)[j]? = l[j]? := by
  induction l with
  | nil => exact fun _ _ _ => rfl
  | cons x t ih =>
    rintro (_ | i) (_ | j) other
    · exact absurd rfl other
    · rfl
    · rfl
    · exact ih i j fun same => other (congrArg (· + 1) same)

theorem State.linkSend_linkDown {s : State} {q : Nat} (down : s.linkDown q) (d e : Nat) (f : Flit) (stamp : List Nat) :
    (s.linkSend d e f stamp).linkDown q := by
  obtain ⟨l, here, out⟩ := down
  unfold linkSend
  split
  · exact ⟨l, here, out⟩
  next i _ =>
    split
    · exact ⟨l, here, out⟩
    next l' there =>
      by_cases same : q = i
      · subst same
        obtain rfl : l = l' := Option.some.inj (here.symm.trans there)
        refine ⟨_, getElem?_setAt_self _ l _ _ here, ?_⟩
        rw [LinkDir.pump_down]
        show (if _ then _ else _ : LinkDir).down = true
        split <;> exact out
      · exact ⟨l, (getElem?_setAt_ne _ _ _ _ same).trans here, out⟩

theorem State.switchPath_linkDown {s : State} {q : Nat} (down : s.linkDown q) (l : LinkDir) : (s.switchPath l).linkDown q := by
  have sent : ∀ (fs : List (Flit × List Nat)) (u : State), u.linkDown q →
      (fs.foldl (fun s f => s.linkSend l.src f.1.dstDie f.1 f.2) u).linkDown q := by
    intro fs
    induction fs with
    | nil => exact fun _ => id
    | cons f t ih => exact fun u down => ih _ (State.linkSend_linkDown down ..)
  have moved := sent l.undelivered s down
  unfold switchPath
  dsimp only
  split
  · exact moved
  · exact State.linkSend_linkDown (s := State.setDie _ _ _) moved ..

/-- The state in which both directions of a die link are cut, with their event. -/
def State.linkCut (s : State) (n : Nat) (a b : LinkDir) : State :=
  ((s.setLink (2 * n) a.cut).setLink (2 * n + 1) b.cut).raise (srcLink n 0)
    { Event.blank with code := codeLinkDown, cls := 1, block := 4, die := a.src, unit := n }

theorem State.linkCut_first {s : State} {n : Nat} {a : LinkDir} (first : s.dlinks[2 * n]? = some a) (b : LinkDir) :
    (s.linkCut n a b).dlinks[2 * n]? = some a.cut :=
  (getElem?_setAt_ne _ _ _ _ (by omega)).trans (getElem?_setAt_self _ a _ _ first)

theorem State.linkCut_second {s : State} {n : Nat} {b : LinkDir} (second : s.dlinks[2 * n + 1]? = some b) (a : LinkDir) :
    (s.linkCut n a b).dlinks[2 * n + 1]? = some b.cut :=
  getElem?_setAt_self _ b _ _ ((getElem?_setAt_ne _ _ _ _ (by omega)).trans second)

section
variable {s : State} {n : Nat} {a b : LinkDir} (first : s.dlinks[2 * n]? = some a) (second : s.dlinks[2 * n + 1]? = some b)
include first second

theorem execDieLinkDown_of_worn (up : a.down = false) (worn : 16 ≤ a.resends ∨ 16 ≤ b.resends) : execDieLinkDown n s =
    let u := ((s.linkCut n a b).switchPath a).switchPath b
    .next (([a.src, a.dst].filter fun d => decide (d < 4) && u.cutOff d && !(u.die d).lost).foldl (fun v d => v.loseDie d) u) := by
  unfold execDieLinkDown
  rw [first, second]
  exact if_neg (by simp [up]; omega)

theorem execLinkRetrain_of_drained (out : a.down = true) (src : (s.die a.src).lost = false) (dst : (s.die a.dst).lost = false)
    (srcDrained : (s.die a.src).flits = []) (dstDrained : (s.die a.dst).flits = []) (r p : Nat) :
    execLinkRetrain true n r p s
      = .next ((s.setLink (2 * n) (LinkDir.reset a.src a.dst)).setLink (2 * n + 1) (LinkDir.reset b.src b.dst)) := by
  unfold execLinkRetrain
  rw [if_pos rfl, first, second]
  exact if_neg (by simp [out, src, dst, srcDrained, dstDrained])

end

end Sys2Proof.Machine

namespace Sys2Proof.Statements

open Sys2Proof.Machine

theorem dieLinkStepsComplete : DieLinkStepsComplete := by
  intro s link dir l up p
  refine ⟨fun c rest e wire => ⟨execDieLinkFlitReceive_of_bad_crc up wire, fun good =>
      ⟨execDieLinkFlitReceive_of_other up wire good, fun next => ?_⟩⟩,
    execDieLinkAck_of_ackable up, execDieLinkNak_of_nak up, execDieLinkReplayTimeout_of_late up⟩
  intro t words crcOf u
  have taken := execDieLinkFlitReceive_of_next up wire good next
  refine ⟨taken, fun same => taken.trans ?_⟩
  have crc : c.flit.crc ^^^ crcOf c.words ^^^ crcOf words = c.flit.crc := by
    rw [same, BitVec.xor_assoc, BitVec.xor_self, BitVec.xor_zero]
  refine congrArg (fun f => Host.Outcome.next (u.arriveDie l.dst l.src f c.stamp)) ?_
  show ({ c.flit with crc := c.flit.crc ^^^ crcOf c.words ^^^ crcOf words } : Flit) = c.flit
  rw [crc]

theorem linkFailuresComplete : LinkFailuresComplete := by
  intro s d r p x l down
  refine ⟨fun compute router up worn => ?_, fun up many => ?_, fun port out drained => ?_⟩
  · have failed : x.failed (8 * r + p) = true := by simpa [Die.failed] using worn
    refine ⟨fun small => ?_, fun slice => ?_, fun mesh other => ?_⟩
    · exact (execLinkDown_of_worn compute router up failed (.inl (small.trans (by decide)))).trans (if_pos small)
    · exact (execLinkDown_of_worn compute router up failed (.inl (slice ▸ by decide))).trans
        ((if_neg slice.ge.not_gt).trans (if_pos slice))
    · exact (execLinkDown_of_worn compute router up failed other).trans
        ((if_neg (Nat.le_of_succ_le mesh).not_gt).trans (if_neg (Nat.ne_of_gt mesh)))
  · intro src
    show execLinkRetry d r p s = _
    unfold execLinkRetry
    dsimp only
    rw [if_neg (by simpa [x, l, up] using many)]
    show Host.Outcome.next (State.raise _ src (if src < 300 then _ else _)) = _
    split <;> rfl
  · show execLinkRetrain false d r p s = _
    unfold execLinkRetrain
    dsimp only
    rw [if_neg Bool.false_ne_true, if_neg (by simp [x, l, out, drained]; omega)]

theorem dieLinkOutOfServiceCompletes : DieLinkOutOfServiceCompletes := by
  intro s n r p a b first second
  refine ⟨fun up worn => ?_, fun out src dst srcDrained dstDrained =>
    execLinkRetrain_of_drained first second out src dst srcDrained dstDrained r p⟩
  intro cut told moved u lost
  have left := State.linkCut_first first b
  have right := State.linkCut_second second a
  refine ⟨execDieLinkDown_of_worn first second up worn, ⟨left, right⟩, fun q ends => ?_, rfl⟩
  have down : (s.linkCut n a b).linkDown q := by
    rcases ends with rfl | rfl
    · exact ⟨_, left, rfl⟩
    · exact ⟨_, right, rfl⟩
  exact State.switchPath_linkDown (State.switchPath_linkDown down a) b

end Sys2Proof.Statements

namespace Sys2Proof.Proofs

open Sys2Proof.Statements

/-- Settles O44, by the branches of the events; a link that is cut stays so while its traffic goes over the new path
(`State.linkSend_linkDown`). -/
theorem linkStepsComplete : Obligations.LinkStepsComplete :=
  ⟨dieLinkStepsComplete, linkFailuresComplete, dieLinkOutOfServiceCompletes⟩

end Sys2Proof.Proofs
end

section
/-! PROOFS. The debugger's operations, register writes and the answers to stage-2 faults (R277, R382-R384, R408, R455). -/

namespace Sys2Proof.Machine

/-! ## The debugger's operations (R382-R384) -/

section
variable {s : State} {c : Nat}

theorem execDebug_of_pending (pending : (s.core c).dbgStatus = 3) (slot frag : Nat) (gent : Bool) :
    execDebugStop c slot s = .next s ∧ execDebugResume c slot s = .next s ∧ execDebugStepGroup c slot s = .next s
      ∧ execDebugStepEntry c slot gent frag s = .next s := by
  have deaf : s.dbgIgnores c = true := decide_eq_true pending
  exact ⟨if_pos deaf, if_pos deaf, if_pos deaf, if_pos deaf⟩

variable (heard : (s.core c).dbgStatus ≠ 3)
include heard

theorem State.dbgIgnores_eq_false : ¬ s.dbgIgnores c = true := by simp [dbgIgnores, heard]

theorem execDebugStepGroup_of_heard (slot : Nat) : execDebugStepGroup c slot s = .next (s.stepEntries c slot fun _ => true) :=
  if_neg (State.dbgIgnores_eq_false heard)

section
variable {slot : Nat} (empty : ((s.dbgSlot c slot).core c).group? slot = none)
include empty

theorem execDebugStop_of_none : execDebugStop c slot s = .next (s.dbgSlot c slot) := by
  rw [execDebugStop, if_neg (State.dbgIgnores_eq_false heard)]
  dsimp only
  rw [empty]

theorem execDebugResume_of_none : execDebugResume c slot s = .next (s.dbgSlot c slot) := by
  rw [execDebugResume, if_neg (State.dbgIgnores_eq_false heard)]
  dsimp only
  rw [empty]

end

section
variable {slot : Nat} {g : Group} (group : ((s.dbgSlot c slot).core c).group? slot = some g)
include group

theorem execDebugStop_of_group : execDebugStop c slot s = if g.dbg = .running then
    .next ((s.dbgSlot c slot).setGroup c slot { g with dbg := .stopPending }) else .next (s.dbgSlot c slot) := by
  rw [execDebugStop, if_neg (State.dbgIgnores_eq_false heard)]
  dsimp only
  rw [group]

theorem execDebugResume_of_group : execDebugResume c slot s = if g.dbg = .stopped then
    .next ((s.dbgSlot c slot).setGroup c slot { g.pastBkpt (fun _ => true) with dbg := .running })
      else .next (s.dbgSlot c slot) := by
  rw [execDebugResume, if_neg (State.dbgIgnores_eq_false heard)]
  dsimp only
  rw [group]

end

end

section
variable {s : State} {c slot : Nat}

theorem State.stepEntries_of_none (empty : ((s.dbgSlot c slot).core c).group? slot = none) (pick : EntId → Bool) :
    s.stepEntries c slot pick = s.dbgSlot c slot := by
  rw [stepEntries, empty]

variable {g : Group} (group : ((s.dbgSlot c slot).core c).group? slot = some g)
include group

theorem State.stepEntries_of_running (other : g.dbg ≠ .stopped) (pick : EntId → Bool) :
    s.stepEntries c slot pick = s.dbgSlot c slot := by
  rw [stepEntries, group]
  exact if_pos other

theorem State.stepEntries_all (stopped : g.dbg = .stopped) :
    s.stepEntries c slot (fun _ => true) =
      let g' := { g.pastBkpt (fun _ => true) with dbg := .stepping }
      { (s.dbgSlot c slot).setGroup c slot g' with
        agenda := (g'.entryOrder.map fun id => .entry c slot id) ++ .stepEnd c slot :: (s.dbgSlot c slot).agenda } := by
  rw [stepEntries, group]
  refine (if_neg (not_not.mpr stopped)).trans ?_
  dsimp only
  rw [List.filter_true]

end

/-! ## Registers -/

theorem State.head_setHead {s : State} {h : Nat} (x : Head) (stands : h < s.sel.heads.length) : (s.setHead h x).head h = x :=
  getAt_setAt_self x Head.reset s.sel.heads h stands

/-- A write that does not start a kill leaves the other fields of FWC_KILL as written, BUSY as it was. -/
theorem State.writeKill_of_no_go {s : State} {w : W64} (go : w.getLsbD 0 = false) :
    s.writeKill w = s.setKill ((w &&& 0x0000FFFFFFE00000) ||| (s.fwc.kill &&& 2)) := by
  rw [writeKill]
  have still : bit w.toNat 0 = false := go
  exact if_pos (by rw [still]; rfl)

end Sys2Proof.Machine

namespace Sys2Proof.Statements

open Sys2Proof.Machine

theorem debuggerStepsComplete : DebuggerStepsComplete := by
  intro s c slot frag gent t u one
  refine ⟨fun pending => execDebug_of_pending pending slot frag gent, fun heard => ⟨?_, fun empty => ?_, fun g group => ?_⟩⟩
  · exact if_neg (State.dbgIgnores_eq_false heard)
  · have step := execDebugStepGroup_of_heard heard slot
    rw [State.stepEntries_of_none empty] at step
    exact ⟨execDebugStop_of_none heard empty, execDebugResume_of_none heard empty, step⟩
  · have stop := execDebugStop_of_group heard group
    have resume := execDebugResume_of_group heard group
    have step := execDebugStepGroup_of_heard heard slot
    refine ⟨fun running => stop.trans (if_pos running), fun still => stop.trans (if_neg still), fun stopped => ?_, fun going => ?_⟩
    · rw [State.stepEntries_all group stopped] at step
      exact ⟨resume.trans (if_pos stopped), step⟩
    · rw [State.stepEntries_of_running group going] at step
      exact ⟨resume.trans (if_neg going), step⟩

theorem registerWritesComplete : RegisterWritesComplete := by
  intro s reg w stands
  have here : ¬ (!regExists reg) = true := by rw [stands]; decide
  refine ⟨if_neg here, fun v open_ => (if_neg here).trans (if_neg (Bool.eq_false_iff.mp open_)),
    fun v only => (if_neg here).trans (if_pos only), fun pway vfway => (if_neg here).trans ?_, fun d eq => ?_, fun d v eq => ?_⟩
  · clear stands here
    cases reg with
    | l2sPway d => exact absurd rfl (pway d)
    | l2sVfway d v => exact absurd rfl (vfway d v)
    | _ => rfl
  · subst eq
    exact if_neg here
  · subst eq
    exact if_neg here

theorem registerFieldsTakeWrites : RegisterFieldsTakeWrites := by
  intro s w lo after z
  refine ⟨fun d => ⟨?_, ?_, ?_, ?_⟩, fun c => ?_, fun n => ?_, rfl, fun v => ⟨?_, ?_, ?_⟩, rfl, ?_, ?_, rfl, fun h lt heads => ⟨?_, ?_⟩,
    ?_, fun v => ⟨rfl, rfl⟩, rfl, rfl, fun go => ?_, fun reg => ?_, fun v reg only => ?_, fun v x k other => ⟨?_, ?_, ?_⟩,
    fun v x => ⟨rfl, rfl, rfl⟩⟩
  · exact congrArg (fun x : Die => z x.seqto) (KMap.getD_put_self ..)
  · exact congrArg (fun x : Die => z x.fabCtl) (KMap.getD_put_self ..)
  · exact congrArg (fun x : Die => z x.memcScrub) (KMap.getD_put_self ..)
  · exact congrArg (fun x : Die => z x.wmstat) (KMap.getD_put_self ..)
  · exact congrArg (fun k : Core => z k.eseCtl) (State.core_setCore_self ..)
  · exact congrArg z (KMap.getD_putD_self ..)
  · exact congrArg (fun x : Vf => z x.hpol) (KMap.getD_put_self ..)
  · exact congrArg (fun x : Vf => x.nbase) (KMap.getD_put_self ..)
  · exact congrArg (fun x : Vf => z x.nctl) (KMap.getD_put_self ..)
  · show State.regValue (if lo.getLsbD 4 then _ else _) .fwcSched = _
    split <;> rfl
  · intro beats
    exact congrArg (fun s : State => s.fwc.lastBeat) (if_pos beats)
  · exact congrArg (fun x : Head => z x.frdy) (State.head_setHead _ (heads ▸ lt))
  · exact congrArg (fun x : Head => z x.stat) (State.head_setHead _ (heads ▸ lt))
  · simp only [List.forall_mem_cons]
    exact ⟨rfl, rfl, rfl, rfl, fun _ none_ => nomatch none_⟩
  · exact congrArg (fun s : State => s.fwc.kill) (State.writeKill_of_no_go go)
  · intro errcfg erridx kill doorbell
    cases reg with
    | fwcErrcfg => exact absurd rfl errcfg
    | fwcErridx => exact absurd rfl erridx
    | fwcKill => exact absurd rfl kill
    | distDbell v k => exact if_neg fun (last : v = 127) => doorbell k (last ▸ rfl)
    | _ => rfl
  · cases reg with
    | distDbell x k => cases only
    | distNbase x => cases only
    | distNctl x => cases only
    | selFrdy h => cases only
    | pmb slot off => cases only
    | _ => rfl
  · exact if_neg other
  · exact if_neg other
  · exact if_neg other

theorem stage2FaultsResolve : Stage2FaultsResolve := by
  intro s h t holds free s1
  have answered : exec .stage2FaultResolve s = .next s.answerHold := by
    show execStage2FaultResolve s = _
    rw [execStage2FaultResolve, holds]
    exact if_neg (Bool.eq_false_iff.mp free)
  rw [answered, State.answerHold, holds]
  refine ⟨fun settled => congrArg _ (if_pos settled), fun open_ => ⟨fun u resolved => ?_, fun declined => ?_⟩⟩
  · refine congrArg _ ((if_neg (Bool.eq_false_iff.mp open_)).trans ?_)
    rw [show State.resolve2 _ _ _ _ _ = some u from resolved]
  · refine congrArg _ ((if_neg (Bool.eq_false_iff.mp open_)).trans ?_)
    rw [show State.resolve2 _ _ _ _ _ = none from declined]

end Sys2Proof.Statements

namespace Sys2Proof.Proofs

open Sys2Proof.Statements

/-- Settles O46: the debugger's operations by the state of their group, the register writes by register, the answers by how the
fault is resolved. -/
theorem debuggerAndRegisterStepsComplete : Obligations.DebuggerAndRegisterStepsComplete :=
  ⟨debuggerStepsComplete, registerWritesComplete, registerFieldsTakeWrites, stage2FaultsResolve⟩

end Sys2Proof.Proofs
end

section
/-! PROOFS. Firmware's answers to the hypervisor, plug-ins and attestation (R334, R342, R355-R357, R362, R364, R456). -/

namespace Sys2Proof.Machine

/-! ## Requests of the hypervisor -/

section
variable {s : State} (booted : s.booted = true)
include booted

theorem execCreateQueue_of_booted (q base logn : Nat) : execCreateQueue q base logn s
    = if 1024 ≤ q ∨ base % 32 ≠ 0 ∨ logn < 4 ∨ 16 < logn ∨ (KMap.get? s.dist.queues q).isSome = true then .next (s.reply .refused)
      else .next (s.setQueue q { base := base, logn := logn, r := 0, widx := 0, waiting := none, blocked := false }) := by
  rw [execCreateQueue, if_neg (by simp [booted])]
  simp only [Bool.or_eq_true, decide_eq_true_eq, or_assoc]

section
variable {v : Nat} (few : v < 127)
include few

theorem State.booted_few : ¬ (!s.booted || decide (127 ≤ v)) = true := by
  rw [booted, decide_eq_false (Nat.not_le.mpr few)]
  decide

theorem execVfConfigWrite_of_bad {cfg : VfCfgWords} (bad : vfCfgOk cfg = false) :
    execVfConfigWrite v cfg s = .next (s.reply .refused) := by
  rw [execVfConfigWrite, if_neg (State.booted_few booted few)]
  exact if_pos (by rw [bad]; rfl)

theorem execVfConfigWrite_of_good {cfg : VfCfgWords} (ok : vfCfgOk cfg = true)
    (valid : ({ s.vf v with cfg := cfg } : Vf).valid = (s.vf v).valid) (clash : s.domainClash v { s.vf v with cfg := cfg } = false)
    (fits : sharesFit (KMap.put s.vfs v { s.vf v with cfg := cfg }) (bits s.sel.bwres.toNat 3 0) = true) :
    execVfConfigWrite v cfg s =
      let gained := (List.range 12).filter fun k => ({ s.vf v with cfg := cfg } : Vf).ownsDomain k && !(s.vf v).ownsDomain k
      let u := gained.foldl (fun u k => u.giveDomain k v) s
      .next (u.setVf v { u.vf v with cfg := cfg }) := by
  rw [execVfConfigWrite, if_neg (State.booted_few booted few)]
  exact if_neg (by rw [ok, valid, clash, fits]; simp)

theorem execVfCreate_of_free (security : s.fwRuns 2 = true) (free : (s.vf v).valid = false) (r1 r2 : Nat) :
    execVfCreate v r1 r2 s = .next { (s.setVf v { Vf.reset with
          cfg := { VfCfgWords.zero with w00 := 0x8000000000000000 }, root1 := some r1, root2 := some r2
          key := some s.fwc.nextKey }) with
        fwc := { s.fwc with nextKey := s.fwc.nextKey + 1 }
        cores := s.cores.map fun c => (c.1, if c.2.lastVf = some v then { c.2 with bankWrites := 0 } else c.2) } := by
  rw [execVfCreate, if_neg (State.booted_few booted few)]
  exact if_neg (by rw [free, show s.fwRuns fwSecurity = true from security]; decide)

section
variable (valid : (s.vf v).valid = true)
include valid

theorem execVfDestroy_of_valid
    (stops : s.sel.running = true ∧ s.sel.killed = true ∧ s.load.vf = v → s.groupsOf v ≠ []) :
    execVfDestroy v s = .next (if (s.killVf v 3).vfBusy v then s.killVf v 3 else (s.killVf v 3).eraseVf v) := by
  have waits : ¬ (s.selhamEnds v && (s.groupsOf v).isEmpty) = true := by
    simpa [State.selhamEnds, and_assoc] using stops
  rw [execVfDestroy, if_neg (State.booted_few booted few), valid]
  exact if_neg waits

variable {rs : List IaRange} (short : rs.length ≤ 64) (allow : List Nat) (pages : List (Nat × MmioPage))
include short

theorem execIaRanges_of_valid : execIaRanges v rs allow pages s = if allow.all (s.mayAllow v) = false then .next (s.reply .refused)
    else .next ((s.reclaim v).setVf v { (s.reclaim v).vf v with
      ranges := rs, allowance := allow.eraseDups.filter fun f => !((s.reclaim v).vf v).taken.any fun t => decide (t.1 = f)
      mmio := pages }) := by
  have reason : (decide (64 < rs.length) || !(s.vf v).valid || !allow.all (s.mayAllow v)) = !allow.all (s.mayAllow v) := by
    rw [valid, decide_eq_false (Nat.not_lt.mpr short)]
    rfl
  rw [execIaRanges, if_neg (State.booted_few booted few), reason]
  cases allow.all (s.mayAllow v) <;> rfl

end

section
variable {k : Nat} (domain : k < 12) (valid : (s.vf v).valid = true) (reached : (s.die (k / 3)).lost = false)
  (other : (s.vf v).ownsDomain k = false) (idle : s.domainWorks k = false)
include domain valid reached other idle

theorem execDomainMove_of_idle :
    let freed := s.vfs.map fun (e : Nat × Vf) => (e.1, e.2.setDomain k false)
    sharesFit (KMap.put freed v ((s.vf v).setDomain k true)) (bits s.sel.bwres.toNat 3 0) = true →
    execDomainMove k v s =
      let u := State.giveDomain { s with vfs := freed } k v
      .next (u.setVf v ((u.vf v).setDomain k true)) := by
  intro freed fits
  have may : ¬ (!s.booted || decide (12 ≤ k) || decide (127 ≤ v)) = true := by
    rw [booted, decide_eq_false (Nat.not_le.mpr domain), decide_eq_false (Nat.not_le.mpr few)]
    decide
  have ok : ¬ (!(s.vf v).valid || (s.die (k / 3)).lost
      || !sharesFit (KMap.put freed v ((s.vf v).setDomain k true)) (bits s.sel.bwres.toNat 3 0)) = true := by
    rw [valid, reached, fits]
    decide
  rw [execDomainMove, if_neg may]
  refine (if_neg ok).trans ((if_neg (Bool.eq_false_iff.mp other)).trans ?_)
  dsimp only
  exact if_neg (Bool.eq_false_iff.mp idle)

end

end

theorem execFrameOwnerChange_of_idle {f : Nat} {owner : Byte} {nk : Bool} (stands : populated (65536 * f) = true)
    (security : s.fwRuns 2 = true) (old : s.ownerOf f ≠ 0xFF) (new : owner ≠ 0xFF)
    (oldIdle : ((s.vf ((s.ownerOf f).toNat % 128)).valid && s.vfBusy ((s.ownerOf f).toNat % 128)) = false)
    (newIdle : ((s.vf (owner.toNat % 128)).valid && s.vfBusy (owner.toNat % 128)) = false)
    (keyed : nk = true → (s.vf (owner.toNat % 128)).valid = true) :
    ∃ t, execFrameOwnerChange f owner nk s = .next t ∧ t.ownerOf f = owner := by
  have may : ¬ (!s.booted || !populated (65536 * f)) = true := by
    rw [booted, stands]
    decide
  have ok : ¬ (!s.fwRuns fwSecurity || ((s.vf ((s.ownerOf f).toNat % 128)).valid && s.vfBusy ((s.ownerOf f).toNat % 128))
      || ((s.vf (owner.toNat % 128)).valid && s.vfBusy (owner.toNat % 128)) || decide (s.ownerOf f = 0xFF) || decide (owner = 0xFF)
      || (nk && !(s.vf (owner.toNat % 128)).valid)) = true := by
    rw [show s.fwRuns fwSecurity = true from security, oldIdle, newIdle, decide_eq_false old, decide_eq_false new]
    simpa using keyed
  rw [execFrameOwnerChange, if_neg may]
  exact ⟨_, if_neg ok, KMap.getD_putD_self ..⟩

end

/-! ## Plug-ins (R362) -/

section
variable {s : State} {id c : Nat} {p : Plugin} (loaded : s.fwc.plugins.find? (fun p => decide (p.id = id)) = some p)
  (free : KMap.get? s.dist.chosen c = none) (kernel : getAt s.fwc.modes s.activeFw .machine = .supervisor)
include free kernel

theorem State.pluginMayBeCalled :
    ¬ ((KMap.get? s.dist.chosen c).isSome || decide (getAt s.fwc.modes s.activeFw .machine ≠ .supervisor)) = true := by
  rw [free, kernel]
  decide

include loaded

theorem execPluginCall_of_trapped : execPluginCall id c .trapped s = .next (s.selectDefault c) := by
  rw [execPluginCall, if_neg (State.pluginMayBeCalled free kernel), loaded]

theorem execPluginCall_of_decision (n count : Nat) : execPluginCall id c (.decision n count) s
    = .next (if 100000 < count then s.selectDefault c else s.selectDecided c n) := by
  rw [execPluginCall, if_neg (State.pluginMayBeCalled free kernel), loaded]

theorem execPluginCall_of_ran (acts : List PluginAct) (n count : Nat) : execPluginCall id c (.ran acts n count) s
    = .next (if (p.run acts).2 && count ≤ 100000 then (s.setPlugin (p.run acts).1).selectDecided c n
      else (s.setPlugin (p.run acts).1).selectDefault c) := by
  rw [execPluginCall, if_neg (State.pluginMayBeCalled free kernel), loaded]

end

end Sys2Proof.Machine

namespace Sys2Proof.Statements

open Sys2Proof.Machine

theorem hypervisorRequestsComplete : HypervisorRequestsComplete := by
  intro s booted refused
  refine ⟨fun q base logn few aligned least most fresh => ?_, fun q base logn bad => ?_,
    fun v cfg few => ⟨execVfConfigWrite_of_good booted few, execVfConfigWrite_of_bad booted few⟩,
    fun v r1 r2 few security free => execVfCreate_of_free booted few security free r1 r2,
    fun v few valid stops => ?_, fun v rs allow pages few short valid => ?_, fun k v domain few valid reached => ?_,
    fun f owner nk stands security old new oldIdle newIdle keyed =>
      execFrameOwnerChange_of_idle booted stands security old new oldIdle newIdle keyed⟩
  · refine (execCreateQueue_of_booted booted q base logn).trans (if_neg ?_)
    rw [fresh]
    rintro (bad | bad | bad | bad | bad)
    · exact few.not_ge bad
    · exact bad aligned
    · exact least.not_gt bad
    · exact most.not_gt bad
    · cases bad
  · exact (execCreateQueue_of_booted booted q base logn).trans (if_pos (by tauto))
  · have run := execVfDestroy_of_valid booted few valid stops
    exact ⟨fun busy => run.trans (congrArg Host.Outcome.next (if_pos busy)),
      fun gone => run.trans (congrArg Host.Outcome.next (if_neg (Bool.eq_false_iff.mp gone)))⟩
  · have run := execIaRanges_of_valid booted few valid short allow pages
    exact ⟨fun no => run.trans (if_pos no), fun yes => run.trans (if_neg (by simp [yes]))⟩
  · intro freed fits other empty
    have idle : s.domainWorks k = false := by simpa [State.domainWorks] using empty
    exact execDomainMove_of_idle booted few domain valid reached other idle fits

theorem pluginsAndAttestationComplete : PluginsAndAttestationComplete := by
  intro s
  refine ⟨fun id code booted short => ?_, fun id c p loaded free kernel => ?_, fun p a rest => ⟨fun ok => if_pos ok, fun no => ?_⟩,
    fun v nonce booted => ?_⟩
  · show execPluginLoad id code s = _
    rw [execPluginLoad, if_neg (by simp [booted]), if_neg (by omega)]
  · intro byRule
    have decided := execPluginCall_of_decision loaded free kernel
    have ran := execPluginCall_of_ran loaded free kernel
    have rule : ∀ u : State, u.selectDefault c = byRule u := fun _ => rfl
    refine ⟨fun n count short => ⟨fun x named => ?_, fun unnamed => ?_⟩, fun n count long => ?_, ?_,
      fun acts n count => ⟨fun ok short => ?_, fun bad => ?_⟩⟩
    · refine (decided n count).trans (congrArg Host.Outcome.next ((if_neg (Nat.not_lt.mpr short)).trans ?_))
      rw [State.selectDecided]
      dsimp only
      rw [named]
    · refine (decided n count).trans (congrArg Host.Outcome.next ((if_neg (Nat.not_lt.mpr short)).trans ?_))
      rw [State.selectDecided]
      dsimp only
      rw [unnamed]
      exact rule s
    · exact (decided n count).trans (congrArg Host.Outcome.next ((if_pos long).trans (rule s)))
    · exact (execPluginCall_of_trapped loaded free kernel).trans (congrArg Host.Outcome.next (rule s))
    · exact (ran acts n count).trans (congrArg Host.Outcome.next (if_pos (by simp [ok, short])))
    · have no : ¬ ((p.run acts).2 && decide (count ≤ 100000)) = true := by
        rcases bad with bad | long
        · simp [bad]
        · simp [long]
      exact (ran acts n count).trans (congrArg Host.Outcome.next ((if_neg no).trans (rule _)))
  · exact if_neg (Bool.eq_false_iff.mp no)
  · intro ps cfg
    show execAttestationReport v nonce s = _
    rw [execAttestationReport, if_neg (by simp [booted])]
    exact (apply_ite Host.Outcome.next _ _ _).symm

end Sys2Proof.Statements

namespace Sys2Proof.Proofs

open Sys2Proof.Statements

/-- Settles O47, by the judgement that each request passes or fails, and by how a plug-in's call ends. -/
theorem firmwareRequestsComplete : Obligations.FirmwareRequestsComplete :=
  ⟨hypervisorRequestsComplete, pluginsAndAttestationComplete⟩

end Sys2Proof.Proofs
end
